-- ==== Sys2Proof/Word.lean ====
section
/-!
DEFINITION. The word types of the model and the plain list types that hold indexed state.
-/
namespace Sys2Proof

/-- A byte (R5: little-endian, bit 0 least significant). -/
abbrev Byte := BitVec 8

/-- A 64-bit word: a scalar, a BAR0 register, a Line Time. -/
abbrev Word := BitVec 64

/-- FP32 bits (R89). -/
abbrev F32 := BitVec 32

/-- A table of values by key, keys strictly rising; an unlisted key holds the default of its use. -/
abbrev Tab (α : Type) := List (Nat × α)

/-- Sparse bytes by address, addresses strictly rising, no entry equal to what an unlisted address reads as. -/
abbrev Mem := List Host.Cell

/-- A set of numbers, strictly rising. -/
abbrev NatSet := List Nat

/-- One physical core, 0 to 287 (R14). -/
abbrev CoreId := Fin 288
/-- One partition, 0 to 15 (R17). -/
abbrev PartId := Fin 16
/-- One compute die, 0 to 7 (R14). -/
abbrev DieId := Fin 8
/-- One optical port, 0 to 27 (R16). -/
abbrev PortId := Fin 28
/-- One host port: 0 is HP0, 1 is HP1. -/
abbrev HostPort := Fin 2

end Sys2Proof
end

