-- ==== Sys2Proof/Syntax.lean ====
section
/-!
DEFINITION. The commands of the block: one constructor of Instr for each row of the opcode table, with
the operands of each; and Op, the EVIS instructions a kernel is made of (07_evis_instruction_set.md).
-/
namespace Sys2Proof

/-! ## EVIS operands (R149, R154, R163) -/

/-- s0 to s31. -/
abbrev SReg := BitVec 5
/-- p0 to p7. -/
abbrev PReg := BitVec 3
/-- t0 to t63. -/
abbrev TReg := BitVec 6
/-- d0 to d15. -/
abbrev DReg := BitVec 4
/-- b0 to b15. -/
abbrev BReg := BitVec 4

/-- The guard of an instruction: GN and GP (R154). -/
structure Guard where
  neg  : Bool
  pred : PReg
deriving DecidableEq, Repr

/-- The guard that always executes (R154). -/
def Guard.always : Guard := ⟨false, 0⟩

/-- The two-source scalar operations of MAJOR 0x01 (Table 7.4). -/
inductive AluFn where
  | add | sub | mul | mulhu | and | or | xor | shl | shr | sra | min | max | minu | maxu | fadd | fsub | fmul
deriving DecidableEq, Repr

/-- The one-source scalar operations of MAJOR 0x01. -/
inductive ConvFn where
  | i2f | f2i
deriving DecidableEq, Repr

/-- The immediate operations of MAJOR 0x02. -/
inductive ImmFn where
  | addi | andi | ori | xori | shli | shri | srai
deriving DecidableEq, Repr

/-- The comparisons of MAJOR 0x03. -/
inductive CmpFn where
  | eq | ne | lt | ge | ltu | geu | flt | fle | feq
deriving DecidableEq, Repr

/-- The predicate operations of MAJOR 0x03. -/
inductive PredFn where
  | and | or | xor | not
deriving DecidableEq, Repr

/-- The second operand of a comparison: a scalar, or the 40-bit signed immediate (I = 1). -/
inductive CmpSrc where
  | reg (b : SReg)
  | imm (v : BitVec 40)
deriving DecidableEq, Repr

/-- A vector operand selector (R163). -/
inductive VSel where
  | tile (t : TReg)
  | win0
  | win1
  | scalar (s : SReg)
deriving DecidableEq, Repr

/-- An accumulator window of an extension word (R163). -/
structure Window where
  base   : BitVec 10
  rows   : BitVec 11
  col16  : BitVec 5
  cols16 : BitVec 6
deriving DecidableEq, Repr

/-- The window whose fields are all 0, of an instruction that names none. -/
def Window.zero : Window := ⟨0, 0, 0, 0⟩

/-- The element-wise operations of MAJOR 0x0E. -/
inductive VecFn where
  | add | mul | fma | max | min | cvt
deriving DecidableEq, Repr

/-- The operands of a MAJOR 0x0E instruction (Table 7.7). -/
structure VecOps where
  d      : VSel
  s1     : VSel
  s2     : VSel
  s3     : VSel
  rnd    : Bool
  packed : Bool
  w0     : Window
  w1     : Window
deriving DecidableEq, Repr

/-- The fixed functions of vx.fn (R124). -/
inductive FixFn where
  | exp | exp2 | log2 | rsqrt | recip
deriving DecidableEq, Repr

/-- The row instructions of MAJOR 0x10. -/
inductive RowFn where
  | norm | normb | smax | smaxb
deriving DecidableEq, Repr

/-- The operands of a row instruction (Table 7.7, R164). -/
structure RowOps where
  sx     : SReg
  sout   : SReg
  sdy    : SReg
  sgam   : SReg
  sbet   : SReg
  sn     : SReg
  spar   : SReg
  rms    : Bool
  hout   : Bool
  rnd    : Bool
  xfmt   : BitVec 4
  dyfmt  : BitVec 4
  outfmt : BitVec 4
  sh     : SReg
deriving DecidableEq, Repr

/-- One quarter of an mx.mmq: its A run and its accumulator base (R71). -/
structure QRun where
  a    : TReg
  alen : BitVec 3
  base : BitVec 10
deriving DecidableEq, Repr

/-- The EVIS instructions (Tables 7.4, 7.6, 7.7, 7.8, 7.10). -/
inductive Op where
  | alu (f : AluFn) (d a b : SReg)
  | conv (f : ConvFn) (d a : SReg)
  | immOp (f : ImmFn) (d a : SReg) (imm : Word)
  | cmp (f : CmpFn) (pd : PReg) (a : SReg) (b : CmpSrc)
  | pred (f : PredFn) (pd pa pb : PReg)
  | br (off : BitVec 32)
  | loop (sa : SReg) (off : BitVec 32)
  | endK
  | ld (sr sa : SReg) (size : BitVec 2) (signed : Bool) (off : BitVec 32)
  | st (sr sa : SReg) (size : BitVec 2) (off : BitVec 32)
  | nopK
  | fence
  | rdsys (sd : SReg) (sel : BitVec 8)
  | tcfg (first : TReg) (count : BitVec 7) (rows : BitVec 11) (rowLog2 : BitVec 4) (format : BitVec 4) (group : Bool)
  | tld (t : TReg) (sbase sstride : SReg)
  | tst (t : TReg) (sbase sstride : SReg)
  | tldx (t : TReg) (sbase sstride : SReg) (tidx : TReg)
  | tstx (t : TReg) (sbase sstride : SReg) (tidx : TReg)
  | mm (a : TReg) (alen : BitVec 3) (b : TReg) (base : BitVec 10) (add tp half : Bool)
  | mmq (qmask : BitVec 4) (b : TReg) (add tp half : Bool) (q0 q1 q2 q3 : QRun)
  | ew (x y : TReg) (base : BitVec 10) (add half : Bool)
  | accld (t : TReg) (base : BitVec 10) (col16 : BitVec 5)
  | ldb (b : TReg) (tp split : Bool)
  | mst (saddr sstride : SReg) (base : BitVec 10) (rows : BitVec 11) (col16 : BitVec 5) (cols16 : BitVec 6)
      (fmt : BitVec 4) (rnd xpose clear : Bool)
  | rmode (mode : BitVec 2) (longSum : BitVec 17)
  | mseed (sseed sstep : SReg)
  | vec (f : VecFn) (v : VecOps)
  | act (d s1 : VSel) (rnd : Bool) (slot : BitVec 5) (w0 w1 : Window)
  | actd (d g x : VSel) (rnd : Bool) (pair : BitVec 4) (w0 w1 : Window)
  | fn (f : FixFn) (d s1 : VSel) (rnd : Bool) (w0 w1 : Window)
  | rand (d : VSel) (rnd : Bool) (w0 w1 : Window)
  | tload (saddr : SReg) (slot : BitVec 5)
  | vseed (sseed sstep : SReg)
  | row (f : RowFn) (r : RowOps)
  | dld (d : DReg) (sa : SReg)
  | dst (d : DReg) (sa : SReg)
  | dset (d : DReg) (sv : SReg) (word : BitVec 3)
  | copy (dd ds : DReg) (xpose : Bool)
  | gather (dd ds di : DReg) (scnt : SReg)
  | scatter (dd ds di : DReg) (scnt : SReg)
  | rput (ds : DReg) (sdev srd : SReg) (b : BReg) (sig : Bool) (sd : SReg)
  | rget (dd : DReg) (sdev srd : SReg) (b : BReg) (sig : Bool) (sd : SReg)
  | ingest (dd ds : DReg) (xfs : Bool) (sxf : SReg) (xf : BitVec 9) (sd : SReg)
  | sbind (b : BReg) (sv : SReg)
  | sadd (b : BReg) (sv sd : SReg)
  | swait (b : BReg) (sv st sd : SReg)
  | sread (b : BReg) (sd : SReg)
  | sbar (bar : BitVec 10) (slap st sd : SReg)
  | sbarcfg (bar : BitVec 10) (scount sd : SReg)
  | upsq (stab scnt sd : SReg) (reduce : Bool) (scell : SReg)
  | upstep (stab scnt se sg2 srec sd : SReg)
  | upsetstep (stab scnt sv : SReg)
deriving DecidableEq, Repr

/-- An instruction of a kernel: its guard and its operation. -/
structure GOp where
  g  : Guard
  op : Op
deriving DecidableEq, Repr

/-- The four engines of a core (Table 2.1). -/
inductive Engine where
  | mx | vx | tm | sy
deriving DecidableEq, Repr

/-- A requester of an arbitrated port, in the fixed order of R80. -/
inductive Requester where
  | array (q : Fin 4)
  | loader
  | store
  | tm
  | vx
deriving DecidableEq, Repr

/-! ## Operands of the other commands -/

/-- The header of a ring command (Table 8.2): its partition, FLAGS, TAG and VECTOR, whether a byte or bit that R190
reserves is not 0, and, for a record with an opcode that Table 8.3 does not list, that opcode. -/
structure CmdHdr where
  part     : PartId
  flags    : BitVec 8
  tag      : BitVec 16
  vector   : BitVec 8
  reserved : Bool
  badOp    : Option (BitVec 8)
deriving DecidableEq, Repr

/-- The types of a transport record (Table 12.6). -/
inductive RecType where
  | write | write64 | read | readData | inc | ack | nack
deriving DecidableEq, Repr

/-- A transport record (Table 12.6): the header's fields and the data that follow. -/
structure Record where
  type     : RecType
  status   : BitVec 8
  srcDev   : BitVec 16
  dstDev   : BitVec 16
  srcPart  : PartId
  dstPart  : PartId
  engineSy : Bool
  last     : Bool
  sig      : Bool
  dirs     : BitVec 3
  srcCore  : BitVec 8
  context  : BitVec 16
  fseq     : BitVec 32
  deadline : Word
  remote   : BitVec 48
  count    : BitVec 16
  first    : BitVec 32
  xfer     : BitVec 16
  poison   : Bool
  sigPart  : PartId
  data     : List Byte
deriving DecidableEq, Repr

/-- A data flit (Table 12.4): channel, sequence number, acknowledgement, whether its CRC holds, and the
records that end in it. -/
structure Flit where
  vc      : Fin 8
  seq     : BitVec 24
  ackSeq  : BitVec 24
  crcOk   : Bool
  records : List Record
deriving DecidableEq, Repr

/-- A training record (R282), with the width and the delay that the port measures; `farReady` says that the peer's far memory is ready
(R358), `held` which of its replica slots holds the current generation of each partition of this device, true for slot B (R325); a partition
that it does not list has none there. -/
structure Training where
  domain   : BitVec 16
  dev      : BitVec 16
  port     : BitVec 5
  role     : BitVec 4
  isBridge : Bool
  rlMin    : BitVec 8
  rlMax    : BitVec 8
  level    : BitVec 8
  width    : BitVec 2
  delayNs  : BitVec 32
  farReady : Bool
  held     : List (PartId × Bool)
deriving DecidableEq, Repr

/-- One roster entry (R289). -/
structure RosterEntry where
  dev   : BitVec 16
  twin  : BitVec 16
  level : BitVec 8
  state : BitVec 8
deriving DecidableEq, Repr

/-- A domain roster (R289): an out-of-service segment of a ring is named by its dimension, the device at one end, and whether the other
end is that device's neighbour in the − direction. -/
structure Roster where
  epoch     : BitVec 32
  effective : Word
  entries   : List RosterEntry
  segments  : List (BitVec 2 × BitVec 16 × Bool)
deriving DecidableEq, Repr

/-- What a read of a memory stack, a slice or another SRAM detects (R248). -/
inductive Ecc where
  | clean
  | corrected
  | uncorrectable
deriving DecidableEq, Repr

/-- Who makes a reduce contribution (R241): a core of the device as it is now; a core of a launch with DET, by its partition, the
number of its LAUNCH command, its rank, its origin stamp and its source port (32 times the die and the crossbar port: R235, R245), when the
contribution was on its way, with how often the launch had been saved when it was made (R242); or a source without a rank. -/
inductive Contributor where
  | core (c : CoreId)
  | ranked (part : PartId) (seq : Nat) (rank : Nat) (origin : Word) (port saves : Nat)
  | unranked
deriving DecidableEq, Repr

/-- How a PCIe read completion ends (Table 9.5). -/
inductive ReadReply where
  | ok
  | poisoned
  | failed
deriving DecidableEq, Repr

/-- A domain entry's copy, or its cancel (R312). -/
structure TtCopy where
  entry    : Fin 256
  cancel   : Bool
  time     : Word
  period   : BitVec 32
  duration : BitVec 32
  arg      : BitVec 32
  partMask : BitVec 16
  action   : BitVec 4
  origin   : BitVec 16
  stamp    : Word
  inPort   : PortId
deriving DecidableEq, Repr

/-- A securing record of the twin (R325): what it writes into a replica slot of this device. -/
inductive TwinRec where
  | clear (p : PartId) (slotB : Bool)
  | unit (p : PartId) (slotB : Bool) (index : Nat) (data : List Byte)
  | digest (p : PartId) (slotB : Bool) (index : Nat) (data : List Byte)
  | commit (p : PartId) (slotB : Bool) (data : List Byte)
  | restoreCommit (p : PartId) (slotB : Bool) (data : List Byte)
  | restoreTable (p : PartId) (data : List Byte) (poison : Bool)
  | restoreUnit (p : PartId) (index : Nat) (data : List Byte) (poison : Bool)
  | restoreRequest (p : PartId) (older : Bool)
deriving DecidableEq, Repr

/-- A PCIe configuration request (R205, R206). -/
inductive CfgReq where
  | readId (vf : Nat)
  | sriov (enable : Bool) (numVFs : Nat)
  | msix (fn : Nat) (enable maskAll : Bool)
  | power (fn : Nat) (d3hot : Bool)
  | bar4Size (log2GiB : Nat)
  | other
deriving DecidableEq, Repr

/-- The lowest VCORE in mV that meets GUARD at a clock in MHz (R372), as the monitors report it. -/
structure Slack where
  mhz : Nat
  mv  : Nat
deriving DecidableEq, Repr

/-- A unit under the targeted self-test (Table 14.5). -/
inductive TestUnit where
  | core (c : CoreId)
  | coreBank (c : CoreId)
  | clusterBank (k : Fin 32)
  | memRow (stack : Fin 20) (row : BitVec 23)
  | lane (p : PortId) (l : Fin 8)
  | ioDie (io : Fin 2)
deriving DecidableEq, Repr

/-- Who waits for the acknowledgement of the records it has sent (R281): an engine of a core, the generation of a partition, or a restore
(R328, R330). -/
inductive Awaits where
  | engine (c : CoreId) (e : Engine)
  | generation (p : PartId)
  | restore (p : PartId)
deriving DecidableEq, Repr

/-! ## The commands -/

/-- The commands: one constructor for each row of the opcode table. -/
inductive Instr where
  -- the sequencer's scalar instructions
  | sqAdd (c : CoreId) (g : Guard) (d a b : SReg)
  | sqSub (c : CoreId) (g : Guard) (d a b : SReg)
  | sqMul (c : CoreId) (g : Guard) (d a b : SReg)
  | sqMulhu (c : CoreId) (g : Guard) (d a b : SReg)
  | sqAnd (c : CoreId) (g : Guard) (d a b : SReg)
  | sqOr (c : CoreId) (g : Guard) (d a b : SReg)
  | sqXor (c : CoreId) (g : Guard) (d a b : SReg)
  | sqShl (c : CoreId) (g : Guard) (d a b : SReg)
  | sqShr (c : CoreId) (g : Guard) (d a b : SReg)
  | sqSra (c : CoreId) (g : Guard) (d a b : SReg)
  | sqMin (c : CoreId) (g : Guard) (d a b : SReg)
  | sqMax (c : CoreId) (g : Guard) (d a b : SReg)
  | sqMinu (c : CoreId) (g : Guard) (d a b : SReg)
  | sqMaxu (c : CoreId) (g : Guard) (d a b : SReg)
  | sqFadd (c : CoreId) (g : Guard) (d a b : SReg)
  | sqFsub (c : CoreId) (g : Guard) (d a b : SReg)
  | sqFmul (c : CoreId) (g : Guard) (d a b : SReg)
  | sqI2f (c : CoreId) (g : Guard) (d a : SReg)
  | sqF2i (c : CoreId) (g : Guard) (d a : SReg)
  | sqAddi (c : CoreId) (g : Guard) (d a : SReg) (imm : Word)
  | sqAndi (c : CoreId) (g : Guard) (d a : SReg) (imm : Word)
  | sqOri (c : CoreId) (g : Guard) (d a : SReg) (imm : Word)
  | sqXori (c : CoreId) (g : Guard) (d a : SReg) (imm : Word)
  | sqShli (c : CoreId) (g : Guard) (d a : SReg) (imm : Word)
  | sqShri (c : CoreId) (g : Guard) (d a : SReg) (imm : Word)
  | sqSrai (c : CoreId) (g : Guard) (d a : SReg) (imm : Word)
  | sqCeq (c : CoreId) (g : Guard) (pd : PReg) (a : SReg) (b : CmpSrc)
  | sqCne (c : CoreId) (g : Guard) (pd : PReg) (a : SReg) (b : CmpSrc)
  | sqClt (c : CoreId) (g : Guard) (pd : PReg) (a : SReg) (b : CmpSrc)
  | sqCge (c : CoreId) (g : Guard) (pd : PReg) (a : SReg) (b : CmpSrc)
  | sqCltu (c : CoreId) (g : Guard) (pd : PReg) (a : SReg) (b : CmpSrc)
  | sqCgeu (c : CoreId) (g : Guard) (pd : PReg) (a : SReg) (b : CmpSrc)
  | sqCflt (c : CoreId) (g : Guard) (pd : PReg) (a : SReg) (b : CmpSrc)
  | sqCfle (c : CoreId) (g : Guard) (pd : PReg) (a : SReg) (b : CmpSrc)
  | sqCfeq (c : CoreId) (g : Guard) (pd : PReg) (a : SReg) (b : CmpSrc)
  | sqPand (c : CoreId) (g : Guard) (pd pa pb : PReg)
  | sqPor (c : CoreId) (g : Guard) (pd pa pb : PReg)
  | sqPxor (c : CoreId) (g : Guard) (pd pa pb : PReg)
  | sqPnot (c : CoreId) (g : Guard) (pd pa : PReg)
  | sqBr (c : CoreId) (g : Guard) (off : BitVec 32)
  | sqLoop (c : CoreId) (g : Guard) (sa : SReg) (off : BitVec 32)
  | sqEnd (c : CoreId) (g : Guard)
  | sqLd (c : CoreId) (g : Guard) (sr sa : SReg) (size : BitVec 2) (signed : Bool) (off : BitVec 32)
  | sqSt (c : CoreId) (g : Guard) (sr sa : SReg) (size : BitVec 2) (off : BitVec 32)
  | sqNop (c : CoreId) (g : Guard)
  | sqFence (c : CoreId) (g : Guard)
  | sqRdsys (c : CoreId) (g : Guard) (sd : SReg) (sel : BitVec 8)
  | tcfg (c : CoreId) (g : Guard) (first : TReg) (count : BitVec 7) (rows : BitVec 11) (rowLog2 format : BitVec 4)
      (group : Bool)
  | bankWakeComplete (c : CoreId) (bank : Fin 8)
  | tld (c : CoreId) (g : Guard) (t : TReg) (sbase sstride : SReg)
  | tst (c : CoreId) (g : Guard) (t : TReg) (sbase sstride : SReg)
  | tldX (c : CoreId) (g : Guard) (t : TReg) (sbase sstride : SReg) (tidx : TReg)
  | tstX (c : CoreId) (g : Guard) (t : TReg) (sbase sstride : SReg) (tidx : TReg)
  | engineStart (c : CoreId) (e : Engine) (ecc : Ecc)
  | engineInstructionComplete (c : CoreId) (e : Engine) (pos : Nat)
  -- the matrix engine
  | mxMm (c : CoreId) (g : Guard) (a : TReg) (alen : BitVec 3) (b : TReg) (base : BitVec 10) (add tp half : Bool)
  | mxMmq (c : CoreId) (g : Guard) (qmask : BitVec 4) (b : TReg) (add tp half : Bool) (q0 q1 q2 q3 : QRun)
  | mxEw (c : CoreId) (g : Guard) (x y : TReg) (base : BitVec 10) (add half : Bool)
  | mxAccld (c : CoreId) (g : Guard) (t : TReg) (base : BitVec 10) (col16 : BitVec 5)
  | mxLdb (c : CoreId) (g : Guard) (b : TReg) (tp split : Bool)
  | bLoadComplete (c : CoreId) (buf : Fin 2) (ecc : Ecc)
  | aRowRead (c : CoreId) (q : Fin 4) (rivals : List Requester) (ecc : Ecc)
  | aRowEnter (c : CoreId) (withheld : Bool) (asks : List (Fin 48 × Requester))
  | accResultWrite (c : CoreId) (q : Fin 4) (rivals : List Requester)
  | mxSt (c : CoreId) (g : Guard) (saddr sstride : SReg) (base : BitVec 10) (rows : BitVec 11) (col16 : BitVec 5)
      (cols16 : BitVec 6) (fmt : BitVec 4) (rnd xpose clear : Bool)
  | fusedStoreComplete (c : CoreId) (ecc : Ecc)
  | mxRmode (c : CoreId) (g : Guard) (mode : BitVec 2) (longSum : BitVec 17)
  | mxSeed (c : CoreId) (g : Guard) (sseed sstep : SReg)
  -- the vector engine
  | vxAdd (c : CoreId) (g : Guard) (v : VecOps)
  | vxMul (c : CoreId) (g : Guard) (v : VecOps)
  | vxFma (c : CoreId) (g : Guard) (v : VecOps)
  | vxMax (c : CoreId) (g : Guard) (v : VecOps)
  | vxMin (c : CoreId) (g : Guard) (v : VecOps)
  | vxCvt (c : CoreId) (g : Guard) (v : VecOps)
  | vxAct (c : CoreId) (g : Guard) (d s1 : VSel) (rnd : Bool) (slot : BitVec 5) (w0 w1 : Window)
  | vxActd (c : CoreId) (g : Guard) (d s1 s2 : VSel) (rnd : Bool) (pair : BitVec 4) (w0 w1 : Window)
  | vxFn (c : CoreId) (g : Guard) (f : FixFn) (d s1 : VSel) (rnd : Bool) (w0 w1 : Window)
  | vxRand (c : CoreId) (g : Guard) (d : VSel) (rnd : Bool) (w0 w1 : Window)
  | vxTload (c : CoreId) (g : Guard) (saddr : SReg) (slot : BitVec 5)
  | vxSeed (c : CoreId) (g : Guard) (sseed sstep : SReg)
  | vxNorm (c : CoreId) (g : Guard) (r : RowOps)
  | vxNormb (c : CoreId) (g : Guard) (r : RowOps)
  | vxSmax (c : CoreId) (g : Guard) (r : RowOps)
  | vxSmaxb (c : CoreId) (g : Guard) (r : RowOps)
  -- the tensor mover
  | tmDld (c : CoreId) (g : Guard) (d : DReg) (sa : SReg)
  | tmDst (c : CoreId) (g : Guard) (d : DReg) (sa : SReg)
  | tmDset (c : CoreId) (g : Guard) (d : DReg) (sv : SReg) (word : BitVec 3)
  | tmCopy (c : CoreId) (g : Guard) (dd ds : DReg) (xpose : Bool)
  | tmGather (c : CoreId) (g : Guard) (dd ds di : DReg) (scnt : SReg)
  | tmScatter (c : CoreId) (g : Guard) (dd ds di : DReg) (scnt : SReg)
  | tmRput (c : CoreId) (g : Guard) (ds : DReg) (sdev srd : SReg) (b : BReg) (sig : Bool) (sd : SReg)
  | tmRget (c : CoreId) (g : Guard) (dd : DReg) (sdev srd : SReg) (b : BReg) (sig : Bool) (sd : SReg)
  | tmIngest (c : CoreId) (g : Guard) (dd ds : DReg) (xfs : Bool) (sxf : SReg) (xf : BitVec 9) (sd : SReg)
  | ingestReadCompletion (c : CoreId) (reply : ReadReply) (data : List Byte)
  | ingestCompletionTimeout (c : CoreId)
  -- the sync engine
  | syBind (c : CoreId) (g : Guard) (b : BReg) (sv : SReg)
  | syAdd (c : CoreId) (g : Guard) (b : BReg) (sv sd : SReg)
  | syWait (c : CoreId) (g : Guard) (b : BReg) (sv st sd : SReg)
  | syRead (c : CoreId) (g : Guard) (b : BReg) (sd : SReg)
  | syBar (c : CoreId) (g : Guard) (bar : BitVec 10) (slap st sd : SReg)
  | syBarcfg (c : CoreId) (g : Guard) (bar : BitVec 10) (scount sd : SReg)
  | waitTimeout (p : PartId) (k : Nat) (ecc : Ecc)
  -- the update
  | upSq (c : CoreId) (g : Guard) (stab scnt sd : SReg) (reduce : Bool) (scell : SReg)
  | upStep (c : CoreId) (g : Guard) (stab scnt se sg2 srec sd : SReg)
  | upSetstep (c : CoreId) (g : Guard) (stab scnt sv : SReg)
  | updateHoldRelease (c : CoreId)
  -- the signal box
  | platformWordArrival (c : CoreId) (n : Nat)
  | ringDb (p : PartId) (hp : HostPort) (v : BitVec 32)
  | cqDb (p : PartId) (hp : HostPort) (v : BitVec 32)
  | nop (h : CmdHdr)
  | bind (h : CmdHdr) (ctx : BitVec 16) (root : Word)
  | unbind (h : CmdHdr)
  | load (h : CmdHdr) (slot : BitVec 8) (srcHost : Bool) (src code : Word) (codeBytes : BitVec 32) (image : List Byte)
  | translationComplete (p : PartId)
  | unload (h : CmdHdr) (slot : BitVec 8)
  | launch (h : CmdHdr) (slot : BitVec 8) (det : Bool) (arg : Word) (mask : BitVec 256)
  | launchDeferredStart (p : PartId) (index : BitVec 32)
  | resume (h : CmdHdr)
  | abort (h : CmdHdr)
  | preempt (h : CmdHdr)
  | saveComplete (p : PartId)
  | restore (h : CmdHdr)
  | reset (h : CmdHdr) (discardParked : Bool)
  | resetComplete (p : PartId)
  | copy (h : CmdHdr) (dir : BitVec 8) (src dst : Word) (bytes : Word) (data : List Byte)
  | copyComplete (p : PartId)
  | signal (h : CmdHdr) (baton ctx : BitVec 16) (value : Word)
  | wait (h : CmdHdr) (baton : BitVec 16) (value timeout : Word)
  | timestamp (h : CmdHdr)
  | completionRecordWrite (p : PartId)
  | eventRecordWrite (p : PartId)
  | consumerMirrorWrite (p : PartId)
  | ringCfgWrite (p : PartId) (value : Word)
  | partRestart (p : PartId) (hp : HostPort)
  | preemptNow (p : PartId) (hp : HostPort)
  | resetNow (p : PartId) (hp : HostPort)
  | partCntClr (p : PartId) (hp : HostPort)
  | vfFunctionLevelReset (p : PartId)
  | bar4Write (hp : HostPort) (off : Nat) (data : List Byte)
  | registerWrite (hp : HostPort) (off : BitVec 28) (size : Nat) (value : Word)
  | coreStallClr (c : CoreId)
  | mxCntClr (c : CoreId)
  | vxCntClr (c : CoreId)
  | upCntClr (c : CoreId)
  | xbCntClr (d : DieId)
  | syCntClr (p : PartId)
  | portCntClr (p : PortId)
  -- memory and fabric
  | xlatInval (p : PartId)
  | xlatInvalDone (p : PartId)
  | l1EvictionWriteback (c : CoreId) (line : Nat) (ecc : Ecc)
  | sliceRead (port : Option (Fin 32)) (addr : BitVec 48) (cycle : Nat) (ecc : Ecc)
  | sliceWrite (addr : BitVec 48) (data : List Byte)
  | reduceContribution (src : Contributor) (addr : BitVec 48) (data : List Byte)
  | reduceRetry (d : DieId) (k : Nat)
  | flowHoldRelease (k : Nat)
  | patrolScrub (stack : Fin 20) (addr : BitVec 48) (ecc : Ecc)
  | selfTestRun (k : Nat)
  | selfTestComplete (k : Nat) (pass : Bool)
  -- optical links
  | dataFlitReceive (p : PortId) (f : Flit)
  | controlFlitReceive (p : PortId) (ackSeq : BitVec 24) (nak : Option (BitVec 24)) (credits : List Nat)
  | trainingFlitReceive (p : PortId) (t : Training)
  | replayTimeout (p : PortId)
  | linkRetrain (p : PortId)
  | retrainTimeout (p : PortId)
  | portRetrain (p : PortId)
  | laserInputLoss (li : Fin 8) (power : BitVec 16)
  | capLevelUpdate (p : PortId) (level : BitVec 8)
  | write (p : PortId) (r : Record)
  | write64 (p : PortId) (r : Record)
  | read (p : PortId) (r : Record)
  | readData (p : PortId) (r : Record)
  | inc (p : PortId) (r : Record)
  | ack (p : PortId) (r : Record)
  | nack (p : PortId) (r : Record)
  | transferAckTimeout (w : Awaits)
  | prelockTransferTimeout (c : CoreId) (e : Engine)
  | longLineRecordReceive (p : PortId) (r : Record) (remaining : Word) (farDomain farDev : BitVec 16)
  | rosterReceive (p : PortId) (r : Roster)
  -- Line Time and the timetable
  | beaconReceive (p : PortId) (dev : BitVec 16) (hops : BitVec 8) (value : Word) (after : Nat)
  | timetableArm (e : Fin 256)
  | timetableCancel (e : Fin 256)
  | timetableCopyReceive (t : TtCopy)
  | timetableFire (e : Fin 256)
  | powerStep (e : Fin 256)
  -- twins and securing
  | secureWindowEnd (e : Fin 256)
  | generationStageAdvance (p : PartId)
  | unitCopied (p : PartId) (ecc : Ecc)
  | lossWaitTimeout (p : PartId)
  | generationCommit (p : PartId)
  | twinRecordReceive (p : PortId) (r : TwinRec)
  | abandon (p : PartId)
  | secRestore (p : PartId)
  | restoreOlder (p : PartId)
  | restoreComplete (p : PartId)
  -- the consist loader and start-up
  | persistComplete (readBackOk : Bool)
  | resetNAssert (lowUs : Nat)
  -- power and ageing
  | marginPlanComplete (table : List Slack) (die : Fin 8) (mon : BitVec 6) (worst : BitVec 16)
  | capUpdate (avg1ms avg100ms inMv : BitVec 16) (w : BitVec 8)
  | thermalWithholdStep (die : BitVec 4) (temp : BitVec 12)
  | thermalTrip (die : BitVec 4) (temp : BitVec 12)
  | pwrbrkNChange (low : Bool)
  -- management and security
  | i3cReadRequest (off : BitVec 32)
  | i3cWriteRequest (off : BitVec 32) (value : Word)
  | i3cAddressAssign (setdasa : Option (BitVec 7)) (addr : BitVec 7)
  | dbgLevelWrite (scope : Fin 17) (level : BitVec 2)
  | wipeComplete (scope : Nat)
  | debugHalt (c : CoreId)
  | debugSingleStep (c : CoreId) (i : GOp)
  | debugResume (c : CoreId)
  | extest (bits : BitVec 32)
  | dbgacc (w : BitVec 104)
  | bypass (code : BitVec 8) (tdi : Bool)
  | samplePreload (bits : BitVec 32)
  -- added rows
  | sequencerInstructionComplete (c : CoreId)
  | configurationRequest (hp : HostPort) (r : CfgReq)
  | msixTableWrite (hp : HostPort) (fn : Nat) (vector : Nat) (masked : Bool)
  | laserInputReturn (li : Fin 8) (power : BitVec 16)
  | peerPortDown (p : PortId)
  | rosterPublish (r : Roster)
  -- the rows without operands; they stand last, since compiled Lean tells at most 244 constructors with operands apart
  | ltCntClr
  | secCntClr
  | pwrCntClr
  | rosterApply
  | rosterGraceExpiry
  | beaconSend
  | lockAchieved
  | holdoverEntry
  | unlockTimeout
  | backupTakeover
  | ltNowRead
  | pairLostTimeout
  | clVerify
  | clApply
  | applyComplete
  | clPersist
  | resetNRise
  | fusesLoaded
  | nearMemoryZeroDone
  | farMemoryZeroDone
  | bootImageApply
  | marginPlanStart
  | ageHoursPlan
  | pwrGo
  | powerStepComplete
  | vin48Fail
  | refclkFail
  | vaux12Fail
  | keyWrite
  | keyRevoke
  | attGo
  | attestationComplete
  | dbgChallenge
  | dbgSubmit
  | lifecycleChange
  | challengeExpiry
  | idcode
  | consistChecksComplete
deriving DecidableEq, Repr

end Sys2Proof
end

