-- ==== Sys2Proof/Decode.lean ====
section
/-!
DEFINITION. Decoding. The opcode table gives no row any bits, so no word spells a command (decodeTableWord). A ring's commands come as
records of 64 bytes, decoded here (R190, Tables 8.2 and 8.3); the words of the kernel instructions are decoded in Machine/Evis.lean.
-/
namespace Sys2Proof

/-- The command that a word spells by the table's bits: the table gives bits to no row. -/
def decodeTableWord (_nbits _w : Nat) : Option Instr := none

/-! ## The command record -/

/-- The byte of a record at an offset. -/
def recordByte (bs : List Byte) (o : Nat) : Byte := bs.getD o 0

/-- The little-endian field of `n` bytes at an offset (R5). -/
def recordNat (bs : List Byte) (o : Nat) : Nat → Nat
  | 0 => 0
  | n + 1 => (recordByte bs o).toNat + 256 * recordNat bs (o + 1) n

/-- The payload fields of an opcode: offsets and lengths (Table 8.3). -/
def payloadFields (opcode : Nat) : List (Nat × Nat) :=
  match opcode with
  | 0x01 => [(8, 2), (16, 8)]
  | 0x03 => [(8, 2), (16, 8), (24, 8), (32, 4)]
  | 0x04 => [(8, 1)]
  | 0x05 => [(8, 2), (16, 8), (24, 32)]
  | 0x0A => [(8, 1)]
  | 0x0B => [(8, 1), (16, 8), (24, 8), (32, 8)]
  | 0x0C => [(8, 2), (10, 2), (16, 8)]
  | 0x0D => [(8, 2), (16, 8), (24, 8)]
  | _ => []

/-- The byte of which bit 0 alone is a field: SRC_HOST, DET, DISCARD_PARKED. -/
def flagByte (opcode : Nat) : Option Nat :=
  match opcode with
  | 0x03 | 0x05 => some 9
  | 0x0A => some 8
  | _ => none

/-- Is a reserved byte or bit of a record not zero (R190)? -/
def recordReserved (bs : List Byte) : Bool :=
  let opcode := (recordByte bs 0).toNat
  let isField (o : Nat) : Bool := o < 5 || (payloadFields opcode).any fun f => f.1 ≤ o && o < f.1 + f.2
  ((List.range 64).any fun o => !isField o && recordByte bs o != 0) ||
  16 ≤ (recordByte bs 1).toNat ||
  (match flagByte opcode with
   | some o => decide (2 ≤ (recordByte bs o).toNat)
   | none => false)

/-- The header of a record (Table 8.2). -/
def headerOf (p : PartId) (bs : List Byte) : CmdHdr :=
  { part := p, flags := recordByte bs 1, tag := BitVec.ofNat 16 (recordNat bs 2 2), vector := recordByte bs 4,
    reserved := recordReserved bs, badOp := if 0x0F ≤ (recordByte bs 0).toNat then some (recordByte bs 0) else none }

/-- A field of a record as a word of width w. -/
def recordField (w : Nat) (bs : List Byte) (o n : Nat) : BitVec w := BitVec.ofNat w (recordNat bs o n)

/-- The command of a record of a partition's ring. `host` holds the bytes that a LOAD or a COPY takes from host memory; a reserved opcode
gives a command that completes with TRANSLATE_ERROR. -/
def commandOf (p : PartId) (bs host : List Byte) : Instr :=
  let h := headerOf p bs
  let addr (o : Nat) : Word := recordField 64 bs o 8
  let flag (o : Nat) : Bool := (recordByte bs o).getLsbD 0
  match (recordByte bs 0).toNat with
  | 0x01 => .bind h (recordField 16 bs 8 2) (addr 16)
  | 0x02 => .unbind h
  | 0x03 => .load h (recordByte bs 8) (flag 9) (addr 16) (addr 24) (recordField 32 bs 32 4) host
  | 0x04 => .unload h (recordByte bs 8)
  | 0x05 => .launch h (recordByte bs 8) (flag 9) (addr 16) (recordField 256 bs 24 32)
  | 0x06 => .resume h
  | 0x07 => .abort h
  | 0x08 => .preempt h
  | 0x09 => .restore h
  | 0x0A => .reset h (flag 8)
  | 0x0B => .copy h (recordByte bs 8) (addr 16) (addr 24) (addr 32) host
  | 0x0C => .signal h (recordField 16 bs 8 2) (recordField 16 bs 10 2) (addr 16)
  | 0x0D => .wait h (recordField 16 bs 8 2) (addr 16) (addr 24)
  | 0x0E => .timestamp h
  | _ => .nop h

end Sys2Proof
end

