-- ==== Sys2Proof/Config.lean ====
section
/-!
DEFINITION. What an implementation fixes and the spec leaves open: constants with no body, so that nothing can be proved of
their values. The free values are applied to State.freeCtr, which every use advances (log entry 2).
-/
namespace Sys2Proof.Config

/-- A byte the spec leaves undefined, for each use. -/
opaque freeByte : Nat → Byte
/-- A 64-bit value the spec leaves open, for each use. -/
opaque freeWord : Nat → Word
/-- A natural number the spec leaves open, for each use. -/
opaque freeNat : Nat → Nat
/-- A choice the spec leaves open, for each use. -/
opaque freeBool : Nat → Bool

/-- The private attestation key that the device generates, by its serial number (R360, R363). -/
opaque attestationSecret : Word → Nat

/-- Coefficient C(j mod 3) of segment ⌊j / 3⌋ of a preloaded slot 0 to 11 (R123: published byte for byte apart from the
manual). Without a value, it allows every image that R123 allows and others besides; Machine.PreloadedWithin is the bound of R123. -/
opaque preloaded : Nat → Nat → F32

/-- The bytes of native code that an instruction's translation takes (R191: private to the device). -/
opaque nativeBytes : Nat → Nat

/-- The records of a flow that an initiator's transport buffers hold beside those that have left on a link (R281: private to the part). -/
opaque transportRecords : Nat

/-- The host port whose physical function receives the events without a partition (R341 says "the PF" of two). -/
opaque evtPort : HostPort
/-- The memory row of a stack that a device-local address lies in (R334 names rows; no map is given). -/
opaque memRow : Nat → Nat
/-- Does an access use the cached translation, by the count of free values and the address (R234)? -/
opaque usesCached : Nat → Nat → Bool

/-- The byte at an offset of a sidings image: encrypted under the partition key, of the image with a number, in the private format (R56,
R362). -/
opaque sealedByte : BitVec 256 → Nat → Nat → Byte
/-- The native words of the instruction at an index of a kernel: private (R34, R191). -/
opaque nativeWords : Nat → Nat
/-- The choice of a boundary-scan cell for a copper signal among those left (R388: no order of the cells is given; Machine.cellOf). -/
opaque scanCell : Nat → Nat

/-- A word of the trace's item for a sample of a core's EVIS index, by the core, the index, the samples and the word's number (R364: no
format is given). -/
opaque traceWord : Nat → Nat → Nat → Nat → Word

/-- What an offset of the test port above BAR0 reaches (R364): at D3, 8 bytes of a tile register's data or of its scale store, two
accumulators or 8 bytes of memory; at D2, 8 bytes of an item of the trace. -/
inductive ProbePlace where
  | tile (core tile byte : Nat)
  | scale (core tile byte : Nat)
  | acc (core row col : Nat)
  | mem (addr : Nat)
  | trace (item word : Nat)
deriving DecidableEq, Repr

/-- The place that an offset of DBGACC above BAR0 names: Table 17.3 gives 39 bits of offset, and no map says where tile registers,
accumulators, granted bytes and the trace lie. -/
opaque probePlace : Nat → Option ProbePlace

end Sys2Proof.Config
end

