-- ==== Sys2Proof/Machine/Table.lean ====
section
/-!
DEFINITION. Reading and writing the list types that hold indexed state: tables, sparse memories, sets.
-/
namespace Sys2Proof.Machine

/-- The value a table holds at a key; an unlisted key holds `d`. -/
def tabGet {α : Type} (d : α) : Tab α → Nat → α
  | [], _ => d
  | (k, v) :: t, n => if k = n then v else tabGet d t n

/-- Insert or replace, keeping the keys rising. -/
def tabPut {α : Type} : Tab α → Nat → α → Tab α
  | [], n, v => [(n, v)]
  | (k, w) :: t, n, v =>
    if k = n then (n, v) :: t
    else if n < k then (n, v) :: (k, w) :: t
    else (k, w) :: tabPut t n v

/-- Remove a key. -/
def tabDel {α : Type} (t : Tab α) (n : Nat) : Tab α := t.filter fun p => p.1 != n

/-- Write a value; the default of the table is left unlisted. -/
def tabSet {α : Type} [DecidableEq α] (d : α) (t : Tab α) (n : Nat) (v : α) : Tab α :=
  if v = d then tabDel t n else tabPut t n v

/-- Change the value at a key. -/
def tabMod {α : Type} [DecidableEq α] (d : α) (t : Tab α) (n : Nat) (f : α → α) : Tab α :=
  tabSet d t n (f (tabGet d t n))

/-! ## Memories: unlisted bytes read 0 -/

/-- What an address that a memory does not list reads as. -/
def memDefault : Byte := 0

/-- One byte. -/
def memGet (m : Mem) (a : Nat) : Byte := tabGet memDefault m a

/-- Write one byte; an address that then reads as the default is not listed. -/
def memSet (m : Mem) (a : Nat) (v : Byte) : Mem := tabSet memDefault m a v

/-- Write bytes at rising addresses from `a`. -/
def memWrite (m : Mem) (a : Nat) : List Byte → Mem
  | [] => m
  | b :: bs => memWrite (memSet m a b) (a + 1) bs

/-- Read `n` bytes from `a`. -/
def memRead (m : Mem) (a n : Nat) : List Byte := (List.range n).map fun i => memGet m (a + i)

/-- Write zero over [a, a + n): the entries there are dropped. -/
def memZero (m : Mem) (a n : Nat) : Mem := m.filter fun p => p.1 < a || a + n ≤ p.1

/-- Are the addresses strictly rising from above `lo`, and is no entry the default? -/
def memWfFrom (lo : Nat) : Mem → Bool
  | [] => true
  | (a, v) :: t => decide (lo ≤ a) && (v != memDefault) && memWfFrom (a + 1) t

/-- The canonical form of a memory: addresses strictly rising, no entry equal to what an unlisted address reads as. -/
def Memory.wf (m : Mem) : Bool := memWfFrom 0 m

/-- Bytes, lowest address first, as a number (R5: little-endian). -/
def leNat : List Byte → Nat
  | [] => 0
  | b :: bs => b.toNat + 256 * leNat bs

/-- A number as `n` bytes, lowest first. -/
def leBytes : Nat → Nat → List Byte
  | 0, _ => []
  | n + 1, v => BitVec.ofNat 8 v :: leBytes n (v / 256)

/-- `n` bytes at `a` as a number. -/
def memNat (m : Mem) (a n : Nat) : Nat := leNat (memRead m a n)

/-! ## Sets of numbers -/

/-- Is `n` in the set? -/
def setHas (s : NatSet) (n : Nat) : Bool := s.contains n

/-- Add a number, keeping the set rising. -/
def setAdd : NatSet → Nat → NatSet
  | [], n => [n]
  | k :: t, n => if k = n then k :: t else if n < k then n :: k :: t else k :: setAdd t n

/-- Remove a number. -/
def setDel (s : NatSet) (n : Nat) : NatSet := s.filter fun k => k != n

/-- Add a run [a, a + n). -/
def setAddRun (s : NatSet) (a : Nat) : Nat → NatSet
  | 0 => s
  | n + 1 => setAddRun (setAdd s a) (a + 1) n

/-- Remove a run [a, a + n). -/
def setDelRun (s : NatSet) (a n : Nat) : NatSet := s.filter fun k => k < a || a + n ≤ k

/-! ## Lists -/

/-- Replace the element at a position, if there is one. -/
def listSet {α : Type} : List α → Nat → α → List α
  | [], _, _ => []
  | _ :: t, 0, v => v :: t
  | x :: t, n + 1, v => x :: listSet t n v

/-- Remove the element at a position. -/
def listDel {α : Type} : List α → Nat → List α
  | [], _ => []
  | _ :: t, 0 => t
  | x :: t, n + 1 => x :: listDel t n

/-- The position of the first element that satisfies `p`. -/
def listFind {α : Type} (p : α → Bool) : List α → Option Nat
  | [] => none
  | x :: t => if p x then some 0 else (listFind p t).map (· + 1)

end Sys2Proof.Machine
end

