-- ==== Sys2Proof/Machine/Crypto.lean ====
section
/-!
DEFINITION. The digests and the signature check that the spec names by their standards: SHA-256 and SHA-384 (FIPS 180-4: Table 14.2,
R344, R350) and ECDSA over P-384 (FIPS 186-5: R344, R363, R364). The spec names the algorithms and their byte orders; how they compute
is taken from the standards (PRESUMED, log entry 7).
-/
namespace Sys2Proof.Machine

/-- Bytes as a big-endian number. -/
def beNat (bs : List Byte) : Nat := leNat bs.reverse

/-! ## SHA-2 -/

/-- What tells the two word sizes of SHA-2 apart: the rotations of the four sigma functions (the last of each small one a shift), the
rounds and the bytes of a word. -/
structure Sha2 where
  big0   : Nat × Nat × Nat
  big1   : Nat × Nat × Nat
  small0 : Nat × Nat × Nat
  small1 : Nat × Nat × Nat
  rounds : Nat
  bytes  : Nat

def Sha2.of32 : Sha2 := ⟨(2, 13, 22), (6, 11, 25), (7, 18, 3), (17, 19, 10), 64, 4⟩
def Sha2.of64 : Sha2 := ⟨(28, 34, 39), (14, 18, 41), (1, 8, 7), (19, 61, 6), 80, 8⟩

/-- Is a number below 441 prime? Trial division by 2 to 20 tells. -/
def isPrime (n : Nat) : Bool := decide (2 ≤ n) && ((List.range 21).drop 2).all fun d => n < d * d || n % d != 0

/-- The 80 primes below 410, rising. -/
def shaPrimes : List Nat := (List.range 410).filter isPrime

/-- The greatest number of `r` with its lowest bits set at will, `b` of them, whose k-th power is at most n. -/
def rootBits (k n : Nat) : Nat → Nat → Nat
  | 0, r => r
  | b + 1, r => rootBits k n b (if (r + 2 ^ b) ^ k ≤ n then r + 2 ^ b else r)

/-- The first 64 bits of the fraction of the k-th root of a number below 2^16. -/
def rootFraction (k p : Nat) : Word := BitVec.ofNat 64 (rootBits k (p * 2 ^ (64 * k)) 72 0)

/-- The round constants (FIPS 180-4): of the cube roots of the primes; the 32-bit words take the high halves of the first 64. -/
def shaK : List Word := shaPrimes.map (rootFraction 3)

/-- The initial hash words: of the square roots of eight primes from the `n`-th on. -/
def shaStart (n : Nat) : List Word := ((shaPrimes.drop n).take 8).map (rootFraction 2)

/-- The high half of a word, for the 32-bit words. -/
def highHalf (k : Word) : BitVec 32 := (k >>> 32).setWidth 32

section
variable {w : Nat}

/-- Three rotations, exclusive-ored. -/
def shaBig (r : Nat × Nat × Nat) (x : BitVec w) : BitVec w := x.rotateRight r.1 ^^^ x.rotateRight r.2.1 ^^^ x.rotateRight r.2.2

/-- Two rotations and a shift, exclusive-ored. -/
def shaSmall (r : Nat × Nat × Nat) (x : BitVec w) : BitVec w := x.rotateRight r.1 ^^^ x.rotateRight r.2.1 ^^^ (x >>> r.2.2)

/-- The message schedule, newest word first: `n` words more. -/
def shaSchedule (p : Sha2) : Nat → List (BitVec w) → List (BitVec w)
  | 0, l => l
  | n + 1, l =>
    let x := shaSmall p.small1 (l.getD 1 0) + l.getD 6 0 + shaSmall p.small0 (l.getD 14 0) + l.getD 15 0
    shaSchedule p n (x :: l)

/-- The working variables a to h. -/
structure ShaVars (w : Nat) where
  a : BitVec w
  b : BitVec w
  c : BitVec w
  d : BitVec w
  e : BitVec w
  f : BitVec w
  g : BitVec w
  h : BitVec w

/-- The working variables from a list of eight words. -/
def ShaVars.ofList (l : List (BitVec w)) : ShaVars w :=
  ⟨l.getD 0 0, l.getD 1 0, l.getD 2 0, l.getD 3 0, l.getD 4 0, l.getD 5 0, l.getD 6 0, l.getD 7 0⟩

/-- One round, with its constant and its word of the schedule. -/
def shaRound (p : Sha2) (v : ShaVars w) (k m : BitVec w) : ShaVars w :=
  let t1 := v.h + shaBig p.big1 v.e + ((v.e &&& v.f) ^^^ (~~~v.e &&& v.g)) + k + m
  let t2 := shaBig p.big0 v.a + ((v.a &&& v.b) ^^^ (v.a &&& v.c) ^^^ (v.b &&& v.c))
  ⟨t1 + t2, v.a, v.b, v.c, v.d + t1, v.e, v.f, v.g⟩

/-- All rounds of a block. -/
def shaRounds (p : Sha2) : ShaVars w → List (BitVec w × BitVec w) → ShaVars w
  | v, [] => v
  | v, (k, m) :: t => shaRounds p (shaRound p v k m) t

/-- The words of a block, first byte highest. -/
def shaWords (p : Sha2) : Nat → List Byte → List (BitVec w)
  | 0, _ => []
  | n + 1, bs => BitVec.ofNat w (beNat (bs.take p.bytes)) :: shaWords p n (bs.drop p.bytes)

/-- The hash value after one block. -/
def shaBlock (p : Sha2) (ks : List (BitVec w)) (v : ShaVars w) (block : List Byte) : ShaVars w :=
  let m := (shaSchedule p (p.rounds - 16) (shaWords p 16 block).reverse).reverse
  let u := shaRounds p v (ks.zip m)
  ⟨v.a + u.a, v.b + u.b, v.c + u.c, v.d + u.d, v.e + u.e, v.f + u.f, v.g + u.g, v.h + u.h⟩

/-- The hash value after `n` blocks. -/
def shaBlocks (p : Sha2) (ks : List (BitVec w)) : Nat → ShaVars w → List Byte → ShaVars w
  | 0, v, _ => v
  | n + 1, v, bs => shaBlocks p ks n (shaBlock p ks v (bs.take (16 * p.bytes))) (bs.drop (16 * p.bytes))

end

/-- The padded message: a 1 bit, zeros, and the length in bits over two words, to whole blocks. -/
def shaPad (p : Sha2) (m : List Byte) : List Byte :=
  let block := 16 * p.bytes
  let zeros := (block - (m.length + 1 + 2 * p.bytes) % block) % block
  m ++ 0x80 :: List.replicate zeros 0 ++ (leBytes (2 * p.bytes) (8 * m.length)).reverse

/-- SHA-256: from the first eight primes. -/
def sha256 (m : List Byte) : BitVec 256 :=
  let x := shaPad .of32 m
  let u := shaBlocks .of32 (shaK.map highHalf) (x.length / 64) (ShaVars.ofList ((shaStart 0).map highHalf)) x
  u.a ++ u.b ++ u.c ++ u.d ++ u.e ++ u.f ++ u.g ++ u.h

/-- SHA-384: from the ninth to the sixteenth prime; the first six words of its eight. -/
def sha384 (m : List Byte) : BitVec 384 :=
  let x := shaPad .of64 m
  let u := shaBlocks .of64 shaK (x.length / 128) (ShaVars.ofList (shaStart 8)) x
  u.a ++ u.b ++ u.c ++ u.d ++ u.e ++ u.f

/-! ## ECDSA over P-384 -/

/-- The prime of the field, the order of the base point, the coefficient b of y² = x³ − 3x + b, and the base point. -/
def p384Prime : Nat := 0xfffffffffffffffffffffffffffffffffffffffffffffffffffffffffffffffeffffffff0000000000000000ffffffff
def p384Order : Nat := 0xffffffffffffffffffffffffffffffffffffffffffffffffc7634d81f4372ddf581a0db248b0a77aecec196accc52973
def p384B : Nat := 0xb3312fa7e23ee7e4988e056be3f82d19181d9c6efe8141120314088f5013875ac656398d8a2ed19d2a85c8edd3ec2aef
def p384GX : Nat := 0xaa87ca22be8b05378eb1c71ef320ad746e1d3b628ba79b9859f741e082542a385502f25dbf55296c3a545e3872760ab7
def p384GY : Nat := 0x3617de4a96262c6f5d9e98bf9292dc29f8f41dbd289a147ce9da3113b5f0b8c00a60b1ce1d7e819d7a431d7c90ea0e5f

/-- x^e modulo m, by the `n` low bits of e. -/
def powMod (m : Nat) : Nat → Nat → Nat → Nat
  | 0, _, _ => 1
  | n + 1, x, e =>
    let y := powMod m n (x * x % m) (e / 2)
    if e % 2 = 1 then y * x % m else y

/-- A point in Jacobian coordinates: x = X/Z², y = Y/Z³; Z = 0 is the point at infinity. -/
structure JPoint where
  x : Nat
  y : Nat
  z : Nat

/-- The difference in the field. -/
def fieldSub (a b : Nat) : Nat := (a + (p384Prime - b % p384Prime)) % p384Prime

/-- Twice a point. -/
def JPoint.double (p : JPoint) : JPoint :=
  let q := p384Prime
  let yy := p.y * p.y % q
  let s := 4 * p.x * yy % q
  let zz := p.z * p.z % q
  let m := fieldSub (3 * (p.x * p.x % q)) (3 * (zz * zz % q))
  let x := fieldSub (m * m) (2 * s)
  ⟨x, fieldSub (m * fieldSub s x) (8 * (yy * yy % q)), 2 * p.y * p.z % q⟩

/-- The sum of two points. -/
def JPoint.add (a b : JPoint) : JPoint :=
  let q := p384Prime
  if a.z = 0 then b
  else if b.z = 0 then a
  else
    let az := a.z * a.z % q
    let bz := b.z * b.z % q
    let u1 := a.x * bz % q
    let u2 := b.x * az % q
    let s1 := a.y * (bz * b.z % q) % q
    let s2 := b.y * (az * a.z % q) % q
    if u1 = u2 then if s1 = s2 then a.double else ⟨1, 1, 0⟩
    else
      let h := fieldSub u2 u1
      let r := fieldSub s2 s1
      let hh := h * h % q
      let hhh := hh * h % q
      let v := u1 * hh % q
      let x := fieldSub (r * r) (hhh + 2 * v)
      ⟨x, fieldSub (r * fieldSub v x) (s1 * hhh), h * a.z % q * b.z % q⟩

/-- The multiple of a point, by the `n` low bits of k. -/
def JPoint.mul : Nat → Nat → JPoint → JPoint
  | 0, _, _ => ⟨1, 1, 0⟩
  | n + 1, k, p =>
    let y := JPoint.mul n (k / 2) p.double
    if k % 2 = 1 then y.add p else y

/-- Does the signature verify: the public key x then y, the message, the signature r then s? A key that is no point of the curve
verifies nothing. -/
def ecdsaVerifies (key : BitVec 768) (msg : List Byte) (sig : BitVec 768) : Bool :=
  let x := (key.extractLsb' 384 384).toNat
  let y := (key.setWidth 384).toNat
  let r := (sig.extractLsb' 384 384).toNat
  let s := (sig.setWidth 384).toNat
  let q := p384Prime
  let n := p384Order
  let e := (sha384 msg).toNat
  let i := powMod n 384 s (n - 2)
  let p := (JPoint.mul 384 (e * i % n) ⟨p384GX, p384GY, 1⟩).add (JPoint.mul 384 (r * i % n) ⟨x, y, 1⟩)
  let z := powMod q 384 p.z (q - 2)
  decide (x < q) && decide (y < q) && y * y % q == fieldSub (x * x % q * x + p384B) (3 * x) &&
  decide (1 ≤ r) && decide (r < n) && decide (1 ≤ s) && decide (s < n) && p.z != 0 && p.x * (z * z % q) % q % n == r

/-- A point as a public key: x then y; the point at infinity gives 0. -/
def JPoint.key (p : JPoint) : BitVec 768 :=
  let q := p384Prime
  let z := powMod q 384 p.z (q - 2)
  let zz := z * z % q
  BitVec.ofNat 384 (p.x * zz % q) ++ BitVec.ofNat 384 (p.y * (zz * z % q) % q)

/-- The public key of a private key. -/
def ecdsaPublic (d : Nat) : BitVec 768 := (JPoint.mul 384 (d % p384Order) ⟨p384GX, p384GY, 1⟩).key

/-- The signature of a message with a private key and the secret number k of this signature: r then s. -/
def ecdsaSign (d k : Nat) (msg : List Byte) : BitVec 768 :=
  let n := p384Order
  let r := ((JPoint.mul 384 (k % n) ⟨p384GX, p384GY, 1⟩).key.extractLsb' 384 384).toNat % n
  let s := powMod n 384 (k % n) (n - 2) * (((sha384 msg).toNat + r * d) % n) % n
  BitVec.ofNat 384 r ++ BitVec.ofNat 384 s

end Sys2Proof.Machine
end

