-- ==== Sys2Proof/Machine/State.lean ====
section
/-!
DEFINITION. The state of the device: plain data that holds every register, queue, buffer, counter, mode and pin the spec
gives it (INVENTORY.md lists each with its rule), the queue of the waiting commands, and the model's own counter of free values.
-/
namespace Sys2Proof.Machine

/-! ## A core (02, 03, 05, 06) -/

/-- The configuration of a tile register (Table 2.14). -/
structure TileCfg where
  group   : Bool
  format  : BitVec 4
  rowLog2 : BitVec 4
  rows    : BitVec 11
deriving DecidableEq, Repr

/-- FORMAT NONE, with ROWS and ROW_LOG2 0 (R44). -/
def TileCfg.none : TileCfg := ⟨false, 0, 0, 0⟩

/-- A tile register: configuration, 16,384 data bytes and 512 scale-store bytes (R41). -/
structure Tile where
  cfg    : TileCfg
  data   : Mem
  scales : Mem
deriving DecidableEq, Repr

/-- A tile register of a gated bank just woken: FORMAT NONE, every byte zero (R57). -/
def Tile.zero : Tile := ⟨TileCfg.none, [], []⟩

/-- CORE_STATE.RUN (Table 2.7). -/
inductive Run where
  | idle | running | faulted | quiescing | saved | debugHalt
deriving DecidableEq, Repr

/-- CORE_STATE.ROLE (Table 2.7), and the role of a core that is fused as disabled (R30). -/
inductive Role where
  | enabled | spare | fenced | disabled
deriving DecidableEq, Repr

/-- CORE_FAULT and CORE_FAULT_ADDR (Tables 2.10, 2.11). -/
structure FaultRec where
  valid     : Bool
  rowValid  : Bool
  addrValid : Bool
  engine    : BitVec 3
  tile      : BitVec 6
  row       : BitVec 10
  status    : BitVec 8
  index     : BitVec 32
  addr      : BitVec 48
deriving DecidableEq, Repr

/-- No fault recorded. -/
def FaultRec.none : FaultRec := ⟨false, false, false, 0, 0, 0, 0, 0, 0⟩

/-- A word of the platform queue: an instruction and its index in the kernel (R153). -/
structure PItem where
  index : Nat
  gop   : GOp
deriving DecidableEq, Repr

/-- What up.step computes once for all its shards (R140): E, t = E + 1 as an exact integer, the fields of the record, the factor c (none when
it is not finite), b1 and bc. -/
structure UpPar where
  e      : Word
  t      : Nat
  lr     : F32
  beta   : F32
  lambda : F32
  seed   : Word
  stoch  : Bool
  c      : Option F32
  b1     : F32
  bc     : F32
deriving DecidableEq, Repr

/-- Where a shard lies (R146): the context ranges of its STEP, CURSOR and LAST_STATUS and of its state, and the device addresses and lengths
to which they translate, 2 MiB at most each; none for one without translation. -/
structure ShardPlace where
  ranges : List (Nat × Nat)
  runs   : List (Option (Nat × Nat))
deriving DecidableEq, Repr

/-- Where a held up.step or up.setstep goes on (R148): the shard, the shards counted so far, what the instruction has computed once
(R140), where the shards of the table lay at its first hold, those that are undefined since (R146), and the writes of a region that
are still to be made, by context address. -/
structure UpResume where
  shard   : Nat
  count   : Nat
  par     : Option UpPar
  places  : List ShardPlace
  spoiled : NatSet
  left    : List (Nat × List Byte)
deriving DecidableEq, Repr

/-- An entry of an engine's queue (R35): the instruction, the scalars it read at issue (R36), and how far it has come.
`started`: the engine has started it. `done`: its effect is complete and it may reach its completion point. `faulted`: it
faulted and stays at its place (R53). `result`: what SD receives at completion (R37). `draws`: it draws from the generator
(R117). `drops`: dropped writes it counted. `resume`: where a held up.step goes on. -/
structure Entry where
  seq     : Nat
  index   : Nat
  op      : Op
  args    : List Word
  started : Bool
  done    : Bool
  faulted : Bool
  result  : Option (SReg × Word)
  drops   : Nat
  draws   : Bool
  resume  : Option UpResume
deriving DecidableEq, Repr

/-- A B buffer (R66, Table 3.12): its tag, and whether the load in progress was started by an array instruction. -/
structure BBuf where
  valid      : Bool
  loading    : Bool
  transposed : Bool
  split      : Bool
  first      : TReg
  format     : BitVec 4
  byArray    : Bool
deriving DecidableEq, Repr

/-- An empty B buffer. -/
def BBuf.empty : BBuf := ⟨false, false, false, false, 0, 0, false⟩

/-- One quarter's progress through an array instruction, or the whole array's in full and diagonal mode (R81). A step is a row,
or a pair of F4 rows. `reads` holds for each step read the cycle of its grant and that of its first request, `enteredAt` the
unfrozen cycle at which each step entered, `written` the results written. `asked` is the cycle of the first request of the step
that is being read, `lastAsk` that of the feeder's last request; `gotX` and `gotY` say which of the rows of an mx.ew step are read.
`accRefused` says that a due result was refused in this cycle, `wroteAt` the cycle of the last result written. `paid` is the number of the
steps, from the first, that have cost an A_BANK freeze or entered behind one that has (R74). -/
structure QJob where
  rows       : Nat
  reads      : List (Nat × Nat)
  enteredAt  : List Nat
  written    : Nat
  asked      : Option Nat
  lastAsk    : Option Nat
  gotX       : Bool
  gotY       : Bool
  accRefused : Bool
  wroteAt    : Option Nat
  paid       : Nat
deriving DecidableEq, Repr

/-- An array instruction in progress (R81), by the sequence number of its entry; `start` is the cycle after which it starts, `buf`
the B buffer it uses. -/
structure ArrayJob where
  seq      : Nat
  op       : Op
  start    : Nat
  buf      : Option (Fin 2)
  quarters : Tab QJob
deriving DecidableEq, Repr

/-- A quarter that takes no part. -/
def QJob.none : QJob :=
  { rows := 0, reads := [], enteredAt := [], written := 0, asked := Option.none, lastAsk := Option.none, gotX := false, gotY := false,
    accRefused := false, wroteAt := Option.none, paid := 0 }

/-- The matrix engine and the accumulators (03). `acc` is keyed by 512 × row + column, `terms` by 4 × row + column
quarter, `cnt` by (offset − 0x840) / 8 of Table 3.15. `clk` counts the array's cycles, `unfrozen` each quarter's unfrozen cycles and, at key 4, those in which
all four move together;
`frozen` says that a quarter was frozen in the last cycle, `wrote` that a result has been written in this one. The arbitrated ports
(R80) are the read ports of the tile banks, 0 to 7, of the accumulator sub-banks, 16 to 31, and the write ports of those, 32 to 47:
`runs` holds the runs of refused cycles by 16 × port + requester, `grants` the cycle of each port's last decision and its winner. -/
structure MxState where
  acc      : Tab F32
  terms    : Tab (BitVec 20)
  bufs     : Tab BBuf
  lastBuf  : Fin 2
  det      : Bool
  lsMode   : BitVec 2
  longSum  : BitVec 17
  seed     : Word
  step     : Word
  cnt      : Tab Word
  jobs     : List ArrayJob
  clk      : Nat
  unfrozen : Tab Nat
  frozen   : Bool
  wrote    : Bool
  runs     : Tab Nat
  grants   : Tab (Nat × Nat)
deriving DecidableEq, Repr

/-- The matrix engine at device reset (Tables 3.10 to 3.15). -/
def MxState.reset : MxState :=
  { acc := [], terms := [], bufs := [], lastBuf := 0, det := false, lsMode := 0, longSum := 0x1000#17, seed := 0, step := 0,
    cnt := [], jobs := [], clk := 0, unfrozen := [], frozen := false, wrote := false, runs := [], grants := [] }

/-- A loaded user table slot (R120, R126): the address it was loaded from and its image. -/
structure TableSlot where
  addr  : BitVec 48
  image : Mem
deriving DecidableEq, Repr

/-- The vector engine (05). `slots` is keyed by slot number 16 to 31, `loading` likewise with the images that a vx.tload has read and that
are valid once it completes (R121), `cnt` by (offset − 0x1040) / 8 of Table 5.12. -/
structure VxState where
  seed  : Word
  step  : Word
  draw  : Word
  slots : Tab (Option TableSlot)
  loading : Tab (Option TableSlot)
  cnt   : Tab Word
deriving DecidableEq, Repr

/-- The vector engine at device reset (Tables 5.7 to 5.12). -/
def VxState.reset : VxState := ⟨0, 0, 0, [], [], []⟩

/-- The update registers (Tables 6.5 to 6.8). `cnt` is keyed by (offset − 0x1440) / 8; `heldOn` holds the device-local 2 MiB units
that a held write waits for (R148, R326). -/
structure UpState where
  region : BitVec 20
  shard  : BitVec 28
  hold   : Bool
  run    : BitVec 3
  notOk  : BitVec 32
  sq     : BitVec 32
  cnt    : Tab Word
  heldOn : NatSet
deriving DecidableEq, Repr

/-- The update registers at device reset. -/
def UpState.reset : UpState := ⟨0, 0, false, 0, 0, 0, [], []⟩

/-- The L1 data cache (R48, R237): the lines present, oldest first, the bytes in them, the bytes the core has written and
not written back, and the poisoned granules among them. Keys are device-local addresses. -/
structure L1 where
  lines  : List Nat
  data   : Mem
  dirty  : NatSet
  poison : NatSet
deriving DecidableEq, Repr

/-- An invalidated L1. -/
def L1.empty : L1 := ⟨[], [], [], []⟩

/-- The launch a core runs (R151): the number of its LAUNCH command (Cmd.seq), the kernel slot, rank, size, argument address, DET. -/
structure KernelRef where
  cmd   : Nat
  slot  : Nat
  rank  : Nat
  size  : Nat
  arg   : Word
  det   : Bool
  fetch : Nat
deriving DecidableEq, Repr

/-- A tcfg that waits in the sequencer for a bank to wake (R57). -/
structure TcfgWait where
  index : Nat
  op    : Op
deriving DecidableEq, Repr

/-- A remote transfer or ingest in progress in the TM engine, or a remote increment in the SY engine (R221, R226, R258). -/
inductive XferKind where
  | rputRead
  | rput
  | rget
  | ingest
  | inc
deriving DecidableEq, Repr

/-- The transfer's state: where it goes, its number in its flow, the descriptor it was given (the remote record of an rput), the
elements in all, handed to the transport and acknowledged, the deadline of the last record, or of the host read that is out (on the
own count before the first lock and for a host read), its signal, the transform code, and of an ingest the host read request that is
out, by address and length, with the host bytes taken and not yet written. -/
structure Xfer where
  kind     : XferKind
  dst      : BitVec 16
  part     : PartId
  xferNo   : BitVec 16
  desc     : BitVec 512
  total    : Nat
  next     : Nat
  acked    : Nat
  deadline : Word
  sent     : List Word
  onOwn    : Bool
  sig      : Bool
  sigSent  : Bool
  sigAcked : Bool
  sigPart  : PartId
  context  : BitVec 16
  remote   : BitVec 48
  baton    : BitVec 16
  code     : BitVec 9
  hostAddr : Nat
  hostLen  : Nat
  buf      : List Byte
deriving DecidableEq, Repr

/-- One physical core. `former` is the logical number that a core gave up when it was fenced, until the next context boundary (R15).
`handles` holds SV of each bound handle (R251); `pendS` the pending scalars (R37); `stall` STALL_CNT0 to 9;
`halted` marks a halt under level D3, `aborting` a core whose executing instructions run to completion after ABORT. -/
structure Core where
  role     : Role
  logical  : Option (BitVec 8)
  former   : Option (BitVec 8)
  run      : Run
  scalars  : Tab Word
  preds    : Tab Bool
  pendS    : NatSet
  platform : List PItem
  kernel   : Option KernelRef
  seqNo    : Nat
  seqBusy  : Bool
  tcfgWait : Option TcfgWait
  cycles   : Word
  fault    : FaultRec
  stall    : Tab Word
  tiles    : Tab Tile
  powered  : BitVec 8
  waking   : BitVec 8
  mxq      : List Entry
  vxq      : List Entry
  tmq      : List Entry
  syq      : List Entry
  mx       : MxState
  vx       : VxState
  up       : UpState
  descs    : Tab (BitVec 512)
  handles  : Tab (Option Word)
  l1       : L1
  xferTm   : Option Xfer
  xferSy   : Option Xfer
  halted   : Bool
  aborting : Bool
deriving DecidableEq, Repr

/-- A core at device reset, whatever its fuses make it (Table 2.7 to 2.14, R58, R79). -/
def Core.reset : Core :=
  { role := .enabled, logical := none, former := none, run := .idle, scalars := [], preds := [], pendS := [], platform := [], kernel := none,
    seqNo := 0, seqBusy := false, tcfgWait := none, cycles := 0, fault := FaultRec.none, stall := [], tiles := [], powered := 0,
    waking := 0, mxq := [], vxq := [], tmq := [], syq := [], mx := MxState.reset, vx := VxState.reset, up := UpState.reset,
    descs := [], handles := [], l1 := L1.empty, xferTm := none, xferSy := none, halted := false, aborting := false }

/-! ## A partition (08, 10, 11, 14) -/

/-- PART_STATE.STATE (Table 8.5). -/
inductive PState where
  | absent | idle | ready | running | faulted | quiescing | resetting
deriving DecidableEq, Repr

/-- A kernel slot that is loaded (R191): the instructions, the code area and the bytes used. -/
structure KSlot where
  ops     : List GOp
  code    : Word
  used    : Nat
  argBytes : Nat
deriving DecidableEq, Repr

/-- A LAUNCH in progress (R193): its slot, its cores by logical number, those that have not ended, and how often its context has been
saved (R242). -/
structure LaunchInfo where
  slot    : Nat
  det     : Bool
  arg     : Word
  cores   : List Nat
  left    : List Nat
  started : Bool
  saves   : Nat
deriving DecidableEq, Repr

/-- A deadline: on Line Time, or on the own count (R306). -/
structure Deadline where
  at_   : Word
  onOwn : Bool
deriving DecidableEq, Repr

/-- What a command of the ring in progress does (R193). -/
inductive CmdKind where
  | launch (l : LaunchInfo)
  | wait (baton : BitVec 16) (value : Word)
  | load (slot : Nat) (code : Word) (codeBytes : Nat) (image : List Byte)
  | copy (dir : Nat) (src dst : Word) (bytes : Nat) (data : List Byte)
  | preempt
  | abort (cores : List Nat) (count : Nat)
  | reset (discardParked : Bool)
  | resume
deriving DecidableEq, Repr

/-- A command of the ring that has started and not completed (R184, R190). `seq` is the model's own number of it: those of a parked context
keep their indices, which commands of a ring that has been enabled again take anew (R183, R197). -/
structure Cmd where
  index  : BitVec 32
  opcode : BitVec 8
  flags  : BitVec 8
  tag    : BitVec 16
  vector : BitVec 8
  kind   : CmdKind
  seq    : Nat
deriving DecidableEq, Repr

/-- A completion or event record (Table 8.7); PHASE is set when it is written. -/
structure CqRec where
  tag      : BitVec 16
  opcode   : BitVec 8
  status   : BitVec 8
  index    : BitVec 32
  info     : Word
  lineTime : Word
  phase    : Bool
deriving DecidableEq, Repr

/-- A record that waits for a free slot of the completion ring (R189); `flags` and `vector` are its command's. -/
structure Due where
  isEvent : Bool
  rec_    : CqRec
  flags   : BitVec 8
  vector  : BitVec 8
deriving DecidableEq, Repr

/-- Who waits on a baton or barrier: the SY engine of a core, or a host WAIT by its command's number. -/
inductive Who where
  | core (c : Nat)
  | host (seq : Nat)
deriving DecidableEq, Repr

/-- A wait in progress (R256, R263): on a baton's value, or on a barrier's lap. -/
inductive WaitOn where
  | baton (n : Nat) (value : Word)
  | bar (n : Nat) (lap : BitVec 63)
deriving DecidableEq, Repr

/-- A waiter with its deadline. -/
structure Waiter where
  who      : Who
  on       : WaitOn
  deadline : Option Deadline
deriving DecidableEq, Repr

/-- A barrier (Table 11.11); the waiters stand in the partition's list. -/
structure Barrier where
  count   : BitVec 16
  lap     : BitVec 63
  arrived : BitVec 16
  next    : BitVec 16
deriving DecidableEq, Repr

/-- A disabled barrier (R250). -/
def Barrier.off : Barrier := ⟨0, 0, 0, 0⟩

/-- The sync state of a context (R250): batons and barriers. -/
structure Sync where
  batons : Tab (BitVec 63)
  bars   : Tab Barrier
deriving DecidableEq, Repr

/-- All batons 0, all barriers disabled. -/
def Sync.zero : Sync := ⟨[], []⟩

/-- A bound context (R190, R232). -/
structure Ctx where
  id   : BitVec 16
  root : Word
deriving DecidableEq, Repr

/-- A cached translation (R234): the device-local base of the page, its size in bits and its permissions. -/
structure Tlb where
  base  : Nat
  log2  : Nat
  read  : Bool
  write : Bool
deriving DecidableEq, Repr

/-- A parked context (R56, R196, R234, R266): the context, the state recorded, its cores by logical number, sync image, slots,
launches, its waits, whose cores stand by logical number, and its cached translations. -/
structure Parked where
  ctx     : Ctx
  state   : PState
  cores   : Tab Core
  sync    : Sync
  slots   : Tab (Option KSlot)
  cmds    : List Cmd
  waiters : List Waiter
  tlb     : Tab Tlb
deriving DecidableEq, Repr

/-- XLAT_FAULT (Table 10.11). -/
structure XlatFault where
  valid : Bool
  cause : BitVec 3
  addr  : BitVec 48
deriving DecidableEq, Repr

/-- The phases of securing (SEC_PSTATUS.PHASE, Table 14.9). -/
inductive SecPhase where
  | idle | clearing | data | digest | waitLoss | commit | restoring | awaitReplay
deriving DecidableEq, Repr

/-- A generation in progress (R323 to R325): STEP, GENERATION, the slot, the regions by unit, the units copied, the window it
belongs to, the values of SEC_PLOSS and LOSS_BATON taken at its trigger, the digests of the units copied, and the deadline of the last
record that is not acknowledged. -/
structure Gen where
  step       : Word
  generation : Word
  slotB      : Bool
  units      : List (Nat × Nat)
  copied     : NatSet
  windowed   : Bool
  windowEnd  : Word
  lossBaton  : BitVec 16
  lossAddr   : BitVec 48
  lossWaitMs : BitVec 16
  stage4At   : Word
  loss       : F32
  digests    : Tab (BitVec 256)
  sent       : Option Word
deriving DecidableEq, Repr

/-- A restore in progress (R330): whether the older generation is asked for, the commit record, the slot of the twin it comes from, the
digest table once it has come, the units in all and the set of those written, the units that came before the table, which travels on the
other port (index, data, poison), and the deadline of the twin's next record. -/
structure Rest where
  older   : Bool
  record  : Mem
  slotB   : Bool
  table   : Option Mem
  units   : Nat
  written : NatSet
  early   : List (Nat × List Byte × Bool)
  sent    : Word
deriving DecidableEq, Repr

/-- The securing page of a partition (Table 14.9). `heldB` says which slot of the twin holds the partition's current
generation (true for slot B), none for neither; `heldKnown` whether this device knows it (R325). -/
structure SecPart where
  twinShare     : BitVec 8
  baseGib       : BitVec 9
  sizeGib       : BitVec 9
  lossBaton     : BitVec 16
  stepBaton     : BitVec 16
  interval      : BitVec 16
  exact         : Bool
  windowed      : Bool
  enable        : Bool
  mapEntries    : BitVec 16
  mapAddr       : BitVec 48
  lossWaitMs    : BitVec 16
  lossAddr      : BitVec 48
  genStatus     : BitVec 8
  restoreStatus : BitVec 8
  verify        : BitVec 2
  verifyReplay  : Bool
  unitsLeft     : BitVec 32
  phase         : SecPhase
  commitStep    : Word
  commitGen     : Word
  replAStep     : Word
  replAGen      : Word
  replBStep     : Word
  replBGen      : Word
  gen           : Option Gen
  rest          : Option Rest
  replayStep    : Word
  replayLoss    : F32
  allShares     : Bool
  heldB         : Option Bool
  heldKnown     : Bool
deriving DecidableEq, Repr

/-- The securing page at device reset. -/
def SecPart.reset : SecPart :=
  { twinShare := 0, baseGib := 0, sizeGib := 0, lossBaton := 0, stepBaton := 0, interval := 1, exact := false, windowed := false,
    enable := false, mapEntries := 0, mapAddr := 0, lossWaitMs := 0x03E8#16, lossAddr := 0, genStatus := 0, restoreStatus := 0,
    verify := 0, verifyReplay := false, unitsLeft := 0, phase := .idle, commitStep := 0, commitGen := 0, replAStep := 0,
    replAGen := 0, replBStep := 0, replBGen := 0, gen := none, rest := none, replayStep := 0, replayLoss := 0, allShares := false,
    heldB := none, heldKnown := false }

/-- One partition. `fullSince` is the device's own count since when a command waits for a slot of the full completion ring (R189),
`cnt` is keyed by (offset − 0x040) / 8 of Table 8.16, `syCnt` by (offset − 0x040) / 8 of Table 11.10;
`slots` holds the bound context's kernel slots. -/
structure Part where
  state      : PState
  clusters   : BitVec 32
  host       : HostPort
  ringBase   : Word
  cqBase     : Word
  mirrorAddr : Word
  enable     : Bool
  sizeLog2   : BitVec 5
  cqLog2     : BitVec 5
  eventVector : BitVec 8
  producer   : BitVec 32
  consumer   : BitVec 32
  cqProducer : BitVec 32
  cqConsumer : BitVec 32
  halted     : Bool
  haltStatus : BitVec 8
  haltIndex  : BitVec 32
  mirror     : BitVec 32
  cnt        : Tab Word
  cmds       : List Cmd
  nextCmd    : Nat
  due        : List Due
  fullSince  : Option Word
  bound      : Option Ctx
  slots      : Tab (Option KSlot)
  parked     : Option Parked
  tlb        : Tab Tlb
  inval      : Bool
  xlatFault  : XlatFault
  sync       : Sync
  frozen     : Bool
  context    : BitVec 16
  lostA      : BitVec 16
  lostB      : BitVec 16
  lostAValid : Bool
  lostBValid : Bool
  syCnt      : Tab Word
  waiters    : List Waiter
  key        : Option (BitVec 256)
  parkedKey  : Option (BitVec 256)
  wiping     : Bool
  sec        : SecPart
deriving DecidableEq, Repr

/-- A partition at device reset (Tables 8.12 to 8.16, 10.11, 11.7 to 11.12). -/
def Part.reset : Part :=
  { state := .absent, clusters := 0, host := 0, ringBase := 0, cqBase := 0, mirrorAddr := 0, enable := false, sizeLog2 := 6,
    cqLog2 := 6, eventVector := 0, producer := 0, consumer := 0, cqProducer := 0, cqConsumer := 0, halted := false,
    haltStatus := 0, haltIndex := 0, mirror := 0, cnt := [], cmds := [], nextCmd := 0, due := [], fullSince := none, bound := none, slots := [],
    parked := none, tlb := [], inval := false, xlatFault := ⟨false, 0, 0⟩, sync := Sync.zero, frozen := false, context := 0,
    lostA := 0, lostB := 0, lostAValid := false, lostBValid := false, syCnt := [], waiters := [], key := none, parkedKey := none,
    wiping := false, sec := SecPart.reset }

/-! ## Dies, memory and fabric (10) -/

/-- A launch as a reduce cell's owner (R241): its partition and the number of its LAUNCH command. -/
structure LaunchId where
  part : Nat
  seq  : Nat
deriving DecidableEq, Repr

/-- A ranked contribution that is held or awaits its retry (R241): `origin` and `port` order it among those that wait (R245), `dead`
says that its launch has been saved, aborted or ended meanwhile (R242). -/
structure Contribution where
  cell   : Nat
  value  : F32
  poison : Bool
  launch : LaunchId
  rank   : Nat
  size   : Nat
  origin : Word
  port   : Nat
  dead   : Bool
deriving DecidableEq, Repr

/-- The turn and the owner of a reduce cell (R241). -/
structure Cell where
  turn  : Nat
  owner : Option LaunchId
deriving DecidableEq, Repr

/-- A cell with turn 0 and no owner. -/
def Cell.free : Cell := ⟨0, none⟩

/-- A group of merged reads (R238): the line, the core ports that read it, the cycle of its first read and the line as it stood
then. -/
structure ReadGroup where
  line  : Nat
  ports : List Nat
  cycle : Nat
  data  : List Byte
deriving DecidableEq, Repr

/-- A message of sync traffic that the crossbar of a flag-mode die combines (R243): increments of one baton, or arrivals at one
barrier for one lap. Each member is a core, the value it adds, and the deadline it waits with. -/
structure SyncMsg where
  part    : Nat
  bar     : Bool
  target  : Nat
  lap     : BitVec 63
  members : List (Nat × Word × Option Deadline)
deriving DecidableEq, Repr

/-- A compute die's crossbar and slices (Tables 10.5 to 10.8). `cached` holds the near-memory lines in the cache parts, `ports`
the physical core of each port with its FENCED bit, `cnt` is keyed by (offset − 0x400) / 8, `cells` by the scratch address, `sync`
the combined messages on their way to the sync store. -/
structure Die where
  flagMode     : Bool
  scratch512k  : Tab (BitVec 4)
  sliceFenced  : BitVec 32
  ports        : Tab (Option (Nat × Bool))
  cnt          : Tab Word
  cached       : NatSet
  groups       : List ReadGroup
  cells        : Tab Cell
  held         : List Contribution
  refused      : List Contribution
  sync         : List SyncMsg
deriving DecidableEq, Repr

/-- A die at device reset. -/
def Die.reset : Die :=
  { flagMode := false, scratch512k := [], sliceFenced := 0, ports := [], cnt := [], cached := [], groups := [], cells := [],
    held := [], refused := [], sync := [] }

/-- The error registers of a memory stack (Table 10.10), its fenced rows and spare rows used (R335), and the rows that a spare has
replaced, with the granules of them written since. -/
structure Stack where
  ce     : Word
  ue     : Word
  valid  : Bool
  lastUe : BitVec 48
  fencedRows : NatSet
  sparesUsed : Nat
  freshRows  : NatSet
  freshDone  : NatSet
deriving DecidableEq, Repr

/-- A stack at device reset. -/
def Stack.reset : Stack := ⟨0, 0, false, 0, [], 0, [], []⟩

/-- JUNCTIONj and MESH_LINKl (Table 10.9). `links` holds UP and RETRY_CNT. -/
structure Fabric where
  fenced  : NatSet
  altUse  : NatSet
  linkUp  : NatSet
  retries : Tab (BitVec 32)
deriving DecidableEq, Repr

/-- A flow that waits to move to another path or port (R245, R287): its new records, each with its virtual channel, and the port it will use. -/
structure FlowHold where
  srcDev  : BitVec 16
  srcCore : BitVec 8
  engineSy : Bool
  dst     : BitVec 16
  oldPort : Nat
  newPort : Nat
  records : List (Fin 8 × Record)
deriving DecidableEq, Repr

/-! ## Ports (12) -/

/-- PORT_STATUS.STATE (Table 12.8). -/
inductive PortState where
  | off | down | training | up | miswired | versionFail | selfTest
deriving DecidableEq, Repr

/-- What the payload of data flits carries (Table 12.5): a record; on VC 4 a Line Time beacon with its hop count and stamp, a domain
entry's copy or cancel, a roster, a capability level, or the end of start-up stage 3 (R358); on VC 5 a securing record, or the
acknowledgement of a write of a generation of the twin's partition (R325). -/
inductive Msg where
  | record (r : Record)
  | beacon (dev : BitVec 16) (hops : BitVec 8) (stamp : Word)
  | copy (t : TtCopy)
  | roster (r : Roster)
  | level (v : BitVec 8)
  | ready
  | twin (r : TwinRec)
  | twinAck (p : PartId)
deriving DecidableEq, Repr

/-- A message that waits at a port output: its channel, its origin stamp, the flits still to send, whether one has been sent, and the
source device and the source port by which R245 orders what is no record. -/
structure Packet where
  vc     : Fin 8
  msg    : Msg
  origin : Word
  left   : Nat
  begun  : Bool
  dev    : BitVec 16
  from_  : Nat
deriving DecidableEq, Repr

/-- A data flit in the replay buffer: when it was last sent, on the device's own count, and the messages that end in it. -/
structure TxFlit where
  vc   : Fin 8
  seq  : BitVec 24
  sent : Word
  ends : List Msg
deriving DecidableEq, Repr

/-- One optical port (Tables 12.8 to 12.13) and its link layer (R275 to R278). `cnt` is keyed by (offset − 0x40) / 8; `spent`
counts by VC the credits in use; `replay` holds the data flits sent and not acknowledged, `waiting` the messages that wait for a grant, a
credit or room; `delivered` the records received for this device, oldest first; `discarding` says that a NAK is out, `delayNs` the link delay
measured in training. -/
structure Port where
  role      : BitVec 4
  state     : PortState
  peerDev   : BitVec 16
  peerPort  : BitVec 5
  peerLevel : BitVec 8
  version   : BitVec 8
  width     : BitVec 2
  peerDomain : BitVec 16
  delayNs   : BitVec 32
  laneFailed : BitVec 8
  rxLock    : BitVec 8
  cnt       : Tab Word
  txSeq     : BitVec 24
  rxSeq     : BitVec 24
  replay    : List TxFlit
  waiting   : List Packet
  spent     : Tab Nat
  resends   : Nat
  discarding : Bool
  delivered : List Record
deriving DecidableEq, Repr

/-- A port at device reset. -/
def Port.reset : Port :=
  { role := 0, state := .off, peerDev := 0, peerPort := 0, peerLevel := 0, version := 0, width := 0, peerDomain := 0,
    delayNs := 0, laneFailed := 0, rxLock := 0, cnt := [], txSeq := 0, rxSeq := 0, replay := [], waiting := [], spent := [],
    resends := 0, discarding := false, delivered := [] }

/-- The state of a flow at this device as its target (R281): the next FSEQ, the transfer of its last record and whether it has
ended here, and the remote record that an rput's READ took. -/
structure InFlow where
  srcDev   : BitVec 16
  srcCore  : BitVec 8
  engineSy : Bool
  nextSeq  : BitVec 32
  xfer     : BitVec 16
  ended    : Bool
  desc     : Option (BitVec 512)
deriving DecidableEq, Repr

/-! ## Line Time and the timetable (13) -/

/-- LT_STATUS.STATE (Table 13.1). -/
inductive LtState where
  | seeking | locking | locked | holdover | unlocked | master
deriving DecidableEq, Repr

/-- The Line Time unit (Tables 13.4, 13.6). `frac` is the fraction below a nanosecond, `hold` how long Line Time stands still until its
source has caught up, `slew` how far it still has to gain on the own count (R303). `lastBeacon`, `lockStart` and `period` are the Line Time of the last accepted beacon, the
start of the beacons without a gap, and the number of the last 10 µs period used; `beaconDue` the Line Time of the source's next beacon
(R302). `cnt` is keyed by (offset − 0x40) / 8. -/
structure LineTime where
  now        : Word
  frac       : BitVec 16
  hold       : Word
  slew       : Word
  latched    : BitVec 16
  state      : LtState
  sourceDev  : BitVec 16
  hops       : BitVec 8
  masterDev  : BitVec 16
  backupDev  : BitVec 16
  leadUs     : BitVec 16
  fibreMax   : BitVec 16
  hopsMax    : BitVec 8
  boundNs    : BitVec 32
  own        : Word
  ownRuns    : Bool
  everLocked : Bool
  lastBeacon : Word
  lockStart  : Word
  period     : Option Word
  beaconDue  : Word
  cnt        : Tab Word
deriving DecidableEq, Repr

/-- The Line Time unit at device reset. -/
def LineTime.reset : LineTime :=
  { now := 0, frac := 0, hold := 0, slew := 0, latched := 0, state := .seeking, sourceDev := 0, hops := 0, masterDev := 0, backupDev := 0, leadUs := 0,
    fibreMax := 0, hopsMax := 0, boundNs := 0, own := 0, ownRuns := false, everLocked := false, lastBeacon := 0, lockStart := 0,
    period := none, beaconDue := 0, cnt := [] }

/-- A timetable entry (Table 13.5): `stamp` is the origin stamp of an armed copy (R312), `fired` the occurrences fired,
`fromImage` marks an entry of the image that waits for the first lock (R305), `stepDue` is the instant at which the step of a due
POWER_STEP acts (R314), `seen` lists the copies and cancels met, by kind, stamp and origin. -/
structure TtEntry where
  time      : Word
  period    : BitVec 32
  duration  : BitVec 32
  arg       : BitVec 32
  partMask  : BitVec 16
  action    : BitVec 4
  armed     : Bool
  originDev : BitVec 16
  status    : BitVec 8
  stamp     : Word
  fired     : Nat
  fromImage : Bool
  stepDue   : Option Word
  seen      : List (Bool × Word × BitVec 16)
deriving DecidableEq, Repr

/-- A timetable entry at device reset. -/
def TtEntry.reset : TtEntry := ⟨0, 0, 0, 0, 0, 0, false, 0, 0, 0, 0, false, none, []⟩

/-- A window of the timetable (R310): the entry, its bounds, partitions and argument; `ended` says that it has closed, and its bounds
stay for the photo-finish log (R309). -/
structure OpenWindow where
  entry    : Nat
  action   : BitVec 4
  start    : Word
  stop     : Word
  partMask : BitVec 16
  arg      : BitVec 32
  ended    : Bool
deriving DecidableEq, Repr

/-- A photo-finish log entry (Table 13.7). -/
structure PfEntry where
  stamp    : Word
  valid    : Bool
  after    : Bool
  deadline : Bool
  entry    : BitVec 8
  srcDev   : BitVec 16
  kind     : BitVec 4
  offset   : BitVec 8
deriving DecidableEq, Repr

/-- An unwritten photo-finish entry. -/
def PfEntry.zero : PfEntry := ⟨0, false, false, false, 0, 0, 0, 0⟩

/-! ## Twins, securing, self-tests (14) -/

/-- TWIN_STATUS.STATE (Table 14.1). -/
inductive PairState where
  | none | waiting | paired | degraded | lost
deriving DecidableEq, Repr

/-- An event log entry (Table 14.11). -/
structure EvtEntry where
  stamp     : Word
  valid     : Bool
  status    : BitVec 8
  kept      : BitVec 4
  yielded   : BitVec 4
  part      : BitVec 4
  partValid : Bool
  kind      : BitVec 3
  info      : BitVec 32
deriving DecidableEq, Repr

/-- An unwritten event log entry. -/
def EvtEntry.zero : EvtEntry := ⟨0, false, 0, 0, 0, 0, false, 0, 0⟩

/-- A pending self-test (R334): the unit, whether the error was uncorrectable, and whether the test runs. -/
structure SelfTest where
  unit          : TestUnit
  uncorrectable : Bool
  running       : Bool
deriving DecidableEq, Repr

/-- The device registers of Table 14.8 and the event log. `peerReady` says that the twin's start-up stage 3 has ended (R358). `cnt` is keyed by (offset − 0x40) / 8. -/
structure Twin where
  dev       : BitVec 16
  state     : PairState
  everUp    : Bool
  peerReady : Bool
  threshold : BitVec 16
  evtVector : BitVec 8
  evtNext   : BitVec 7
  log       : Tab EvtEntry
  cnt       : Tab Word
  tests     : List SelfTest
deriving DecidableEq, Repr

/-- The securing registers at device reset. -/
def Twin.reset : Twin := ⟨0, .none, false, false, 0, 0, 0, [], [], []⟩

/-! ## The consist image (15) -/

/-- A grant of the TIERS section (Table 15.5), as taken. -/
structure Grant where
  base  : Nat
  units : Nat
  part  : Nat
deriving DecidableEq, Repr

/-- A POLICY entry (Table 15.4). -/
structure Policy where
  sourceDev   : BitVec 16
  sourceParts : BitVec 16
  target      : BitVec 4
  anyDevice   : Bool
deriving DecidableEq, Repr

/-- A line entry (R295, Table 15.4). -/
structure Line where
  lineId     : BitVec 16
  gatewayDev : BitVec 16
  port       : BitVec 8
  farDomain  : BitVec 16
  farDev     : BitVec 16
  lifetimeUs : BitVec 16
deriving DecidableEq, Repr

/-- A timetable entry of an image. -/
structure TtImage where
  entry    : BitVec 8
  time     : Word
  period   : BitVec 32
  duration : BitVec 32
  arg      : BitVec 32
  partMask : BitVec 16
  action   : BitVec 4
deriving DecidableEq, Repr

/-- A consist image as taken (R346, R347): what the loader applies and compares (R353). -/
structure Consist where
  gen         : Word
  deviceId    : BitVec 16
  domainId    : BitVec 16
  twinDev     : BitVec 16
  shape       : Nat × Nat × Nat
  lifetimeUs  : BitVec 16
  clusters    : Tab (BitVec 32)
  hosts       : Tab Bool
  slices      : Tab (BitVec 4)
  network     : BitVec 8
  routing     : Option (Tab (BitVec 8))
  roles       : Tab (BitVec 4)
  spares      : NatSet
  threshold   : BitVec 16
  extents     : Tab (BitVec 9 × BitVec 9 × BitVec 8)
  llBufs      : Tab (Option Nat)
  grants      : List Grant
  masterDev   : BitVec 16
  backupDev   : BitVec 16
  leadUs      : BitVec 16
  fibreMax    : BitVec 16
  timetable   : List TtImage
  debugMax    : Tab (BitVec 2)
  policy      : List Policy
  lines       : List Line
  digest      : BitVec 384
deriving DecidableEq, Repr

/-- A flash slot (R350): the fields of its record (Table 15.7; SLOT_GEN is 1 or more and its top bit 0) and the image bytes. -/
structure FlashSlot where
  magic  : BitVec 32
  bytes  : BitVec 32
  gen    : BitVec 63
  digest : BitVec 384
  image  : Mem
deriving DecidableEq, Repr

/-- The loader registers (Tables 15.10 to 15.12), the staging window, and what is being applied. -/
structure Loader where
  lastStatus : BitVec 8
  lastOp     : BitVec 4
  appliedFrom : BitVec 2
  bootFallback : Bool
  state      : BitVec 4
  stageLen   : BitVec 21
  staging    : Mem
  cycleValid : Bool
  cycleJunction : BitVec 6
  cycleDest  : BitVec 6
  busyCnt    : Word
  slotA      : FlashSlot
  slotB      : FlashSlot
  applying   : Option Consist
  affected   : BitVec 16
  persistB   : Bool
deriving DecidableEq, Repr

/-- An empty flash slot. -/
def FlashSlot.empty : FlashSlot := ⟨0, 0, 0, 0, []⟩

/-- The loader at device reset; the flash slots are kept through it. -/
def Loader.reset : Loader :=
  { lastStatus := 0, lastOp := 1, appliedFrom := 0, bootFallback := false, state := 0, stageLen := 0, staging := [],
    cycleValid := false, cycleJunction := 0, cycleDest := 0, busyCnt := 0, slotA := FlashSlot.empty, slotB := FlashSlot.empty,
    applying := none, affected := 0, persistB := false }

/-- The stages of start-up that have ended (Table 15.9); `detects` says that trips and supply failures are detected (R384). -/
structure StartUp where
  resetLow   : Bool
  fuses      : Bool
  nearZero   : Bool
  farZero    : Bool
  applied    : Bool
  firstPlan  : Bool
  detects    : Bool
deriving DecidableEq, Repr

/-! ## Security, power, management (16, 17) -/

/-- Lifecycle states (Table 16.1). -/
inductive Lifecycle where
  | blank | provisioned | operational | diagnostic | retired
deriving DecidableEq, Repr

/-- A public-key slot (R361). -/
structure KeySlot where
  key         : BitVec 768
  provisioned : Bool
  revoked     : Bool
deriving DecidableEq, Repr

/-- An empty key slot. -/
def KeySlot.empty : KeySlot := ⟨0, false, false⟩

/-- What a finished wipe brings about (R365, R366, Table 16.2). -/
inductive AfterWipe where
  | level (scope : Nat) (level : BitVec 2)
  | lifecycle (target : Lifecycle)
deriving DecidableEq, Repr

/-- The security and debug registers (Table 16.9). `keyData`, `resp` and `pub` are 96 bytes, word 0 first; `levels` by scope. -/
structure Security where
  lastStatus : BitVec 8
  lifecycle  : Lifecycle
  diagLeft   : Nat
  keys       : Tab KeySlot
  keySlot    : BitVec 3
  keyData    : Tab Word
  levels     : Tab (BitVec 2)
  maxLevels  : Tab (BitVec 2)
  reqScope   : BitVec 8
  reqLevel   : BitVec 4
  dbgStatus  : BitVec 8
  dbgPhase   : BitVec 3
  chal       : BitVec 256
  chalFor    : Option (BitVec 8 × BitVec 4)
  chalEnd    : Deadline
  resp       : Tab Word
  nonce      : Tab Word
  attBusy    : Bool
  attNonce   : BitVec 256
  report     : Mem
  pub        : BitVec 768
  hasAttKey  : Bool
  wiping     : Option AfterWipe
  wipeLeft   : NatSet
deriving DecidableEq, Repr

/-- The security controller of a Blank device at device reset. -/
def Security.reset : Security :=
  { lastStatus := 0, lifecycle := .blank, diagLeft := 64, keys := [], keySlot := 0, keyData := [], levels := [], maxLevels := [],
    reqScope := 0, reqLevel := 0, dbgStatus := 0, dbgPhase := 0, chal := 0, chalFor := none, chalEnd := ⟨0, false⟩, resp := [], nonce := [],
    attBusy := false, attNonce := 0, report := [], pub := 0, hasAttKey := false, wiping := none, wipeLeft := [] }

/-- Power states (Table 16.5). -/
inductive PwrState where
  | run | idle | drowse | hold | off
deriving DecidableEq, Repr

/-- The power, thermal and ageing registers (Table 16.8). `cnt` is keyed by (offset − 0x40) / 8. `hours` and `hourNs` are the time spent in
Run, Idle or Drowse up to the instant `hoursFrom` of the own count, `planAt` the hours at which the next plan falls due (R371); `rising`
says that a sensor has read 95 °C and not every one below 93 °C since (R376); `byI3c` that the board requested the step in progress. -/
structure Power where
  state      : PwrState
  target     : PwrState
  lastStatus : BitVec 8
  withhold   : BitVec 8
  thermalW   : BitVec 8
  rising     : Bool
  tripped    : Bool
  capW       : BitVec 12
  ctrlTarget : BitVec 4
  peakW      : BitVec 16
  avgW       : BitVec 16
  in10mv     : BitVec 16
  hotDie     : BitVec 4
  tjMax      : BitVec 12
  hours      : BitVec 32
  hourNs     : Word
  hoursFrom  : Word
  planAt     : BitVec 32
  vcoreMv    : BitVec 12
  eom        : Bool
  cause      : BitVec 2
  planning   : Bool
  planDue    : Bool
  slack      : BitVec 16
  mhz        : BitVec 16
  cnt        : Tab Word
  dieSlack   : Tab (BitVec 22)
  byI3c      : Bool
deriving DecidableEq, Repr

/-- The power registers at device reset (R23: 720 MHz). -/
def Power.reset : Power :=
  { state := .run, target := .run, lastStatus := 0, withhold := 0, thermalW := 0, rising := false, tripped := false, capW := 0xDAC#12,
    ctrlTarget := 0, peakW := 0, avgW := 0, in10mv := 0, hotDie := 0, tjMax := 0, hours := 0, hourNs := 0, hoursFrom := 0,
    planAt := 1000, vcoreMv := 0x352#12, eom := false, cause := 0, planning := false, planDue := false, slack := 0, mhz := 720, cnt := [], dieSlack := [], byI3c := false }

/-- Pins, management bus and test port (17). `boundary` holds the update cells of the boundary-scan register, `scanOut` what was captured
into it last. -/
structure Board where
  pwrbrkLow  : Bool
  thermtrip  : Bool
  mgmtReady  : Bool
  deviceErr  : Bool
  vaux12     : Bool
  mgmtId     : BitVec 2
  dynAddr    : Option (BitVec 7)
  i3cData    : Option Word
  ibis       : List Byte
  jtagIr     : BitVec 8
  boundary   : BitVec 32
  scanOut    : BitVec 32
  bypassBit  : Bool
  dbgData    : BitVec 64
  laserPower : Tab (BitVec 16)
deriving DecidableEq, Repr

/-- The board side at device reset. -/
def Board.reset : Board :=
  { pwrbrkLow := false, thermtrip := false, mgmtReady := false, deviceErr := false, vaux12 := true, mgmtId := 0, dynAddr := none,
    i3cData := none, ibis := [], jtagIr := 0x01#8, boundary := 0, scanOut := 0, bypassBit := false, dbgData := 0, laserPower := [] }

/-- The fuse map (R1, R32): grade, serial number, stepping, enabled and spare cores. -/
structure Fuses where
  gradeB   : Bool
  stepping : BitVec 8
  serial   : Word
  enabled  : BitVec 288
  spare    : BitVec 288
deriving DecidableEq, Repr

/-- A grade A fuse map: slots 0 to 7 of each cluster enabled and slot 8 a spare (R26). -/
def Fuses.gradeA : Fuses :=
  { gradeB := false, stepping := 0xA0#8, serial := 1,
    enabled := (List.range 32).foldl (fun m k => m ||| (0xFF#288 <<< (9 * k))) 0#288,
    spare := (List.range 32).foldl (fun m k => m ||| (0x100#288 <<< (9 * k))) 0#288 }

/-! ## PCIe (08) -/

/-- The functions' state on one host port (R205, R206): SR-IOV, MSI-X enables, function masks, unmasked vectors and pending bits by 4096 × function +
vector, and D3hot functions. -/
structure Pcie where
  sriov    : Bool
  numVFs   : Nat
  msixOn   : NatSet
  maskAll  : NatSet
  unmasked : NatSet
  pending  : NatSet
  d3hot    : NatSet
  bar4Log2 : Nat
deriving DecidableEq, Repr

/-- A host port's functions at device reset: MSI-X disabled, D0, no VF, every vector masked as PCIe resets it; the window of BAR4 is 1 GiB
(DESIGN CHOICE, log entry 4: R205 gives no size at reset). -/
def Pcie.reset : Pcie := ⟨false, 0, [], [], [], [], [], 0⟩

/-- An interrupt the device has sent (R202). -/
structure Intr where
  hp     : HostPort
  fn     : Nat
  vector : Nat
deriving DecidableEq, Repr

/-! ## The debug trace (16) -/

/-- An item of the debug trace (R364): a completion or event record of a partition, or `samples` samples, one each 1 µs, of a core's EVIS
index. -/
inductive TraceItem where
  | record (part : Nat) (r : CqRec)
  | index (core index samples : Nat)
deriving DecidableEq, Repr

/-! ## The device -/

/-- The device. Unlisted keys of a table hold the defaults that Machine/Ops.lean names. `hostOut0` and `hostOut1` hold the bytes the device has
written to the memory of the host on HP0 and on HP1, `outFlows` the next FSEQ and XFER of each flow by logical
core, engine and device (R280), `sealed` by partition the key and the number of the encrypted image that its sidings hold (R56, R362), `trace` the debug trace in the 1 MiB buffer on IO0, newest last (R364), `loopback` the records on their way from this device to itself, `freeCtr` counts the free values taken (the model's own field), `pending` the commands that wait, first in,
first out. -/
structure State where
  fuses    : Fuses
  start    : StartUp
  cores    : Tab Core
  parts    : Tab Part
  dies     : Tab Die
  mem      : Mem
  poison   : NatSet
  memStacks   : Tab Stack
  fabric   : Fabric
  holds    : List FlowHold
  ports    : Tab Port
  inFlows  : List InFlow
  outFlows : Tab Nat
  loopback : List Record
  consist  : Consist
  loader   : Loader
  lt       : LineTime
  tt       : Tab TtEntry
  windows  : List OpenWindow
  pfLog    : Tab PfEntry
  pfNext   : BitVec 6
  roster   : Roster
  prevRoster : Option Roster
  rosters  : List Roster
  lastEffective : Option Word
  twin     : Twin
  fencedMap : NatSet
  spareUse : NatSet
  security : Security
  power    : Power
  board    : Board
  pcie0    : Pcie
  pcie1    : Pcie
  bar4Base : BitVec 48
  intrs    : List Intr
  sealed   : Tab (Option (BitVec 256 × Nat))
  trace    : List TraceItem
  hostOut0 : Mem
  hostOut1 : Mem
  freeCtr  : Nat
  pending  : List Instr
deriving DecidableEq, Repr

/-- The reasons a step may stop with a fault. Nothing in the spec stops the device without an outcome of its own, so the one
reason is an instruction that no translated kernel holds. -/
inductive Fault where
  /-- Raised by the issue of a kernel instruction, and by a single step of the debugger, when a field of the instruction holds a
  value that Table 7.14 rejects at translation (WellFormed.lean). Safe: the model stops where no device command exists. -/
  | illFormed
deriving DecidableEq, Repr

/-- The reasons a command may have no meaning. -/
inductive Refusal where
  /-- Raised by an arm of exec that has no meaning yet, with the row's mnemonic. Safe: the model stops. -/
  | notModelled (mnemonic : String)
deriving DecidableEq, Repr

/-- The boot configuration: an image with no sections (R343, R352, the Absent column of Table 15.4). -/
def Consist.boot : Consist :=
  { gen := 0, deviceId := 0, domainId := 0, twinDev := 0, shape := (1, 1, 1), lifetimeUs := 1000#16, clusters := [], hosts := [],
    slices := [], network := 0, routing := none, roles := [(26, 3#4), (27, 3#4)], spares := [], threshold := 1024#16, extents := [],
    llBufs := [], grants := [], masterDev := 0, backupDev := 0, leadUs := 100#16, fibreMax := 0, timetable := [], debugMax := [],
    policy := [], lines := [], digest := 0 }

/-- The device right after a device reset that followed removal of the supply: RESET_N still low, no start-up stage ended, every
register at its reset value. The fields with access C, for which the spec gives no value before stage 5 applies an image, read 0 until then
(DESIGN CHOICE, log entry 4). -/
def State.reset : State :=
  { fuses := Fuses.gradeA,
    start := { resetLow := true, fuses := false, nearZero := false, farZero := false, applied := false, firstPlan := false,
               detects := false },
    cores := [], parts := [], dies := [], mem := [], poison := [], memStacks := [],
    fabric := { fenced := [], altUse := [], linkUp := [], retries := [] }, holds := [], ports := [], inFlows := [], outFlows := [], loopback := [],
    consist := Consist.boot, loader := Loader.reset, lt := LineTime.reset, tt := [], windows := [], pfLog := [], pfNext := 0,
    roster := ⟨0, 0, [], []⟩, prevRoster := none, rosters := [], lastEffective := none, twin := Twin.reset, fencedMap := [],
    spareUse := [], security := Security.reset, power := Power.reset, board := Board.reset, pcie0 := Pcie.reset,
    pcie1 := Pcie.reset, bar4Base := 0, intrs := [], sealed := [], trace := [], hostOut0 := [], hostOut1 := [], freeCtr := 0, pending := [] }

end Sys2Proof.Machine
end

