-- ==== Sys2Proof/Machine/Ops.lean ====
section
/-!
DEFINITION. The named operations over the state that every family shares: its tables, free values, time and deadlines, counters,
records that fall due, interrupts, the event log, targeted self-tests, and recording a fault.
-/
namespace Sys2Proof.Machine

/-! ## Status codes (Table 8.10) -/

/-- A status code of Table 8.10. -/
abbrev Code := BitVec 8

def Code.ok : Code := 0x00#8
def Code.wrongState : Code := 0x01#8
def Code.absentEngine : Code := 0x02#8
def Code.tileShape : Code := 0x03#8
def Code.pageFault : Code := 0x04#8
def Code.queueOverrun : Code := 0x05#8
def Code.ownerLost : Code := 0x06#8
def Code.stepMismatch : Code := 0x07#8
def Code.frozenSkipped : Code := 0x08#8
def Code.translateError : Code := 0x09#8
def Code.barrierMisuse : Code := 0x0A#8
def Code.timetableLate : Code := 0x0B#8
def Code.fenced : Code := 0x0C#8
def Code.poison : Code := 0x0D#8
def Code.version : Code := 0x0E#8
def Code.securityDenied : Code := 0x0F#8
def Code.timeout : Code := 0x10#8
def Code.guaranteeYielded : Code := 0x11#8
def Code.endOfMargin : Code := 0x12#8

/-! ## The tables of the state -/

def State.core (s : State) (c : Nat) : Core := tabGet Core.reset s.cores c
def State.setCore (s : State) (c : Nat) (k : Core) : State := { s with cores := tabPut s.cores c k }
def State.modCore (s : State) (c : Nat) (f : Core → Core) : State := s.setCore c (f (s.core c))

def State.part (s : State) (p : Nat) : Part := tabGet Part.reset s.parts p
def State.setPart (s : State) (p : Nat) (x : Part) : State := { s with parts := tabPut s.parts p x }
def State.modPart (s : State) (p : Nat) (f : Part → Part) : State := s.setPart p (f (s.part p))

def State.die (s : State) (d : Nat) : Die := tabGet Die.reset s.dies d
def State.modDie (s : State) (d : Nat) (f : Die → Die) : State := { s with dies := tabPut s.dies d (f (s.die d)) }

def State.port (s : State) (p : Nat) : Port := tabGet Port.reset s.ports p
def State.modPort (s : State) (p : Nat) (f : Port → Port) : State := { s with ports := tabPut s.ports p (f (s.port p)) }

def State.stack (s : State) (n : Nat) : Stack := tabGet Stack.reset s.memStacks n
def State.modStack (s : State) (n : Nat) (f : Stack → Stack) : State :=
  { s with memStacks := tabPut s.memStacks n (f (s.stack n)) }

def State.ttEntry (s : State) (e : Nat) : TtEntry := tabGet TtEntry.reset s.tt e
def State.modTt (s : State) (e : Nat) (f : TtEntry → TtEntry) : State := { s with tt := tabPut s.tt e (f (s.ttEntry e)) }

/-- Add `n` to counter `i` of a table of 64-bit counters, wrapping. -/
def bump (t : Tab Word) (i : Nat) (n : Nat) : Tab Word := tabPut t i (tabGet 0 t i + BitVec.ofNat 64 n)

def Part.bump (x : Part) (i : Nat) : Part := { x with cnt := Machine.bump x.cnt i 1 }
def Part.bumpSy (x : Part) (i : Nat) : Part := { x with syCnt := Machine.bump x.syCnt i 1 }
def State.bumpDie (s : State) (d i : Nat) : State := s.modDie d fun x => { x with cnt := bump x.cnt i 1 }
def State.bumpPort (s : State) (p i : Nat) : State := s.modPort p fun x => { x with cnt := bump x.cnt i 1 }
def State.bumpTwin (s : State) (i : Nat) : State := { s with twin := { s.twin with cnt := bump s.twin.cnt i 1 } }
def State.bumpLt (s : State) (i : Nat) : State := { s with lt := { s.lt with cnt := bump s.lt.cnt i 1 } }
def State.bumpPwr (s : State) (i : Nat) : State := { s with power := { s.power with cnt := bump s.power.cnt i 1 } }

/-! ## Free values (log entry 2) -/

/-- The state after a free value has been taken. -/
def State.tick (s : State) : State := { s with freeCtr := s.freeCtr + 1 }

/-- `n` free bytes. -/
def State.freeBytes (s : State) (n : Nat) : List Byte := (List.range n).map fun i => Config.freeByte (s.freeCtr + i)

/-- The state after `n` free values have been taken. -/
def State.ticks (s : State) (n : Nat) : State := { s with freeCtr := s.freeCtr + n }

/-! ## Cores, partitions, numbers (R14, R15, R17) -/

/-- The global cluster of a physical core (R14). -/
def clusterOf (c : Nat) : Nat := c / 9

/-- The compute die of a physical core (R14). -/
def dieOf (c : Nat) : Nat := c / 36

/-- The partition that holds a cluster, by the applied image. -/
def State.partOfCluster (s : State) (k : Nat) : Option Nat :=
  (List.range 16).find? fun p => (s.part p).clusters.getLsbD k

/-- The partition of a core's cluster. -/
def State.partOf (s : State) (c : Nat) : Option Nat := s.partOfCluster (clusterOf c)

/-- The physical core that holds a logical number. -/
def State.physical (s : State) (l : Nat) : Option Nat :=
  (List.range 288).find? fun c =>
    match (s.core c).logical with
    | some n => n.toNat == l
    | none => false

/-- The logical number a core holds, or held when it was fenced since the last context boundary. -/
def Core.number (k : Core) : Option (BitVec 8) := if k.logical.isSome then k.logical else k.former

/-- The physical cores of a partition that hold logical numbers, or gave them up since the last context boundary, in ascending
physical number. -/
def State.coresOf (s : State) (p : Nat) : List Nat :=
  (List.range 288).filter fun c => (s.core c).number.isSome && s.partOf c == some p

/-- A set of cores changed alike. -/
def State.modCores (s : State) (cs : List Nat) (f : Core → Core) : State := cs.foldl (fun s c => s.modCore c f) s

/-! ## Margin plans and the return to Run (R368, R371) -/

/-- A change of the power unit. -/
def State.modPower (s : State) (f : Power → Power) : State := { s with power := f s.power }

/-- Are the hours of a power state counted (R371)? -/
def PwrState.counts : PwrState → Bool
  | .hold | .off => false
  | .run | .idle | .drowse => true

/-- Nanoseconds of an hour. -/
def hourLen : Nat := 3600000000000

/-- Nanoseconds spent in Run, Idle or Drowse since the last full hour that `hours` holds. -/
def Power.spent (x : Power) (own : Word) : Nat := x.hourNs.toNat + if x.state.counts then (own - x.hoursFrom).toNat else 0

/-- AGE_STATUS.HOURS. -/
def Power.hoursNow (x : Power) (own : Word) : BitVec 32 := x.hours + BitVec.ofNat 32 (x.spent own / hourLen)

/-- The count of hours brought up to an instant. -/
def Power.settled (x : Power) (own : Word) : Power :=
  { x with hours := x.hoursNow own, hourNs := BitVec.ofNat 64 (x.spent own % hourLen), hoursFrom := own }

/-- An in-band interrupt with 0x0F: a step requested over I3C completes (R387). -/
def State.stepIbi (s : State) : State := { s with board := { s.board with ibis := s.board.ibis ++ [0x0F#8] } }

/-- A step in progress ends in a state; one that the board requested raises its in-band interrupt. -/
def State.setPower (s : State) (t : PwrState) : State :=
  let byI3c := s.power.byI3c
  let s := s.modPower fun x => { x.settled s.lt.own with state := t, target := t, byI3c := false }
  if byI3c then s.stepIbi else s

/-- A plan starts, unless one runs; one that falls due in Hold waits (R371). -/
def State.startPlan (s : State) (cause : BitVec 2) : State :=
  if s.power.planning then s
  else if s.power.state = .hold then s.modPower fun x => { x with planDue := true }
  else s.modPower fun x => { x with planning := true, cause := cause }

/-- The device is in Run; a plan that fell due in Hold starts (R368, R371). -/
def State.returnsToRun (s : State) : State :=
  let s := s.setPower .run
  if s.power.planDue then (s.modPower fun x => { x with planDue := false }).startPlan 2 else s

/-! ## The debug trace (R364) -/

/-- Items that the trace buffer holds: 1 MiB of 32-byte items. The spec gives neither a format nor what becomes of a full buffer (DESIGN
CHOICE, log entry 38). -/
def traceSize : Nat := 32768

/-- The trace takes items, the oldest dropped when it is full. -/
def State.traced (s : State) (items : List TraceItem) : State :=
  let t := s.trace ++ items
  { s with trace := t.drop (t.length - traceSize) }

/-! ## Bits of registers -/

/-- Bits [lo, lo + n) of a word as a number. -/
def field (w : Word) (lo n : Nat) : Nat := w.toNat / 2 ^ lo % 2 ^ n

/-- A number placed at bit `lo`. -/
def put (lo : Nat) (v : Nat) : Word := BitVec.ofNat 64 (v * 2 ^ lo)

/-- One bit placed at `lo`. -/
def putB (lo : Nat) (b : Bool) : Word := if b then put lo 1 else 0

/-! ## Time (R303, R306, R308) -/

/-- A deadline `ns` nanoseconds from now: on the own count while Line Time is SEEKING (R256, R306). -/
def State.deadlineIn (s : State) (ns : Word) : Deadline :=
  if s.lt.state = .seeking then ⟨s.lt.own + ns, true⟩ else ⟨s.lt.now + ns, false⟩

/-- Has a deadline been reached? A stamp equal to it lies after it (R308). -/
def State.reached (s : State) (d : Deadline) : Bool :=
  if d.onOwn then decide (d.at_.toNat ≤ s.lt.own.toNat) else decide (d.at_.toNat ≤ s.lt.now.toNat)

/-- What a slewing device gains on its own count while that goes from `own` on by `n` nanoseconds: 1 ns for each 10,000 ns, which is
100 ns per ms (R303). -/
def LineTime.gain (lt : LineTime) (n : Nat) : Nat :=
  min lt.slew.toNat ((lt.own.toNat + n) / 10000 - lt.own.toNat / 10000)

/-- Line Time after `n` nanoseconds: 0 while SEEKING; still until the source has caught up with a device that is ahead of it by
`hold`; ahead of the own count by what the slew has gained (R303). -/
def LineTime.run (lt : LineTime) (n : Word) : LineTime :=
  if lt.state = .seeking then lt
  else if n.toNat ≤ lt.hold.toNat then { lt with hold := lt.hold - n }
  else
    let g := BitVec.ofNat 64 (lt.gain n.toNat)
    { lt with now := lt.now + (n - lt.hold) + g, hold := 0, slew := lt.slew - g }

/-- Can a deadline come: one on Line Time does not while the unit is SEEKING? -/
def State.comes (s : State) (d : Deadline) : Bool := d.onOwn || s.lt.state != .seeking || s.reached d

/-- Time passes until the deadline, if it lies ahead and can come (log entry 1). On the way to an instant of Line Time the own count
advances by as much less as the slew gains: 1 ns in 10,001. -/
def State.passTo (s : State) (d : Deadline) : State :=
  if s.reached d || !s.comes d then s
  else if d.onOwn then { s with lt := { s.lt.run (d.at_ - s.lt.own) with own := d.at_ } }
  else
    let need := d.at_ - s.lt.now
    let g := BitVec.ofNat 64 (min s.lt.slew.toNat (need.toNat / 10001))
    { s with lt := { s.lt with now := d.at_, hold := 0, slew := s.lt.slew - g, own := s.lt.own + (s.lt.hold + (need - g)) } }

/-- `n` nanoseconds pass. -/
def State.pass (s : State) (n : Nat) : State :=
  let n := BitVec.ofNat 64 n
  { s with lt := { s.lt.run n with own := if s.lt.ownRuns then s.lt.own + n else s.lt.own } }

/-- This device's ID. -/
def State.devId (s : State) : BitVec 16 := s.consist.deviceId

/-- Line Time: 0 while SEEKING (Table 13.1). -/
def State.lineTime (s : State) : Word := s.lt.now

/-- The photo-finish log gains an entry, the oldest overwritten when it is full (R309). -/
def State.pfWrite (s : State) (e : PfEntry) : State :=
  let n := s.pfNext.toNat
  let s := if (tabGet PfEntry.zero s.pfLog n).valid then s.bumpLt 4 else s
  { s with pfLog := tabPut s.pfLog n e, pfNext := s.pfNext + 1 }

/-- An event whose origin stamp is `stamp` is compared with a boundary at `judged`: it is logged within 25 ns of it (R309). -/
def State.photo (s : State) (kind : Nat) (stamp judged boundary : Word) (deadline : Bool) (entry : Nat) (dev : BitVec 16) : State :=
  let off : Int := (judged.toNat : Int) - boundary.toNat
  if decide (-25 ≤ off) && decide (off ≤ 25) then
    s.pfWrite ⟨stamp, true, decide (0 ≤ off), deadline, BitVec.ofNat 8 entry, dev, BitVec.ofNat 4 kind, BitVec.ofInt 8 off⟩
  else s

/-- When the next occurrence of a timetable entry is due. -/
def TtEntry.due (x : TtEntry) : Nat := x.time.toNat + x.fired * x.period.toNat

/-- The window length of a timetable entry (R310). -/
def TtEntry.window (x : TtEntry) : Nat := if x.period = 0 then x.duration.toNat else min x.duration.toNat x.period.toNat

/-- The boundaries of the windows that name a partition, each once with its entry: of those that have opened, and the start of those that
armed entries will open, and their end, which a stamp is near too when the window is shorter than 25 ns. A window of full length ends where
the entry's next one starts. -/
def State.boundaries (s : State) (p : Nat) : List (Nat × Word) := List.eraseDups (
  ((s.windows.filter fun w => w.partMask.getLsbD p).flatMap fun w => [(w.entry, w.start), (w.entry, w.stop)]) ++
  (s.tt.filter fun e => e.2.armed && (e.2.action == 1 || e.2.action == 2) && e.2.window != 0 && e.2.partMask.getLsbD p).flatMap
    fun e => [(e.1, BitVec.ofNat 64 e.2.due), (e.1, BitVec.ofNat 64 (e.2.due + e.2.window))])

/-- An event of a partition is compared with the window boundaries that name the partition, by its origin stamp (R307 to R309, log
entry 28): a record for it, an increment of its batons, a completion record. -/
def State.photoEvent (s : State) (p : Nat) (stamp : Word) (dev : BitVec 16) : State :=
  (s.boundaries p).foldl (fun s b => s.photo 3 stamp stamp b.2 false b.1 dev) s

/-! ## Interrupts (R202, R205) -/

/-- The PCIe functions of a host port. -/
def State.pcie (s : State) (hp : HostPort) : Pcie := if hp = 0 then s.pcie0 else s.pcie1
def State.modPcie (s : State) (hp : HostPort) (f : Pcie → Pcie) : State :=
  if hp = 0 then { s with pcie0 := f s.pcie0 } else { s with pcie1 := f s.pcie1 }

/-- Send a vector of a function: dropped while MSI-X is disabled, pending while masked, sent otherwise (R202). -/
def State.interrupt (s : State) (hp : HostPort) (fn vector : Nat) : State :=
  let x := s.pcie hp
  let v := vector % (if fn = 0 then 256 else 112)
  if !setHas x.msixOn fn then s
  else if setHas x.maskAll fn || !setHas x.unmasked (4096 * fn + v) then
    s.modPcie hp fun x => { x with pending := setAdd x.pending (4096 * fn + v) }
  else { s with intrs := s.intrs ++ [⟨hp, fn, v⟩] }

/-- An interrupt of a partition: to its VF when SR-IOV is enabled and the VF exists, to the PF otherwise (R202). -/
def State.partInterrupt (s : State) (p : Nat) (vector : Nat) : State :=
  let hp := (s.part p).host
  let x := s.pcie hp
  s.interrupt hp (if x.sriov && decide (p + 1 ≤ x.numVFs) then p + 1 else 0) vector

/-! ## Records that fall due (R189, R199, R201) -/

/-- The event records that wait for a slot. -/
def Part.waitingEvents (x : Part) : Nat := x.due.countP Due.isEvent

/-- An event record falls due: dropped and counted when the rings are not enabled or 256 wait already (R183, R189). Its event is compared with
the window boundaries at once, as the unit that raises it observes it (R307, R309). -/
def State.eventDue (s : State) (p : Nat) (status : Code) (index : BitVec 32) (info : Word) : State :=
  let x := s.part p
  let s := s.photoEvent p s.lineTime s.devId
  if x.state = .absent || !x.enable || decide (256 ≤ x.waitingEvents) then s.modPart p (·.bump 5)
  else s.modPart p fun x =>
    { x with due := x.due ++ [⟨true, ⟨0, 0xFF#8, status, index, info, s.lineTime, false⟩, 0, x.eventVector⟩] }

/-- The free slots of the completion ring (R189). -/
def Part.freeSlots (x : Part) : Nat := 2 ^ x.cqLog2.toNat - (x.cqProducer - x.cqConsumer).toNat

/-- Does a command wait for a slot, those before it in the queue taking the free ones (R189)? -/
def Part.slotAwaited (x : Part) : Bool := (x.due.drop x.freeSlots).any fun d => !d.isEvent

/-- The wait of commands for a slot begins, goes on, or ends; CQ_FULL_CNT counts each microsecond of it (R189). -/
def Part.trackFull (x : Part) (own : Word) : Part :=
  match x.slotAwaited, x.fullSince with
  | true, none => { x with fullSince := some own }
  | false, some t => { x with fullSince := none, cnt := Machine.bump x.cnt 3 ((own - t).toNat / 1000) }
  | _, _ => x

/-- A command completes: its record falls due when it has COMPLETE or failed, unless the rings have been disabled meanwhile, so that the next
completion ring starts empty (R183); an OK without a record sends its interrupt at once (R201, R202). -/
def State.finish (s : State) (p : Nat) (index : BitVec 32) (opcode flags : BitVec 8) (tag : BitVec 16) (vector : BitVec 8)
    (status : Code) (info : Word) : State :=
  if status = Code.ok && !flags.getLsbD 1 then
    if flags.getLsbD 2 then s.partInterrupt p vector.toNat else s
  else if !(s.part p).enable then s
  else s.modPart p fun x =>
    Part.trackFull { x with due := x.due ++ [⟨false, ⟨tag, opcode, status, index, info, s.lineTime, false⟩, flags, vector⟩] } s.lt.own

/-- A command in progress, by its number, completes (R193). -/
def State.complete (s : State) (p seq : Nat) (status : Code) (info : Word) : State :=
  match (s.part p).cmds.find? (fun k => k.seq == seq) with
  | none => s
  | some k =>
    let s := s.modPart p fun x => { x with cmds := x.cmds.filter fun k => k.seq != seq }
    s.finish p k.index k.opcode k.flags k.tag k.vector status info

/-! ## The event log (R341, R387) -/

/-- Bits 63:0 of a log entry's word at +0x8 (Table 14.11). -/
def EvtEntry.word (e : EvtEntry) : Word :=
  putB 63 e.valid ||| put 48 e.status.toNat ||| put 44 e.kept.toNat ||| put 40 e.yielded.toNat ||| put 36 e.part.toNat |||
  putB 35 e.partValid ||| put 32 e.kind.toNat ||| put 0 e.info.toNat

/-- An event enters the log, the oldest overwritten when it is full, and is forwarded to its partition's ring, or as an
interrupt of the PF and in band when it has none (R341, R387). -/
def State.log (s : State) (kind : Nat) (status : Code) (part : Option Nat) (kept yielded : Nat) (info : BitVec 32) : State :=
  let n := s.twin.evtNext.toNat
  let e : EvtEntry := ⟨s.lineTime, true, status, BitVec.ofNat 4 kept, BitVec.ofNat 4 yielded, BitVec.ofNat 4 (part.getD 0),
    part.isSome, BitVec.ofNat 3 kind, info⟩
  let s := if (tabGet EvtEntry.zero s.twin.log n).valid then s.bumpTwin 7 else s
  let s := { s with twin := { s.twin with log := tabPut s.twin.log n e, evtNext := s.twin.evtNext + 1 } }
  match part with
  | some p => s.eventDue p status 0xFFFFFFFE#32 e.word
  | none =>
    let s := s.interrupt Config.evtPort 0 s.twin.evtVector.toNat
    { s with board := { s.board with ibis := s.board.ibis ++ [e.kind.setWidth 8] } }

/-- A guarantee yields (R338): by the codes of Table 14.6, with the partition whose guarantee was kept. -/
def State.yielded (s : State) (kept yielded : Nat) (part keptPart : Option Nat) : State :=
  let info : BitVec 32 := match keptPart with
    | some p => 0x10#32 ||| BitVec.ofNat 32 (p % 16)
    | none => 0
  (s.log 5 Code.guaranteeYielded part kept yielded info).bumpTwin 4

/-! ## Targeted self-tests (R334) -/

/-- The ARG bit of a SELF_TEST_WINDOW that admits the unit's kind (R334). -/
def testArgBit : TestUnit → Nat
  | .core _ => 0
  | .coreBank _ | .clusterBank _ | .ioDie _ => 1
  | .memRow _ _ => 2
  | .lane _ _ => 3

/-- May the test run at once (Table 14.5)? -/
def State.testsAtOnce (s : State) (u : TestUnit) (uncorrectable : Bool) : Bool :=
  match u with
  | .core c | .coreBank c => uncorrectable && (s.core c.val).run == .faulted
  | .clusterBank _ | .memRow _ _ | .ioDie _ => uncorrectable
  | .lane p _ => (s.port p.val).state == .down

/-- A detected error starts the targeted self-test of its unit; a unit already pending is not queued again, but an error that cannot be
corrected makes a test that waits one of such an error (R334, Table 14.5). -/
def State.startTest (s : State) (u : TestUnit) (uncorrectable : Bool) : State :=
  if s.twin.tests.any (fun t => t.unit == u) then
    if !uncorrectable then s
    else { s with twin := { s.twin with tests := s.twin.tests.map fun t =>
      if t.unit == u && !t.uncorrectable then { t with uncorrectable := true, running := t.running || s.testsAtOnce u true } else t } }
  else { s with twin := { s.twin with tests := s.twin.tests ++ [⟨u, uncorrectable, s.testsAtOnce u uncorrectable⟩] } }

/-- An error found in an SRAM starts the test of its unit (R248, R334). -/
def State.sramError (s : State) (u : TestUnit) (ecc : Ecc) : State :=
  match ecc with
  | .clean => s
  | .corrected => s.startTest u false
  | .uncorrectable => s.startTest u true

/-! ## Recording a fault (R53, R196, R199) -/

/-- A core's partition enters FAULTED when it is RUNNING (R196). -/
def State.partFaulted (s : State) (c : Nat) : State :=
  match s.partOf c with
  | none => s
  | some p => if (s.part p).state = .running then s.modPart p fun x => { x with state := .faulted } else s

/-- An instruction faults: the record keeps the first fault, RUN becomes faulted, the partition enters FAULTED and the event
record falls due (R53, R199). -/
def State.fault (s : State) (c : Nat) (engine : BitVec 3) (status : Code) (index : Nat) (row : Option (TReg × Nat))
    (addr : Option Nat) : State :=
  let k := s.core c
  let s := s.modCore c fun k => { k with run := .faulted }
  if k.fault.valid then s
  else
    let rec_ : FaultRec := ⟨true, row.isSome, addr.isSome, engine, (row.map (·.1)).getD 0,
      BitVec.ofNat 10 ((row.map (·.2)).getD 0), status, BitVec.ofNat 32 index, BitVec.ofNat 48 (addr.getD 0)⟩
    let s := s.modCore c fun k => { k with fault := rec_ }
    let s := s.partFaulted c
    match s.partOf c with
    | none => s
    | some p => s.eventDue p status 0xFFFFFFFF#32 (put 0 c ||| put 16 (index % 2 ^ 32))

end Sys2Proof.Machine
end

