-- ==== Sys2Proof/Machine/Identity.lean ====
section
/-!
DEFINITION. The identity and capability registers (R31, R32, Tables 1.10 to 1.17).
-/
namespace Sys2Proof.Machine

/-- The set bits of a fuse map. -/
def mapCount (m : BitVec 288) : Nat := (List.range 288).countP m.getLsbD

/-- The enabled cores of cluster k in a fuse map. -/
def Fuses.clusterCount (f : Fuses) (k : Nat) : Nat := (List.range 9).countP fun i => f.enabled.getLsbD (9 * k + i)

/-- The fuse maps that a Septuf has: each core is enabled, a spare or disabled; in grade A every cluster has 8 enabled cores, in grade B two
clusters of each die have 8 and two have 7 (R26, R27). -/
def Fuses.legal (f : Fuses) : Bool :=
  f.enabled &&& f.spare == 0 &&
  (if f.gradeB then (List.range 8).all fun d =>
      let n (x : Nat) : Nat := ((List.range 4).map fun i => f.clusterCount (4 * d + i)).count x
      n 8 == 2 && n 7 == 2
   else (List.range 32).all fun k => f.clusterCount k == 8)

/-- A grade B fuse map with the stepping and the serial number of another: of each die, clusters 0 and 1 have 8 enabled cores, clusters 2
and 3 have 7; slot 7 of those is disabled, and slot 8 of every cluster is a spare (R27). -/
def Fuses.toGradeB (f : Fuses) : Fuses :=
  { f with
    gradeB := true
    enabled := (List.range 32).foldl (fun m k => m ||| ((if k % 4 < 2 then 0xFF#288 else 0x7F#288) <<< (9 * k))) 0#288
    spare := (List.range 32).foldl (fun m k => m ||| (0x100#288 <<< (9 * k))) 0#288 }

/-- IDENT (Table 1.10). -/
def State.ident (s : State) : Word :=
  put 48 1 ||| put 32 1 ||| put 24 s.fuses.stepping.toNat ||| put 20 (if s.fuses.gradeB then 2 else 1)

/-- CAP_CORE (Table 1.12). -/
def State.capCore (s : State) : Word :=
  put 32 288 ||| put 23 (if s.fuses.gradeB then 240 else 256) ||| put 16 (mapCount s.fuses.spare) ||| put 10 32 ||| put 6 8

/-- CAP_UNIT (Table 1.13). -/
def State.capUnit (s : State) : Word := put 8 0x10 ||| putB 7 (!s.fuses.gradeB) ||| put 0 0x7F

/-- CAP_MEM (Table 1.14). -/
def capMem : Word := put 32 32 ||| put 28 4 ||| put 25 4 ||| put 15 224 ||| put 10 16 ||| put 0 72

/-- CAP_LINK (Table 1.15). -/
def capLink : Word := put 24 0x11 ||| put 16 0x10 ||| put 14 2 ||| put 12 2 ||| put 7 24

/-- CAP_CLOCK (Table 1.16). -/
def State.capClock (s : State) : Word := put 32 s.power.mhz.toNat ||| put 16 720 ||| put 0 800

/-- Word k of a fuse bitmap (Table 1.17). -/
def mapWord (m : BitVec 288) (k : Nat) : Word := (m >>> (64 * k)).setWidth 64

end Sys2Proof.Machine
end

