-- ==== Sys2Proof/Machine/Arith.lean ====
section
/-!
DEFINITION. The arithmetic of 04_number_formats.md: encodings (R89 to R91), the exact dot product (R92), rounding (R94,
R95), the accumulator ADD (R97), the random generator (R103), the conversions (R105, R106), and the fixed functions of
R124. Everything is exact integer arithmetic; rounding is the one place where a value is narrowed.
-/
namespace Sys2Proof.Machine

/-! ## Exact values -/

/-- An exact dyadic value (−1)^neg × m × 2^e; a zero keeps its sign. -/
structure Dy where
  neg : Bool
  m   : Nat
  e   : Int
deriving DecidableEq, Repr

/-- A decoded value (R89, R90). -/
inductive Num where
  | nan
  | inf (neg : Bool)
  | fin (d : Dy)
deriving DecidableEq, Repr

/-- `a × 2^k` for a natural k, `a` shifted by an Int amount that is known not to be negative. -/
def shiftUp (a : Nat) (k : Int) : Nat := a <<< k.toNat

/-- The signed integer that `d` is at exponent `e`, for e at most d.e. -/
def Dy.at (d : Dy) (e : Int) : Int :=
  let v : Int := shiftUp d.m (d.e - e)
  if d.neg then -v else v

/-- The least exponent of a list of dyadics, at most `e0`. -/
def minExp (e0 : Int) : List Dy → Int
  | [] => e0
  | d :: ds => minExp (min e0 d.e) ds

/-- The exact sum (R92, R116): an exact zero is −0.0 when every term is −0.0, and +0.0 otherwise. -/
def Dy.sum : List Dy → Dy
  | [] => ⟨false, 0, 0⟩
  | d :: ds =>
    let e := minExp d.e ds
    let t := (d :: ds).foldl (fun acc x => acc + x.at e) (0 : Int)
    if t = 0 then ⟨(d :: ds).all (fun x => x.neg && x.m == 0), 0, 0⟩
    else ⟨decide (t < 0), t.natAbs, e⟩

/-- The exact product; a zero product takes the exclusive OR of the signs (R116). -/
def Dy.mul (a b : Dy) : Dy := ⟨a.neg != b.neg, a.m * b.m, a.e + b.e⟩

/-- The value with its sign inverted (R116: a subtracted term). -/
def Num.negate : Num → Num
  | .nan => .nan
  | .inf n => .inf (!n)
  | .fin d => .fin { d with neg := !d.neg }

/-- Is the value NaN? -/
def Num.isNan : Num → Bool
  | .nan => true
  | _ => false

/-- Is the value neither NaN nor infinite? -/
def Num.isFin : Num → Bool
  | .fin _ => true
  | _ => false

/-- Is the value a zero of either sign? -/
def Num.isZero : Num → Bool
  | .fin d => d.m == 0
  | _ => false

/-- The product of two values: NaN for a NaN operand and for an infinity times zero (R92, R116). -/
def Num.mul : Num → Num → Num
  | .nan, _ => .nan
  | _, .nan => .nan
  | .inf a, .inf b => .inf (a != b)
  | .inf a, .fin d => if d.m = 0 then .nan else .inf (a != d.neg)
  | .fin d, .inf a => if d.m = 0 then .nan else .inf (a != d.neg)
  | .fin a, .fin b => .fin (a.mul b)

/-- The dyadics of a list of values, the others left out. -/
def finParts (l : List Num) : List Dy :=
  l.filterMap fun x => match x with | .fin d => some d | _ => none

/-- The exact sum of values: NaN for a NaN and for infinities of opposite sign (R92, R97, R116). -/
def Num.sum (l : List Num) : Num :=
  if l.any Num.isNan then .nan
  else
    let p := l.contains (.inf false)
    let n := l.contains (.inf true)
    if p && n then .nan
    else if p then .inf false
    else if n then .inf true
    else .fin (Dy.sum (finParts l))

/-! ## Formats (Table 4.1, Table 4.2) -/

/-- The formats of Table 4.1. F4 here is its 4-bit code alone; its block scale is applied apart (R91). -/
inductive Fmt where
  | f4 | f8f | f8g | w16 | fp32
deriving DecidableEq, Repr

/-- Mantissa bits m (Table 4.1). -/
def Fmt.mbits : Fmt → Nat
  | .f4 => 1 | .f8f => 3 | .f8g => 2 | .w16 => 7 | .fp32 => 23

/-- Exponent bits (Table 4.1). -/
def Fmt.ebits : Fmt → Nat
  | .f4 => 2 | .f8f => 4 | .f8g => 5 | .w16 => 8 | .fp32 => 8

/-- Exponent bias (Table 4.1). -/
def Fmt.bias : Fmt → Nat
  | .f4 => 1 | .f8f => 7 | .f8g => 15 | .w16 => 127 | .fp32 => 127

/-- The code of the largest finite magnitude (Table 4.1). -/
def Fmt.maxCode : Fmt → Nat
  | .f4 => 0x7 | .f8f => 0x7E | .f8g => 0x7B | .w16 => 0x7F7F | .fp32 => 0x7F7FFFFF

/-- The canonical NaN (Table 4.2). F4 has none: its block scale is 0xFF. -/
def Fmt.nanCode : Fmt → Nat
  | .f4 => 0 | .f8f => 0x7F | .f8g => 0x7E | .w16 => 0x7FC0 | .fp32 => 0x7FC00000

/-- The code of +∞ (Table 4.2); F8F and F4 have none. -/
def Fmt.infCode : Fmt → Nat
  | .f4 => 0x7 | .f8f => 0x7F | .f8g => 0x7C | .w16 => 0x7F80 | .fp32 => 0x7F800000

/-- The weight of the sign bit of a code. -/
def Fmt.signBit (f : Fmt) : Nat := 2 ^ (f.ebits + f.mbits)

/-- The value of a code (R89, R90). -/
def decodeNum (f : Fmt) (code : Nat) : Num :=
  let neg := code / f.signBit % 2 == 1
  let mag := code % f.signBit
  let ex := mag / 2 ^ f.mbits
  let man := mag % 2 ^ f.mbits
  let allOnes := ex == 2 ^ f.ebits - 1
  match f, allOnes with
  | .f8f, true => if man = 7 then .nan else .fin ⟨neg, 8 + man, (ex : Int) - 10⟩
  | .f8g, true => if man = 0 then .inf neg else .nan
  | .w16, true => if man = 0 then .inf neg else .nan
  | .fp32, true => if man = 0 then .inf neg else .nan
  | f, _ =>
    if ex = 0 then .fin ⟨neg, man, 1 - (f.bias : Int) - f.mbits⟩
    else .fin ⟨neg, 2 ^ f.mbits + man, (ex : Int) - f.bias - f.mbits⟩

/-- The value of FP32 bits. -/
def f32Num (b : F32) : Num := decodeNum .fp32 b.toNat

/-- The value of an F4 code under its block scale byte (R91). -/
def f4Num (scale code : Nat) : Num :=
  if scale = 0xFF then .nan
  else match decodeNum .f4 (code % 16) with
    | .fin d => .fin { d with e := d.e + ((scale : Int) - 127) }
    | x => x

/-! ## Rounding (R94, R95) -/

/-- A rounding mode: to nearest, ties to even, or stochastic with the 24-bit random value r. -/
inductive Rnd where
  | nearest
  | stoch (r : Nat)
deriving DecidableEq, Repr

/-- ⌊log₂(num / den)⌋ for positive num and den. -/
def floorLog2 (num den : Nat) : Int :=
  let l : Int := (Nat.log2 num : Int) - Nat.log2 den
  let below := if 0 ≤ l then decide (num < den <<< l.toNat) else decide (num <<< (-l).toNat < den)
  if below then l - 1 else l

/-- round(v, fmt, mode, r) of R94 for |v| = num / den × 2^e, as a magnitude code; a code above `maxCode` is an overflow. -/
def roundMag (f : Fmt) (rnd : Rnd) (num den : Nat) (e : Int) : Nat :=
  if num = 0 then 0
  else
    let ex := max (floorLog2 num den + e) (1 - (f.bias : Int))
    let k := e - ex + f.mbits
    let n := if 0 ≤ k then num <<< k.toNat else num
    let d := if 0 ≤ k then den else den <<< (-k).toNat
    let q := n / d
    let r := n % d
    let away := match rnd with
      | .nearest => decide (2 * r > d) || (2 * r == d && q % 2 == 1)
      | .stoch x => decide (r * 2 ^ 24 / d + x ≥ 2 ^ 24)
    let q := if away then q + 1 else q
    if q < 2 ^ f.mbits then q else (ex + f.bias).toNat * 2 ^ f.mbits + (q - 2 ^ f.mbits)

/-- The code with the sign of v. -/
def withSign (f : Fmt) (neg : Bool) (mag : Nat) : Nat := if neg then f.signBit + mag else mag

/-- Rounding with the overflow outcome ±∞ (R95, first case; R116). -/
def roundInf (f : Fmt) (rnd : Rnd) (neg : Bool) (num den : Nat) (e : Int) : Nat :=
  let m := roundMag f rnd num den e
  withSign f neg (if m > f.maxCode then f.infCode else m)

/-- Rounding with the overflow outcome of the largest finite magnitude (R95, second case). -/
def roundSat (f : Fmt) (rnd : Rnd) (neg : Bool) (num den : Nat) (e : Int) : Nat :=
  let m := roundMag f rnd num den e
  withSign f neg (min m f.maxCode)

/-- A value rounded to FP32, overflow to ±∞. -/
def roundF32 (rnd : Rnd) : Num → F32
  | .nan => BitVec.ofNat 32 Fmt.fp32.nanCode
  | .inf n => BitVec.ofNat 32 (withSign .fp32 n Fmt.fp32.infCode)
  | .fin d => BitVec.ofNat 32 (roundInf .fp32 rnd d.neg d.m 1 d.e)

/-- round(·, FP32, nearest, 0). -/
def rn (x : Num) : F32 := roundF32 .nearest x

/-- round(x / n, FP32, nearest, 0) of an FP32 value x (R130). -/
def rnDiv (x : F32) (n : Nat) : F32 :=
  match f32Num x with
  | .fin d => BitVec.ofNat 32 (roundInf .fp32 .nearest d.neg d.m (max n 1) d.e)
  | y => rn y

/-- The FP32 canonical NaN. -/
def f32Nan : F32 := 0x7FC00000#32
/-- +0.0. -/
def f32Zero : F32 := 0#32
/-- 1.0. -/
def f32One : F32 := 0x3F800000#32

/-! ## The exact dot product (R92) and the accumulator ADD (R97) -/

/-- dot(a, b) over the pairs of decoded elements: exact, rounded once, an exact zero +0.0. -/
def dot (ps : List (Num × Num)) : F32 :=
  match Num.sum (ps.map fun p => Num.mul p.1 p.2) with
  | .fin d => if d.m = 0 then f32Zero else rn (.fin d)
  | x => rn x

/-- acc + s rounded in the mode given (R97); overflow gives ±∞ (R95). -/
def accAdd (rnd : Rnd) (acc s : F32) : F32 := roundF32 rnd (Num.sum [f32Num acc, f32Num s])

/-! ## The random generator (R103) -/

/-- mix of R103. -/
def rngMix (x : Word) : Word :=
  let x := x ^^^ (x >>> 32)
  let x := x * 0x8F3A6C1DE5B79247#64
  let x := x ^^^ (x >>> 29)
  let x := x * 0xB5E10C937A4FD26B#64
  x ^^^ (x >>> 32)

/-- rng of R103, each key in the bit range R103 gives it. -/
def rng (seed step : Word) (purpose core row col count : Nat) : Nat :=
  let w : Word := (BitVec.ofNat 64 (purpose % 16) <<< 60) ||| (BitVec.ofNat 64 (core % 256) <<< 52) |||
    (BitVec.ofNat 64 (row % 1024) <<< 42) ||| (BitVec.ofNat 64 (col % 512) <<< 33) ||| BitVec.ofNat 64 (count % 2 ^ 20)
  let h := rngMix (seed ^^^ 0x5EF71A0C93D46B28#64)
  let h := rngMix (h ^^^ step)
  let h := rngMix (h ^^^ w)
  (h >>> 40).toNat

/-! ## Conversions (Table 4.5, R106) -/

/-- The conversion of an FP32 value to F8F, F8G, W16 or FP32 (Table 4.5). -/
def convert (f : Fmt) (rnd : Rnd) (v : F32) : Nat :=
  match f with
  | .fp32 => v.toNat
  | f =>
    match f32Num v with
    | .nan => f.nanCode
    | .inf n => if f = .f8f then f.nanCode else withSign f n f.infCode
    | .fin d => roundSat f rnd d.neg d.m 1 d.e

/-- Is |d| at most 6 × 2^(s − 127)? -/
def leF4Max (d : Dy) (s : Nat) : Bool :=
  let k := d.e - ((s : Int) - 127)
  if 0 ≤ k then decide (d.m <<< k.toNat ≤ 6) else decide (d.m ≤ 6 <<< (-k).toNat)

/-- The scale byte of an F4 block (R106): 0xFF when any value is NaN or infinite, else the least that holds every
magnitude. -/
def f4Scale (vs : List F32) : Nat :=
  let ns := vs.map f32Num
  if ns.all Num.isFin then
    ((List.range 255).find? fun s => (finParts ns).all fun d => leF4Max d s).getD 0xFE
  else 0xFF

/-- The F4 code of a value under the block's scale (Table 4.5): a NaN block holds codes 0. -/
def f4Code (s : Nat) (rnd : Rnd) (v : F32) : Nat :=
  if s = 0xFF then 0
  else match f32Num v with
    | .fin d => roundSat .f4 rnd d.neg d.m 1 (d.e - ((s : Int) - 127))
    | _ => 0

/-! ## Comparisons -/

/-- Is a less than b? (NaN: no; the zeros are equal.) -/
def numLt : Num → Num → Bool
  | .nan, _ => false
  | _, .nan => false
  | .inf a, .inf b => a && !b
  | .inf a, .fin _ => a
  | .fin _, .inf b => !b
  | .fin a, .fin b => decide (a.at (min a.e b.e) < b.at (min a.e b.e))

/-- Are a and b equal? (NaN: no; the zeros are equal.) -/
def numEq : Num → Num → Bool
  | .nan, _ => false
  | _, .nan => false
  | .inf a, .inf b => a == b
  | .fin a, .fin b => decide (a.at (min a.e b.e) = b.at (min a.e b.e))
  | _, _ => false

/-- The sign bit of a value; NaN counts as positive. -/
def Num.sign : Num → Bool
  | .nan => false
  | .inf n => n
  | .fin d => d.neg

/-- vx.max and vx.min (R116): NaN propagates and +0.0 ranks above −0.0. -/
def numMax (a b : Num) : Num :=
  if a.isNan || b.isNan then .nan
  else if numLt a b then b
  else if numLt b a then a
  else if a.sign then b else a

/-- vx.min. -/
def numMin (a b : Num) : Num :=
  if a.isNan || b.isNan then .nan
  else if numLt a b then a
  else if numLt b a then b
  else if a.sign then a else b

/-! ## The fixed functions (R124)

RECIP and RSQRT are decided exactly. EXP, EXP2 and LOG2 are evaluated in fixed point with 256 fraction bits, and the powers of
R140 above 64 with 320 bits (log entry 6). -/

/-- Fraction bits of the fixed-point evaluation. -/
def fxBits : Nat := 256

/-- ⌊√n⌋ by bits, from bit `k` down, with `r` the root so far. -/
def isqrtAux (n : Nat) : Nat → Nat → Nat
  | 0, r => r
  | k + 1, r =>
    let t := r + 2 ^ k
    isqrtAux n k (if t * t ≤ n then t else r)

/-- ⌊√n⌋ for n below 2^256. -/
def isqrt (n : Nat) : Nat := isqrtAux n 128 0

/-- The terms of 2·atanh(z) = 2·Σ z^(2k+1)/(2k+1), with z and the sum in fixed point. -/
def atanhAux (z2 : Nat) : Nat → Nat → Nat → Nat → Nat
  | 0, _, _, acc => acc
  | n + 1, k, p, acc => atanhAux z2 n (k + 2) ((p * z2) >>> fxBits) (acc + 2 * p / k)

/-- ln((1 + z)/(1 − z)) in fixed point. -/
def lnRatio (z : Nat) : Nat := atanhAux ((z * z) >>> fxBits) 100 1 z 0

/-- ln 2 in fixed point, as ln((1 + 1/3)/(1 − 1/3)). -/
def ln2 : Nat := lnRatio (2 ^ fxBits / 3)

/-- The terms of exp(r), with r in fixed point below 1. -/
def expAux (r : Nat) : Nat → Nat → Nat → Nat → Nat
  | 0, _, _, acc => acc
  | n + 1, k, p, acc =>
    let p := ((p * r) >>> fxBits) / k
    expAux r n (k + 1) p (acc + p)

/-- exp(r) in fixed point, for r in fixed point below 1. -/
def expFx (r : Nat) : Nat := expAux r 80 1 (2 ^ fxBits) (2 ^ fxBits)

/-- The fixed-point value v plus half a unit, times 2^k, rounded to FP32 nearest. -/
def fxRound (neg : Bool) (v : Nat) (k : Int) : F32 :=
  BitVec.ofNat 32 (roundInf .fp32 .nearest neg (2 * v + 1) (2 ^ (fxBits + 1)) k)

/-- A dyadic as a signed fixed-point integer (exact for the exponents of FP32). -/
def Dy.toFx (d : Dy) : Int := d.at (-(fxBits : Int))

/-- EXP (R124). -/
def fExp (x : Num) : F32 :=
  match x with
  | .nan => f32Nan
  | .inf neg => if neg then f32Zero else rn (.inf false)
  | .fin d =>
    if d.m = 0 then f32One
    else if numLt (.fin ⟨false, 128, 0⟩) (.fin d) then rn (.inf false)
    else if numLt (.fin d) (.fin ⟨true, 128, 0⟩) then f32Zero
    else
      let X := d.toFx
      let k := X / (ln2 : Int)
      fxRound false (expFx (X - k * ln2).toNat) k

/-- EXP2 (R124). -/
def fExp2 (x : Num) : F32 :=
  match x with
  | .nan => f32Nan
  | .inf neg => if neg then f32Zero else rn (.inf false)
  | .fin d =>
    if numLt (.fin ⟨false, 256, 0⟩) (.fin d) then rn (.inf false)
    else if numLt (.fin d) (.fin ⟨true, 256, 0⟩) then f32Zero
    else
      let X := d.toFx
      let k := X / (2 ^ fxBits : Int)
      let f := (X - k * 2 ^ fxBits).toNat
      if f = 0 then BitVec.ofNat 32 (roundInf .fp32 .nearest false 1 1 k)
      else fxRound false (expFx ((f * ln2) >>> fxBits)) k

/-- LOG2 (R124). -/
def fLog2 (x : Num) : F32 :=
  match x with
  | .nan => f32Nan
  | .inf neg => if neg then f32Nan else rn (.inf false)
  | .fin d =>
    if d.m = 0 then rn (.inf true)
    else if d.neg then f32Nan
    else
      let l := Nat.log2 d.m
      let f := d.m - 2 ^ l
      let ex : Int := d.e + l
      if f = 0 then rn (.fin ⟨decide (ex < 0), ex.natAbs, 0⟩)
      else
        let z := f * 2 ^ fxBits / (2 ^ (l + 1) + f)
        let frac := lnRatio z * 2 ^ fxBits / ln2
        let v : Int := ex * 2 ^ fxBits + frac
        fxRound (decide (v < 0)) v.natAbs 0

/-- RSQRT (R124). -/
def fRsqrt (x : Num) : F32 :=
  match x with
  | .nan => f32Nan
  | .inf neg => if neg then f32Nan else f32Zero
  | .fin d =>
    if d.m = 0 then rn (.inf d.neg)
    else if d.neg then f32Nan
    else
      let m := if d.e % 2 = 0 then d.m else 2 * d.m
      let h := (if d.e % 2 = 0 then d.e else d.e - 1) / 2
      let y := isqrt (2 ^ 200 / m)
      let sticky := if y * y * m = 2 ^ 200 then 0 else 1
      BitVec.ofNat 32 (roundInf .fp32 .nearest false (2 * y + sticky) (2 ^ 101) (-h))

/-- RECIP (R124). -/
def fRecip (x : Num) : F32 :=
  match x with
  | .nan => f32Nan
  | .inf neg => BitVec.ofNat 32 (withSign .fp32 neg 0)
  | .fin d =>
    if d.m = 0 then rn (.inf d.neg)
    else BitVec.ofNat 32 (roundInf .fp32 .nearest d.neg 1 d.m (-d.e))

/-- A number without its factors of two, of which it has at most `fuel`, and their count. -/
def oddPart : Nat → Nat → Nat × Nat
  | 0, m => (m, 0)
  | fuel + 1, m => if m % 2 = 0 then let r := oddPart fuel (m / 2); (r.1, r.2 + 1) else (m, 0)

/-- A positive m × 2^e cut to 320 significant bits. -/
def cut320 (m : Nat) (e : Int) : Nat × Int :=
  let n := Nat.log2 m + 1
  if n ≤ 320 then (m, e) else (m / 2 ^ (n - 320), e + (n - 320 : Nat))

/-- m^t as a mantissa of 320 bits and an exponent, by the bits of t from bit `k` down; `acc` is the power so far. -/
def powAux (m t : Nat) : Nat → Nat × Int → Nat × Int
  | 0, acc => acc
  | k + 1, (a, e) =>
    let s := cut320 (a * a) (2 * e)
    powAux m t k (if t.testBit k then cut320 (s.1 * m) s.2 else s)

/-- The FP32 value nearest x^t, ties to even (R140: pw); t is 1 to 2^64. Up to 64 the power is exact; above, the power of an odd
m > 1 lies on no tie and is evaluated with 320 bits. -/
def fPow (x : F32) (t : Nat) : F32 :=
  match f32Num x with
  | .nan => f32Nan
  | .inf neg => rn (.inf (neg && t % 2 == 1))
  | .fin d =>
    let neg := d.neg && t % 2 == 1
    if d.m = 0 then rn (.fin ⟨neg, 0, 0⟩)
    else
      let r := oddPart 24 d.m
      let p := if r.1 = 1 then (1, 0) else if t ≤ 64 then (r.1 ^ t, 0) else
        let q := powAux r.1 t 65 (1, 0)
        (2 * q.1 + 1, q.2 - 1)
      let e : Int := p.2 + (d.e + (r.2 : Int)) * t
      let hi := e + Nat.log2 p.1
      if 200 < hi then rn (.inf neg)
      else if hi < -200 then rn (.fin ⟨neg, 1, -200⟩)
      else rn (.fin ⟨neg, p.1, e⟩)

/-! ## FP32 operations rounded to nearest -/

/-- a + b. -/
def fAdd (a b : F32) : F32 := rn (Num.sum [f32Num a, f32Num b])
/-- a − b. -/
def fSub (a b : F32) : F32 := rn (Num.sum [f32Num a, (f32Num b).negate])
/-- a × b. -/
def fMul (a b : F32) : F32 := rn (Num.mul (f32Num a) (f32Num b))
/-- a × b + c, one rounding. -/
def fFma (a b c : F32) : F32 := rn (Num.sum [Num.mul (f32Num a) (f32Num b), f32Num c])

/-- sq.i2f (R157). -/
def i2f (x : Word) : F32 :=
  let v := x.toInt
  rn (.fin ⟨decide (v < 0), v.natAbs, 0⟩)

/-- sq.f2i (R157): truncates towards zero, NaN gives 0, beyond the range the nearest limit. -/
def f2i (x : F32) : Word :=
  let lim (neg : Bool) : Word := if neg then 0x8000000000000000#64 else 0x7FFFFFFFFFFFFFFF#64
  match f32Num x with
  | .nan => 0
  | .inf neg => lim neg
  | .fin d =>
    let mag := if 0 ≤ d.e then d.m <<< d.e.toNat else d.m >>> (-d.e).toNat
    if d.neg then (if mag ≥ 2 ^ 63 then lim true else - BitVec.ofNat 64 mag)
    else (if mag ≥ 2 ^ 63 then lim false else BitVec.ofNat 64 mag)

end Sys2Proof.Machine
end

