-- ==== Sys2Proof/Machine/Fabric.lean ====
section
/-!
DEFINITION. Device-local addresses (R227 to R231), translation (R232 to R234), slices, reduce cells and poison (R236 to R242,
R247 to R249), and the accesses of cores through L1 (R237) and of the other agents without it.
-/
namespace Sys2Proof.Machine

/-! ## Device-local addresses -/

/-- The windows of Table 10.1 that hold near memory. -/
def inNear (a : Nat) : Bool := decide (a < 0x12000000000)
/-- Far memory: replica slots and sidings. -/
def inFar (a : Nat) : Bool := decide (0x20000000000 ≤ a) && decide (a < 0x2E000000000)
/-- Slice scratch. -/
def inScratch (a : Nat) : Bool := decide (0x30000000000 ≤ a) && decide (a < 0x30040000000)
/-- The reduce window. -/
def inReduce (a : Nat) : Bool := decide (0x38000000000 ≤ a) && decide (a < 0x38040000000)

/-- The byte that an address names: a reduce-window address names the scratch byte of the same offset (R230). -/
def alias_ (a : Nat) : Nat := if inReduce a then a - 0x8000000000 else a

/-- Die, slice and byte within the slice of a scratch offset (R230). -/
def scratchDie (x : Nat) : Nat := x / 2 ^ 27 % 8
def scratchSlice (x : Nat) : Nat := x / 2 ^ 22 % 32

/-- Is the scratch offset within the scratch part of its slice (R231)? -/
def State.scratchHas (s : State) (x : Nat) : Bool :=
  decide (x % 2 ^ 22 < (tabGet 0 (s.die (scratchDie x)).scratch512k (scratchSlice x)).toNat * 2 ^ 19)

/-- Is the address populated (R227)? -/
def State.populated (s : State) (a : Nat) : Bool :=
  inNear a || inFar a || (inScratch a && s.scratchHas (a % 2 ^ 30)) ||
  (inReduce a && s.scratchHas (a % 2 ^ 30) && !(s.die (scratchDie (a % 2 ^ 30))).flagMode)

/-- The die of a near-memory address, and the offset in it (R228). -/
def nearDie (a : Nat) : Nat := a / 0x2400000000
def nearOff (a : Nat) : Nat := a % 0x2400000000

/-- The memory stack of an address, numbered as Table 10.10 (R228, R229). -/
def stackOf (a : Nat) : Option Nat :=
  if inNear a then some (2 * nearDie a + nearOff a / 2 ^ 13 % 2)
  else if inFar a then some (16 + a / 2 ^ 12 % 4)
  else none

/-- The die and slice that serve an address (R228, R230). -/
def sliceOf (a : Nat) : Option (Nat × Nat) :=
  if inNear a then some (nearDie a, nearOff a / 2 ^ 8 % 32)
  else if inScratch a || inReduce a then some (scratchDie (a % 2 ^ 30), scratchSlice (a % 2 ^ 30))
  else none

/-! ## Junctions, mesh links and routes (R244, R247, R349, Table 10.3) -/

/-- The junction of an optical port (Tables 10.3 and 12.2). -/
def portJunction (n : Nat) : Nat :=
  if n < 6 then [0, 1, 2, 4, 5, 6].getD n 0
  else if n < 12 then 10 + n + (if n < 9 then 0 else 1)
  else if n < 15 then n - 4
  else if n < 18 then n - 3
  else if n < 21 then n + 6
  else if n < 24 then n + 7
  else [34, 37, 32, 39].getD (n - 24) 0

/-- The mesh links 0 to 12 by their junctions: eight from west to east, five vertical. -/
def meshLinks : List (Nat × Nat) :=
  [(1, 4), (5, 32), (33, 8), (9, 12), (19, 22), (23, 38), (39, 26), (27, 30), (3, 16), (7, 20), (35, 36), (11, 24), (15, 28)]

/-- The junction after local junction `n` on the ring of its die, in the order 0, 1, 3, 2, 0. -/
def ringNext (n : Nat) : Nat := [1, 3, 0, 2].getD n 0
/-- The junction before it. -/
def ringPrev (n : Nat) : Nat := [2, 0, 3, 1].getD n 0

/-- The junction that a hop code leads to from a junction (R349); none for None, for a link it lacks and for Deliver. -/
def hopFrom (j code : Nat) : Option Nat :=
  if code = 1 then some (j / 4 * 4 + ringNext (j % 4))
  else if code = 2 then some (j / 4 * 4 + ringPrev (j % 4))
  else if code = 3 then ((meshLinks.take 8).find? fun l => l.2 == j).map (·.1)
  else if code = 4 then ((meshLinks.take 8).find? fun l => l.1 == j).map (·.2)
  else if code = 5 then ((meshLinks.drop 8).find? fun l => l.1 == j || l.2 == j).map fun l => if l.1 = j then l.2 else l.1
  else none

/-- The next junction from `j` towards destination `k` by a routing table: the primary hop, or the alternate one past a fenced
junction (R245, R247). -/
def hopTo (fenced : NatSet) (r : Tab (BitVec 8)) (j k : Nat) : Option Nat :=
  let h := (tabGet (0x3F#8) r (40 * j + k)).toNat
  match hopFrom j (h % 8) with
  | none => none
  | some n =>
    if setHas fenced n then
      match hopFrom j (h / 8 % 8) with
      | some m => if setHas fenced m then none else some m
      | none => none
    else some n

/-- Does a request at `j` reach destination `k` by a routing table, within so many hops? Hop None, and Deliver elsewhere, end it
(R349). -/
def delivers (fenced : NatSet) (r : Tab (BitVec 8)) (k : Nat) : Nat → Nat → Bool
  | 0, _ => false
  | fuel + 1, j =>
    if (tabGet (0x3F#8) r (40 * j + k)).toNat % 8 = 0 then j == k
    else match hopTo fenced r j k with
      | none => false
      | some n => delivers fenced r k fuel n

/-- The junctions reached from a set of them in so many hops, past fenced ones. -/
def spread (fenced : NatSet) : Nat → NatSet → NatSet
  | 0, l => l
  | fuel + 1, l =>
    let next := l.flatMap fun j => (List.range 5).filterMap fun c => hopFrom j (c + 1)
    spread fenced fuel ((next.filter fun j => !setHas fenced j).foldl setAdd l)

/-- Can a request at junction `j` reach junction `k` (R247, R349)? Under the default routing, whose bytes the spec does not give, by
any path that remains (log entry 12). What lies at a fenced junction is reached too, and served as R236 and R247 give. -/
def State.reaches (s : State) (j k : Nat) : Bool :=
  let f := setDel s.fabric.fenced k
  match s.consist.routing with
  | some r => delivers f r k 80 j
  | none => f.isEmpty || (spread f 40 [j]).contains k

/-- Does junction `j` lead to junction `k` as the primary hop towards a destination, with an alternate hop to use (R245)? -/
def routesBy (r : Tab (BitVec 8)) (j k : Nat) : Bool :=
  (List.range 40).any fun d =>
    let h := tabGet (0x3F#8) r (40 * j + d)
    hopFrom j (h.toNat % 8) == some k && decide (h.toNat / 8 % 8 < 6)

/-- The junctions that go over to an alternate hop when `k` is fenced; under the default routing, whose bytes the spec does not
give, the choice is free. -/
def State.alternates (s : State) (k : Nat) : List Nat :=
  (List.range 40).filter fun j =>
    match s.consist.routing with
    | some r => j != k && routesBy r j k
    | none => j != k && Config.freeBool (s.freeCtr + j) && ((List.range 6).any fun c => hopFrom j c == some k)

/-- The junctions that use an alternate hop under a new routing table: those that lead to a fenced junction (R245). -/
def State.rerouted (s : State) : State :=
  let t : State := { s with fabric := { s.fabric with altUse := (s.fabric.fenced.flatMap s.alternates).foldl setAdd [] } }
  if s.consist.routing.isNone && !s.fabric.fenced.isEmpty then t.ticks 40 else t

/-- The junction of the slice that serves an address (R349). -/
def sliceJunction (a : Nat) : Option Nat := (sliceOf a).map fun x => 4 * x.1 + x.2 / 8

/-- The junction of a function of I/O die `io` for a transfer that enters the mesh at junction `j` (R349). -/
def ioFunction (io j : Nat) : Nat := 32 + 4 * io + j % 4

/-- The I/O die of far-memory stack `n`: FM0 and FM1 are on IO0, FM2 and FM3 on IO1 (R19); stackOf numbers them 16 to 19. -/
def farDie (n : Nat) : Nat := (n - 16) / 2

/-- Does a request at junction `j` reach what serves an address: its slice, or the controller of its far-memory stack? -/
def State.reachesAddr (s : State) (j a : Nat) : Bool :=
  match sliceJunction a, stackOf a with
  | some k, _ => s.reaches j k
  | none, some n => s.reaches j (ioFunction (farDie n) j)
  | none, none => true

/-- Does a core's request reach what serves an address? Within its die it takes the crossbar alone (R349). -/
def State.coreReaches (s : State) (c a : Nat) : Bool :=
  (match sliceOf a with | some (d, _) => d == dieOf c | none => false) || s.reachesAddr (clusterOf c) a

/-- The first junction of the I/O die that serves a partition: IO0 for an even one, IO1 for an odd one (R250, Table 10.3). -/
def ioJunction (p : Nat) : Nat := 32 + 4 * (p % 2)

/-- Does an agent of the device that serves a partition, the signal box, the securing engine or the translation of its accesses, reach
what serves an address, from any junction of the I/O die that holds the partition's sync store (R247; DESIGN CHOICE, log entry 12:
Table 1.3 gives both I/O dies such agents and no rule says which serves a partition, nor where its requests enter the mesh)? -/
def State.agentReaches (s : State) (p a : Nat) : Bool := (List.range 4).any fun j => s.reachesAddr (ioJunction p + j) a

/-- Does a request at junction `j` reach the sync store of a partition, a function of an I/O die (R250, R349)? -/
def State.storeReaches (s : State) (j p : Nat) : Bool := s.reaches j (ioFunction (p % 2) j)

/-- Does a sync request of a core reach the sync store of a partition? -/
def State.syncReaches (s : State) (c p : Nat) : Bool := s.storeReaches (clusterOf c) p

/-- Does a request at junction `j` reach every byte of [a, a + n), whose stacks change at 4 KiB at most (R228, R229)? -/
def State.reachesAll (s : State) (j a n : Nat) : Bool := (List.range (n / 4096 + 2)).all fun i => s.reachesAddr j (min (a + 4096 * i) (a + n - 1))

/-- Is the slice that serves the address fenced (R247)? -/
def State.sliceFenced (s : State) (a : Nat) : Bool :=
  match sliceOf a with
  | some (d, sl) => (s.die d).sliceFenced.getLsbD sl
  | none => false

/-- Does the address lie in a fenced memory row (R335)? -/
def State.rowFenced (s : State) (a : Nat) : Bool :=
  match stackOf a with
  | some n => setHas (s.stack n).fencedRows (Config.memRow a)
  | none => false

/-- Does the address lie in a row that a spare has replaced, in a granule not written since (R335)? -/
def State.rowFresh (s : State) (a : Nat) : Bool :=
  match stackOf a with
  | some n => setHas (s.stack n).freshRows (Config.memRow a) && !setHas (s.stack n).freshDone (a / 32)
  | none => false

/-- Granules of replaced rows have been written whole. -/
def State.freshWritten (s : State) (gs : List Nat) : State :=
  gs.foldl (fun s g =>
    match stackOf (32 * g) with
    | some n =>
      if s.rowFresh (32 * g) then s.modStack n fun x => { x with freshDone := setAdd x.freshDone g } else s
    | none => s) s

/-- Does a read of the address return poisoned data (R247, R249, R335)? -/
def State.poisoned (s : State) (a : Nat) : Bool :=
  setHas s.poison (alias_ a / 32) || (!inNear a && s.sliceFenced a) || s.rowFenced a || s.rowFresh a

/-- One byte of device memory. -/
def State.devByte (s : State) (a : Nat) : Byte := memGet s.mem (alias_ a)

/-- `n` bytes of device memory. -/
def State.devBytes (s : State) (a n : Nat) : List Byte := memRead s.mem (alias_ a) n

/-! ## Reduce cells (R240 to R242) -/

/-- What a ranked contribution carries (R241), with its origin stamp and the port it comes from (R245); `stale` says that its launch has been
saved since it was made (R242). -/
structure Ranked where
  launch : LaunchId
  rank   : Nat
  size   : Nat
  origin : Word
  port   : Nat
  stale  : Bool
deriving DecidableEq, Repr

/-- Is the launch still in progress? -/
def State.launchLive (s : State) (l : LaunchId) : Bool :=
  (s.part l.part).cmds.any fun k => k.seq == l.seq && (match k.kind with | .launch _ => true | _ => false)

/-- The address of the cell at a scratch offset. -/
def cellAddr (x : Nat) : Nat := 0x30000000000 + x

/-- A write closes the read groups of its lines (R238). -/
def State.closeGroups (s : State) (a : Nat) : State :=
  match sliceOf a with
  | none => s
  | some (d, _) =>
    let line := alias_ a / 128
    if (s.die d).groups.any (fun g => g.line == line) then
      s.modDie d fun x => { x with groups := x.groups.filter fun g => g.line != line }
    else s

/-- The cell becomes c + v by an accumulator ADD (R240); it stays, or becomes, poisoned as R249 gives. -/
def State.applyCell (s : State) (x : Nat) (v : F32) (poison : Bool) : State :=
  let a := cellAddr x
  let s := s.closeGroups a
  let c : F32 := BitVec.ofNat 32 (memNat s.mem a 4)
  let s := { s with mem := memWrite s.mem a (leBytes 4 (accAdd .nearest c v).toNat),
                    poison := if poison then setAdd s.poison (a / 32) else s.poison }
  s.bumpDie (scratchDie x) 3

/-- Is a ranked contribution in turn (R241)? -/
def Cell.inTurn (c : Cell) (l : LaunchId) (rank : Nat) : Bool :=
  match c.owner with
  | none => rank == 0
  | some o => o == l && rank == c.turn

/-- The cell after a contribution in turn: the turn advances, and the round ends at turn 0 (R241). -/
def Cell.advance (l : LaunchId) (rank size : Nat) : Cell :=
  let t := (rank + 1) % max size 1
  if t = 0 then Cell.free else ⟨t, some l⟩

/-- Apply a contribution in turn and advance the cell. -/
def State.applyRanked (s : State) (k : Contribution) : State :=
  let s := s.applyCell k.cell k.value k.poison
  s.modDie (scratchDie k.cell) fun d => { d with cells := tabSet Cell.free d.cells k.cell (Cell.advance k.launch k.rank k.size) }

/-- Apply the held contributions of a cell that come into turn, one after another (R241: REDUCE_HELD_APPLY). -/
def State.applyHeld (s : State) (x : Nat) : Nat → State
  | 0 => s
  | fuel + 1 =>
    let d := s.die (scratchDie x)
    let cell := tabGet Cell.free d.cells x
    match listFind (fun k => k.cell == x && cell.inTurn k.launch k.rank) d.held with
    | none => s
    | some i =>
      match d.held[i]? with
      | none => s
      | some k =>
        let s := s.modDie (scratchDie x) fun d => { d with held := listDel d.held i }
        State.applyHeld (s.applyRanked k) x fuel

/-- Apply the held contributions of the cell at offset `x` that are in turn. -/
def State.cascade (s : State) (x : Nat) : State := s.applyHeld x (s.die (scratchDie x)).held.length

/-- A ranked contribution is offered: discarded when its launch has ended, applied in turn, held or refused (R241, R242). -/
def State.offer (s : State) (k : Contribution) : State :=
  let dn := scratchDie k.cell
  let d := s.die dn
  if k.dead || !s.launchLive k.launch then s.bumpDie dn 7
  else if (tabGet Cell.free d.cells k.cell).inTurn k.launch k.rank then (s.applyRanked k).cascade k.cell
  else if d.held.length < 2048 then (s.modDie dn fun d => { d with held := d.held ++ [k] }).bumpDie dn 6
  else s.modDie dn fun d => { d with refused := d.refused ++ [k] }

/-- A contribution reaches its slice (R240): dropped at a fenced slice (R247), applied on arrival without a rank. -/
def State.contribute (s : State) (who : Option Ranked) (x : Nat) (v : F32) (poison : Bool) : State :=
  if s.sliceFenced (cellAddr x) then s.bumpDie (scratchDie x) 5
  else match who with
    | none => s.applyCell x v poison
    | some r => s.offer ⟨x, v, poison, r.launch, r.rank, r.size, r.origin, r.port, r.stale⟩

/-- Launches end, are aborted or reset, or have their context saved, all at once: the cells they own are free again, their held
contributions are discarded and counted, and those that await a retry will be (R241, R242). -/
def State.endRounds (s : State) (ls : List LaunchId) : State :=
  if ls.isEmpty then s
  else (List.range 8).foldl (fun s dn =>
    let d := s.die dn
    let gone := d.held.filter fun k => ls.contains k.launch
    let ended (c : Cell) : Bool := match c.owner with | some l => ls.contains l | none => false
    let freed := (d.cells.filter fun c => ended c.2).map (·.1)
    let s := s.modDie dn fun d =>
      { d with held := d.held.filter fun k => !ls.contains k.launch
               cells := d.cells.filter fun c => !ended c.2
               refused := d.refused.map fun k => if ls.contains k.launch then { k with dead := true } else k
               cnt := bump d.cnt 7 gone.length }
    freed.foldl (fun s x => s.cascade x) s) s

/-! ## Writes to device memory -/

/-- The crossbar port of a core on its die (R235). -/
def State.portOfCore (s : State) (c : Nat) : Option Nat :=
  ((s.die (dieOf c)).ports.find? fun x => x.2 == some (c, false)).map (·.1)

/-- The rank a core's contributions carry: of a launch with DET set (R241). -/
def State.rankOf (s : State) (c : Nat) : Option Ranked :=
  match (s.core c).kernel, s.partOf c with
  | some k, some p =>
    if k.det then some ⟨⟨p, k.cmd⟩, k.rank, k.size, s.lineTime, 32 * dieOf c + (s.portOfCore c).getD 0, false⟩ else none
  | _, _ => none

/-- Are all 32 bytes of granule `g` among the addresses? -/
def coversGranule (bytes : List (Nat × Byte)) (g : Nat) : Bool :=
  (List.range 32).all fun i => bytes.any fun b => b.1 == 32 * g + i

/-- The contributions of a write through the reduce window: each aligned word it covers completely (R240), poisoned as its granule. -/
def State.reduceWords (s : State) (who : Option Ranked) (bytes : List (Nat × Byte)) (poison : Nat → Bool) : List Nat → State
  | [] => s
  | w :: ws =>
    let at_ (i : Nat) : Option Byte := (bytes.find? fun b => b.1 == 4 * w + i).map (·.2)
    let x := (4 * w) % 2 ^ 30
    let s := match at_ 0, at_ 1, at_ 2, at_ 3 with
      | some b0, some b1, some b2, some b3 =>
        s.contribute who x (BitVec.ofNat 32 (leNat [b0, b1, b2, b3])) (poison (w / 8))
      | _, _, _, _ => s.bumpDie (scratchDie x) 4
    s.reduceWords who bytes poison ws

/-- The distinct members of a rising list. -/
def dedup : List Nat → List Nat
  | [] => []
  | [a] => [a]
  | a :: b :: t => if a = b then dedup (b :: t) else a :: dedup (b :: t)

/-- A write of bytes of one line reaches its slice or controller, at rising device addresses: through the reduce window it
makes contributions; elsewhere it replaces bytes, is dropped at a fenced slice or row, and clears the poison of whole granules,
or leaves the granules poisoned whose data carries poison (R249). -/
def State.granWrite (s : State) (who : Option Ranked) (bytes : List (Nat × Byte)) (poison : Nat → Bool) : State :=
  match bytes with
  | [] => s
  | (a, _) :: _ =>
    let s := s.closeGroups a
    if inReduce a then s.reduceWords who bytes poison (dedup (bytes.map fun b => b.1 / 4))
    else if inScratch a && s.sliceFenced a then s.bumpDie (scratchDie (a % 2 ^ 30)) 5
    else if s.rowFenced a then s
    else
      let gs := dedup (bytes.map fun b => b.1 / 32)
      let s := s.freshWritten (gs.filter (coversGranule bytes))
      { s with
        mem := bytes.foldl (fun m b => memSet m b.1 b.2) s.mem
        poison := gs.foldl (fun ps g =>
          if poison g then setAdd ps g else if coversGranule bytes g then setDel ps g else ps) s.poison }

/-- A write of bytes of one line whose data carries poison or not. -/
def State.devWrite (s : State) (who : Option Ranked) (bytes : List (Nat × Byte)) (poison : Bool) : State := s.granWrite who bytes fun _ => poison

/-- Bytes at rising addresses from `a`. -/
def atAddrs (a : Nat) (bs : List Byte) : List (Nat × Byte) := (List.range bs.length).zipWith (fun i b => (a + i, b)) bs

/-! ## Reads at a slice (R236, R238) -/

/-- Lines of a slice's cache part (R231, R236). -/
def State.cacheLines (s : State) (d sl : Nat) : Nat :=
  if (s.die d).sliceFenced.getLsbD sl then 0 else (8 - (tabGet 0 (s.die d).scratch512k sl).toNat) * 4096

/-- The lines of a slice that are cached. -/
def State.cachedIn (s : State) (d sl : Nat) : List Nat := (s.die d).cached.filter fun l => sliceOf (128 * l) == some (d, sl)

/-- A line fills the cache part; a full one gives up a line, which the spec does not choose. -/
def State.fillSlice (s : State) (d sl line : Nat) : State :=
  let here := s.cachedIn d sl
  let s :=
    if here.length < s.cacheLines d sl then s
    else
      let v := here.getD (Config.freeNat s.freeCtr % max here.length 1) 0
      s.tick.modDie d fun x => { x with cached := setDel x.cached v }
  s.modDie d fun x => { x with cached := setAdd x.cached line }

/-- A near-memory line is read at its slice: a hit, or a miss that fills it; past a slice without a cache part it is neither. -/
def State.cacheRead (s : State) (a : Nat) : State :=
  match sliceOf a with
  | none => s
  | some (d, sl) =>
    if !inNear a || s.cacheLines d sl = 0 then s
    else if setHas (s.die d).cached (a / 128) then s.bumpDie d 0
    else (s.bumpDie d 1).fillSlice d sl (a / 128)

/-- What reads at slices change of the state: the dies, and the free values used. -/
def State.sliceReads (s : State) (read : State → State) : State := { s with dies := (read s).dies, freeCtr := (read s).freeCtr }

/-- A new group of reads of a line. -/
def State.newGroup (s : State) (d line port cycle : Nat) : State :=
  let g : ReadGroup := ⟨line, [port], cycle, s.devBytes (128 * line) 128⟩
  s.modDie d fun x => { x with groups := g :: x.groups.filter fun g => g.line != line }

/-- The open group of an address that a read from a core port joins in a slice cycle: within 8 cycles of its first read, from a
port that has not read it (R238). -/
def State.joins (s : State) (port a cycle : Nat) : Bool :=
  match sliceOf a with
  | none => false
  | some (d, _) => (s.die d).groups.any fun g =>
      g.line == alias_ a / 128 && decide (g.cycle ≤ cycle) && decide (cycle ≤ g.cycle + 8) && !g.ports.contains port

/-- A read from a core port joins the group of its line, or is served and opens a group (R238). -/
def State.portRead (s : State) (port a cycle : Nat) : State :=
  match sliceOf a with
  | none => s
  | some (d, _) =>
    let line := alias_ a / 128
    if s.joins port a cycle then
      (s.modDie d fun x => { x with groups := x.groups.map fun h =>
        if h.line = line then { h with ports := h.ports ++ [port] } else h }).bumpDie d 2
    else (s.newGroup d line port cycle).cacheRead a

/-- A core reads a line at its slice: through its port on its own die, in a cycle that nothing fixes; over the mesh elsewhere. -/
def State.coreRead (s : State) (c a : Nat) : State :=
  s.sliceReads fun s => match sliceOf a, s.portOfCore c with
    | some (d, _), some port =>
      if d = dieOf c then s.tick.portRead port a (Config.freeNat s.freeCtr) else s.cacheRead a
    | _, _ => s.cacheRead a

/-- An agent of the device reads pieces: each line once in a row. -/
def State.agentReads (s : State) : Nat → List (Nat × Nat) → State
  | _, [] => s
  | last, (d, _) :: t => (if d / 128 + 1 = last then s else s.cacheRead d).agentReads (d / 128 + 1) t

/-! ## Errors (R248) -/

/-- The global cluster of a slice of a die: eight slices to a cluster (R14). -/
def sliceCluster (d sl : Nat) : Fin 32 := ⟨(4 * d + sl / 8) % 32, Nat.mod_lt _ (by decide)⟩

/-- The memory row of an address. -/
def rowOf (n a : Nat) : TestUnit := .memRow ⟨n % 20, Nat.mod_lt n (by decide)⟩ (BitVec.ofNat 23 (Config.memRow a))

/-- An error at an address is counted at the address's stack, and one that cannot be corrected is recorded there (R248). -/
def State.countEcc (s : State) (a : Nat) (ecc : Ecc) : State :=
  match ecc, stackOf a with
  | .corrected, some n => s.modStack n fun x => { x with ce := x.ce + 1 }
  | .uncorrectable, some n => s.modStack n fun x => { x with ue := x.ue + 1, valid := true, lastUe := BitVec.ofNat 48 (32 * (alias_ a / 32)) }
  | _, _ => s

/-- An error is detected at an address (ECC_ERROR_DETECT): counted at the address's stack, the granule poisoned when it cannot be
corrected, and the unit concerned tested. -/
def State.eccError (s : State) (a : Nat) (ecc : Ecc) (unit : TestUnit) : State :=
  let s : State := if ecc = .uncorrectable then { s with poison := setAdd s.poison (alias_ a / 32) } else s
  (s.countEcc a ecc).sramError unit ecc

/-- What a read at a slice finds and its error starts: in the slice itself, or in the stack that a line is filled from. -/
def State.readError (s : State) (d sl a : Nat) (ecc : Ecc) : State :=
  let inSlice := !inNear a || (s.cacheLines d sl != 0 && setHas (s.die d).cached (a / 128))
  s.eccError a ecc (if inSlice then .clusterBank (sliceCluster d sl) else rowOf ((stackOf a).getD 0) a)

/-! ## Translation (R232 to R234) -/

/-- Is the device address within the partition's grants (R233)? -/
def State.granted (s : State) (p a : Nat) : Bool :=
  let b := alias_ a
  !inFar b && s.consist.grants.any fun g => g.part == p && decide (g.base ≤ b) && decide (b < g.base + g.units * 2 ^ 21)

/-- A table entry: an error cause, or the entry (R233: the causes of an entry in the order 0x3, 0x4, 0x5, 0x0). -/
def State.tableEntry (s : State) (p a : Nat) : Except Nat Nat :=
  if !s.granted p a then .error 3
  else if !s.populated a then .error 4
  else if s.poisoned a then .error 5
  else
    let e := memNat s.mem (alias_ a) 8
    if e % 2 = 0 then .error 0 else .ok e

/-- The page that an entry maps (Table 10.2). -/
def pageOf (e log2 : Nat) : Tlb := ⟨e % 2 ^ 48 / 2 ^ log2 * 2 ^ log2, log2, e / 4 % 2 == 1, e / 8 % 2 == 1⟩

/-- The walk of a context address from its root (R232). -/
def State.walk (s : State) (p root a : Nat) : Except Nat Tlb :=
  match s.tableEntry p (root % 2 ^ 48 / 4096 * 4096 + 8 * (a / 2 ^ 30)) with
  | .error c => .error c
  | .ok e =>
    if e / 2 % 2 = 1 then .ok (pageOf e 30)
    else match s.tableEntry p (e % 2 ^ 48 / 4096 * 4096 + 8 * (a / 2 ^ 21 % 512)) with
      | .error c => .error c
      | .ok e2 => .ok (pageOf e2 21)

/-- Does a walk give this page? -/
def gives (w : Except Nat Tlb) (t : Tlb) : Bool :=
  match w with
  | .ok u => u == t
  | .error _ => false

/-- The page of an address: walked, or the cached one where that is another (R234). -/
def State.lookup (s : State) (p a : Nat) : Except Nat Tlb :=
  match (s.part p).bound with
  | none => .error 0
  | some x =>
    let w := s.walk p x.root.toNat a
    let n := a / 2 ^ 21
    match (s.part p).tlb.find? (fun t => t.1 == n) with
    | some t => if gives w t.2 then w else if Config.usesCached s.freeCtr a then .ok t.2 else w
    | none => w

/-- XLAT_FAULT records the cause and the context address (R233). -/
def State.xlatFails (s : State) (p a cause : Nat) : State :=
  s.modPart p fun x => { x with xlatFault := ⟨true, BitVec.ofNat 3 cause, BitVec.ofNat 48 a⟩ }

/-- The table entries that the walk of an address reads: the level-1 entry, and the level-2 entry behind one that is no leaf. -/
def State.walked (s : State) (p a : Nat) : List Nat :=
  match (s.part p).bound with
  | none => []
  | some x =>
    let e1 := x.root.toNat % 2 ^ 48 / 4096 * 4096 + 8 * (a / 2 ^ 30)
    if ((s.part p).tlb.any fun t => t.1 == a / 2 ^ 21) && Config.usesCached s.freeCtr a || !s.granted p e1 || !s.populated e1 then []
    else match s.tableEntry p e1 with
      | .error _ => [e1]
      | .ok e =>
        let e2 := e % 2 ^ 48 / 4096 * 4096 + 8 * (a / 2 ^ 21 % 512)
        if e / 2 % 2 = 1 || !s.granted p e2 || !s.populated e2 then [e1] else [e1, e2]

/-- The slices serve the walk's reads (R236). -/
def State.walkReads (s : State) (p a : Nat) : State := s.sliceReads fun s => (s.walked p a).foldl State.cacheRead s

/-- Translate one context address for a read or a write: the device address, or none with the fault recorded. The valid page
is cached. -/
def State.xlat (s : State) (p a : Nat) (write : Bool) : State × Option Nat :=
  match s.lookup p a with
  | .error c => ((s.walkReads p a).xlatFails p a c, none)
  | .ok t =>
    let d := t.base + a % 2 ^ t.log2
    let s := (s.walkReads p a).modPart p fun x => { x with tlb := tabPut x.tlb (a / 2 ^ 21) t }
    if !(if write then t.write else t.read) then (s.xlatFails p a 1, none)
    else if !s.granted p d then (s.xlatFails p a 2, none)
    else if !s.populated d then (s.xlatFails p a 4, none)
    else (s, some d)

/-! ## Accesses -/

/-- How an access ends: with its value, or with a status and the lowest context address that has it. -/
inductive MemRes (α : Type) where
  | ok (v : α)
  | fail (status : Code) (a : Nat)
deriving DecidableEq, Repr

/-- The pieces of [a, a + n) in 48-bit space that lie in one 32-byte granule each. DESIGN CHOICE (log entry 12): bytes past address
2^48 − 1 are those from 0 on, and the lowest faulting address is that of the first faulting piece in this order. -/
def pieces : Nat → Nat → Nat → List (Nat × Nat)
  | 0, _, _ => []
  | fuel + 1, a, n =>
    if n = 0 then []
    else
      let a := a % 2 ^ 48
      let k := min n (32 - a % 32)
      (a, k) :: pieces fuel (a + k) (n - k)

/-- The pieces of an access. -/
def piecesOf (a n : Nat) : List (Nat × Nat) := pieces (n / 32 + 2) a n

/-- Translate every piece: the device addresses with their lengths, or the first piece that faults. -/
def State.xlatAll (s : State) (p : Nat) (write : Bool) : List (Nat × Nat) → State × MemRes (List (Nat × Nat))
  | [] => (s, .ok [])
  | (a, n) :: t =>
    match s.xlat p a write with
    | (s, none) => (s, .fail Code.pageFault a)
    | (s, some d) =>
      match s.xlatAll p write t with
      | (s, .ok l) => (s, .ok ((d, n) :: l))
      | (s, .fail st a) => (s, .fail st a)

/-! ### L1 (R237) -/

/-- The bytes a core has written in a line and not written back. -/
def L1.dirtyOf (l : L1) (line : Nat) : List (Nat × Byte) :=
  (l.dirty.filter fun a => a / 128 == line).map fun a => (a, memGet l.data a)

/-- A line is written back: only the bytes written, once (R237), with the poison of their granules (R249); nothing where no path remains to
its slice (R247). -/
def State.writeBack (s : State) (c line : Nat) : State :=
  let l := (s.core c).l1
  let s := if s.coreReaches c (128 * line) then s.granWrite (s.rankOf c) (l.dirtyOf line) (setHas l.poison) else s
  s.modCore c fun k => { k with l1 := { k.l1 with dirty := k.l1.dirty.filter fun a => a / 128 != line } }

/-- A line leaves L1. -/
def State.dropLine (s : State) (c line : Nat) : State :=
  s.modCore c fun k => { k with l1 :=
    { lines := k.l1.lines.filter (· != line)
      data := memZero k.l1.data (128 * line) 128
      dirty := k.l1.dirty.filter fun a => a / 128 != line
      poison := k.l1.poison.filter fun g => g / 4 != line } }

/-- Lines of L1: 1 MiB of 128 bytes (R21, R48). -/
def l1Lines : Nat := 8192

/-- The line is in L1, filled from its slice if it was not; a full L1 evicts a line of no defined choice (R237). -/
def State.fill (s : State) (c line : Nat) : State :=
  let l := (s.core c).l1
  if l.lines.contains line then s
  else
    let s := if l.lines.length < l1Lines then s
      else
        let v := l.lines.getD (Config.freeNat s.freeCtr % l.lines.length) 0
        (s.tick.writeBack c v).dropLine c v
    let a := 128 * line
    let s := s.coreRead c a
    let bytes := atAddrs a (s.devBytes a 128)
    let gs := (List.range 4).filterMap fun i => if s.poisoned (a + 32 * i) then some (4 * line + i) else none
    s.modCore c fun k => { k with l1 :=
      { k.l1 with lines := k.l1.lines ++ [line]
                  data := bytes.foldl (fun m b => memSet m b.1 b.2) k.l1.data
                  poison := gs.foldl setAdd k.l1.poison } }

/-- An order of a list that nothing fixes: each next member by a free choice. -/
def freeOrder : Nat → Nat → List Nat → List Nat
  | 0, _, l => l
  | fuel + 1, ctr, l =>
    let i := Config.freeNat ctr % max l.length 1
    match l[i]? with
    | some x => x :: freeOrder fuel (ctr + 1) (listDel l i)
    | none => []

/-- Every dirty line is written back, in no defined order, and L1 is invalidated (R237). -/
def State.flush (s : State) (c : Nat) : State :=
  let l := (s.core c).l1
  let s := (freeOrder l.lines.length s.freeCtr l.lines).foldl (fun s line => s.writeBack c line) (s.ticks l.lines.length)
  s.modCore c fun k => { k with l1 := L1.empty }

/-- Is a line neither in L1 nor reached by any path that remains (R247)? -/
def State.cut (s : State) (c d : Nat) : Bool := !(s.core c).l1.lines.contains (d / 128) && !s.coreReaches c d

/-- Read pieces at device addresses through L1. A piece whose line no path reaches ends the access with FENCED, as R247 gives the request,
and so faults the instruction with it, although R219 and R174 list PAGE_FAULT and POISON alone (DEDUCED, log entry 12). -/
def State.readPieces (s : State) (c : Nat) : List (Nat × Nat) → List (Nat × Nat) → State × MemRes (List Byte)
  | (a, _) :: ps, (d, n) :: ds =>
    if s.cut c d then (s, .fail Code.fenced a) else
    let s := s.fill c (d / 128)
    let l := (s.core c).l1
    if setHas l.poison (d / 32) then (s, .fail Code.poison a)
    else match s.readPieces c ps ds with
      | (s, .ok bs) => (s, .ok (memRead l.data d n ++ bs))
      | r => r
  | _, _ => (s, .ok [])

/-- The partition a core's accesses are translated in; 16 is none. -/
def State.ctxOf (s : State) (c : Nat) : Nat := (s.partOf c).getD 16

/-- A core reads `n` bytes at a context address through L1; the lowest faulting address is reported (R51). -/
def State.load (s : State) (c a n : Nat) : State × MemRes (List Byte) :=
  let ps := piecesOf a n
  match s.xlatAll (s.ctxOf c) false ps with
  | (s, .ok ds) => s.readPieces c ps ds
  | (s, .fail st a) =>
    -- a poisoned byte below the untranslated one is the lowest faulting address
    let low := ps.takeWhile fun q => q.1 != a
    match s.xlatAll (s.ctxOf c) false low with
    | (s, .ok ds) =>
      match s.readPieces c low ds with
      | (s, .fail sb b) => (s, .fail sb b)
      | (s, .ok _) => (s, .fail st a)
    | (s, .fail _ _) => (s, .fail st a)

/-- Write bytes of one granule at a device address into L1. -/
def State.l1Write (s : State) (c d : Nat) (bs : List Byte) : State :=
  let s := s.fill c (d / 128)
  s.modCore c fun k => { k with l1 :=
    { k.l1 with data := memWrite k.l1.data d bs
                dirty := setAddRun k.l1.dirty d bs.length
                poison := if bs.length = 32 then setDel k.l1.poison (d / 32) else k.l1.poison } }

/-- Write pieces at device addresses into L1. -/
def State.writePieces (s : State) (c : Nat) : List (Nat × Nat) → List Byte → State
  | [], _ => s
  | (d, n) :: ds, bs => (s.l1Write c d (bs.take n)).writePieces c ds (bs.drop n)

/-- The first piece of an access that no path reaches. -/
def State.cutAt (s : State) (c : Nat) : List (Nat × Nat) → List (Nat × Nat) → Option Nat
  | (a, _) :: ps, (d, _) :: ds => if s.cut c d then some a else s.cutAt c ps ds
  | _, _ => none

/-- A core writes bytes at a context address through L1; nothing is written when any byte faults. -/
def State.store (s : State) (c a : Nat) (bs : List Byte) : State × MemRes Unit :=
  let ps := piecesOf a bs.length
  match s.xlatAll (s.ctxOf c) true ps with
  | (s, .ok ds) =>
    match s.cutAt c ps ds with
    | some b => (s, .fail Code.fenced b)
    | none => (s.writePieces c ds bs, .ok ())
  | (s, .fail st a) => (s, .fail st a)

/-! ### Accesses that do not pass L1: the signal box, the securing engine, remote transfers -/

/-- Read pieces of device memory in the context of a partition: FENCED where no path remains (R247), POISON for poisoned data. -/
def State.devPieces (s : State) (p : Nat) : List (Nat × Nat) → List (Nat × Nat) → MemRes (List Byte)
  | (a, _) :: ps, (d, n) :: ds =>
    if !s.agentReaches p d then .fail Code.fenced a
    else if s.poisoned d then .fail Code.poison a
    else match s.devPieces p ps ds with
      | .ok bs => .ok (s.devBytes d n ++ bs)
      | r => r
  | _, _ => .ok []

/-- An agent of the device reads `n` bytes in the context of partition `p`. An error that the read detects is the command SLICE_READ without a
port, which comes before (log entry 14). -/
def State.ctxRead (s : State) (p a n : Nat) : State × MemRes (List Byte) :=
  let ps := piecesOf a n
  match s.xlatAll p false ps with
  | (s, .ok ds) => (s.agentReads 0 (ds.filter fun d => s.agentReaches p d.1), s.devPieces p ps ds)
  | (s, .fail st a) => (s, .fail st a)

/-- Write pieces of device memory. -/
def State.devWritePieces (s : State) (poison : Bool) : List (Nat × Nat) → List Byte → State
  | [], _ => s
  | (d, n) :: ds, bs => (s.devWrite none (atAddrs d (bs.take n)) poison).devWritePieces poison ds (bs.drop n)

/-- The first piece of an agent's access that no path reaches. -/
def State.agentCut (s : State) (p : Nat) : List (Nat × Nat) → List (Nat × Nat) → Option Nat
  | (a, _) :: ps, (d, _) :: ds => if s.agentReaches p d then s.agentCut p ps ds else some a
  | _, _ => none

/-- An agent of the device writes bytes in the context of partition `p`; nothing is written when any byte faults. -/
def State.ctxWrite (s : State) (p a : Nat) (bs : List Byte) (poison : Bool) : State × MemRes Unit :=
  match s.xlatAll p true (piecesOf a bs.length) with
  | (s, .ok ds) =>
    match s.agentCut p (piecesOf a bs.length) ds with
    | some b => (s, .fail Code.fenced b)
    | none => (s.devWritePieces poison ds bs, .ok ())
  | (s, .fail st a) => (s, .fail st a)

end Sys2Proof.Machine
end

