-- ==== Sys2Proof/WellFormed.lean ====
section
/-!
DEFINITION. What makes a kernel instruction, and so a command, well-formed: the reserved field values that the translator
rejects (checks 5 and 6 of Table 7.14; R163, R164, R165, R167, R119, Table 7.12). No core ever issues such an instruction.
-/
namespace Sys2Proof

/-- Is the selector a window? -/
def VSel.isWindow : VSel → Bool
  | .win0 | .win1 => true
  | _ => false

/-- Is the selector a scalar? -/
def VSel.isScalar : VSel → Bool
  | .scalar _ => true
  | _ => false

/-- A window that no selector names must be 0 (R163). -/
def windowsWf (sels : List VSel) (w0 w1 : Window) : Bool :=
  (sels.contains .win0 || w0 == Window.zero) && (sels.contains .win1 || w1 == Window.zero)

/-- D is no scalar and at most one source is (R165). -/
def selectorsWf (d : VSel) (srcs : List VSel) : Bool := !d.isScalar && decide (srcs.countP VSel.isScalar ≤ 1)

/-- The selector of value 0 that an unused operand field must hold (R164). -/
def VSel.zero : VSel := .tile 0

/-- The sources an element-wise operation uses (Table 7.7). -/
def VecOps.sources (f : VecFn) (v : VecOps) : List VSel :=
  match f with
  | .add | .mul | .max | .min => [v.s1, v.s2]
  | .fma => [v.s1, v.s2, v.s3]
  | .cvt => [v.s1]

/-- Unused sources are 0 (R164), vx.cvt is not PACKED (R165). -/
def VecOps.wf (f : VecFn) (v : VecOps) : Bool :=
  selectorsWf v.d (v.sources f) && windowsWf (v.d :: v.sources f) v.w0 v.w1 &&
  (match f with
   | .add | .mul | .max | .min => v.s3 == VSel.zero
   | .fma => true
   | .cvt => v.s2 == VSel.zero && v.s3 == VSel.zero && !v.packed)

/-- The fields a row instruction does not use are 0 (R164). -/
def RowOps.wf (f : RowFn) (r : RowOps) : Bool :=
  match f with
  | .norm => r.sdy == 0 && !r.hout && r.dyfmt == 0 && r.sh == 0 && (!r.rms || r.sbet == 0)
  | .normb => r.sbet == 0 && (r.hout || r.sh == 0)
  | .smax => r.sdy == 0 && r.sgam == 0 && r.sbet == 0 && !r.rms && !r.hout && r.dyfmt == 0 && r.sh == 0
  | .smaxb => r.sgam == 0 && r.sbet == 0 && !r.rms && !r.hout && r.sh == 0

/-- A run of ALEN + 1 registers from `a` ends at t63 at the latest (R62). -/
def runWf (a : TReg) (alen : BitVec 3) : Bool := decide (a.toNat + alen.toNat ≤ 63)

/-- A quarter of an mx.mmq: its run when it is enabled, zero fields when it is not (R161). -/
def QRun.wf (enabled : Bool) (q : QRun) : Bool := if enabled then runWf q.a q.alen else q == ⟨0, 0, 0⟩

/-- A transform code that Table 7.9 does not reserve. -/
def xfWf (xf : BitVec 9) : Bool := decide (xf.toNat / 16 % 4 = 0) || decide (xf.toNat / 64 < 6)

/-- A slot that R119 does not reserve. -/
def slotWf (slot : BitVec 5) : Bool := decide (slot.toNat < 12) || decide (16 ≤ slot.toNat)

/-- No reserved field value. -/
def Op.wf : Op → Bool
  | .pred f _ _ pb => f != .not || pb == 0
  | .loop sa _ => sa != 0
  | .rdsys _ sel => decide (sel.toNat ≤ 10)
  | .mm a alen _ _ _ _ _ => runWf a alen
  | .mmq qmask _ _ _ _ q0 q1 q2 q3 =>
    qmask != 0 && q0.wf (qmask.getLsbD 0) && q1.wf (qmask.getLsbD 1) && q2.wf (qmask.getLsbD 2) && q3.wf (qmask.getLsbD 3)
  | .rmode mode _ => mode != 3
  | .vec f v => v.wf f
  | .act d s1 _ slot w0 w1 => selectorsWf d [s1] && windowsWf [d, s1] w0 w1 && slotWf slot
  | .actd d g x _ pair w0 w1 => selectorsWf d [g, x] && windowsWf [d, g, x] w0 w1 && pair != 6 && pair != 7
  | .fn _ d s1 _ w0 w1 => selectorsWf d [s1] && windowsWf [d, s1] w0 w1
  | .rand d _ w0 w1 => selectorsWf d [] && windowsWf [d] w0 w1
  | .tload _ slot => decide (16 ≤ slot.toNat)
  | .row f r => r.wf f
  | .upsq _ _ _ reduce scell => reduce || scell == 0
  | .ingest _ _ xfs sxf xf _ => if xfs then xf == 0 else sxf == 0 && xfWf xf
  | _ => true

/-- The kernel instruction that a command is the issue of, with its core. -/
def Instr.issued : Instr → Option (CoreId × GOp)
  | .sqAdd c g d a b => some (c, ⟨g, .alu .add d a b⟩)
  | .sqSub c g d a b => some (c, ⟨g, .alu .sub d a b⟩)
  | .sqMul c g d a b => some (c, ⟨g, .alu .mul d a b⟩)
  | .sqMulhu c g d a b => some (c, ⟨g, .alu .mulhu d a b⟩)
  | .sqAnd c g d a b => some (c, ⟨g, .alu .and d a b⟩)
  | .sqOr c g d a b => some (c, ⟨g, .alu .or d a b⟩)
  | .sqXor c g d a b => some (c, ⟨g, .alu .xor d a b⟩)
  | .sqShl c g d a b => some (c, ⟨g, .alu .shl d a b⟩)
  | .sqShr c g d a b => some (c, ⟨g, .alu .shr d a b⟩)
  | .sqSra c g d a b => some (c, ⟨g, .alu .sra d a b⟩)
  | .sqMin c g d a b => some (c, ⟨g, .alu .min d a b⟩)
  | .sqMax c g d a b => some (c, ⟨g, .alu .max d a b⟩)
  | .sqMinu c g d a b => some (c, ⟨g, .alu .minu d a b⟩)
  | .sqMaxu c g d a b => some (c, ⟨g, .alu .maxu d a b⟩)
  | .sqFadd c g d a b => some (c, ⟨g, .alu .fadd d a b⟩)
  | .sqFsub c g d a b => some (c, ⟨g, .alu .fsub d a b⟩)
  | .sqFmul c g d a b => some (c, ⟨g, .alu .fmul d a b⟩)
  | .sqI2f c g d a => some (c, ⟨g, .conv .i2f d a⟩)
  | .sqF2i c g d a => some (c, ⟨g, .conv .f2i d a⟩)
  | .sqAddi c g d a imm => some (c, ⟨g, .immOp .addi d a imm⟩)
  | .sqAndi c g d a imm => some (c, ⟨g, .immOp .andi d a imm⟩)
  | .sqOri c g d a imm => some (c, ⟨g, .immOp .ori d a imm⟩)
  | .sqXori c g d a imm => some (c, ⟨g, .immOp .xori d a imm⟩)
  | .sqShli c g d a imm => some (c, ⟨g, .immOp .shli d a imm⟩)
  | .sqShri c g d a imm => some (c, ⟨g, .immOp .shri d a imm⟩)
  | .sqSrai c g d a imm => some (c, ⟨g, .immOp .srai d a imm⟩)
  | .sqCeq c g pd a b => some (c, ⟨g, .cmp .eq pd a b⟩)
  | .sqCne c g pd a b => some (c, ⟨g, .cmp .ne pd a b⟩)
  | .sqClt c g pd a b => some (c, ⟨g, .cmp .lt pd a b⟩)
  | .sqCge c g pd a b => some (c, ⟨g, .cmp .ge pd a b⟩)
  | .sqCltu c g pd a b => some (c, ⟨g, .cmp .ltu pd a b⟩)
  | .sqCgeu c g pd a b => some (c, ⟨g, .cmp .geu pd a b⟩)
  | .sqCflt c g pd a b => some (c, ⟨g, .cmp .flt pd a b⟩)
  | .sqCfle c g pd a b => some (c, ⟨g, .cmp .fle pd a b⟩)
  | .sqCfeq c g pd a b => some (c, ⟨g, .cmp .feq pd a b⟩)
  | .sqPand c g pd pa pb => some (c, ⟨g, .pred .and pd pa pb⟩)
  | .sqPor c g pd pa pb => some (c, ⟨g, .pred .or pd pa pb⟩)
  | .sqPxor c g pd pa pb => some (c, ⟨g, .pred .xor pd pa pb⟩)
  | .sqPnot c g pd pa => some (c, ⟨g, .pred .not pd pa 0⟩)
  | .sqBr c g off => some (c, ⟨g, .br off⟩)
  | .sqLoop c g sa off => some (c, ⟨g, .loop sa off⟩)
  | .sqEnd c g => some (c, ⟨g, .endK⟩)
  | .sqLd c g sr sa size signed off => some (c, ⟨g, .ld sr sa size signed off⟩)
  | .sqSt c g sr sa size off => some (c, ⟨g, .st sr sa size off⟩)
  | .sqNop c g => some (c, ⟨g, .nopK⟩)
  | .sqFence c g => some (c, ⟨g, .fence⟩)
  | .sqRdsys c g sd sel => some (c, ⟨g, .rdsys sd sel⟩)
  | .tcfg c g first count rows rowLog2 format group => some (c, ⟨g, .tcfg first count rows rowLog2 format group⟩)
  | .tld c g t a b => some (c, ⟨g, .tld t a b⟩)
  | .tst c g t a b => some (c, ⟨g, .tst t a b⟩)
  | .tldX c g t a b i => some (c, ⟨g, .tldx t a b i⟩)
  | .tstX c g t a b i => some (c, ⟨g, .tstx t a b i⟩)
  | .mxMm c g a alen b base add tp half => some (c, ⟨g, .mm a alen b base add tp half⟩)
  | .mxMmq c g m b add tp half q0 q1 q2 q3 => some (c, ⟨g, .mmq m b add tp half q0 q1 q2 q3⟩)
  | .mxEw c g x y base add half => some (c, ⟨g, .ew x y base add half⟩)
  | .mxAccld c g t base col => some (c, ⟨g, .accld t base col⟩)
  | .mxLdb c g b tp split => some (c, ⟨g, .ldb b tp split⟩)
  | .mxSt c g sa ss base rows col cols fmt rnd xp cl => some (c, ⟨g, .mst sa ss base rows col cols fmt rnd xp cl⟩)
  | .mxRmode c g mode ls => some (c, ⟨g, .rmode mode ls⟩)
  | .mxSeed c g a b => some (c, ⟨g, .mseed a b⟩)
  | .vxAdd c g v => some (c, ⟨g, .vec .add v⟩)
  | .vxMul c g v => some (c, ⟨g, .vec .mul v⟩)
  | .vxFma c g v => some (c, ⟨g, .vec .fma v⟩)
  | .vxMax c g v => some (c, ⟨g, .vec .max v⟩)
  | .vxMin c g v => some (c, ⟨g, .vec .min v⟩)
  | .vxCvt c g v => some (c, ⟨g, .vec .cvt v⟩)
  | .vxAct c g d s1 rnd slot w0 w1 => some (c, ⟨g, .act d s1 rnd slot w0 w1⟩)
  | .vxActd c g d s1 s2 rnd pair w0 w1 => some (c, ⟨g, .actd d s1 s2 rnd pair w0 w1⟩)
  | .vxFn c g f d s1 rnd w0 w1 => some (c, ⟨g, .fn f d s1 rnd w0 w1⟩)
  | .vxRand c g d rnd w0 w1 => some (c, ⟨g, .rand d rnd w0 w1⟩)
  | .vxTload c g sa slot => some (c, ⟨g, .tload sa slot⟩)
  | .vxSeed c g a b => some (c, ⟨g, .vseed a b⟩)
  | .vxNorm c g r => some (c, ⟨g, .row .norm r⟩)
  | .vxNormb c g r => some (c, ⟨g, .row .normb r⟩)
  | .vxSmax c g r => some (c, ⟨g, .row .smax r⟩)
  | .vxSmaxb c g r => some (c, ⟨g, .row .smaxb r⟩)
  | .tmDld c g d sa => some (c, ⟨g, .dld d sa⟩)
  | .tmDst c g d sa => some (c, ⟨g, .dst d sa⟩)
  | .tmDset c g d sv w => some (c, ⟨g, .dset d sv w⟩)
  | .tmCopy c g dd ds xp => some (c, ⟨g, .copy dd ds xp⟩)
  | .tmGather c g dd ds di n => some (c, ⟨g, .gather dd ds di n⟩)
  | .tmScatter c g dd ds di n => some (c, ⟨g, .scatter dd ds di n⟩)
  | .tmRput c g ds dev rd b sig sd => some (c, ⟨g, .rput ds dev rd b sig sd⟩)
  | .tmRget c g dd dev rd b sig sd => some (c, ⟨g, .rget dd dev rd b sig sd⟩)
  | .tmIngest c g dd ds xfs sxf xf sd => some (c, ⟨g, .ingest dd ds xfs sxf xf sd⟩)
  | .syBind c g b sv => some (c, ⟨g, .sbind b sv⟩)
  | .syAdd c g b sv sd => some (c, ⟨g, .sadd b sv sd⟩)
  | .syWait c g b sv st sd => some (c, ⟨g, .swait b sv st sd⟩)
  | .syRead c g b sd => some (c, ⟨g, .sread b sd⟩)
  | .syBar c g bar sl st sd => some (c, ⟨g, .sbar bar sl st sd⟩)
  | .syBarcfg c g bar n sd => some (c, ⟨g, .sbarcfg bar n sd⟩)
  | .upSq c g st sc sd red cell => some (c, ⟨g, .upsq st sc sd red cell⟩)
  | .upStep c g st sc se g2 rec sd => some (c, ⟨g, .upstep st sc se g2 rec sd⟩)
  | .upSetstep c g st sc sv => some (c, ⟨g, .upsetstep st sc sv⟩)
  | _ => none

/-- A command is well-formed: a kernel instruction's fields hold no reserved value, and the other operands are in range
by their types. -/
def Instr.wf (i : Instr) : Bool :=
  match i.issued with
  | some (_, gop) => gop.op.wf
  | none =>
    match i with
    | .debugSingleStep _ gop => gop.op.wf
    | _ => true

end Sys2Proof
end

