-- ==== Sys2Proof/Machine/Operands.lean ====
section
/-!
DEFINITION. The operand forms of the kernel instructions: scalars, predicates and guards (R149, R150, R154), the engine each
executes in (Table 2.1), the scalars read at issue (R36) and written (R37), and the tracked resources each reads and writes (R38).
-/
namespace Sys2Proof.Machine

/-! ## Registers -/

/-- A scalar; s0 reads 0 (R150). -/
def Core.reg (k : Core) (r : SReg) : Word := if r = 0 then 0 else tabGet 0 k.scalars r.toNat

/-- Write a scalar; a write to s0 is discarded (R150). -/
def Core.setReg (k : Core) (r : SReg) (v : Word) : Core :=
  if r = 0 then k else { k with scalars := tabPut k.scalars r.toNat v }

/-- A predicate; p0 reads 1 (R150). -/
def Core.pred (k : Core) (p : PReg) : Bool := if p = 0 then true else tabGet false k.preds p.toNat

/-- Write a predicate; a write to p0 is discarded (R150). -/
def Core.setPred (k : Core) (p : PReg) (v : Bool) : Core :=
  if p = 0 then k else { k with preds := tabPut k.preds p.toNat v }

/-- The guard value: predicate GP, inverted when GN is 1 (R154). -/
def Core.guard (k : Core) (g : Guard) : Bool := k.pred g.pred != g.neg

/-- A tile register. -/
def Core.tile (k : Core) (t : Nat) : Tile := tabGet Tile.zero k.tiles t

/-- Replace a tile register. -/
def Core.setTile (k : Core) (t : Nat) (x : Tile) : Core := { k with tiles := tabPut k.tiles t x }

/-- A descriptor. -/
def Core.desc (k : Core) (d : DReg) : BitVec 512 := tabGet 0 k.descs d.toNat

/-- A baton handle: SV of its sy.bind, or none while it is unbound. -/
def Core.handle (k : Core) (b : BReg) : Option Word := tabGet none k.handles b.toNat

/-! ## Where an instruction executes, and its scalars -/

/-- The engine of an instruction, or none for the sequencer (Table 2.1, Table 7.3). -/
def engineOf : Op → Option Engine
  | .mm .. | .mmq .. | .ew .. | .accld .. | .ldb .. | .mst .. | .rmode .. | .mseed .. => some .mx
  | .vec .. | .act .. | .actd .. | .fn .. | .rand .. | .tload .. | .vseed .. | .row .. | .upsq .. | .upstep .. | .upsetstep .. => some .vx
  | .tld .. | .tst .. | .tldx .. | .tstx .. | .dld .. | .dst .. | .dset .. | .copy .. | .gather .. | .scatter .. | .rput .. | .rget .. | .ingest .. => some .tm
  | .sbind .. | .sadd .. | .swait .. | .sread .. | .sbar .. | .sbarcfg .. => some .sy
  | _ => none

/-- The scalar of a vector source selector. -/
def selScalars : List VSel → List SReg
  | [] => []
  | .scalar s :: t => s :: selScalars t
  | _ :: t => selScalars t

/-- The scalars an instruction reads at issue, in the order in which an engine entry keeps their values (R36). -/
def scalarsRead : Op → List SReg
  | .alu _ _ a b => [a, b]
  | .conv _ _ a => [a]
  | .immOp _ _ a _ => [a]
  | .cmp _ _ a (.reg b) => [a, b]
  | .cmp _ _ a (.imm _) => [a]
  | .loop sa _ => [sa]
  | .ld _ sa _ _ _ => [sa]
  | .st sr sa _ _ => [sr, sa]
  | .tld _ a b | .tst _ a b | .tldx _ a b _ | .tstx _ a b _ => [a, b]
  | .mst a b .. => [a, b]
  | .mseed a b => [a, b]
  | .vec f v => selScalars (v.sources f)
  | .act _ s .. => selScalars [s]
  | .actd _ g x .. => selScalars [g, x]
  | .fn _ _ s .. => selScalars [s]
  | .tload a _ => [a]
  | .vseed a b => [a, b]
  | .row _ r => [r.sx, r.sout, r.sdy, r.sgam, r.sbet, r.sn, r.spar, r.sh]
  | .dld _ a | .dst _ a => [a]
  | .dset _ v _ => [v]
  | .gather _ _ _ n | .scatter _ _ _ n => [n]
  | .rput _ a b _ _ _ | .rget _ a b _ _ _ => [a, b]
  | .ingest _ _ _ x _ _ => [x]
  | .sbind _ v => [v]
  | .sadd _ v _ => [v]
  | .swait _ v t _ => [v, t]
  | .sbar _ l t _ => [l, t]
  | .sbarcfg _ n _ => [n]
  | .upsq t n _ _ x => [t, n, x]
  | .upstep t n e g r _ => [t, n, e, g, r]
  | .upsetstep t n v => [t, n, v]
  | _ => []

/-- The scalar an instruction writes. -/
def scalarWritten : Op → Option SReg
  | .alu _ d _ _ | .conv _ d _ | .immOp _ d _ _ | .ld d .. | .rdsys d _ => some d
  | .loop sa _ => some sa
  | .rput _ _ _ _ _ d | .rget _ _ _ _ _ d | .ingest _ _ _ _ _ d => some d
  | .sadd _ _ d | .swait _ _ _ d | .sread _ d | .sbar _ _ _ d | .sbarcfg _ _ d => some d
  | .upsq _ _ d _ _ | .upstep _ _ _ _ _ d => some d
  | _ => none

/-- Does the instruction read or write a pending scalar (R37)? s0 is never pending. -/
def Core.touchesPending (k : Core) (o : Op) : Bool :=
  (scalarsRead o).any (fun r => setHas k.pendS r.toNat) ||
  (match scalarWritten o with | some d => setHas k.pendS d.toNat | none => false)

/-! ## Tracked resources (R38, Table 2.2) -/

/-- A tracked resource: a tile register, a block of 64 accumulator rows, a descriptor, a baton handle. -/
inductive Res where
  | tile (t : Nat)
  | acc (block : Nat)
  | desc (d : Nat)
  | handle (b : Nat)
deriving DecidableEq, Repr

/-- A run of tile registers. -/
def tileRun (t n : Nat) : List Res := (List.range n).map fun i => .tile (t + i)

/-- The accumulator blocks of rows base to base + rows − 1. -/
def accRows (base rows : Nat) : List Res :=
  if rows = 0 then []
  else ((List.range 16).filter fun b => decide (base / 64 ≤ b) && decide (b ≤ (base + rows - 1) / 64)).map .acc

/-- The rows of an A run: registers × the configured rows of the first (R62). -/
def Core.runRows (k : Core) (a : TReg) (alen : BitVec 3) : Nat := (alen.toNat + 1) * (k.tile a.toNat).cfg.rows.toNat

/-- The resources of a vector selector. -/
def selRes (w0 w1 : Window) : VSel → List Res
  | .tile t => [.tile t.toNat]
  | .win0 => accRows w0.base.toNat w0.rows.toNat
  | .win1 => accRows w1.base.toNat w1.rows.toNat
  | .scalar _ => []

/-- The tracked resources an instruction reads. -/
def resRead : Op → List Res
  | .mm a alen b .. => tileRun a.toNat (alen.toNat + 1) ++ tileRun b.toNat 4
  | .mmq m b _ _ _ q0 q1 q2 q3 =>
    let run (i : Nat) (q : QRun) := if m.getLsbD i then tileRun q.a.toNat (q.alen.toNat + 1) else []
    tileRun b.toNat 4 ++ run 0 q0 ++ run 1 q1 ++ run 2 q2 ++ run 3 q3
  | .ew x y .. => [.tile x.toNat, .tile y.toNat]
  | .accld t .. => [.tile t.toNat]
  | .ldb b .. => tileRun b.toNat 4
  | .mst _ _ base rows .. => accRows base.toNat rows.toNat
  | .vec f v => (v.sources f).flatMap (selRes v.w0 v.w1)
  | .act _ s _ _ w0 w1 => selRes w0 w1 s
  | .actd _ g x _ _ w0 w1 => selRes w0 w1 g ++ selRes w0 w1 x
  | .fn _ _ s _ w0 w1 => selRes w0 w1 s
  | .tst t _ _ => [.tile t.toNat]
  | .tldx _ _ _ i => [.tile i.toNat]
  | .tstx t _ _ i => [.tile t.toNat, .tile i.toNat]
  | .dst d _ => [.desc d.toNat]
  | .copy dd ds _ => [.desc dd.toNat, .desc ds.toNat]
  | .gather dd ds di _ | .scatter dd ds di _ => [.desc dd.toNat, .desc ds.toNat, .desc di.toNat]
  | .rput ds _ _ b sig _ => .desc ds.toNat :: (if sig then [.handle b.toNat] else [])
  | .rget dd _ _ b sig _ => .desc dd.toNat :: (if sig then [.handle b.toNat] else [])
  | .ingest dd ds .. => [.desc dd.toNat, .desc ds.toNat]
  | .sadd b .. | .swait b .. | .sread b _ => [.handle b.toNat]
  | _ => []

/-- The tracked resources an instruction writes. -/
def resWritten (k : Core) : Op → List Res
  | .mm a alen _ base .. => accRows base.toNat (k.runRows a alen)
  | .mmq m _ _ _ _ q0 q1 q2 q3 =>
    let run (i : Nat) (q : QRun) := if m.getLsbD i then accRows q.base.toNat (k.runRows q.a q.alen) else []
    run 0 q0 ++ run 1 q1 ++ run 2 q2 ++ run 3 q3
  | .ew x _ base .. => accRows base.toNat (k.tile x.toNat).cfg.rows.toNat
  | .accld t base _ => accRows base.toNat (k.tile t.toNat).cfg.rows.toNat
  | .mst _ _ base rows _ _ _ _ _ clear => if clear then accRows base.toNat rows.toNat else []
  | .vec _ v => selRes v.w0 v.w1 v.d
  | .act d _ _ _ w0 w1 => selRes w0 w1 d
  | .actd d _ _ _ _ w0 w1 => selRes w0 w1 d
  | .fn _ d _ _ w0 w1 => selRes w0 w1 d
  | .rand d _ w0 w1 => selRes w0 w1 d
  | .tld t _ _ | .tldx t _ _ _ => [.tile t.toNat]
  | .dld d _ | .dset d _ _ => [.desc d.toNat]
  | .copy dd _ _ | .gather dd _ _ _ | .scatter dd _ _ _ | .rget dd .. | .ingest dd .. => [.desc dd.toNat]
  | .rput ds .. => [.desc ds.toNat]
  | .sbind b _ => [.handle b.toNat]
  | _ => []

/-- Do two instructions conflict (R38)? -/
def conflict (k : Core) (a b : Op) : Bool :=
  let hits (xs ys : List Res) := xs.any ys.contains
  hits (resWritten k a) (resRead b ++ resWritten k b) || hits (resRead a) (resWritten k b)

/-! ## Engine queues -/

/-- The queue of an engine, head first. -/
def Core.queue (k : Core) : Engine → List Entry
  | .mx => k.mxq | .vx => k.vxq | .tm => k.tmq | .sy => k.syq

/-- Replace the queue of an engine. -/
def Core.setQueue (k : Core) (e : Engine) (q : List Entry) : Core :=
  match e with
  | .mx => { k with mxq := q }
  | .vx => { k with vxq := q }
  | .tm => { k with tmq := q }
  | .sy => { k with syq := q }

/-- Every issued instruction that has not completed. -/
def Core.entries (k : Core) : List Entry := k.mxq ++ k.vxq ++ k.tmq ++ k.syq

/-- Change the entry with a sequence number. -/
def Core.modEntry (k : Core) (e : Engine) (seq : Nat) (f : Entry → Entry) : Core :=
  k.setQueue e ((k.queue e).map fun x => if x.seq = seq then f x else x)

/-- The engine field of CORE_FAULT (Table 2.10). -/
def engineCode : Engine → BitVec 3
  | .mx => 1 | .vx => 2 | .tm => 3 | .sy => 4

end Sys2Proof.Machine
end

