-- ==== Sys2Proof/Machine/Flags.lean ====
section
/-!
DEFINITION. The results of the scalar operations and the predicates that comparisons write (R157), and the status fields that
the register blocks show of a core (Tables 2.7, 2.9, 2.12, 3.10, 5.7).
-/
namespace Sys2Proof.Machine

/-- The low 32 bits as FP32. -/
def f32Of (w : Word) : F32 := w.setWidth 32

/-- An FP32 result in bits 31:0, 0 above. -/
def ofF32 (f : F32) : Word := f.setWidth 64

/-- The two-source operations of MAJOR 0x01 (R157). -/
def aluOp (f : AluFn) (a b : Word) : Word :=
  match f with
  | .add => a + b
  | .sub => a - b
  | .mul => a * b
  | .mulhu => BitVec.ofNat 64 (a.toNat * b.toNat / 2 ^ 64)
  | .and => a &&& b
  | .or => a ||| b
  | .xor => a ^^^ b
  | .shl => a <<< (b.toNat % 64)
  | .shr => a >>> (b.toNat % 64)
  | .sra => a.sshiftRight (b.toNat % 64)
  | .min => if a.slt b then a else b
  | .max => if a.slt b then b else a
  | .minu => if a.ult b then a else b
  | .maxu => if a.ult b then b else a
  | .fadd => ofF32 (fAdd (f32Of a) (f32Of b))
  | .fsub => ofF32 (fSub (f32Of a) (f32Of b))
  | .fmul => ofF32 (fMul (f32Of a) (f32Of b))

/-- The one-source operations. -/
def convOp (f : ConvFn) (a : Word) : Word :=
  match f with
  | .i2f => ofF32 (i2f a)
  | .f2i => f2i (f32Of a)

/-- The immediate operations, on the sign-extended immediate or the extension word (R156). -/
def immFn (f : ImmFn) (a imm : Word) : Word :=
  match f with
  | .addi => a + imm
  | .andi => a &&& imm
  | .ori => a ||| imm
  | .xori => a ^^^ imm
  | .shli => a <<< (imm.toNat % 64)
  | .shri => a >>> (imm.toNat % 64)
  | .srai => a.sshiftRight (imm.toNat % 64)

/-- The predicate a comparison writes: unsigned forms end in u, the FP32 forms give 0 with a NaN operand (R157). -/
def cmpOp (f : CmpFn) (a b : Word) : Bool :=
  match f with
  | .eq => a == b
  | .ne => a != b
  | .lt => a.slt b
  | .ge => !a.slt b
  | .ltu => a.ult b
  | .geu => !a.ult b
  | .flt => numLt (f32Num (f32Of a)) (f32Num (f32Of b))
  | .fle => numLt (f32Num (f32Of a)) (f32Num (f32Of b)) || numEq (f32Num (f32Of a)) (f32Num (f32Of b))
  | .feq => numEq (f32Num (f32Of a)) (f32Num (f32Of b))

/-- The second operand of a comparison: a scalar, or the sign-extended 40-bit immediate. -/
def Core.cmpSrc (k : Core) : CmpSrc → Word
  | .reg b => k.reg b
  | .imm v => v.signExtend 64

/-- The predicate operations. -/
def predOp (f : PredFn) (a b : Bool) : Bool :=
  match f with
  | .and => a && b
  | .or => a || b
  | .xor => a != b
  | .not => !a

/-! ## Status fields -/

/-- CORE_STATE.RUN (Table 2.7). -/
def Run.code : Run → Nat
  | .idle => 0 | .running => 1 | .faulted => 2 | .quiescing => 3 | .saved => 4 | .debugHalt => 5

/-- CORE_STATE.ROLE (Table 2.7). -/
def Role.code : Role → Nat
  | .enabled => 0 | .spare => 1 | .fenced => 2 | .disabled => 0

/-- PART_STATE.STATE (Table 8.5). -/
def PState.code : PState → Nat
  | .absent => 0 | .idle => 1 | .ready => 2 | .running => 3 | .faulted => 4 | .quiescing => 5 | .resetting => 6

/-- Does the core run at all: it is not fenced (R246)? -/
def Core.works (k : Core) : Bool := k.role != .fenced

/-- Is any instruction of the core executing, in an engine or in the sequencer? A fenced core executes none. -/
def Core.executing (k : Core) : Bool :=
  k.works && (k.seqBusy || k.tcfgWait.isSome || k.entries.any fun e => e.started && !e.faulted)

/-- The format, shape and group word of a tile register (Table 2.14). -/
def TileCfg.word (t : TileCfg) : Word :=
  putB 23 t.group ||| put 18 t.format.toNat ||| put 14 t.rowLog2.toNat ||| put 0 t.rows.toNat

end Sys2Proof.Machine
end

