-- ==== Sys2Proof/Machine/Entry.lean ====
section
/-!
DEFINITION. Entries of the engine queues (R34, R35, R38): when an engine may start one, how one ends or faults (R53, R54), and what
its completion writes (R37); the end of a kernel on a core (R158, R193) and of an abort (R197).
-/
namespace Sys2Proof.Machine

/-! ## The end of a kernel, of an abort -/

/-- The queues and the sequencer of a core that stops for good; the registers of a fenced core stay as they are (R30, R246). -/
def Core.emptied (k : Core) : Core :=
  if !k.works then { k with kernel := none, halted := false, aborting := false }
  else
  { k with platform := [], mxq := [], vxq := [], tmq := [], syq := [], pendS := [], seqBusy := false, tcfgWait := none,
           waking := 0, kernel := none, xferTm := none, xferSy := none, halted := false, aborting := false,
           mx := { k.mx with jobs := [] }, up := { k.up with hold := false, run := 0 } }

/-- Is any launch of the partition still in progress? -/
def Part.launching (x : Part) : Bool := x.cmds.any fun k => match k.kind with | .launch _ => true | _ => false

/-- A RUNNING partition whose last kernel has ended becomes READY (R196). -/
def State.settle (s : State) (p : Nat) : State :=
  let x := s.part p
  if x.state = .running && !x.launching then s.modPart p fun x => { x with state := .ready } else s

/-- A core's kernel ends: RUN becomes idle, and the LAUNCH completes when it was the last core (R158, R193, R241). -/
def State.kernelEnds (s : State) (c : Nat) : State :=
  let k := s.core c
  let s := s.modCore c fun k => { k.emptied with run := .idle }
  match k.kernel, s.partOf c with
  | some kr, some p =>
    let lg := (k.number.map BitVec.toNat).getD 0
    let s := s.modPart p fun x => { x with cmds := x.cmds.map fun m =>
      match m.kind with
      | .launch l => if m.seq = kr.cmd then { m with kind := .launch { l with left := l.left.filter (· != lg) } } else m
      | _ => m }
    let ended := (s.part p).cmds.any fun m =>
      m.seq == kr.cmd && (match m.kind with | .launch l => l.left.isEmpty | _ => false)
    if ended then
      let s := (s.endRounds [⟨p, kr.cmd⟩]).complete p kr.cmd Code.ok s.lineTime
      s.settle p
    else s
  | _, _ => s

/-- After ABORT, a core whose last executing instruction has ended writes back and invalidates L1 and becomes idle; the ABORT
completes with its last core (R197). -/
def State.abortEnds (s : State) (c : Nat) : State :=
  let k := s.core c
  if !k.aborting || k.executing then s
  else
    let s := s.flush c
    let s := s.modCore c fun k => { k.emptied with run := .idle }
    match s.partOf c with
    | none => s
    | some p =>
      let s := s.modPart p fun x => { x with cmds := x.cmds.map fun m =>
        match m.kind with
        | .abort cs n => { m with kind := .abort (cs.filter (· != c)) n }
        | _ => m }
      (s.part p).cmds.foldl (fun s m =>
        match m.kind with
        | .abort [] n => s.complete p m.seq Code.ok (BitVec.ofNat 64 n)
        | _ => s) s

/-! ## Outcomes of an instruction that has started -/

/-- The instruction's effect is complete; `result` is what SD receives at its completion. -/
def State.entryDone (s : State) (c : Nat) (g : Engine) (e : Entry) (result : Option (SReg × Word)) : State :=
  s.modCore c fun k => k.modEntry g e.seq fun x => { x with started := true, done := true, result := result, resume := none }

/-- The instruction goes on after its start. -/
def State.entryRuns (s : State) (c : Nat) (g : Engine) (e : Entry) : State :=
  s.modCore c fun k => k.modEntry g e.seq fun x => { x with started := true }

/-- The instruction faults and stays at its place (R53); it executes no more, which may have been what an ABORT waited for (R197). -/
def State.entryFaults (s : State) (c : Nat) (g : Engine) (e : Entry) (status : Code) (row : Option (TReg × Nat))
    (addr : Option Nat) : State :=
  let s := s.modCore c fun k => k.modEntry g e.seq fun x => { x with started := true, faulted := true, resume := none }
  (s.fault c (engineCode g) status e.index row addr).abortEnds c

/-- The instruction breaks a rule checked at start: TILE_SHAPE, with no effect (R45). -/
def State.entryShape (s : State) (c : Nat) (g : Engine) (e : Entry) : State := s.entryFaults c g e Code.tileShape none none

/-- The scalar value at position `i` of those read at issue. -/
def Entry.arg (e : Entry) (i : Nat) : Word := e.args.getD i 0

/-! ## Tags of the B buffers (R66) -/

/-- A write or a tcfg of register `t` ends the tags of its group. -/
def MxState.touch (m : MxState) (t : Nat) : MxState :=
  { m with bufs := m.bufs.map fun b =>
      if decide (b.2.first.toNat ≤ t) && decide (t < b.2.first.toNat + 4) then (b.1, { b.2 with valid := false }) else b }

/-- Replace a tile register's data and end the tags that cover it. -/
def Core.writeTile (k : Core) (t : Nat) (x : Tile) : Core := { k.setTile t x with mx := k.mx.touch t }

/-! ## When an engine may start an instruction -/

/-- Is the instruction an array instruction (R81)? -/
def isArray : Op → Bool
  | .mm .. | .mmq .. | .ew .. | .accld .. => true
  | _ => false

/-- Does the instruction run alone in its engine (R101, R115)? -/
def isExclusive : Op → Bool
  | .rmode .. | .mseed .. | .tload .. | .vseed .. => true
  | _ => false

/-- Is the instruction a fused store? -/
def isStore : Op → Bool
  | .mst .. => true
  | _ => false

/-- Has every quarter of an array instruction been granted its last A read (R81)? -/
def ArrayJob.fed (j : ArrayJob) : Bool := j.quarters.all fun q => decide (q.2.rows ≤ q.2.reads.length)

/-- Has every row of the instruction entered? -/
def ArrayJob.entered (j : ArrayJob) : Bool := j.quarters.all fun q => decide (q.2.rows ≤ q.2.enteredAt.length)

/-- A B buffer. -/
def MxState.buf (m : MxState) (b : Fin 2) : BBuf := tabGet BBuf.empty m.bufs b.val

/-- Set a B buffer. -/
def MxState.setBuf (m : MxState) (b : Fin 2) (x : BBuf) : MxState := { m with bufs := tabPut m.bufs b.val x }

/-- The other buffer. -/
def otherBuf (b : Fin 2) : Fin 2 := if b = 0 then 1 else 0

/-- Does the buffer hold, or load, the group on this path and in this shape class? -/
def BBuf.tagged (x : BBuf) (b : TReg) (tp split : Bool) : Bool :=
  x.first == b && x.transposed == tp && x.split == split

/-- The buffer with a valid matching tag (R67). -/
def MxState.match_ (m : MxState) (b : TReg) (tp split : Bool) : Option (Fin 2) :=
  if (m.buf 0).valid && (m.buf 0).tagged b tp split then some 0
  else if (m.buf 1).valid && (m.buf 1).tagged b tp split then some 1
  else none

/-- The buffer into which this group is being loaded. -/
def MxState.loadOf (m : MxState) (b : TReg) (tp split : Bool) : Option (Fin 2) :=
  if (m.buf 0).loading && (m.buf 0).tagged b tp split then some 0
  else if (m.buf 1).loading && (m.buf 1).tagged b tp split then some 1
  else none

/-- Is a B load in progress? -/
def MxState.isLoading (m : MxState) : Bool := (m.buf 0).loading || (m.buf 1).loading

/-- May an mx.ldb start: its tag or load is there already, or the loader is free and every row that uses the buffer's previous
contents has entered (R68)? -/
def MxState.ldbReady (m : MxState) (b : TReg) (tp split : Bool) : Bool :=
  (m.match_ b tp split).isSome || (m.loadOf b tp split).isSome ||
  (!m.isLoading && m.jobs.all fun j => j.entered || j.buf != some (otherBuf m.lastBuf))

/-- The engine's own rules for starting the entry behind `before` (R81, R82, R101, R115, R253). -/
def engineReady (k : Core) (g : Engine) (before : List Entry) (e : Entry) : Bool :=
  match g with
  | .tm | .sy => before.isEmpty
  | .vx => if isExclusive e.op then before.isEmpty else before.all fun x => x.done && !isExclusive x.op
  | .mx =>
    if isExclusive e.op then before.isEmpty
    else before.all (fun x => !isExclusive x.op) &&
      (if isArray e.op then decide (k.mx.jobs.length ≤ 1) && k.mx.jobs.all ArrayJob.fed
       else if isStore e.op then before.all fun x => !isStore x.op
       else match e.op with
         | .ldb b tp split => k.mx.ldbReady b tp split
         | _ => true)

/-- Does no earlier incomplete instruction conflict with the entry (R38)? -/
def Core.free (k : Core) (e : Entry) : Bool :=
  k.entries.all fun x => decide (e.seq ≤ x.seq) || !conflict k x.op e.op

/-- The first entry that has not started, with those before it. -/
def firstWaiting : List Entry → List Entry → Option (List Entry × Entry)
  | _, [] => none
  | before, e :: t => if e.started then firstWaiting (before ++ [e]) t else some (before, e)

/-- The entry that an engine may start now: the first that has not started, behind no faulted one, held by no conflict and by
none of the engine's rules; none while the core is interrupted (R34, R38, R53, R55). An instruction behind a faulted one of its queue waits for
the resume (DESIGN CHOICE, log entry 10: R53 lets every other issued instruction run, R34 starts a queue's instructions in order). -/
def Core.startable (k : Core) (g : Engine) : Option Entry :=
  if !(k.run = .running || k.run = .faulted) || k.halted || k.aborting || !k.works then none
  else match firstWaiting [] (k.queue g) with
    | none => none
    | some (before, e) =>
      if before.any Entry.faulted then none
      else if engineReady k g before e && k.free e then some e
      else none

end Sys2Proof.Machine
end

