-- ==== Sys2Proof/Machine/Tiles.lean ====
section
/-!
DEFINITION. Tile registers (R41 to R58): elements and formats, tcfg and bank power, and the loads and stores of rows.
-/
namespace Sys2Proof.Machine

/-! ## Formats and elements -/

/-- FORMAT codes of Table 2.4. -/
def fmtNone : BitVec 4 := 0
def fmtF4 : BitVec 4 := 1
def fmtU32 : BitVec 4 := 6

/-- The number format of a FORMAT code; NONE, U32 and the reserved codes have none. -/
def fmtOf (f : BitVec 4) : Option Fmt :=
  if f = 1 then some .f4 else if f = 2 then some .f8f else if f = 3 then some .f8g
  else if f = 4 then some .w16 else if f = 5 then some .fp32 else none

/-- Bits per element (Table 2.4). -/
def fmtBits (f : BitVec 4) : Nat :=
  if f = 1 then 4 else if f = 2 || f = 3 then 8 else if f = 4 then 16 else 32

/-- ROW_BYTES. -/
def TileCfg.rowBytes (c : TileCfg) : Nat := 2 ^ c.rowLog2.toNat

/-- Elements per row. -/
def TileCfg.rowElems (c : TileCfg) : Nat := c.rowBytes * 8 / fmtBits c.format

/-- The value of the code `code` of an element in block scale `scale`. -/
def elemNum (f : BitVec 4) (code scale : Nat) : Num :=
  match fmtOf f with
  | some .f4 => f4Num scale code
  | some g => decodeNum g code
  | none => .fin ⟨false, code, 0⟩

/-- The code of element i at byte `base` of a byte store (R91: even F4 elements in bits 3:0). -/
def codeAt (m : Mem) (f : BitVec 4) (base i : Nat) : Nat :=
  if f = fmtF4 then (memGet m (base + i / 2)).toNat / 16 ^ (i % 2) % 16
  else memNat m (base + i * (fmtBits f / 8)) (fmtBits f / 8)

/-- Element i of row r of a tile register; U32 reads as an unsigned integer (R41, R42). -/
def Tile.elem (t : Tile) (r i : Nat) : Num :=
  elemNum t.cfg.format (codeAt t.data t.cfg.format (r * t.cfg.rowBytes) i)
    (memGet t.scales (r * (t.cfg.rowBytes / 32) + i / 64)).toNat

/-- The unsigned 32-bit element i of a U32 register, row by row (R162). -/
def Tile.u32 (t : Tile) (i : Nat) : Nat := memNat t.data (4 * i) 4

/-- The bytes of a row of codes, and of its F4 block scales, from the codes of its elements. -/
def packCodes (f : BitVec 4) : List Nat → List Byte
  | [] => []
  | [a] => if f = fmtF4 then [BitVec.ofNat 8 a] else leBytes (fmtBits f / 8) a
  | a :: b :: t =>
    if f = fmtF4 then BitVec.ofNat 8 (a + 16 * b) :: packCodes f t
    else leBytes (fmtBits f / 8) a ++ (leBytes (fmtBits f / 8) b ++ packCodes f t)

/-- Cut a list into blocks of n. -/
def blocks {α : Type} (n : Nat) : Nat → List α → List (List α)
  | 0, _ => []
  | fuel + 1, l => if l.isEmpty then [] else l.take n :: blocks n fuel (l.drop n)

/-- The 64-element blocks of a row. -/
def f4Blocks {α : Type} (l : List α) : List (List α) := blocks 64 (l.length / 64 + 1) l

/-- A row of FP32 results converted to a format (Table 4.5, R106), each with its own rounding: the data bytes and the F4 scale
bytes. U32 has no conversion. -/
def encodeRow (f : BitVec 4) (vs : List (F32 × Rnd)) : List Byte × List Byte :=
  match fmtOf f with
  | some .f4 =>
    let bl := f4Blocks vs
    let scales := bl.map fun b => f4Scale (b.map (·.1))
    let codes := (bl.zip scales).flatMap fun p => p.1.map fun v => f4Code p.2 v.2 v.1
    (packCodes f codes, scales.map (BitVec.ofNat 8))
  | some g => (packCodes f (vs.map fun v => convert g v.2 v.1), [])
  | none => (packCodes f (vs.map fun v => v.1.toNat), [])

/-- Write row r of a tile register: data and, for F4, scales. -/
def Tile.setRow (t : Tile) (r : Nat) (data scales : List Byte) : Tile :=
  { t with data := memWrite t.data (r * t.cfg.rowBytes) data
           scales := if t.cfg.format = fmtF4 then memWrite t.scales (r * (t.cfg.rowBytes / 32)) scales else t.scales }

/-- Scale bytes of a row in memory (R49). -/
def TileCfg.scaleBytes (c : TileCfg) : Nat := if c.format = fmtF4 then c.rowBytes / 32 else 0

/-! ## tcfg (R44 to R47, R57) -/

/-- Table 2.5, the conditions checked at tcfg. -/
def tcfgConsistent (first count rows rowLog2 : Nat) (format : BitVec 4) (group : Bool) : Bool :=
  let shape := decide (4 ≤ rowLog2) && decide (rowLog2 ≤ 9) && decide (1 ≤ rows) && decide (rows * 2 ^ rowLog2 ≤ 16384) &&
    decide (2 ^ rowLog2 % (if format = fmtF4 then 32 else 16) = 0)
  decide (format.toNat ≤ 6) && (format = fmtNone || shape) && decide (1 ≤ count) && decide (count ≤ 64) &&
  decide (first + count ≤ 64) && (!group || (count == 4 && first % 4 == 0 && format != fmtNone))

/-- Is register t in the run? -/
def inRun (first count t : Nat) : Bool := decide (first ≤ t) && decide (t < first + count)

/-- The configuration a tcfg gives (R44). -/
def tcfgValue (rows : BitVec 11) (rowLog2 format : BitVec 4) (group : Bool) : TileCfg :=
  if format = fmtNone then { TileCfg.none with group := false } else ⟨group, format, rowLog2, rows⟩

/-- The banks of a run. -/
def runBanks (first count : Nat) : List Nat := (List.range 8).filter fun b => (List.range 8).any fun i => inRun first count (8 * b + i)

/-- Are all eight registers of a bank at FORMAT NONE? -/
def Core.bankIdle (k : Core) (b : Nat) : Bool := (List.range 8).all fun i => (k.tile (8 * b + i)).cfg.format == fmtNone

/-- A tcfg that configures part of a formed group clears GROUP in all four members (R46: GROUP_CLEAR). -/
def Core.clearGroups (k : Core) (first count : Nat) (regroup : Bool) : Core :=
  (List.range 16).foldl (fun k j =>
    let members := [4 * j, 4 * j + 1, 4 * j + 2, 4 * j + 3]
    let hit := members.any fun t => inRun first count t && (k.tile t).cfg.group
    if hit && !(regroup && first == 4 * j) then
      members.foldl (fun k t => k.setTile t { k.tile t with cfg := { (k.tile t).cfg with group := false } }) k
    else k) k

/-- Set bit b of the bank masks. -/
def setBit8 (m : BitVec 8) (b : Nat) (v : Bool) : BitVec 8 :=
  if v then m ||| (1#8 <<< b) else m &&& ~~~(1#8 <<< b)

/-- A consistent tcfg takes effect: groups are cleared, every register of the run has the new configuration, the tags that cover
them end, and a bank left at NONE is gated (R44, R46, R57, R66). -/
def Core.applyTcfg (k : Core) (first count : Nat) (v : TileCfg) : Core :=
  let k := k.clearGroups first count (v.group && count == 4)
  let k := (List.range count).foldl (fun k i =>
    let t := first + i
    { k.setTile t { k.tile t with cfg := v } with mx := k.mx.touch t }) k
  (runBanks first count).foldl (fun k b => if k.bankIdle b then { k with powered := setBit8 k.powered b false } else k) k

/-- The gated banks that a tcfg must wake (R57). -/
def Core.toWake (k : Core) (first count : Nat) (format : BitVec 4) : List Nat :=
  if format = fmtNone then [] else (runBanks first count).filter fun b => !k.powered.getLsbD b

/-- A bank is awake: every byte of its eight registers reads zero (R57). -/
def Core.wakeBank (k : Core) (b : Nat) : Core :=
  let k := (List.range 8).foldl (fun k i => k.setTile (8 * b + i) { Tile.zero with cfg := (k.tile (8 * b + i)).cfg }) k
  { k with powered := setBit8 k.powered b true, waking := setBit8 k.waking b false }

/-- Does any instruction that has not completed read or write a register of the run (R47)? -/
def Core.runBusy (k : Core) (first count : Nat) : Bool :=
  k.entries.any fun e => (resRead e.op ++ resWritten k e.op).any fun r =>
    match r with
    | .tile t => inRun first count t
    | _ => false

/-! ## Rows of loads and stores (R48 to R52, R162) -/

/-- The address of row r: base + r × stride, or base + idx[r] × stride (R48, R162). -/
def rowAddr (base stride : Word) (idx : Option Tile) (r : Nat) : Nat :=
  let m := match idx with
    | some t => t.u32 r
    | none => r
  (base.toNat + m * stride.toNat) % 2 ^ 48

/-- The rows of a tld: each is read through L1 and written to the register; the first row that faults ends it (R51). -/
def State.tldRows (s : State) (c t : Nat) (addr : Nat → Nat) : List Nat → State × Option (Nat × Code × Nat)
  | [] => (s, none)
  | r :: rs =>
    let cfg := ((s.core c).tile t).cfg
    match s.load c (addr r) (cfg.rowBytes + cfg.scaleBytes) with
    | (s, .fail st a) => (s, some (r, st, a))
    | (s, .ok bs) =>
      let s := s.modCore c fun k => k.setTile t ((k.tile t).setRow r (bs.take cfg.rowBytes) (bs.drop cfg.rowBytes))
      s.tldRows c t addr rs

/-- The configured rows of a register, and for F4 their scales, hold free bytes (R52). -/
def State.tileUndefined (s : State) (c t : Nat) : State :=
  let cfg := ((s.core c).tile t).cfg
  let n := cfg.rows.toNat * cfg.rowBytes
  let m := cfg.rows.toNat * cfg.scaleBytes
  let bs := s.freeBytes (n + m)
  let s := s.modCore c fun k =>
    let x := k.tile t
    k.writeTile t { x with data := memWrite x.data 0 (bs.take n), scales := memWrite x.scales 0 (bs.drop n) }
  s.ticks (n + m)

/-! ### Words that an error leaves without content (R248)

A tile register and the accumulators carry no poison, and Table 7.12 gives the instructions that read them no fault for it. A 64-bit word in
which an error is found that cannot be corrected holds free bytes from then on, as does what an instruction computes from it; which word it
is among those read, is free (DESIGN CHOICE, log entry 17). -/

/-- The bytes of a register's configured rows (R41). -/
def TileCfg.dataBytes (x : TileCfg) : Nat := x.rows.toNat * x.rowBytes

/-- Such a word among the bytes [lo, lo + n) of a register's data. -/
def State.spoilTile (s : State) (c t lo n : Nat) : State :=
  if n < 8 then s else
  let a := lo + 8 * (Config.freeNat s.freeCtr % max (n / 8) 1)
  let bs := s.tick.freeBytes 8
  (s.modCore c fun k => k.setTile t { k.tile t with data := memWrite (k.tile t).data a bs }).ticks 9

/-- Such a word of the accumulators: two elements of a row. -/
def State.spoilAcc (s : State) (c row col : Nat) : State :=
  let put (m : MxState) (i : Nat) : MxState :=
    { m with acc := tabSet f32Zero m.acc (512 * row + col + i) ((Config.freeWord (s.freeCtr + i)).setWidth 32) }
  (s.modCore c fun k => { k with mx := put (put k.mx 0) 1 }).ticks 2

/-- An error in a word of L1 among those read, of no stated place: it is counted at the stack of the word's address, and a granule in which it
cannot be corrected is poisoned there, which a read of it reports (R51, R248; DEDUCED, log entry 14). -/
def State.l1Error (s : State) (c : Nat) (ecc : Ecc) : State :=
  match (s.core c).l1.lines[Config.freeNat s.freeCtr % max (s.core c).l1.lines.length 1]? with
  | none => s
  | some line =>
    let g := 4 * line + Config.freeNat (s.freeCtr + 1) % 4
    let s := if ecc = .uncorrectable then s.modCore c fun k => { k with l1 := { k.l1 with poison := setAdd k.l1.poison g } } else s
    (s.countEcc (32 * g) ecc).ticks 2

/-- The SRAM in which an instruction's reads find an error: the accumulators belong to the core, tile registers and L1 to its SRAM banks, the
sync store to an I/O die (Table 14.5; DEDUCED, log entry 14). -/
def State.readUnit (s : State) (c : CoreId) (op : Op) : TestUnit :=
  if engineOf op = some .sy then .ioDie ⟨(s.partOf c.val).getD 0 % 2, Nat.mod_lt _ (by decide)⟩
  else if (resRead op).any (fun r => match r with | .acc _ => true | _ => false) then .core c
  else .coreBank c

/-- What an error in a word that an instruction reads changes before it runs: one that can be corrected is counted where the word has an
address, one that cannot leaves the word without content. -/
def State.spoilRead (s : State) (c : Nat) (op : Op) (ecc : Ecc) : State :=
  let pick (n : Nat) : Nat := Config.freeNat s.freeCtr % max n 1
  let tiles := (resRead op).filterMap fun r => match r with | .tile t => some t | _ => none
  let blocks := (resRead op).filterMap fun r => match r with | .acc b => some b | _ => none
  match ecc, blocks[pick blocks.length]?, tiles[pick tiles.length]? with
  | .clean, _, _ => s
  | ecc, none, none => if engineOf op = some .sy then s else s.l1Error c ecc
  | .corrected, _, _ => s
  | .uncorrectable, some b, _ => s.tick.spoilAcc c (64 * b + Config.freeNat (s.freeCtr + 1) % 64) (2 * (Config.freeNat (s.freeCtr + 2) % 256))
  | .uncorrectable, none, some t => s.tick.spoilTile c t 0 ((s.core c).tile t).cfg.dataBytes

/-- The bytes of row r of a register in memory: the data, then the F4 scales (R49). -/
def Tile.rowBytes (t : Tile) (r : Nat) : List Byte :=
  memRead t.data (r * t.cfg.rowBytes) t.cfg.rowBytes ++ memRead t.scales (r * t.cfg.scaleBytes) t.cfg.scaleBytes

/-- The rows of a tst are written into L1 in turn; the first row that faults ends it (R51). -/
def State.tstRows (s : State) (c : Nat) (x : Tile) (addr : Nat → Nat) : List Nat → State × Option (Nat × Code × Nat)
  | [] => (s, none)
  | r :: rs =>
    match s.store c (addr r) (x.rowBytes r) with
    | (s, .ok ()) => s.tstRows c x addr rs
    | (s, .fail st a) => (s, some (r, st, a))

/-- The first row of a tst that its translation stops, with its lowest faulting address. -/
def State.tstFault (s : State) (c : Nat) (x : Tile) (addr : Nat → Nat) : List Nat → State × Option Nat
  | [] => (s, none)
  | r :: rs =>
    match s.xlatAll (s.ctxOf c) true (piecesOf (addr r) (x.cfg.rowBytes + x.cfg.scaleBytes)) with
    | (s, .ok _) => s.tstFault c x addr rs
    | (s, _) => (s, some r)

/-- The index register of a tile transfer. -/
def indexOf (k : Core) : Op → Option Tile
  | .tldx _ _ _ i | .tstx _ _ _ i => some (k.tile i.toNat)
  | _ => none

/-- The register configured, and the index register U32 with an element for each row (Table 2.5, Table 7.11). -/
def transferShape (x : Tile) (idx : Option Tile) : Bool :=
  x.cfg.format != fmtNone &&
  (match idx with
   | none => true
   | some i => i.cfg.format == fmtU32 && decide (x.cfg.rows.toNat ≤ i.cfg.rows.toNat * i.cfg.rowElems))

/-- tld and tld.x start: the rows are loaded, or the first faulting row stops them and leaves the destination undefined. -/
def State.startTld (s : State) (c : Nat) (e : Entry) (t : TReg) : State :=
  let k := s.core c
  let x := k.tile t.toNat
  let idx := indexOf k e.op
  if !transferShape x idx then s.entryShape c .tm e
  else
    let addr := rowAddr (e.arg 0) (e.arg 1) idx
    let s := s.modCore c fun k => { k with mx := k.mx.touch t.toNat }
    match s.tldRows c t.toNat addr (List.range x.cfg.rows.toNat) with
    | (s, none) => s.entryDone c .tm e none
    | (s, some (r, status, a)) => (s.tileUndefined c t.toNat).entryFaults c .tm e status (some (t, r)) (some a)

/-- tst and tst.x start: a row that its translation stops faults, with the rows below it stored; otherwise the store runs until
its completion point, where its rows are in L1 (R50). -/
def State.startTst (s : State) (c : Nat) (e : Entry) (t : TReg) : State :=
  let k := s.core c
  let x := k.tile t.toNat
  let idx := indexOf k e.op
  if !transferShape x idx then s.entryShape c .tm e
  else
    let addr := rowAddr (e.arg 0) (e.arg 1) idx
    match s.tstFault c x addr (List.range x.cfg.rows.toNat) with
    | (s, none) => s.entryDone c .tm e none
    | (s, some r) =>
      match s.tstRows c x addr (List.range (r + 1)) with
      | (s, some (r, status, a)) => s.entryFaults c .tm e status (some (t, r)) (some a)
      | (s, none) => s.entryDone c .tm e none

/-- The register of a tst or tst.x. -/
def tstReg : Op → Option TReg
  | .tst t _ _ | .tstx t _ _ _ => some t
  | _ => none

/-- The register of a tld or tld.x. -/
def tldReg : Op → Option TReg
  | .tld t _ _ | .tldx t _ _ _ => some t
  | _ => none

/-- The rows of a tst that has reached its completion point are written; none when all are, else the fault. -/
def State.finishTst (s : State) (c : Nat) (e : Entry) (t : TReg) : State × Option (Nat × Code × Nat) :=
  let k := s.core c
  let x := k.tile t.toNat
  s.tstRows c x (rowAddr (e.arg 0) (e.arg 1) (indexOf k e.op)) (List.range x.cfg.rows.toNat)

/-- A tile transfer in execution is abandoned (R52, R55): a tld leaves its destination undefined, a tst the rows below a
stopping row of no defined choice; it starts again from row 0. -/
def State.abandon (s : State) (c : Nat) (e : Entry) : State :=
  if !e.started || e.faulted then s
  else
    let k := s.core c
    let reset (s : State) : State := s.modCore c fun k => k.modEntry .tm e.seq fun x => { x with started := false, done := false }
    match tldReg e.op, tstReg e.op with
    | some t, _ => reset (s.tileUndefined c t.toNat)
    | _, some t =>
      let x := k.tile t.toNat
      let n := Config.freeNat s.freeCtr % max x.cfg.rows.toNat 1
      let (s, _) := s.tick.tstRows c x (rowAddr (e.arg 0) (e.arg 1) (indexOf k e.op)) (List.range n)
      reset s
    | _, _ => s

end Sys2Proof.Machine
end

