-- ==== Sys2Proof/Machine/LinkLayer.lean ====
section
/-!
DEFINITION. The output side of the optical ports (R245, R275, R276, R278, R299): the messages that wait, the order in which their flits
are granted, credits and the replay buffer; what goes to the neighbours on VC 4 and to the twin on VC 5 (Table 12.5, R317, R325).
-/
namespace Sys2Proof.Machine

/-- The virtual channel of a number below 8. -/
def vcOf (n : Nat) : Fin 8 := ⟨n % 8, Nat.mod_lt n (by decide)⟩

/-! ## Flits and credits (R275, R276, R278, R287) -/

/-- Payload bytes of a data flit (Table 12.4, R278). -/
def Port.payload (p : Port) : Nat := if p.role = 4 then 244 else 248

/-- The data of a securing record. -/
def twinBytes : TwinRec → Nat
  | .clear .. | .restoreRequest .. => 0
  | .unit _ _ _ d | .digest _ _ _ d | .commit _ _ d | .restoreCommit _ _ d | .restoreTable _ d _ | .restoreUnit _ _ d _ => d.length

/-- The payload bytes that a message takes: a record's header and data (Table 12.6); a securing record's data likewise, in records of at most
4,096 bytes; a roster 16 bytes for each entry and segment and 16 more (log entry 23); any other message fits one payload. -/
def Msg.bytes : Msg → Nat
  | .record r => 40 + r.data.length
  | .twin t => twinBytes t + 40 * max 1 ((twinBytes t + 4095) / 4096)
  | .roster r => 16 + 16 * (r.entries.length + r.segments.length)
  | .beacon .. | .copy .. | .level .. | .ready | .twinAck _ => 1

/-- The flits of a message. -/
def Port.flitsOf (p : Port) (m : Msg) : Nat := (m.bytes + p.payload - 1) / p.payload

/-- Credits of a channel and flits of the replay buffer (R275, R276, R278). -/
def Port.credits (p : Port) : Nat := if p.role = 4 then 262144 else 256
def Port.replaySize (p : Port) : Nat := if p.role = 4 then 2097152 else 2048

/-- The sequence number after `q`: 12 bits, 24 on a long line (R278). -/
def Port.nextSeq (p : Port) (q : BitVec 24) : BitVec 24 := if p.role = 4 then q + 1 else (q + 1) &&& 0xFFF#24

/-- The source device of a message that is made on device `own`: what names a device of origin keeps it. -/
def Msg.sourceDev (own : BitVec 16) : Msg → BitVec 16
  | .record r => r.srcDev
  | .beacon dev _ _ => dev
  | .copy t => t.origin
  | .roster _ | .level _ | .ready | .twin _ | .twinAck _ => own

/-- The source port of what the device makes itself: after every port (log entry 23). -/
def ownSource : Nat := 28

/-- The keys by which a port output grants (R245, R299): the origin stamp, the source device, and a record's number in its flow or the
source port of any other message. The port outputs rank a record and another message of equal stamp and device by these numbers (DESIGN
CHOICE, log entry 23). -/
def Packet.keys (k : Packet) : Nat × Nat × Nat :=
  (k.origin.toNat, k.dev.toNat, match k.msg with | .record r => r.fseq.toNat | _ => k.from_)

/-- Does a packet go before another? -/
def Packet.before (a b : Packet) : Bool :=
  let (o, d, n) := a.keys
  let (o', d', n') := b.keys
  decide (o < o') || (o == o' && (decide (d < d') || (d == d' && decide (n < n'))))

/-- May the packet's next flit be sent: its channel has a credit (R276) and no other packet of the channel has begun? -/
def Port.ready (p : Port) (k : Packet) : Bool :=
  decide (tabGet 0 p.spent k.vc.val < p.credits) && (k.begun || !p.waiting.any fun o => o.begun && o.vc == k.vc)

/-- The place of the packet whose flit is granted next, and the packet: of the ready ones the first in the order of origin. -/
def grantOf (ready : Packet → Bool) : Nat → List Packet → Option (Nat × Packet)
  | _, [] => none
  | i, k :: t =>
    match grantOf ready (i + 1) t with
    | none => if ready k then some (i, k) else none
    | some b => if ready k && !b.2.before k then some (i, k) else some b

/-- A message as it is transmitted at Line Time `now`: a beacon carries the instant of its transmission (R302). -/
def Msg.sentAt (now : Word) : Msg → Msg
  | .beacon dev hops _ => .beacon dev hops now
  | m => m

/-- One flit is sent, when the port is UP, the replay buffer has room and a packet is ready. `own` is the device's own count and `now`
Line Time. -/
def Port.sendOne (p : Port) (own now : Word) : Option Port :=
  if p.state != .up || decide (p.replaySize ≤ p.replay.length) then none
  else match grantOf p.ready 0 p.waiting with
    | none => none
    | some (i, k) =>
      let last := decide (k.left ≤ 1)
      some { p with waiting := if last then listDel p.waiting i else p.waiting.set i { k with left := k.left - 1, begun := true }
                    replay := p.replay ++ [⟨k.vc, p.txSeq, own, if last then [k.msg.sentAt now] else []⟩]
                    txSeq := p.nextSeq p.txSeq
                    spent := tabPut p.spent k.vc.val (tabGet 0 p.spent k.vc.val + 1)
                    cnt := bump p.cnt 0 1 }

/-- Flits are sent while they can be. -/
def Port.sendMany (p : Port) (own now : Word) : Nat → Port
  | 0 => p
  | fuel + 1 =>
    match p.sendOne own now with
    | none => p
    | some q => q.sendMany own now fuel

/-- Send what can be sent. -/
def Port.pump (p : Port) (own now : Word) : Port := p.sendMany own now (p.waiting.foldl (fun n k => n + k.left) 0)

/-- A port changes, and then sends what it can. -/
def State.pumpPort (s : State) (n : Nat) (f : Port → Port) : State := s.modPort n fun p => (f p).pump s.lt.own s.lineTime

/-- Put a message on a port; `from_` is the port it came from. -/
def State.relayMsg (s : State) (from_ n : Nat) (vc : Fin 8) (origin : Word) (m : Msg) : State :=
  s.pumpPort n fun p => { p with waiting := p.waiting ++ [⟨vc, m, origin, p.flitsOf m, false, m.sourceDev s.devId, from_⟩] }

/-- Put a message of this device, or a record, on a port. -/
def State.putMsg (s : State) (n : Nat) (vc : Fin 8) (origin : Word) (m : Msg) : State := s.relayMsg ownSource n vc origin m

/-- The FABRIC ports that are UP. -/
def State.fabricUp (s : State) : List Nat := (List.range 24).filter fun n => (s.port n).state == .up && (s.port n).role == 1

/-- A message for the neighbours goes on VC 4 on every FABRIC port that is UP, but for the one it came on (R279, R302, R312). -/
def State.tellNeighbours (s : State) (from_ : Option Nat) (m : Msg) : State :=
  (s.fabricUp.filter fun n => from_ != some n).foldl (fun s n => s.relayMsg (from_.getD ownSource) n 4 s.lineTime m) s

/-! ## The twin ports (R317, R318, R325) -/

/-- The twin ports, TW0 and TW1. -/
def twinPorts : List Nat := [24, 25]

/-- Is the port a twin port that is UP with the expected peer? -/
def State.twinUp (s : State) (n : Nat) : Bool :=
  (s.port n).role == 2 && (s.port n).state == .up && (s.port n).peerDev == s.twin.dev

/-- The port on which the twin traffic of a number travels: even on TW0, odd on TW1, or all on the one that is UP. -/
def State.twinPort (s : State) (i : Nat) : Option Nat :=
  if s.twinUp (24 + i % 2) then some (24 + i % 2) else if s.twinUp (25 - i % 2) then some (25 - i % 2) else none

/-- A message goes to the twin on VC 5. -/
def State.toTwin (s : State) (i : Nat) (m : Msg) : State :=
  match s.twinPort i with
  | some n => s.putMsg n 5 s.lineTime m
  | none => s

/-- A securing record goes to the twin. -/
def State.sendTwin (s : State) (i : Nat) (r : TwinRec) : State := s.toTwin i (.twin r)

/-- The twin hears on VC 4 that stage 3 of start-up has ended here (R279, R358). -/
def State.tellTwin (s : State) : State := (twinPorts.filter s.twinUp).foldl (fun s n => s.putMsg n 4 s.lineTime .ready) s

/-! ## Messages not delivered yet -/

/-- The messages of a port that are not delivered yet. -/
def Port.messages (p : Port) : List Msg := p.replay.flatMap TxFlit.ends ++ p.waiting.map Packet.msg

/-- Does a port hold an undelivered record of a kind? -/
def Port.holds (p : Port) (f : Record → Bool) : Bool := p.messages.any fun m => match m with | .record r => f r | _ => false

end Sys2Proof.Machine
end

