-- ==== Sys2Proof/Machine/Sync.lean ====
section
/-!
DEFINITION. The sync store (R250 to R265): batons, their waiters, barriers and laps, and what an increment sets off: a securing
trigger (R324) and a replay comparison (R333).
-/
namespace Sys2Proof.Machine

/-- 2⁶³ − 1, the greatest baton value (R252). -/
def batonMax : Nat := 2 ^ 63 - 1

/-- A baton's value as 64 bits, bit 63 at 0. -/
def Sync.baton (y : Sync) (n : Nat) : Word := (tabGet (0 : BitVec 63) y.batons n).setWidth 64

/-- Set a baton. -/
def Sync.setBaton (y : Sync) (n : Nat) (v : BitVec 63) : Sync := { y with batons := tabPut y.batons n v }

/-- A barrier. -/
def Sync.bar (y : Sync) (n : Nat) : Barrier := tabGet Barrier.off y.bars n

/-- Set a barrier. -/
def Sync.setBar (y : Sync) (n : Nat) (b : Barrier) : Sync := { y with bars := tabPut y.bars n b }

/-- The sum saturates at 2⁶³ − 1; whether it did (R252). -/
def satAdd (b : Word) (v : Word) : BitVec 63 × Bool :=
  let t := b.toNat + v.toNat
  if batonMax < t then (BitVec.ofNat 63 batonMax, true) else (BitVec.ofNat 63 t, false)

/-! ## Ending a wait -/

/-- Where a sync instruction writes its status (Table 7.10). -/
def opSyDest : Op → Option SReg
  | .sadd _ _ sd | .swait _ _ _ sd | .sread _ sd | .sbar _ _ _ sd | .sbarcfg _ _ sd => some sd
  | _ => none

/-- The sync instruction that runs on a core has its outcome; SD receives it at its completion (R172, R253). A fenced core takes no
answer (R246). -/
def State.finishSy (s : State) (c : Nat) (v : Word) : State :=
  s.modCore c fun k =>
    match k.syq with
    | e :: t => if !k.works then k else { k with syq := { e with done := true, result := (opSyDest e.op).map fun d => (d, v) } :: t }
    | [] => k

/-- The value that a host WAIT reports: its baton's (Table 8.3). -/
def State.waitInfo (s : State) (p : Nat) (w : Waiter) : Word :=
  match w.on with
  | .baton n _ => (s.part p).sync.baton n
  | .bar _ _ => 0

/-- A wait ends with a status: the waiter leaves the list, and its core or its command has its outcome (Table 11.10). -/
def State.endWait (s : State) (p : Nat) (w : Waiter) (status : Code) : State :=
  let s := s.modPart p fun x => { x with waiters := x.waiters.filter fun y => y != w }
  let s := if status = Code.timeout then s.modPart p (·.bumpSy 4)
    else if status = Code.ownerLost then s.modPart p (·.bumpSy 6)
    else s
  match w.who with
  -- the wake-up of a fenced core completes with FENCED: it reaches nothing (R246)
  | .core c =>
    let s := if status = Code.ok && (s.core c).works then s.modPart p (·.bumpSy 3) else s
    s.finishSy c (status.setWidth 64)
  | .host i => s.complete p i status (s.waitInfo p w)

/-- A condition is met: the waits complete with OK whose deadline has not been reached (R256, R264, R308). -/
def State.release (s : State) (p : Nat) (dev : BitVec 16) (ws : List Waiter) : State :=
  ws.foldl (fun s w =>
    match w.deadline with
    | none => s.endWait p w Code.ok
    | some d =>
      let s := if d.onOwn then s else s.photo 2 s.lineTime s.lineTime d.at_ true 0 dev
      if s.reached d then s else s.endWait p w Code.ok) s

/-! ## Securing triggers (R323, R324, R328) -/

/-- Data units of an extent of E GiB (R321). -/
def extentUnits (e : Nat) : Nat := 512 * e - 1 - (e + 63) / 64

/-- The context addresses of the map's units, in map order (Table 14.3, R323). -/
def mapUnits : List Byte → Nat → List Nat
  | _, 0 => []
  | bs, n + 1 =>
    let a := leNat (bs.take 8) / 2 ^ 21 * 2 ^ 21
    let u := leNat ((bs.drop 8).take 4)
    ((List.range u).map fun i => a + i * 2 ^ 21) ++ mapUnits (bs.drop 16) n

/-- Translate the map's units: pairs of context and device address, all in near memory (Table 14.4). -/
def State.xlatUnits (s : State) (p : Nat) : List Nat → State × Option (List (Nat × Nat))
  | [] => (s, some [])
  | a :: t =>
    match s.xlat p (a % 2 ^ 48) false with
    | (s, none) => (s, none)
    | (s, some d) =>
      if !inNear d then (s, none)
      else match s.xlatUnits p t with
        | (s, some l) => (s, some ((a, d) :: l))
        | (s, none) => (s, none)

/-- A generation is refused: the status and an event, nothing else (R328). -/
def State.refuseGen (s : State) (p : Nat) (status : Code) : State :=
  let s := s.modPart p fun x => { x with sec := { x.sec with genStatus := status } }
  s.log 3 status (some p) 0 0 (s.part p).sec.unitsLeft

/-- A partition number. -/
def partNo (p : Nat) : PartId := ⟨p % 16, Nat.mod_lt _ (by decide)⟩

/-- The deadline of a record that goes to the twin now (R281). -/
def State.twinDeadline (s : State) : Word := s.lineTime + BitVec.ofNat 64 (1000 * s.consist.lifetimeUs.toNat)

/-- A generation without a window has started while windowed ones receive every share: its reservation yields to each (R338, R339). -/
def State.sharesYield (s : State) (p : Nat) : State :=
  let x := (s.part p).sec
  if x.twinShare = 0 || (match x.gen with | some g => g.windowed | none => true) then s
  else ((List.range 16).filter fun q => q != p && (s.part q).sec.allShares).foldl (fun s q => s.yielded 4 5 (some p) (some q)) s

/-- The slot of the twin that a generation writes: the one that does not hold the current generation, slot A when neither holds one (R325);
a free one while this device does not know what they hold (log entry 2). -/
def SecPart.targetB (x : SecPart) (free : Bool) : Bool :=
  match x.heldB with
  | some b => !b
  | none => !x.heldKnown && free

/-- A generation starts, or is refused at its start (R323 to R325, Table 14.4): it clears the commit record of its slot. `window` is the end
of its window. -/
def State.startGen (s : State) (p : Nat) (step : Word) (window : Option Word) : State :=
  let x := (s.part p).sec
  if !(s.twin.state = .paired || s.twin.state = .degraded) then s.refuseGen p Code.wrongState
  else
    match s.ctxRead p x.mapAddr.toNat (16 * x.mapEntries.toNat) with
    | (s, .fail st _) => s.refuseGen p st
    | (s, .ok bs) =>
      match s.xlatUnits p (mapUnits bs x.mapEntries.toNat) with
      | (s, none) => s.refuseGen p Code.pageFault
      | (s, some units) =>
        if extentUnits x.sizeGib.toNat < units.length then s.refuseGen p Code.tileShape
        else
          let slotB := x.targetB (Config.freeBool s.freeCtr)
          let g : Gen :=
            { step := step, generation := x.commitGen + 1, slotB := slotB, units := units, copied := [],
              windowed := window.isSome, windowEnd := window.getD 0, lossBaton := x.lossBaton, lossAddr := x.lossAddr,
              lossWaitMs := x.lossWaitMs, stage4At := 0, loss := 0x7FC00000#32, digests := [], sent := some s.twinDeadline }
          let s := s.tick.modPart p fun y =>
            { y with sec := { y.sec with gen := some g, phase := .clearing, unitsLeft := BitVec.ofNat 32 units.length } }
          ((s.bumpTwin 0).sendTwin 0 (.clear (partNo p) g.slotB)).sharesYield p

/-- The securing windows that hold a stamp for a partition (R308, R324). -/
def State.secureWindows (s : State) (p : Nat) (stamp : Word) : List OpenWindow :=
  s.windows.filter fun w => w.action == 1 && w.partMask.getLsbD p && decide (w.start.toNat ≤ stamp.toNat) &&
    decide (stamp.toNat < w.stop.toNat)

/-- The step baton has gone from b0 to b: a trigger starts a generation or is skipped (R324). -/
def State.trigger (s : State) (p : Nat) (b0 b : Word) : State :=
  let x := (s.part p).sec
  if !x.enable || x.sizeGib = 0 || x.interval = 0 then s
  else if b.toNat / x.interval.toNat ≤ b0.toNat / x.interval.toNat then s
  else
    let stamp := s.lineTime
    let ws := s.secureWindows p stamp
    if x.gen.isSome then s.bumpTwin 3
    else if x.windowed && ws.isEmpty then s.bumpTwin 3
    else
      let last := ws.foldl (fun m w => max m w.stop.toNat) 0
      s.startGen p b (if x.windowed then some (BitVec.ofNat 64 last) else none)

/-! ## Replay verification (R333) -/

/-- |L − LOSS| ≤ 2⁻¹⁴ × |LOSS|. -/
def lossClose (l loss : F32) : Bool :=
  match f32Num l, f32Num loss with
  | .fin a, .fin b =>
    let e := min a.e (b.e - 14)
    decide ((a.at e - b.at e).natAbs ≤ (b.at e).natAbs / 2 ^ 14)
  | _, _ => false

/-- VERIFY has its outcome; a generation in progress goes on in its phase. -/
def SecPart.verified (x : SecPart) (v : BitVec 2) : SecPart :=
  { x with verify := v, phase := if x.phase = .awaitReplay then .idle else x.phase }

/-- LOSS_BATON has reached the restored STEP: the replayed value is compared with the recorded LOSS (R333). -/
def State.replayVerify (s : State) (p : Nat) : State :=
  let x := (s.part p).sec
  if x.verify = 1 && decide (x.replayStep.toNat ≤ ((s.part p).sync.baton x.lossBaton.toNat).toNat) then
    match s.ctxRead p x.lossAddr.toNat 4 with
    | (s, .ok bs) =>
      let l : F32 := BitVec.ofNat 32 (leNat bs)
      let pass := if x.exact then l == x.replayLoss else lossClose l x.replayLoss
      s.modPart p fun y => { y with sec := y.sec.verified (if pass then 2 else 3) }
    | (s, _) => s.modPart p fun y => { y with sec := y.sec.verified 3 }
  else s

/-! ## Increments (R252, R256, R258) -/

/-- The sync store applies an increment to a baton of the bound context: the value saturates, waiters whose condition it meets
complete, and a trigger or a replay comparison may follow. `dev` is the device of origin. -/
def State.increment (s : State) (p n : Nat) (v : Word) (dev : BitVec 16) : State :=
  let b0 := (s.part p).sync.baton n
  let (b, sat) := satAdd b0 v
  let s := s.modPart p fun x => { x with sync := x.sync.setBaton n b }
  let s := (if sat then s.modPart p (·.bumpSy 8) else s).photoEvent p s.lineTime dev
  let bw : Word := b.setWidth 64
  let met := (s.part p).waiters.filter fun w =>
    match w.on with
    | .baton m want => m == n && decide (want.toNat ≤ bw.toNat)
    | .bar _ _ => false
  let s := s.release p dev met
  let s := if n = (s.part p).sec.stepBaton.toNat then s.trigger p b0 bw else s
  if n = (s.part p).sec.lossBaton.toNat then s.replayVerify p else s

/-- An increment is applied to the parked copy (R258, R266). -/
def State.incrementParked (s : State) (p n : Nat) (v : Word) : State :=
  match (s.part p).parked with
  | none => s
  | some k =>
    let (b, sat) := satAdd (k.sync.baton n) v
    let s := s.modPart p fun x => { x with parked := some { k with sync := k.sync.setBaton n b } }
    let s := if sat then s.modPart p (·.bumpSy 8) else s
    s.modPart p (·.bumpSy 2)

/-! ## Barriers (R262 to R265) -/

/-- The waiters on a lap of a barrier. -/
def Part.onLap (x : Part) (n : Nat) (lap : BitVec 63) : List Waiter :=
  x.waiters.filter fun w => w.on == .bar n lap

/-- The entries that wait at a barrier, on either lap (Table 11.11). -/
def Part.barWaiters (x : Part) (n : Nat) : Nat :=
  x.waiters.countP fun w => match w.on with | .bar m _ => m == n | .baton _ _ => false

/-- When ARRIVED reaches COUNT the lap completes, and the next at once if its arrivals are there already (R264). -/
def State.lapComplete (s : State) (p n : Nat) (dev : BitVec 16) : Nat → State
  | 0 => s
  | fuel + 1 =>
    let b := (s.part p).sync.bar n
    if b.count = 0 || b.arrived != b.count then s
    else
      let s := s.release p dev ((s.part p).onLap n b.lap)
      let s := s.modPart p fun x => { x with sync := x.sync.setBar n ⟨b.count, b.lap + 1, b.next, 0⟩ }
      s.lapComplete p n dev fuel

/-- What an entry at a barrier comes to (Table 11.4). -/
inductive BarEntry where
  | refuse (status : Code)
  | passes
  | waits (lap : BitVec 63)
deriving DecidableEq, Repr

/-- Table 11.4 and the disabled barrier: the outcome, and the barrier with the arrival counted. -/
def Barrier.enter (b : Barrier) (k : BitVec 63) (waitOnly : Bool) : BarEntry × Barrier :=
  let d := k - b.lap
  if b.count = 0 then (.refuse Code.wrongState, b)
  else if waitOnly then
    if d = 0 || d = 1 then (.waits k, b)
    else if d = BitVec.allOnes 63 then (.passes, b)
    else (.refuse Code.barrierMisuse, b)
  else if d = 0 then (.waits k, { b with arrived := b.arrived + 1 })
  else if d = 1 && decide (b.next.toNat < b.count.toNat) then (.waits k, { b with next := b.next + 1 })
  else (.refuse Code.barrierMisuse, b)

/-- sy.barcfg (R262): the status it writes. -/
def State.barConfig (s : State) (p n : Nat) (count : BitVec 16) : State × Code :=
  let x := s.part p
  let b := x.sync.bar n
  if b.arrived != 0 || b.next != 0 || x.barWaiters n != 0 then (s, Code.wrongState)
  else (s.modPart p fun x => { x with sync := x.sync.setBar n ⟨count, 0, 0, 0⟩ }, Code.ok)

end Sys2Proof.Machine
end

