-- ==== Sys2Proof/Machine/Transport.lean ====
section
/-!
DEFINITION. The transport of records between devices (R279 to R287, R291, R295): the roster and the policy, routes and ports, flows
at their source and at their target, and what a target does with a record (R221, R222, R258, R281).
-/
namespace Sys2Proof.Machine

/-! ## The roster and the policy (R290, R291, R295, R346) -/

/-- Does the roster hold a device whose twin it also holds (R290)? -/
def Roster.holds (r : Roster) (dev : BitVec 16) : Bool :=
  r.entries.any fun e => e.dev == dev && r.entries.any fun t => t.dev == e.twin

/-- The roster in force at a stamp (R291). -/
def State.rosterAt (s : State) (stamp : Word) : Roster :=
  match s.prevRoster with
  | some old => if decide (stamp.toNat < s.roster.effective.toNat) then old else s.roster
  | none => s.roster

/-- The line entry of a line ID (R295). -/
def State.lineOf (s : State) (dev : BitVec 16) : Option Line := s.consist.lines.find? fun l => l.lineId == dev

/-- Is the device in the roster at the stamp; a line ID counts as in it when the line table holds it (R291, R295). -/
def State.inRoster (s : State) (dev : BitVec 16) (stamp : Word) : Bool :=
  if dev.getLsbD 15 then (s.lineOf dev).isSome else Roster.holds (s.rosterAt stamp) dev

/-- Does the policy grant the device and its partition to a partition (R346)? -/
def State.policyGrants (s : State) (dev : BitVec 16) (src dst : PartId) : Bool :=
  (s.part dst.val).clusters != 0 &&
  s.consist.policy.any fun e => e.target.toNat == dst.val && (e.anyDevice || e.sourceDev == dev) && e.sourceParts.getLsbD src.val

/-- LIFETIME in nanoseconds for a destination (R281, R295). -/
def State.lifetime (s : State) (dst : BitVec 16) : Nat :=
  1000 * (match s.lineOf dst with
    | some l => if dst.getLsbD 15 then l.lifetimeUs.toNat else s.consist.lifetimeUs.toNat
    | none => s.consist.lifetimeUs.toNat)

/-- LIFETIME in nanoseconds of a record from one device to another: that of its line for a record to or from a line ID (R281, R295). -/
def State.lifeOf (s : State) (src dst : BitVec 16) : Nat := s.lifetime (if dst.getLsbD 15 then dst else src)

/-- The origin stamp of a record: its issue, DEADLINE − LIFETIME (R291, R307). -/
def State.originOf (s : State) (r : Record) : Word := r.deadline - BitVec.ofNat 64 (s.lifeOf r.srcDev r.dstDev)

/-- Is the partition treated as ABSENT while a change point is applied (R355)? -/
def State.partHeld (s : State) (p : Nat) : Bool := s.loader.applying.isSome && s.loader.affected.getLsbD p

/-- A record that arrives is compared with its deadline: its origin stamp is logged, with how far its arrival lies from DEADLINE (R307,
R309, log entry 28). -/
def State.photoRecord (s : State) (r : Record) : State := s.photo 1 (s.originOf r) s.lineTime r.deadline true 0 r.srcDev

/-! ## Routes (R285 to R287) -/

/-- The coordinate of a device in a dimension (R285). -/
def coordOf (dev : BitVec 16) (dim : Nat) : Nat := dev.toNat / 32 ^ dim % 32

/-- The extent of the domain in a dimension. -/
def State.extentOf (s : State) (dim : Nat) : Nat :=
  let (x, y, z) := s.consist.shape
  if dim = 0 then x else if dim = 1 then y else z

/-- The live ports of a torus direction, ascending; direction 2 × dimension, + 1 for − (Table 12.2). -/
def State.livePorts (s : State) (dir : Nat) : List Nat :=
  (List.range 24).filter fun n => n % 6 == dir && (s.port n).state == .up && (s.port n).role == 1

/-- Is a segment of this device's ring in a dimension, named from either of its ends, the link from coordinate `c` in a direction? -/
def State.isSegment (s : State) (dim c : Nat) (minus : Bool) (g : BitVec 2 × BitVec 16 × Bool) : Bool :=
  let d := max (s.extentOf dim) 1
  let x := coordOf g.2.1 dim
  let far := if g.2.2 then (x + d - 1) % d else (x + 1) % d
  g.1.toNat == dim && (List.range 3).all (fun k => k == dim || coordOf g.2.1 k == coordOf s.devId k) &&
  (if g.2.2 = minus then x == c else far == c)

/-- Does the roster list an out-of-service segment on the way of n hops from a coordinate (R286, R289)? -/
def State.segmentOut (s : State) (dim coord : Nat) (minus : Bool) (hops : Nat) : Bool :=
  let d := max (s.extentOf dim) 1
  (List.range hops).any fun i =>
    let c := if minus then (coord + d * hops - i) % d else (coord + i) % d
    s.roster.segments.any (s.isSegment dim c minus)

/-- Is a way of a dimension blocked: every port of it down, or a segment on it out of service? -/
def State.wayBlocked (s : State) (dim here hops : Nat) (minus : Bool) : Bool :=
  (s.livePorts (2 * dim + minus.toNat)).isEmpty || s.segmentOut dim here minus hops

/-- The direction that the entry device of a dimension chooses (R286): − or not, or none when both ways are blocked. -/
def State.chooseDir (s : State) (dim here there : Nat) : Option Bool :=
  let d := max (s.extentOf dim) 1
  let delta := (there + d - here % d) % d
  let minus := if delta < d - delta then false else if delta > d - delta then true else decide (here % 2 = 1)
  let hops (m : Bool) : Nat := if m then d - delta else delta
  if !s.wayBlocked dim here (hops minus) minus then some minus
  else if !s.wayBlocked dim here (hops (!minus)) (!minus) then some (!minus)
  else none

/-- The port that a flow uses in a list of live ports (R287). -/
def portFor (live : List Nat) (r : Record) : Option Nat :=
  if live.isEmpty then none
  else live[(2 * r.srcCore.toNat + r.engineSy.toNat + r.dstDev.toNat) % live.length]?

/-- The routing class of a record: 0 for REQ, 2 for RSP (Table 12.5). -/
def classVc : RecType → Nat
  | .write | .write64 | .read | .inc => 0
  | .readData | .ack | .nack => 2

/-- Does the record need Relay Link 1.1: it carries, or asks for, elements of 8 bytes (R222, R283)? READ_DATA does not, whatever its elements:
the links on its way back are not asked (the model's choice, log entry 22). -/
def needs11 (r : Record) : Bool :=
  match r.type with
  | .write64 => true
  | .read => r.data.length == 64 && leNat (r.data.take 8) / 2 ^ 48 % 4 == 3
  | _ => false

/-- Does every port of a direction run Relay Link 1.1 (R283)? -/
def State.dir11 (s : State) (dir : Nat) : Bool := (s.livePorts dir).all fun n => (s.port n).version == 0x11

/-- Where a record leaves this device: a port, its virtual channel and its chosen directions; or the status it is answered with. -/
structure Exit where
  port : Nat
  vc   : Fin 8
  dirs : BitVec 3
deriving DecidableEq, Repr

/-- Set bit i of the chosen directions. -/
def setDir (d : BitVec 3) (i : Nat) (m : Bool) : BitVec 3 := if m then d ||| (1#3 <<< i) else d &&& ~~~(1#3 <<< i)

/-- The next hop of a record in the torus: X, then Y, then Z (R286). `from_` is the port it arrived on and its channel. -/
def State.torusExit (s : State) (r : Record) (target : BitVec 16) (from_ : Option (Nat × Nat)) : Except Code Exit :=
  let here := s.devId
  match (List.range 3).find? (fun d => coordOf here d != coordOf target d) with
  | none => .error Code.timeout
  | some dim =>
    let inDim := match from_ with | some (p, _) => decide (p < 24) && p % 6 / 2 == dim | none => false
    let choice := if inDim then some (r.dirs.getLsbD dim) else s.chooseDir dim (coordOf here dim) (coordOf target dim)
    match choice with
    | none => .error Code.timeout
    | some m =>
      let dir := 2 * dim + m.toNat
      let d := s.extentOf dim
      let c := coordOf here dim
      let crosses := if m then c == 0 else c + 1 == d
      let line := if inDim then (match from_ with | some (_, v) => v % 2 | none => 0) else 0
      match portFor (s.livePorts dir) r with
      | none => .error Code.timeout
      | some n =>
        if needs11 r && !s.dir11 dir then .error Code.version
        else .ok ⟨n, vcOf (classVc r.type + (if crosses then 1 else line)), setDir r.dirs dim m⟩

/-- The port of the next hop: a line ID goes to its gateway, and from there on the long line (R295, R296, R297). -/
def State.linkOf (s : State) (r : Record) (from_ : Option (Nat × Nat)) : Except Code Exit :=
  if r.dstDev.getLsbD 15 then
    match s.lineOf r.dstDev with
    | none => .error Code.securityDenied
    | some l =>
      if l.gatewayDev == s.devId then
        if (s.port l.port.toNat).state == .up && (s.port l.port.toNat).role == 4 then
          if needs11 r && (s.port l.port.toNat).version != 0x11 then .error Code.version
          else .ok ⟨l.port.toNat, vcOf (classVc r.type), r.dirs⟩
        else .error Code.timeout
      else s.torusExit r l.gatewayDev from_
  else s.torusExit r r.dstDev from_

/-- Where a record leaves this device from junction `j`; FENCED where no path remains to its port (R247). -/
def State.exitOf (s : State) (r : Record) (from_ : Option (Nat × Nat)) (j : Nat) : Except Code Exit :=
  match s.linkOf r from_ with
  | .ok x => if s.reaches j (portJunction x.port) then .ok x else .error Code.fenced
  | .error e => .error e

/-! ## Records on ports (R287) -/

/-- Put a record on a port. -/
def State.putOnPort (s : State) (n : Nat) (vc : Fin 8) (r : Record) : State := s.putMsg n vc (s.originOf r) (.record r)

/-- Do two records belong to one flow (R280)? -/
def sameFlow (a b : Record) : Bool :=
  a.srcDev == b.srcDev && a.srcCore == b.srcCore && a.engineSy == b.engineSy && a.dstDev == b.dstDev

/-- A port other than `n` that still holds undelivered records of the flow. -/
def State.flowElsewhere (s : State) (n : Nat) (r : Record) : Option Nat :=
  (List.range 28).find? fun m => m != n && (s.port m).holds (sameFlow r)

/-- Is the hold that of the record's flow? -/
def FlowHold.isFor (h : FlowHold) (r : Record) : Bool :=
  h.srcDev == r.srcDev && h.srcCore == r.srcCore && h.engineSy == r.engineSy && h.dst == r.dstDev

/-- A record leaves on its port, or waits while records of its flow are still on another port (R245, R287). -/
def State.depart (s : State) (x : Exit) (r : Record) : State :=
  let r := { r with dirs := x.dirs }
  if s.holds.any (·.isFor r) then
    { s with holds := s.holds.map fun h => if h.isFor r then { h with records := h.records ++ [(x.vc, r)] } else h }
  else match s.flowElsewhere x.port r with
    | none => s.putOnPort x.port x.vc r
    | some old => { s with holds := s.holds ++ [⟨r.srcDev, r.srcCore, r.engineSy, r.dstDev, old, x.port, [(x.vc, r)]⟩] }

/-! ## Answers (R221, R258, R281) -/

/-- The answer to a record: it goes back to the core that sent it, in the record's flow: whichever device answers, SRC_DEV is the device
the record is for, since XFER counts within a flow (Table 12.6; DEDUCED, log entry 22). -/
def State.answer (s : State) (r : Record) (type : RecType) (status : Code) (data : List Byte) : Record :=
  { type := type, status := status, srcDev := r.dstDev, dstDev := r.srcDev, srcPart := r.dstPart, dstPart := r.srcPart,
    engineSy := r.engineSy, last := r.last, sig := r.sig, dirs := 0, srcCore := r.srcCore, context := r.context, fseq := r.fseq,
    deadline := s.lineTime + BitVec.ofNat 64 (s.lifeOf r.dstDev r.srcDev), remote := r.remote, count := r.count, first := r.first,
    xfer := r.xfer, poison := false, sigPart := r.sigPart, data := data }

/-- Is the record an answer? -/
def isAnswer : RecType → Bool
  | .readData | .ack | .nack => true
  | _ => false

/-- A record is handed to the transport at junction `j`, without being answered on failure. -/
def State.post (s : State) (r : Record) (from_ : Option (Nat × Nat)) (j : Nat) : State :=
  if r.dstDev == s.devId then { s with loopback := s.loopback ++ [r] }
  else match s.exitOf r from_ j with
    | .ok x => s.depart x r
    | .error _ => s

/-- A record is handed to the transport at junction `j`: on its port, back to this device, or answered here with a NACK (R247, R283,
R286, R297). -/
def State.transmit (s : State) (r : Record) (from_ : Option (Nat × Nat)) (j : Nat) : State :=
  if r.dstDev == s.devId then { s with loopback := s.loopback ++ [r] }
  else match s.exitOf r from_ j with
    | .ok x => s.depart x r
    | .error status => if isAnswer r.type then s else s.post (s.answer r .nack status []) none j

/-! ## The source of a flow (R280, R281) -/

/-- The key of a flow of a core in State.outFlows. -/
def flowKey (lg : Nat) (sy : Bool) (dst : BitVec 16) : Nat := 2 * ((2 * lg + sy.toNat) * 65536 + dst.toNat)

/-- The next transfer number of a flow. -/
def State.newXfer (s : State) (lg : Nat) (sy : Bool) (dst : BitVec 16) : State × BitVec 16 :=
  let n := tabGet 0 s.outFlows (flowKey lg sy dst + 1)
  ({ s with outFlows := tabPut s.outFlows (flowKey lg sy dst + 1) (n + 1) }, BitVec.ofNat 16 n)

/-- The record of a transfer of a core, before its number and deadline. -/
def Xfer.record (x : Xfer) (type : RecType) (lg : Nat) (dev : BitVec 16) (src : PartId) (sy : Bool) : Record :=
  { type := type, status := 0, srcDev := dev, dstDev := x.dst, srcPart := src, dstPart := x.part, engineSy := sy, last := false,
    sig := x.sig, dirs := 0, srcCore := BitVec.ofNat 8 lg, context := x.context, fseq := 0, deadline := 0, remote := x.remote,
    count := 0, first := 0, xfer := x.xferNo, poison := false, sigPart := x.sigPart, data := [] }

/-- The junction of the core that holds a logical number. -/
def State.junctionOf (s : State) (lg : Nat) : Nat := ((s.physical lg).map clusterOf).getD 0

/-- Issue a record of a flow: it takes the next FSEQ, and DEADLINE = Line Time + LIFETIME (R281). -/
def State.issue (s : State) (r : Record) : State × Word :=
  let key := flowKey r.srcCore.toNat r.engineSy r.dstDev
  let n := tabGet 0 s.outFlows key
  let d := s.lineTime + BitVec.ofNat 64 (s.lifetime r.dstDev)
  let s := { s with outFlows := tabPut s.outFlows key (n + 1) }
  (s.transmit { r with fseq := BitVec.ofNat 32 n, deadline := d } none (s.junctionOf r.srcCore.toNat), d)

/-- Has Line Time never been locked on this device (R305)? -/
def State.preLock (s : State) : Bool := !s.lt.everLocked

/-! ## The target of a flow (R281) -/

/-- The flow state of a record. -/
def State.inFlow (s : State) (r : Record) : Option InFlow :=
  s.inFlows.find? fun f => f.srcDev == r.srcDev && f.srcCore == r.srcCore && f.engineSy == r.engineSy

/-- Replace the flow state of a record. -/
def State.setInFlow (s : State) (r : Record) (f : InFlow) : State :=
  { s with inFlows := f :: s.inFlows.filter fun f => !(f.srcDev == r.srcDev && f.srcCore == r.srcCore && f.engineSy == r.engineSy) }

/-- What flow order makes of a record (R281). -/
inductive Order where
  | accept
  | gap
  | drop
deriving DecidableEq, Repr

/-- In order, after a gap in FSEQ, or of a transfer that has ended. The records of a flow are numbered from 0, so the first one seen is
in order at 0 (log entry 22). -/
def flowOrder (f : Option InFlow) (r : Record) : Order :=
  match f with
  | none => if r.fseq = 0 then .accept else .gap
  | some f => if f.xfer == r.xfer && f.ended then .drop else if f.nextSeq == r.fseq then .accept else .gap

/-- The flow state after a record: whether its transfer has ended, and the remote record held for it. -/
def nextFlow (f : Option InFlow) (r : Record) (ended : Bool) (desc : Option (BitVec 512)) : InFlow :=
  let keep := match f with
    | some f => if f.xfer == r.xfer then f.desc else none
    | none => none
  ⟨r.srcDev, r.srcCore, r.engineSy, r.fseq + 1, r.xfer, ended, desc.orElse fun _ => keep⟩

/-! ## Remote increments at the target (R258, R266) -/

/-- Is the context the parked one of a partition? -/
def Part.parkedIs (x : Part) (context : BitVec 16) : Bool := match x.parked with | some k => k.ctx.id == context | none => false

/-- Is the context one of the two last lost ones of a partition (R267)? -/
def Part.lost (x : Part) (context : BitVec 16) : Bool :=
  (x.lostAValid && x.lostA == context) || (x.lostBValid && x.lostB == context)

/-- Table 11.3: the increment is applied, or refused with a status. -/
def State.remoteInc (s : State) (dev : BitVec 16) (src p : PartId) (context : BitVec 16) (stamp : Word) (n : Nat) (v : Word) :
    State × Code :=
  let x := s.part p.val
  if !s.inRoster dev stamp || !s.policyGrants dev src p then (s.modPart p.val (·.bumpSy 7), Code.securityDenied)
  else if x.state == .resetting then (s.modPart p.val (·.bumpSy 6), Code.ownerLost)
  else if x.lost context then
    (s.modPart p.val (·.bumpSy 6), Code.ownerLost)
  else if s.partHeld p.val then (s, Code.wrongState)
  else if (match x.bound with | some b => b.id == context | none => false) then
    ((s.modPart p.val (·.bumpSy 1)).increment p.val n v dev, Code.ok)
  else if x.parkedIs context then (s.incrementParked p.val n v, Code.ok)
  else (s, Code.wrongState)

/-! ## Transfers at the target (R221, R222) -/

/-- The signal of a transfer at the target: as Table 11.3, but that a transfer has no OWNER_LOST: rows 2 and 4 give it WRONG_STATE
(R258, Table 9.4). -/
def State.signalInc (s : State) (r : Record) (v : Word) : State × Code :=
  let x := s.part r.dstPart.val
  let denied := !s.inRoster r.srcDev (s.originOf r) || !s.policyGrants r.srcDev r.srcPart r.dstPart
  if !denied && (x.state == .resetting || x.lost r.context || x.parkedIs r.context) then (s, Code.wrongState)
  else s.remoteInc r.srcDev r.srcPart r.dstPart r.context (s.originOf r) (r.remote.toNat % 65536) v

/-- Row 3 of Table 9.4: the source is in no roster, or the policy does not grant it the partition. -/
def State.transferDenied (s : State) (r : Record) : Bool :=
  !s.inRoster r.srcDev (s.originOf r) || !s.policyGrants r.srcDev r.srcPart r.dstPart

/-- Row 5 of Table 9.4, with rows 2 and 4 of Table 11.3 for a transfer with SIG (R258): those judge CONTEXT by the partition that the handle
names, which R166 lets differ from that of SDEV (the model's choice, log entry 22: the header of Table 12.6 has no place for it). -/
def State.transferState (s : State) (r : Record) : Bool :=
  let x := s.part r.dstPart.val
  let y := s.part r.sigPart.val
  !(x.state = .ready || x.state = .running || x.state = .faulted) || s.partHeld r.dstPart.val ||
  (r.sig && (y.lost r.context || y.parkedIs r.context))

end Sys2Proof.Machine
end

