-- ==== Sys2Proof/Machine/Tensor.lean ====
section
/-!
DEFINITION. The tensor mover (R209 to R226, R168 to R170): descriptors, copies, gathers and scatters, remote transfers at their
initiator and at their target, and ingest.
-/
namespace Sys2Proof.Machine

/-! ## Descriptors (R209 to R214) -/

/-- Word j of a descriptor. -/
def descWord (w : BitVec 512) (j : Nat) : Nat := w.toNat / 2 ^ (64 * j) % 2 ^ 64

/-- A descriptor read under R210: five dimensions, those beyond NDIM of extent 1, stride 0 and block size 1. -/
structure Desc where
  base    : Nat
  width   : Nat
  ndim    : Nat
  strides : List Int
  extents : List Nat
  blocks  : List Nat
  fill    : Nat
deriving DecidableEq, Repr

/-- The fields of Table 9.1. -/
def descOf (w : BitVec 512) : Desc :=
  let w0 := descWord w 0
  let nd := w0 / 2 ^ 50 % 8
  let n := if 1 ≤ nd ∧ nd ≤ 5 then nd else 5
  let w6 := descWord w 6
  let w7 := descWord w 7
  let bl := [w6 / 2 ^ 32 % 65536, w6 / 2 ^ 48 % 65536, w7 % 65536, w7 / 2 ^ 16 % 65536, w7 / 2 ^ 32 % 65536]
  { base := w0 % 2 ^ 48, width := 2 ^ (w0 / 2 ^ 48 % 4), ndim := n, fill := w6 % 2 ^ 32,
    strides := (List.range 5).map fun j => if j < n then (BitVec.ofNat 40 (descWord w (1 + j))).toInt else 0,
    extents := (List.range 5).map fun j => if j < n then descWord w (1 + j) / 2 ^ 40 else 1,
    blocks := (List.range 5).map fun j => if j < n then bl.getD j 0 + 1 else 1 }

/-- A multi-index. -/
abbrev Index := List Int

/-- Does a multi-index lie within the bounds (R212)? -/
def Desc.inside (d : Desc) (i : Index) : Bool :=
  (List.range 5).all fun j => decide (0 ≤ i.getD j 0) && decide (i.getD j 0 < (d.extents.getD j 0 : Int))

/-- The address of a multi-index (R211). -/
def Desc.addr (d : Desc) (i : Index) : Nat :=
  (((List.range 5).foldl (fun a j => a + i.getD j 0 * d.strides.getD j 0) (d.base : Int)) % (2 ^ 48 : Int)).toNat

/-- The product of the extents. -/
def Desc.count (d : Desc) : Nat := d.extents.foldl (· * ·) 1

/-- Decompose a number over radices, the first varying fastest. -/
def mixed : List Nat → Nat → List Nat
  | [], _ => []
  | e :: es, f => f % max e 1 :: mixed es (f / max e 1)

/-- The multi-index of an element number (R214). -/
def Desc.index (d : Desc) (f : Nat) : Index := (mixed d.extents f).map Int.ofNat

/-- The elements that an instruction moves at most (R218). -/
def moveCap : Nat := 2 ^ 32

/-- The elements of an iteration over the descriptor. -/
def Desc.total (d : Desc) : Nat := min d.count moveCap

/-- The fill value in W bytes (R213). -/
def Desc.fillBytes (d : Desc) (w : Nat) : List Byte := leBytes w d.fill

/-- Blocks along each dimension (R214). -/
def Desc.blockCounts (d : Desc) : List Nat :=
  (List.range 5).map fun j => max 1 ((d.extents.getD j 0 + d.blocks.getD j 1 - 1) / d.blocks.getD j 1)

/-- The block coordinate of block k; past the last block the outermost coordinate runs on (R214). -/
def Desc.blockCoord (d : Desc) (k : Nat) : List Nat :=
  let cs := d.blockCounts
  (List.range 5).map fun j =>
    let q := k / (cs.take j).foldl (· * ·) 1
    if j + 1 = d.ndim then q else if j < d.ndim then q % cs.getD j 1 else 0

/-- The element origin of a block coordinate (R168). -/
def Desc.origin (d : Desc) (c : List Nat) : Index :=
  (List.range 5).map fun j => (c.getD j 0 * d.blocks.getD j 1 : Nat)

/-- The sum of two indices. -/
def addIndex (a b : Index) : Index := (List.range 5).map fun j => a.getD j 0 + b.getD j 0

/-! ## Single elements -/

/-- Read an element of W bytes through L1, or its fill value outside the bounds (R212, R213). -/
def State.readElem (s : State) (c : Nat) (d : Desc) (i : Index) (w : Nat) : State × MemRes (List Byte) :=
  if d.inside i then s.load c (d.addr i) w else (s, .ok (d.fillBytes w))

/-- What a move has done so far: dropped writes, the bytes read and the bytes written, by address and length. -/
structure Moved where
  drops  : Nat
  reads  : List (Nat × Nat)
  writes : List (Nat × Nat)
deriving DecidableEq, Repr

/-- Nothing moved. -/
def Moved.none : Moved := ⟨0, [], []⟩

/-- A fault of a tensor-mover instruction: its status and address. -/
abbrev MoveFault := Option (Code × Nat)

/-- Move one element: read, then written or dropped (R212, R216, R219). A source element is read, and can fault, also when its write is
dropped (DESIGN CHOICE, log entry 22: R212 does not say). -/
def State.moveElem (s : State) (c : Nat) (src dst : Desc) (w : Nat) (p : Index × Index) (m : Moved) : State × Moved × MoveFault :=
  match s.readElem c src p.1 w with
  | (s, .fail st a) => (s, m, some (st, a))
  | (s, .ok bs) =>
    let m : Moved := { m with reads := if src.inside p.1 then m.reads ++ [(src.addr p.1, w)] else m.reads }
    if dst.inside p.2 then
      match s.store c (dst.addr p.2) bs with
      | (s, .ok ()) => (s, { m with writes := m.writes ++ [(dst.addr p.2, w)] }, none)
      | (s, .fail st a) => (s, m, some (st, a))
    else (s, { m with drops := m.drops + 1 }, none)

/-- Move elements in the order of a list of steps, until one faults. Each element is read when its turn comes, so one whose source an
earlier element has overwritten reads as written (DESIGN CHOICE, log entry 22: R170 leaves the destination bytes open only where they
are source bytes too). -/
def State.moveElems (s : State) (c : Nat) (src dst : Desc) (w : Nat) (f : Nat → Index × Index) :
    List Nat → Moved → State × Moved × MoveFault
  | [], m => (s, m, none)
  | k :: ks, m =>
    match s.moveElem c src dst w (f k) m with
    | (s, m, none) => s.moveElems c src dst w f ks m
    | r => r

/-! ## Overlap (R170) -/

/-- The device byte that a context byte maps to, by the translation as it stands. -/
def State.peek (s : State) (c a : Nat) : Option Nat :=
  match s.lookup (s.ctxOf c) (a % 2 ^ 48) with
  | .ok t => some (alias_ (t.base + a % 2 ^ 48 % 2 ^ t.log2))
  | .error _ => none

/-- The context bytes of ranges. -/
def rangeBytes (l : List (Nat × Nat)) : List Nat := l.flatMap fun r => (List.range r.2).map fun i => (r.1 + i) % 2 ^ 48

/-- Destination bytes that are also source bytes take free values. -/
def State.undefOverlap (s : State) (c : Nat) (m : Moved) : State :=
  let src := (rangeBytes m.reads).filterMap (s.peek c)
  let hit := (rangeBytes m.writes).filter fun a => match s.peek c a with | some d => src.contains d | none => false
  hit.foldl (fun s a => ((s.tick).store c a [Config.freeByte s.freeCtr]).1) s

/-- A move within the device ends: overlap, then the fault or the completion with its dropped writes. -/
def State.moveEnds (_s : State) (c : Nat) (e : Entry) (r : State × Moved × MoveFault) : State :=
  let t := (r.1).undefOverlap c r.2.1
  match r.2.2 with
  | some (status, a) => t.entryFaults c .tm e status none (some a)
  | none =>
    let t := t.modCore c fun k => k.modEntry .tm e.seq fun x => { x with drops := r.2.1.drops }
    t.entryDone c .tm e none

/-! ## Descriptor instructions and copies (R215, R216, Table 9.3) -/

/-- Set a descriptor. -/
def Core.setDesc (k : Core) (d : DReg) (v : BitVec 512) : Core := { k with descs := tabSet 0 k.descs d.toNat v }

/-- tm.dld starts. -/
def State.startDld (s : State) (c : Nat) (e : Entry) (d : DReg) : State :=
  match s.load c ((e.arg 0).toNat % 2 ^ 48) 64 with
  | (s, .fail st a) => s.entryFaults c .tm e st none (some a)
  | (s, .ok bs) => (s.modCore c (·.setDesc d (BitVec.ofNat 512 (leNat bs)))).entryDone c .tm e none

/-- tm.dst starts. -/
def State.startDst (s : State) (c : Nat) (e : Entry) (d : DReg) : State :=
  match s.store c ((e.arg 0).toNat % 2 ^ 48) (leBytes 64 ((s.core c).desc d).toNat) with
  | (s, .ok ()) => s.entryDone c .tm e none
  | (s, .fail st a) => s.entryFaults c .tm e st none (some a)

/-- A descriptor with one word replaced. -/
def descPut (w : BitVec 512) (j : Nat) (v : Word) : BitVec 512 :=
  (w &&& ~~~((BitVec.allOnes 64).setWidth 512 <<< (64 * j))) ||| (v.setWidth 512 <<< (64 * j))

/-- tm.dset starts. -/
def State.startDset (s : State) (c : Nat) (e : Entry) (d : DReg) (word : BitVec 3) : State :=
  (s.modCore c fun k => k.setDesc d (descPut (k.desc d) word.toNat (e.arg 0))).entryDone c .tm e none

/-- The index with dimensions 0 and 1 exchanged. -/
def swapIndex (i : Index) : Index := [i.getD 1 0, i.getD 0 0, i.getD 2 0, i.getD 3 0, i.getD 4 0]

/-- tm.copy starts. -/
def State.startCopy (s : State) (c : Nat) (e : Entry) (dd ds : DReg) (xpose : Bool) : State :=
  let dst := descOf ((s.core c).desc dd)
  let src := descOf ((s.core c).desc ds)
  let f (n : Nat) : Index × Index := let i := dst.index n; (if xpose then swapIndex i else i, i)
  s.moveEnds c e (s.moveElems c src dst dst.width f (List.range dst.total) Moved.none)

/-- The coordinates of an index-list entry: m elements, then zeros (R168); an element number past the list reads as fill. -/
def State.entryCoords (s : State) (c : Nat) (di : Desc) (k m : Nat) : List Nat → List Nat → Moved →
    State × List Nat × Moved × MoveFault
  | [], acc, mv => (s, acc, mv, none)
  | j :: js, acc, mv =>
    let n := k * m + j
    if di.count ≤ n then s.entryCoords c di k m js (acc ++ [di.fill]) mv
    else
      match s.readElem c di (di.index n) 4 with
      | (s, .fail st a) => (s, acc, mv, some (st, a))
      | (s, .ok bs) => s.entryCoords c di k m js (acc ++ [leNat bs]) mv

/-- The blocks of a gather or scatter in ascending k, at most the cap of elements in all (R169, R218). `listed` is the descriptor
that the coordinates refer to; in a gather it is the source. Entry k is read when block k's turn comes, so a list that overlaps the
destination is read as the earlier blocks have left it (DESIGN CHOICE, log entry 22). -/
def State.moveBlocks (s : State) (c : Nat) (src dst di : Desc) (gather : Bool) : List Nat → Nat → Moved → State × Moved × MoveFault
  | [], _, m => (s, m, none)
  | k :: ks, left, m =>
    let listed := if gather then src else dst
    let other := if gather then dst else src
    match s.entryCoords c di k listed.ndim (List.range listed.ndim) [] m with
    | (s, _, m, some f) => (s, m, some f)
    | (s, cs, m, none) =>
      let o1 := listed.origin cs
      let o2 := other.origin (other.blockCoord k)
      let n := min (listed.blocks.foldl (· * ·) 1) left
      let f (i : Nat) : Index × Index :=
        let e := (mixed listed.blocks i).map Int.ofNat
        if gather then (addIndex o1 e, addIndex o2 e) else (addIndex o2 e, addIndex o1 e)
      match s.moveElems c src dst dst.width f (List.range n) m with
      | (s, m, none) => if left ≤ n then (s, m, none) else s.moveBlocks c src dst di gather ks (left - n) m
      | r => r

/-- tm.gather and tm.scatter start. -/
def State.startBlocks (s : State) (c : Nat) (e : Entry) (dd ds di : DReg) (gather : Bool) : State :=
  let k := s.core c
  let n := min (e.arg 0).toNat moveCap
  s.moveEnds c e (s.moveBlocks c (descOf (k.desc ds)) (descOf (k.desc dd)) (descOf (k.desc di)) gather (List.range n) moveCap
    Moved.none)

/-! ## Dropped writes (R212) -/

/-- DROPS of a descriptor, raised and saturated. -/
def addDrops (w : BitVec 512) (n : Nat) : BitVec 512 :=
  let w7 := descWord w 7
  descPut w 7 (BitVec.ofNat 64 (w7 % 2 ^ 48 + min (w7 / 2 ^ 48 + n) 0xFFFF * 2 ^ 48))

/-- The descriptor that counts an instruction's dropped writes (Table 9.3). -/
def dropsDesc : Op → Option DReg
  | .copy dd _ _ | .gather dd _ _ _ | .scatter dd _ _ _ | .rget dd .. | .ingest dd .. => some dd
  | .rput ds .. => some ds
  | _ => none

/-! ## Remote transfers at the initiator (R221, R222, Table 9.4) -/

/-- A remote transfer's outcome is written to SD at its completion. -/
def State.xferEnds (s : State) (c : Nat) (e : Entry) (sd : SReg) (status : Code) : State :=
  let s := s.modCore c fun k => { k with xferTm := none }
  s.entryDone c .tm e (some (sd, status.setWidth 64))

/-- The baton of a handle on a device: its partition, context and number; none when the handle is unbound or names another
device (R166). -/
def State.signalOf (s : State) (c : Nat) (b : BReg) (dev : BitVec 16) : Option (PartId × BitVec 16 × BitVec 16) :=
  match (s.core c).handle b with
  | none => none
  | some h =>
    let n : BitVec 16 := h.setWidth 16
    if h.getLsbD 36 then
      if (h >>> 20).setWidth 16 == dev then some (⟨field h 16 4, Nat.mod_lt _ (by decide)⟩, (h >>> 37).setWidth 16, n) else none
    else
      let p := (s.partOf c).getD 0
      if dev == s.devId then
        some (⟨p % 16, Nat.mod_lt _ (by decide)⟩, (match (s.part p).bound with | some x => x.id | none => 0), n)
      else none

/-- The logical number of a core. -/
def Core.lg (k : Core) : Nat := (k.logical.map BitVec.toNat).getD 0

/-- A partition number. -/
def partId (p : Nat) : PartId := ⟨p % 16, Nat.mod_lt _ (by decide)⟩

/-- The partition of a core, as the source of its records. -/
def State.srcPart (s : State) (c : Nat) : PartId := partId ((s.partOf c).getD 0)

/-- Issue a record of the transfer: its deadline is the last, and one of those whose answers are awaited. -/
def State.issueFor (s : State) (x : Xfer) (r : Record) : State × Xfer :=
  let (s, d) := s.issue r
  (s, { x with deadline := d, sent := x.sent ++ [d] })

/-- The answer to the first unanswered record of the transfer is missing at its DEADLINE + 1 µs: no further record is issued, and answers
that come later are discarded (R281). -/
def Xfer.late (x : Xfer) (now : Word) : Bool := match x.sent with | d :: _ => decide (d.toNat + 1000 ≤ now.toNat) | [] => false

/-- The elements of the next record of a transfer: at most 4,096 bytes of them. -/
def Xfer.chunk (x : Xfer) : Nat := min (x.total - x.next) (4096 / max (descOf x.desc).width 1)

/-- The records of a record's flow that this device has issued and not sent: they wait on a port, in a hold, or for this device itself. -/
def State.unsent (s : State) (r : Record) : Nat :=
  let mine (o : Record) : Bool := sameFlow o r && !isAnswer o.type
  let onPort (p : Nat) : Nat := (s.port p).waiting.countP fun k => match k.msg with | .record o => mine o | _ => false
  (List.range 28).foldl (fun n p => n + onPort p) (s.loopback.countP mine) +
    s.holds.foldl (fun n h => n + h.records.countP fun o => mine o.2) 0

/-- Do the initiator's transport buffers take another record of the flow: none of it waits for a link's credits, or not as many as they hold
(R276, R281)? -/
def State.hasRoom (s : State) (r : Record) : Bool :=
  let n := s.unsent r
  n == 0 || decide (n < Config.transportRecords)

/-- The INC that signals a transfer, behind its last record in the flow (R221, R257). -/
def Xfer.signal (x : Xfer) (lg : Nat) (dev : BitVec 16) (src : PartId) : Record :=
  { x.record .inc lg dev src false with dstPart := x.sigPart, remote := x.baton.setWidth 48, data := leBytes 8 1, last := true }

/-- The transfer of a core is complete: its data, and its signal when it has one. -/
def Xfer.complete (x : Xfer) : Bool := x.sent.isEmpty && decide (x.total ≤ x.acked) && (!x.sig || x.sigAcked)

/-- Read the local elements of a chunk of a tm.rput. -/
def State.gatherLocal (s : State) (c : Nat) (src rem : Desc) : List Nat → List Byte → State × List Byte × MoveFault
  | [], acc => (s, acc, none)
  | f :: fs, acc =>
    match s.readElem c src (rem.index f) rem.width with
    | (s, .fail st a) => (s, acc, some (st, a))
    | (s, .ok bs) => s.gatherLocal c src rem fs (acc ++ bs)

/-- The next WRITE of a tm.rput, with the local elements it carries; none when reading them faults. -/
def State.nextWrite (s : State) (c : Nat) (d : DReg) (x : Xfer) : State × Record × MoveFault :=
  let k := s.core c
  let rem := descOf x.desc
  let n := x.chunk
  let (s, bs, fault) := s.gatherLocal c (descOf (k.desc d)) rem ((List.range n).map (x.next + ·)) []
  (s, { x.record (if rem.width = 8 then .write64 else .write) k.lg s.devId (s.srcPart c) false with
          first := BitVec.ofNat 32 x.next, count := BitVec.ofNat 16 n, data := bs, last := decide (x.total ≤ x.next + n) && !x.sig }, fault)

/-- The next READ of a tm.rget: it carries the local destination descriptor, whose indices it asks for. -/
def State.nextRead (s : State) (c : Nat) (x : Xfer) : Record :=
  { x.record .read (s.core c).lg s.devId (s.srcPart c) false with
      first := BitVec.ofNat 32 x.next, count := BitVec.ofNat 16 x.chunk, data := leBytes 64 x.desc.toNat,
      last := decide (x.total ≤ x.next + x.chunk) }

/-- Is the signal of a transfer due: behind the last WRITE of a tm.rput, or when the last element of a tm.rget has come (R221)? -/
def Xfer.signals (x : Xfer) : Bool :=
  x.sig && !x.sigSent && (if x.kind = .rget then x.sent.isEmpty && decide (x.total ≤ x.acked) else decide (x.total ≤ x.next))

/-- The records of a transfer are issued in order, each with its own deadline, while the transport buffers take them: its elements, then its
signal. None follows a record whose answer is missing at its DEADLINE + 1 µs, and none a local fault (R281). -/
def State.issueMore (s : State) (c : Nat) (d : DReg) : Nat → Xfer → State × Xfer × MoveFault
  | 0, x => (s, x, none)
  | fuel + 1, x =>
    let k := s.core c
    if x.late s.lineTime || !s.hasRoom (x.record .read k.lg s.devId (s.srcPart c) false) then (s, x, none)
    else if x.next < x.total then
      let (s, r, fault) := if x.kind = .rput then s.nextWrite c d x else (s, s.nextRead c x, none)
      match fault with
      | some f => (s, x, some f)
      | none =>
        let (s, y) := s.issueFor x r
        s.issueMore c d fuel { y with next := x.next + x.chunk }
    else if x.signals then
      let (s, x) := s.issueFor x (x.signal k.lg s.devId (s.srcPart c))
      (s, { x with sigSent := true }, none)
    else (s, x, none)

/-- Row 2 of Table 9.4 for a tm.rget: 8-byte elements, and a link out of this device runs Relay Link 1.0. A transfer of no elements moves none
of 8 bytes, and the links that its answers come back on, which the other devices choose, are not asked (both the model's choices, log entry
22). -/
def State.width8Refused (s : State) (lg : Nat) (x : Xfer) : Bool :=
  let r := { x.record .read lg s.devId 0 false with data := leBytes 64 x.desc.toNat }
  decide (0 < x.total) && x.dst != s.devId &&
    (match s.linkOf r none with | .error e => e == Code.version | .ok _ => false)

/-- tm.rput and tm.rget start (rows 1 to 3 of Table 9.4, R305): the READ of the remote record, or the READs of its elements. -/
def State.startRemote (s : State) (c : Nat) (e : Entry) (d : DReg) (b : BReg) (sig : Bool) (sd : SReg) (put_ : Bool) : State :=
  let k := s.core c
  let dev : BitVec 16 := (e.arg 0).setWidth 16
  let part := partId (field (e.arg 0) 16 4)
  let sg := if sig then s.signalOf c b dev else some (part, 0, 0)
  match sg with
  | none => s.xferEnds c e sd Code.wrongState
  | some (sp, ctx, baton) =>
    let dd := k.desc d
    let base : Xfer :=
      { kind := if put_ then .rputRead else .rget, dst := dev, part := part, xferNo := 0, desc := dd,
        total := if put_ then 0 else (descOf dd).total, next := 0, acked := 0, deadline := 0, sent := [], onOwn := false, sig := sig,
        sigSent := false, sigAcked := false, sigPart := sp, context := ctx, remote := (e.arg 1).setWidth 48, baton := baton, code := 0, hostAddr := 0,
        hostLen := 0, buf := [] }
    if s.preLock then
      let x := { base with onOwn := true, deadline := s.lt.own + BitVec.ofNat 64 (s.lifetime dev) }
      (s.modCore c fun k => { k with xferTm := some x }).entryRuns c .tm e
    else if !put_ && s.width8Refused k.lg base then s.xferEnds c e sd Code.version
    else if !s.inRoster dev s.lineTime || !s.inRoster s.devId s.lineTime then s.xferEnds c e sd Code.securityDenied
    else
      let (s, no) := s.newXfer k.lg false dev
      let x := { base with xferNo := no }
      let src := s.srcPart c
      let (s, x) :=
        if put_ || x.total = 0 then s.issueFor x (x.record .read k.lg s.devId src false)
        else
          let (s, x, _) := s.issueMore c d x.total x
          (s, x)
      (s.modCore c fun k => { k with xferTm := some x }).entryRuns c .tm e

/-- The descriptor register and SD of a remote transfer. -/
def remoteOperands : Op → Option (DReg × SReg)
  | .rput ds _ _ _ _ sd => some (ds, sd)
  | .rget dd _ _ _ _ sd => some (dd, sd)
  | _ => none

/-- The remote transfer that a core's TM engine executes. -/
def Core.remoteNow (k : Core) : Option (Entry × DReg × SReg × Xfer) :=
  match k.tmq, k.xferTm with
  | e :: _, some x =>
    if k.works && e.started && !e.done && !e.faulted then (remoteOperands e.op).map fun o => (e, o.1, o.2, x) else none
  | _, _ => none

/-- A transfer goes on: further records are issued (R281), its progress is kept, and it ends when it is complete or when a local read
faults. -/
def State.xferStep (s : State) (c : Nat) (e : Entry) (d : DReg) (sd : SReg) (x : Xfer) : State :=
  match s.issueMore c d (x.total - x.next + 1) x with
  | (s, _, some (status, a)) => (s.modCore c fun k => { k with xferTm := none }).entryFaults c .tm e status none (some a)
  | (s, x, none) =>
    if x.complete then s.xferEnds c e sd Code.ok
    else s.modCore c fun k => { k with xferTm := some x }

/-- The remote record has arrived: the elements are sent, and the signal behind them (R221). -/
def State.rputRecord (s : State) (c : Nat) (e : Entry) (ds : DReg) (sd : SReg) (x : Xfer) (data : List Byte) : State :=
  let w : BitVec 512 := BitVec.ofNat 512 (leNat data)
  s.xferStep c e ds sd { x with kind := .rput, desc := w, total := (descOf w).total }

/-- Write received elements of a tm.rget. -/
def State.scatterLocal (s : State) (c : Nat) (dst : Desc) (w : Nat) : List Nat → List Byte → State × MoveFault
  | [], _ => (s, none)
  | f :: fs, bs =>
    match s.store c (dst.addr (dst.index f)) (bs.take w) with
    | (s, .ok ()) => s.scatterLocal c dst w fs (bs.drop w)
    | (s, .fail st a) => (s, some (st, a))

/-- Elements of a tm.rget have arrived; poisoned data ends it with POISON. -/
def State.rgetData (s : State) (c : Nat) (e : Entry) (dd : DReg) (sd : SReg) (x : Xfer) (r : Record) : State :=
  let dst := descOf x.desc
  if r.poison then s.xferEnds c e sd Code.poison
  else match s.scatterLocal c dst dst.width ((List.range r.count.toNat).map (r.first.toNat + ·)) r.data with
    | (s, some (status, a)) => (s.modCore c fun k => { k with xferTm := none }).entryFaults c .tm e status none (some a)
    | (s, none) => s.xferStep c e dd sd { x with acked := x.acked + r.count.toNat }

/-- The statuses of Table 9.4 that end a transfer. -/
def transferStatus (c : Code) : Bool :=
  [Code.wrongState, Code.version, Code.securityDenied, Code.fenced, Code.pageFault, Code.poison, Code.timeout].contains c

/-- An answer reaches the TM engine that waits for it; one of another flow or transfer is discarded, and so is an ACK or
READ_DATA that comes later than its record's DEADLINE + 1 µs (R281). -/
def State.answerTm (s : State) (c : Nat) (r : Record) : State :=
  match (s.core c).remoteNow with
  | none => s
  | some (e, d, sd, x) =>
    if x.dst != r.srcDev || x.xferNo != r.xfer || x.onOwn then s
    else if r.type = .nack then
      if transferStatus r.status then s.xferEnds c e sd r.status else s
    else if x.late s.lineTime then s
    else
      let x : Xfer := { x with sent := x.sent.drop 1 }
      match r.type with
      | .readData =>
        match x.kind with
        | .rputRead => if r.poison then s.xferEnds c e sd Code.poison else s.rputRecord c e d sd x r.data
        | .rget => s.rgetData c e d sd x r
        | _ => s
      | .ack =>
        s.xferStep c e d sd (if r.count = 0 then { x with sigAcked := true } else { x with acked := x.acked + r.count.toNat })
      | _ => s

/-- Credits have come: the transfer that a core's TM engine executes issues what its buffers take now (R276, R281; that it looks again then and
at each answer is DEDUCED, log entry 22). -/
def State.transferGoesOn (s : State) (c : Nat) : State :=
  match (s.core c).remoteNow with
  | some (e, d, sd, x) => if !x.onOwn && (x.kind = .rput || x.kind = .rget) then s.xferStep c e d sd x else s
  | none => s

/-- A remote transfer times out: its status is TIMEOUT (R281, R305). -/
def State.xferTimeout (s : State) (c : Nat) : State :=
  match (s.core c).remoteNow with
  | none => s
  | some (e, _, sd, _) => s.xferEnds c e sd Code.timeout

/-! ## Transfers at the target (Table 9.4) -/

/-- Must an access at the target reach a fenced unit, or one that no path from junction `j` reaches (R247)? -/
def State.unitFenced (s : State) (p j a n : Nat) : Bool :=
  (piecesOf a n).any fun q =>
    match s.lookup p q.1 with
    | .ok t =>
      let d := t.base + q.1 % 2 ^ t.log2
      (!inNear d && s.sliceFenced d) || !s.reachesAddr j d
    | .error _ => false

/-- A read at the target: rows 6 and 7. -/
def State.targetRead (s : State) (p a n : Nat) : State × Except Code (List Byte) :=
  match s.ctxRead p a n with
  | (s, .ok bs) => (s, .ok bs)
  | (s, .fail st _) => (s, .error st)

/-- The elements that a READ names, in its order. -/
def State.targetElems (s : State) (p : Nat) (rem shape : Desc) : List Nat → List Byte → State × Except Code (List Byte)
  | [], acc => (s, .ok acc)
  | f :: fs, acc =>
    let i := shape.index f
    if rem.inside i then
      match s.targetRead p (rem.addr i) shape.width with
      | (s, .ok bs) => s.targetElems p rem shape fs (acc ++ bs)
      | r => r
    else s.targetElems p rem shape fs (acc ++ rem.fillBytes shape.width)

/-- The elements of a WRITE, written in order until one fails. -/
def State.targetWrites (s : State) (p : Nat) (rem : Desc) (w : Nat) (poison : Bool) : List Nat → List Byte → State × Option Code
  | [], _ => (s, none)
  | f :: fs, bs =>
    match s.ctxWrite p (rem.addr (rem.index f)) (bs.take w) poison with
    | (s, .ok ()) => s.targetWrites p rem w poison fs (bs.drop w)
    | (s, .fail st _) => (s, some st)

/-- The element numbers of a record. -/
def recordElems (r : Record) : List Nat := (List.range r.count.toNat).map (r.first.toNat + ·)

/-- The remote record that the transfer has read already: it is read once, before any element moves (R221). -/
def State.heldRecord (s : State) (r : Record) : Option (BitVec 512) :=
  match s.inFlow r with
  | some f => if f.xfer == r.xfer then f.desc else none
  | none => none

/-- The remote record of a transfer: the one it has read, or the one in memory. -/
def State.remoteRecord (s : State) (r : Record) : State × Except Code (BitVec 512) :=
  match s.heldRecord r with
  | some w => (s, .ok w)
  | none =>
    match s.targetRead r.dstPart.val r.remote.toNat 64 with
    | (s, .ok bs) => (s, .ok (BitVec.ofNat 512 (leNat bs)))
    | (s, .error e) => (s, .error e)

/-- Row 4 of Table 9.4: a unit that the transfer must reach, for its remote record, for any of its elements or for its signal, is fenced or
not reached. -/
def State.transferFenced (s : State) (r : Record) (j : Nat) : Bool :=
  let p := r.dstPart.val
  if s.fabric.fenced.isEmpty && s.consist.routing.isNone && (List.range 8).all (fun d => (s.die d).sliceFenced == 0) then false
  else s.unitFenced p j r.remote.toNat 64 || (r.sig && !s.storeReaches j r.sigPart.val) ||
    (match (s.remoteRecord r).2 with
     | .error _ => false
     | .ok w =>
       let rem := descOf w
       let shape := if r.type == .read && !r.data.isEmpty then descOf (BitVec.ofNat 512 (leNat r.data)) else rem
       (List.range shape.total).any fun f =>
         rem.inside (shape.index f) && s.unitFenced p j (rem.addr (shape.index f)) shape.width)

/-- What the target does with a READ: the record itself, or the elements asked for. -/
def State.serveRead (s : State) (r : Record) : State × Except Code (List Byte) × Option (BitVec 512) :=
  match s.remoteRecord r with
  | (s, .error e) => (s, .error e, none)
  | (s, .ok w) =>
    if r.data.isEmpty then (s, .ok (leBytes 64 w.toNat), some w)
    else
      match s.targetElems r.dstPart.val (descOf w) (descOf (BitVec.ofNat 512 (leNat r.data))) (recordElems r) [] with
      | (s, res) => (s, res, some w)

/-- What the target does with a WRITE. -/
def State.serveWrite (s : State) (r : Record) : State × Option Code :=
  match s.remoteRecord r with
  | (s, .error e) => (s, some e)
  | (s, .ok w) =>
    let rem := descOf w
    s.targetWrites r.dstPart.val rem rem.width r.poison (recordElems r) r.data

/-- Rows 3 to 5 of Table 9.4, in their order. -/
def State.transferRefused (s : State) (r : Record) (j : Nat) : Option Code :=
  if s.transferDenied r then some Code.securityDenied
  else if s.transferFenced r j then some Code.fenced
  else if s.transferState r then some Code.wrongState
  else none

/-- The target has decided a record: it answers, and a NACK ends the transfer (R281). -/
def State.serveEnds (s : State) (r : Record) (j : Nat) (type : RecType) (status : Code) (data : List Byte) (desc : Option (BitVec 512)) :
    State :=
  let f := nextFlow (s.inFlow r) r (type == .nack) desc
  (s.setInFlow r f).transmit (s.answer r type status data) none j

/-- A request in flow order: rows 3 to 9 of Table 9.4, or Table 11.3; FENCED for an increment whose sync store no path reaches, which no row
of Table 11.3 names (R247, R349; DEDUCED, log entry 12). -/
def State.serveRequest (s : State) (r : Record) (j : Nat) : State :=
  match r.type with
  | .inc =>
    let v : Word := BitVec.ofNat 64 (leNat (r.data.take 8))
    let res := if r.engineSy then
        s.remoteInc r.srcDev r.srcPart r.dstPart r.context (s.originOf r) (r.remote.toNat % 65536) v
      else s.signalInc r v
    match if s.storeReaches j r.dstPart.val then res else (s, Code.fenced) with
    | (s, status) => if status = Code.ok then s.serveEnds r j .ack 0 [] none else s.serveEnds r j .nack status [] none
  | .read =>
    match s.transferRefused r j with
    | some status => s.serveEnds r j .nack status [] none
    | none =>
      match s.serveRead r with
      | (s, .ok bs, desc) => s.serveEnds r j .readData 0 bs desc
      | (s, .error status, _) => s.serveEnds r j .nack status [] none
  | .write | .write64 =>
    match s.transferRefused r j with
    | some status => s.serveEnds r j .nack status [] none
    | none =>
      match s.serveWrite r with
      | (s, none) => s.serveEnds r j .ack 0 [] none
      | (s, some status) => s.serveEnds r j .nack status [] none
  | _ => s

/-- A request reaches its target at junction `j`: in flow order it is served, after a gap it is answered with TIMEOUT, and of a
transfer that has ended it is discarded (R281). -/
def State.serve (s : State) (r : Record) (j : Nat) : State :=
  match flowOrder (s.inFlow r) r with
  | .accept => s.serveRequest r j
  | .gap => s.serveEnds r j .nack Code.timeout [] none
  | .drop => s.setInFlow r (nextFlow (s.inFlow r) r true none)

/-! ## Ingest (R223 to R226) -/

/-- The axes of a rotation plane (Table 7.9). -/
def planeAxes (p : Nat) : Nat × Nat :=
  match p with
  | 0 => (0, 1) | 1 => (0, 2) | 2 => (0, 3) | 3 => (1, 2) | 4 => (1, 3) | _ => (2, 3)

/-- The source index of a destination index under a transform code (R225). -/
def ingestIndex (ds : Desc) (code : BitVec 9) (i : Index) : Index :=
  let rot := code.toNat / 16 % 4
  let (a, b) := planeAxes (code.toNat / 64)
  let ext (j : Nat) : Int := (ds.extents.getD j 0 : Int)
  let at_ (j : Nat) : Int := i.getD j 0
  let r (j : Nat) : Int :=
    if rot = 0 || (j != a && j != b) then at_ j
    else if rot = 1 then (if j = a then at_ b else ext b - 1 - at_ a)
    else if rot = 2 then ext j - 1 - at_ j
    else (if j = a then ext a - 1 - at_ b else at_ a)
  (List.range 5).map fun j => if j < 4 && code.getLsbD j then ext j - 1 - r j else r j

/-- Write elements in DD's order: fill where DS has no element, host data while it lasts. Answers the next element number, the data
left and the fault. -/
def State.ingestGo (s : State) (c : Nat) (ds dd : Desc) (code : BitVec 9) : Nat → Nat → List Byte → State × Nat × List Byte × MoveFault
  | 0, n, bs => (s, n, bs, none)
  | fuel + 1, n, bs =>
    let i := dd.index n
    let w := dd.width
    let inside := ds.inside (ingestIndex ds code i)
    if inside && decide (bs.length < w) then (s, n, bs, none)
    else
      let v := if inside then bs.take w else ds.fillBytes w
      match s.store c (dd.addr i) v with
      | (s, .ok ()) => s.ingestGo c ds dd code fuel (n + 1) (if inside then bs.drop w else bs)
      | (s, .fail st a) => (s, n, bs, some (st, a))

/-- The operands of an ingest. -/
def ingestOperands : Op → Option (DReg × DReg × SReg)
  | .ingest dd ds _ _ _ sd => some (dd, ds, sd)
  | _ => none

/-- The elements from number `n` on whose host bytes follow one another from address `a`: one read request covers them (R223). -/
def hostRun (ds dd : Desc) (code : BitVec 9) : Nat → Nat → Nat → Nat
  | 0, _, _ => 0
  | fuel + 1, n, a =>
    let i := ingestIndex ds code (dd.index n)
    if ds.inside i && ds.addr i == a % 2 ^ 48 then 1 + hostRun ds dd code fuel (n + 1) (a + dd.width) else 0

/-- The time that a host read may take: 50 ms (Table 9.5). -/
def hostTimeout : Word := 50000000#64

/-- The ingest goes on: the next read request leaves when none is out, of at most 4,096 bytes (R223). -/
def State.hostRead (s : State) (ds dd : Desc) (x : Xfer) : Xfer :=
  if x.hostLen != 0 then x
  else
    let a := ds.addr (ingestIndex ds x.code (dd.index x.next))
    { x with hostAddr := a, hostLen := dd.width * hostRun ds dd x.code (min (4096 / max dd.width 1) (x.total - x.next)) x.next a,
             deadline := s.lt.own + hostTimeout }

/-- Does a core's request reach the host port of its partition: a function of IO0 for HP0, of IO1 for HP1 (R19, R349)? -/
def State.hostReaches (s : State) (c : Nat) : Bool :=
  s.reaches (clusterOf c) (ioFunction (s.part ((s.partOf c).getD 0)).host.val (clusterOf c))

/-- An ingest goes on with host data: what the request that is out still asks for is taken. A read request that no path lets through ends it
with FENCED in SD (R247; DEDUCED, log entry 12: Table 9.5 does not list it). -/
def State.ingestData (s : State) (c : Nat) (e : Entry) (dd ds : DReg) (sd : SReg) (x : Xfer) (data : List Byte) : State :=
  let k := s.core c
  let d := descOf (k.desc dd)
  let src := descOf (k.desc ds)
  let got := data.take x.hostLen
  let x : Xfer := { x with hostAddr := x.hostAddr + got.length, hostLen := x.hostLen - got.length, buf := x.buf ++ got }
  match s.ingestGo c src d x.code (x.total - x.next) x.next x.buf with
  | (s, _, _, some (status, a)) =>
    (s.modCore c fun k => { k with xferTm := none }).entryFaults c .tm e status none (some a)
  | (s, n, rest, none) =>
    if x.total ≤ n then s.xferEnds c e sd Code.ok
    else if !s.hostReaches c then s.xferEnds c e sd Code.fenced
    else s.modCore c fun k => { k with xferTm := some (s.hostRead src d { x with next := n, buf := rest }) }

/-- A transform code that is reserved (R167). -/
def codeReserved (code : BitVec 9) : Bool := code.toNat / 16 % 4 != 0 && decide (6 ≤ code.toNat / 64)

/-- tm.ingest starts: a reserved code of SXF faults; the elements outside DS are filled, and the host is read for the rest. -/
def State.startIngest (s : State) (c : Nat) (e : Entry) (dd ds : DReg) (xfs : Bool) (xf : BitVec 9) (sd : SReg) : State :=
  let code : BitVec 9 := if xfs then (e.arg 0).setWidth 9 else xf
  if codeReserved code then s.entryShape c .tm e
  else
    let x : Xfer :=
      { kind := .ingest, dst := 0, part := 0, xferNo := 0, desc := 0, total := (descOf ((s.core c).desc dd)).total, next := 0,
        acked := 0, deadline := 0, sent := [], onOwn := true, sig := false, sigSent := false, sigAcked := false, sigPart := 0, context := 0, remote := 0,
        baton := 0, code := code, hostAddr := 0, hostLen := 0, buf := [] }
    (s.entryRuns c .tm e).ingestData c e dd ds sd x []

/-- The ingest that a core's TM engine executes. -/
def Core.ingestNow (k : Core) : Option (Entry × DReg × DReg × SReg × Xfer) :=
  match k.tmq, k.xferTm with
  | e :: _, some x =>
    if k.works && e.started && !e.done && !e.faulted then (ingestOperands e.op).map fun o => (e, o.1, o.2.1, o.2.2, x) else none
  | _, _ => none

/-- The PCIe memory read request that a core's ingest has out: the host port that owns the partition, the host bus address and the
bytes (R223). -/
def State.ingestRequest (s : State) (c : Nat) : Option (HostPort × Nat × Nat) :=
  match (s.core c).ingestNow, s.partOf c with
  | some (_, _, _, _, x), some p => if x.hostLen = 0 then none else some ((s.part p).host, x.hostAddr, x.hostLen)
  | _, _ => none

end Sys2Proof.Machine
end

