-- ==== Sys2Proof/Machine/SyncEng.lean ====
section
/-!
DEFINITION. The sync engine of a core (R251 to R256, R258, R262 to R265): starting its instructions, and the answers of remote
increments.
-/
namespace Sys2Proof.Machine

/-- A sync instruction has its outcome at once. -/
def State.syDone (s : State) (c : Nat) (e : Entry) (v : Word) : State := (s.entryRuns c .sy e).finishSy c v

/-- The baton number, partition, device and context of a handle value (Table 11.1). -/
def handleBaton (h : Word) : Nat := field h 0 16
def handleRemote (h : Word) : Bool := h.getLsbD 36

/-- The partition of a core whose kernel runs. -/
def State.partN (s : State) (c : Nat) : Nat := (s.partOf c).getD 0

/-- sy.bind starts (R251). -/
def State.startBind (s : State) (c : Nat) (e : Entry) (b : BReg) : State :=
  (s.modCore c fun k => { k with handles := tabPut k.handles b.toNat (some (e.arg 0)) }).entryDone c .sy e none

/-- The transfer that a remote sy.add is (R258). -/
def incXfer (h : Word) (no : BitVec 16) : Xfer :=
  { kind := .inc, dst := (h >>> 20).setWidth 16, part := partId (field h 16 4), xferNo := no, desc := 0, total := 0, next := 0,
    acked := 0, deadline := 0, sent := [], onOwn := false, sig := false, sigSent := false, sigAcked := false, sigPart := 0, context := (h >>> 37).setWidth 16,
    remote := BitVec.ofNat 48 (handleBaton h), baton := BitVec.ofNat 16 (handleBaton h), code := 0,
    hostAddr := 0, hostLen := 0, buf := [] }

/-! ## Sync traffic of flag-mode dies (R243) -/

/-- A combined message reaches the sync store: one increment of the sum of its members, or their arrivals at the barrier; what an
arrival comes to is Table 11.4. -/
def State.deliverSync (s : State) (m : SyncMsg) : State :=
  if m.bar then
    m.members.foldl (fun s x =>
      let (out, b) := ((s.part m.part).sync.bar m.target).enter m.lap false
      match out with
      | .refuse status =>
        let s := if status = Code.barrierMisuse then s.modPart m.part (·.bumpSy 5) else s
        s.finishSy x.1 (status.setWidth 64)
      | .passes => (s.modPart m.part (·.bumpSy 3)).finishSy x.1 (Code.ok.setWidth 64)
      | .waits lap =>
        let s := s.modPart m.part fun y => { y with sync := y.sync.setBar m.target b
                                                    waiters := y.waiters ++ [⟨.core x.1, .bar m.target lap, x.2.2⟩] }
        s.lapComplete m.part m.target s.devId 3) s
  else
    let sum := m.members.foldl (fun n x => n + x.2.1.toNat) 0
    let s := (s.modPart m.part (·.bumpSy 0)).increment m.part m.target (BitVec.ofNat 64 (min sum (2 ^ 64 - 1))) s.devId
    m.members.foldl (fun s x => s.finishSy x.1 (Code.ok.setWidth 64)) s

/-- The message of a core, if one is on its way. -/
def State.syncOf (s : State) (c : Nat) : Option (Nat × SyncMsg) :=
  let l := (s.die (dieOf c)).sync
  match listFind (fun m : SyncMsg => m.members.any fun x => x.1 == c) l with
  | none => none
  | some i => (l[i]?).map fun m => (i, m)

/-- The message of a core reaches the sync store. -/
def State.sendSync (s : State) (c : Nat) : State :=
  match s.syncOf c with
  | none => s
  | some (i, m) => (s.modDie (dieOf c) fun d => { d with sync := listDel d.sync i }).deliverSync m

/-- The messages of a partition on a die. -/
def Die.syncFor (d : Die) (p : Nat) : List SyncMsg := d.sync.filter fun m => m.part == p

/-- Every message of a partition reaches the sync store: those of cores that are being saved arrive before the copy is made (R55, R266). -/
def State.syncArrives (s : State) (p : Nat) : State :=
  (List.range 8).foldl (fun s d =>
    match (s.die d).syncFor p with
    | [] => s
    | ms => ms.foldl State.deliverSync (s.modDie d fun x => { x with sync := x.sync.filter fun m => m.part != p })) s

/-- The messages of a partition end with OWNER_LOST: arrivals at a barrier are waits in progress, and with `adds` increments that a reset
sync state does not accept (R267, Table 11.5). -/
def State.syncLost (s : State) (p : Nat) (adds : Bool) : State :=
  (List.range 8).foldl (fun s d =>
    match ((s.die d).syncFor p).filter fun m => m.bar || adds with
    | [] => s
    | gone =>
      let s := s.modDie d fun x => { x with sync := x.sync.filter fun m => !(m.part == p && (m.bar || adds)) }
      (gone.flatMap fun m => m.members).foldl
        (fun s x => (s.modPart p (·.bumpSy 6)).finishSy x.1 (Code.ownerLost.setWidth 64)) s) s

/-- Do two messages combine: one partition, one baton, or one barrier and lap? -/
def SyncMsg.like (a b : SyncMsg) : Bool := a.part == b.part && a.bar == b.bar && a.target == b.target && a.lap == b.lap

/-- Sync traffic enters the crossbar of a flag-mode die: it joins a message like it within 16 slice cycles of the message's first
member, which nothing here fixes, or that message goes on and it waits for others. The message reaches the sync store when the
completion of a member's instruction is commanded (log entry 13). -/
def State.combine (s : State) (c : Nat) (m : SyncMsg) : State :=
  let d := dieOf c
  match listFind (fun x : SyncMsg => x.like m) (s.die d).sync with
  | none => s.modDie d fun x => { x with sync := x.sync ++ [m] }
  | some i =>
    let joins := Config.freeBool s.freeCtr
    let s := s.tick
    if joins then s.modDie d fun x =>
      { x with sync := x.sync.map fun y => if y.like m then { y with members := y.members ++ m.members } else y }
    else
      match (s.die d).sync[i]? with
      | none => s
      | some old =>
        let s := (s.modDie d fun x => { x with sync := listDel x.sync i }).deliverSync old
        s.modDie d fun x => { x with sync := x.sync ++ [m] }

/-- sy.add starts (R243, R252, R254, R258, R305). A sync request that no path takes to the sync store ends with FENCED (R247, R349), a status
that Table 7.12 does not list (DEDUCED, log entry 12). -/
def State.startAdd (s : State) (c : Nat) (e : Entry) (b : BReg) : State :=
  let k := s.core c
  match k.handle b with
  | none => s.syDone c e (Code.wrongState.setWidth 64)
  | some h =>
    if handleRemote h then
      let x := incXfer h 0
      if s.preLock then
        let x : Xfer := { x with onOwn := true, deadline := s.lt.own + BitVec.ofNat 64 (s.lifetime x.dst) }
        (s.modCore c fun k => { k with xferSy := some x }).entryRuns c .sy e
      else
        let (s, no) := s.newXfer k.lg true x.dst
        let x := incXfer h no
        let r := { x.record .inc k.lg s.devId (s.srcPart c) true with data := leBytes 8 (e.arg 0).toNat, last := true }
        let (s, x) := s.issueFor x r
        (s.modCore c fun k => { k with xferSy := some x }).entryRuns c .sy e
    else if !s.syncReaches c (s.partN c) then s.syDone c e (Code.fenced.setWidth 64)
    else if (s.die (dieOf c)).flagMode then
      (s.entryRuns c .sy e).combine c ⟨s.partN c, false, handleBaton h, 0, [(c, e.arg 0, none)]⟩
    else
      let s := (s.entryRuns c .sy e).modPart (s.partN c) (·.bumpSy 0)
      (s.increment (s.partN c) (handleBaton h) (e.arg 0) s.devId).finishSy c (Code.ok.setWidth 64)

/-- A waiter joins the partition's list. -/
def State.addWaiter (s : State) (p : Nat) (w : Waiter) : State := s.modPart p fun x => { x with waiters := x.waiters ++ [w] }

/-- The deadline of a timeout of `ns` nanoseconds, none for 0, nor for one past the end of the count (R256). -/
def State.waitDeadline (s : State) (ns : Word) : Option Deadline :=
  if ns = 0 || decide (2 ^ 64 ≤ (if s.lt.state = .seeking then s.lt.own else s.lt.now).toNat + ns.toNat) then none
  else some (s.deadlineIn ns)

/-- A local handle's baton, or none when the handle is unbound or remote (R254). -/
def Core.localBaton (k : Core) (b : BReg) : Option Nat :=
  match k.handle b with
  | some h => if handleRemote h then none else some (handleBaton h)
  | none => none

/-- sy.wait starts (R256). -/
def State.startWait (s : State) (c : Nat) (e : Entry) (b : BReg) : State :=
  match (s.core c).localBaton b with
  | none => s.syDone c e (Code.wrongState.setWidth 64)
  | some n =>
    let p := s.partN c
    if !s.syncReaches c p then s.syDone c e (Code.fenced.setWidth 64)
    else if (e.arg 0).toNat ≤ ((s.part p).sync.baton n).toNat then
      (s.modPart p (·.bumpSy 3)).syDone c e (Code.ok.setWidth 64)
    else (s.addWaiter p ⟨.core c, .baton n (e.arg 0), s.waitDeadline (e.arg 1)⟩).entryRuns c .sy e

/-- sy.read starts (R255). -/
def State.startRead (s : State) (c : Nat) (e : Entry) (b : BReg) : State :=
  match (s.core c).localBaton b with
  | none => s.syDone c e (0x8000000000000000#64 ||| Code.wrongState.setWidth 64)
  | some n =>
    if !s.syncReaches c (s.partN c) then s.syDone c e (0x8000000000000000#64 ||| Code.fenced.setWidth 64)
    else s.syDone c e ((s.part (s.partN c)).sync.baton n)

/-- sy.bar starts (R243, R263, R264); an entry that only waits is no arrival and is not combined. -/
def State.startBar (s : State) (c : Nat) (e : Entry) (bar : BitVec 10) : State :=
  let p := s.partN c
  let slap := e.arg 0
  if !s.syncReaches c p then s.syDone c e (Code.fenced.setWidth 64)
  else if (s.die (dieOf c)).flagMode && !slap.getLsbD 63 then
    (s.entryRuns c .sy e).combine c ⟨p, true, bar.toNat, slap.setWidth 63, [(c, 0, s.waitDeadline (e.arg 1))]⟩
  else
  let (out, b) := ((s.part p).sync.bar bar.toNat).enter (slap.setWidth 63) (slap.getLsbD 63)
  match out with
  | .refuse status =>
    let s := if status = Code.barrierMisuse then s.modPart p (·.bumpSy 5) else s
    s.syDone c e (status.setWidth 64)
  | .passes => (s.modPart p (·.bumpSy 3)).syDone c e (Code.ok.setWidth 64)
  | .waits lap =>
    let s := s.modPart p fun x => { x with sync := x.sync.setBar bar.toNat b }
    let s := (s.addWaiter p ⟨.core c, .bar bar.toNat lap, s.waitDeadline (e.arg 1)⟩).entryRuns c .sy e
    s.lapComplete p bar.toNat s.devId 3

/-- sy.barcfg starts (R262). -/
def State.startBarcfg (s : State) (c : Nat) (e : Entry) (bar : BitVec 10) : State :=
  if !s.syncReaches c (s.partN c) then s.syDone c e (Code.fenced.setWidth 64)
  else
    let (s, status) := s.barConfig (s.partN c) bar.toNat ((e.arg 0).setWidth 16)
    s.syDone c e (status.setWidth 64)

/-- The remote increment that a core's SY engine waits for. -/
def Core.incNow (k : Core) : Option Xfer :=
  match k.syq, k.xferSy with
  | e :: _, some x => if k.works && e.started && !e.done then some x else none
  | _, _ => none

/-- A remote increment has its outcome (R253, R259). -/
def State.incEnds (s : State) (c : Nat) (status : Code) : State :=
  (s.modCore c fun k => { k with xferSy := none }).finishSy c (status.setWidth 64)

/-- An answer reaches the SY engine that waits for it; one of another flow or transfer is discarded, and so is an ACK
later than DEADLINE + 1 µs (R281). -/
def State.answerSy (s : State) (c : Nat) (r : Record) : State :=
  match (s.core c).incNow with
  | none => s
  | some x =>
    if x.dst != r.srcDev || x.xferNo != r.xfer || x.onOwn then s
    else match r.type with
      | .ack => if x.late s.lineTime then s else s.incEnds c Code.ok
      | .nack => s.incEnds c r.status
      | _ => s

end Sys2Proof.Machine
end

