-- ==== Sys2Proof/Machine/Matrix.lean ====
section
/-!
DEFINITION. The matrix engine (R59 to R108): shapes, B buffers, the array's cycles, accumulators, the fused store, rounding control.
-/
namespace Sys2Proof.Machine

/-! ## Accumulators (R75 to R77, R97, R98) -/

def MxState.accAt (m : MxState) (row col : Nat) : F32 := tabGet f32Zero m.acc (512 * row + col)
def MxState.setAcc (m : MxState) (row col : Nat) (v : F32) : MxState := { m with acc := tabSet f32Zero m.acc (512 * row + col) v }
def MxState.termsAt (m : MxState) (row q : Nat) : BitVec 20 := tabGet 0 m.terms (4 * row + q)
def MxState.setTerms (m : MxState) (row q : Nat) (v : BitVec 20) : MxState := { m with terms := tabSet 0 m.terms (4 * row + q) v }

/-- A term count raised by n, saturating at 0xF_FFFF (R76). -/
def addTerms (t : BitVec 20) (n : Nat) : BitVec 20 := BitVec.ofNat 20 (min (t.toNat + n) 0xFFFFF)

/-- Is an ADD that brings the count to `t` rounded stochastically (R76, R98)? -/
def MxState.stochastic (m : MxState) (t : BitVec 20) : Bool :=
  if m.lsMode = 1 then true else if m.lsMode = 2 then false else decide (m.longSum.toNat ≤ t.toNat)

/-- The core's logical number as a key of the generator (R77); 0 for a core without one. -/
def Core.key (k : Core) : Nat := (k.logical.map BitVec.toNat).getD 0

/-- The column quarters of columns [col, col + n). -/
def quartersOf (col n : Nat) : List Nat := (List.range 4).filter fun q => decide (col < 128 * q + 128) && decide (128 * q < col + n)

/-- Write results of one row at consecutive columns: SET or ADD, each term worth `n` terms (R60, R76, R97). -/
def Core.accRow (k : Core) (row col : Nat) (vs : List F32) (add : Bool) (n : Nat) : Core :=
  let m := k.mx
  let count (q : Nat) : BitVec 20 := if add then addTerms (m.termsAt row q) n else BitVec.ofNat 20 n
  let m1 := (quartersOf col vs.length).foldl (fun x q => x.setTerms row q (count q)) m
  let m2 := ((List.range vs.length).zip vs).foldl (fun x p =>
    let c := col + p.1
    let t := count (c / 128)
    let rnd := if m.stochastic t then Rnd.stoch (rng m.seed m.step 0 k.key row c t.toNat) else Rnd.nearest
    x.setAcc row c (if add then accAdd rnd (m.accAt row c) p.2 else p.2)) m1
  { k with mx := m2 }

/-! ## Operands of the array (R61 to R73) -/

/-- The format class of Table 3.2: 0 F8, 1 F4, 2 W16. -/
def arrayClass (f : BitVec 4) : Option Nat :=
  if f = 2 || f = 3 then some 0 else if f = 1 then some 1 else if f = 4 then some 2 else none

/-- ROW_LOG2 of an A register (Table 3.2). -/
def aRowLog2 (cls : Nat) : Nat := if cls = 0 then 7 else if cls = 1 then 6 else 8

/-- ROWS and ROW_LOG2 of each member of a B group (Table 3.3). -/
def bShape (cls : Nat) (split tp : Bool) : Nat × Nat :=
  match split, tp with
  | false, false => if cls = 1 then (32, 8) else (32, 9)
  | true, false => if cls = 0 then (128, 7) else if cls = 1 then (128, 6) else (128, 7)
  | _, true => if cls = 0 then (128, 7) else if cls = 1 then (128, 6) else (64, 8)

/-- Every register of an A run has one configuration of the shape of Table 3.2 (R62): one FORMAT, ROWS and ROW_LOG2; GROUP may differ (DESIGN
CHOICE, log entry 11: R62 does not say whether it belongs to what must be the same). -/
def Core.aRunOk (k : Core) (a : TReg) (alen : BitVec 3) (cls : Nat) : Bool :=
  let c0 := (k.tile a.toNat).cfg
  arrayClass c0.format == some cls && c0.rowLog2.toNat == aRowLog2 cls &&
  (List.range (alen.toNat + 1)).all fun i =>
    let c := (k.tile (a.toNat + i)).cfg
    c.format == c0.format && c.rows == c0.rows && c.rowLog2 == c0.rowLog2

/-- The B group is formed, and its shape is one of Table 3.3 (R45, R64). -/
def Core.bGroupOk (k : Core) (b : TReg) (cls : Nat) (split tp : Bool) : Bool :=
  b.toNat % 4 == 0 && (List.range 4).all fun j =>
    let c := (k.tile (b.toNat + j)).cfg
    c.group && arrayClass c.format == some cls && c.format == (k.tile b.toNat).cfg.format &&
    (c.rows.toNat, c.rowLog2.toNat) == bShape cls split tp

/-- The class of the B group of an array instruction. -/
def Core.classOf (k : Core) (t : TReg) : Option Nat := arrayClass (k.tile t.toNat).cfg.format

/-- Rows that end at acc[1023] at the latest (R62). -/
def rowsFit (base rows : Nat) : Bool := decide (rows ≤ 1024) && decide (base + rows ≤ 1024)

/-- May the array instruction start (R61 to R64, R73, R78)? -/
def Core.arrayShape (k : Core) : Op → Bool
  | .mm a alen b base _ tp _ =>
    match k.classOf b with
    | none => false
    | some cls => k.aRunOk a alen cls && k.bGroupOk b cls false tp && rowsFit base.toNat (k.runRows a alen)
  | .mmq m b _ tp _ q0 q1 q2 q3 =>
    match k.classOf b with
    | none => false
    | some cls =>
      let ok (i : Nat) (q : QRun) : Bool := !m.getLsbD i || (k.aRunOk q.a q.alen cls && rowsFit q.base.toNat (k.runRows q.a q.alen))
      k.bGroupOk b cls true tp && ok 0 q0 && ok 1 q1 && ok 2 q2 && ok 3 q3
  | .ew x y base _ _ =>
    let cx := (k.tile x.toNat).cfg
    let cy := (k.tile y.toNat).cfg
    match arrayClass cx.format with
    | none => false
    | some cls => arrayClass cy.format == some cls && cx.rows == cy.rows && cx.rowLog2 == cy.rowLog2 &&
        cx.rowLog2.toNat == (if cls = 1 then 8 else 9) && rowsFit base.toNat cx.rows.toNat
  | .accld t base col16 =>
    let c := (k.tile t.toNat).cfg
    c.format == 5 && decide (16 * col16.toNat + c.rowElems ≤ 512) && rowsFit base.toNat c.rows.toNat
  | .ldb b tp split =>
    match k.classOf b with
    | none => false
    | some cls => k.bGroupOk b cls split tp
  | _ => true

/-- Element k of A row i of a run (R62). -/
def Core.aElem (k : Core) (a : TReg) (i j : Nat) : Num :=
  let rows := max (k.tile a.toNat).cfg.rows.toNat 1
  (k.tile (a.toNat + i / rows)).elem (i % rows) j

/-- B[j][n] of a full array, or of quarter q in split mode (R65, R70). -/
def Core.bElem (k : Core) (b : TReg) (cls : Nat) (tp : Bool) (split : Option Nat) (j n : Nat) : Num :=
  match split, tp with
  | none, false => (k.tile (b.toNat + j / 32)).elem (j % 32) n
  | none, true =>
    let w := if cls = 2 then 64 else 128
    (k.tile (b.toNat + n / w)).elem (n % w) j
  | some q, false => (k.tile (b.toNat + q)).elem j n
  | some q, true => (k.tile (b.toNat + q)).elem n j

/-- The dot products of A row i with `cols` columns of B. -/
def Core.dotRow (k : Core) (a b : TReg) (cls : Nat) (tp : Bool) (split : Option Nat) (i cols : Nat) : List F32 :=
  let arow := (List.range 128).map fun j => k.aElem a i j
  (List.range cols).map fun n => dot (((List.range 128).zip arow).map fun p => (p.2, k.bElem b cls tp split p.1 n))

/-- The rows a step covers: a pair in F4, the last alone when the count is odd (R62). -/
def stepRows (f4 : Bool) (rows step : Nat) : List Nat :=
  if f4 then (if 2 * step + 1 < rows then [2 * step, 2 * step + 1] else [2 * step]) else [step]

/-- Steps for a number of rows. -/
def stepsOf (f4 : Bool) (rows : Nat) : Nat := if f4 then (rows + 1) / 2 else rows

/-- The quarter of an mx.mmq. -/
def quarterRun (q : Nat) (q0 q1 q2 q3 : QRun) : QRun := if q = 0 then q0 else if q = 1 then q1 else if q = 2 then q2 else q3

/-- The format class of an array instruction. -/
def Core.opClass (k : Core) : Op → Nat
  | .mm _ _ b .. => (k.classOf b).getD 0
  | .mmq _ b .. => (k.classOf b).getD 0
  | .ew x .. => (k.classOf x).getD 0
  | _ => 0

/-- The results of one step of an array instruction, written into the accumulators (R59, R60, R63, R71, R73, R78). -/
def Core.writeStep (k : Core) (op : Op) (q step : Nat) : Core :=
  match op with
  | .mm a alen b base add tp half =>
    let cls := k.opClass op
    let (col, n) := if cls = 2 then (256 * half.toNat, 256) else (0, 512)
    (stepRows (cls == 1) (k.runRows a alen) step).foldl
      (fun x i => x.accRow (base.toNat + i) col (k.dotRow a b cls tp none i n) add 128) k
  | .mmq _ b add tp half q0 q1 q2 q3 =>
    let cls := k.opClass op
    let r := quarterRun q q0 q1 q2 q3
    let (col, n) := if cls = 2 then (128 * q + 64 * half.toNat, 64) else (128 * q, 128)
    (stepRows (cls == 1) (k.runRows r.a r.alen) step).foldl
      (fun x i => x.accRow (r.base.toNat + i) col (k.dotRow r.a b cls tp (some q) i n) add 128) k
  | .ew x y base add half =>
    let cls := k.opClass op
    let (col, n) := if cls = 2 then (256 * half.toNat, 256) else (0, 512)
    let tx := k.tile x.toNat
    let ty := k.tile y.toNat
    (stepRows (cls == 1) tx.cfg.rows.toNat step).foldl
      (fun z i => z.accRow (base.toNat + i) col ((List.range n).map fun j => dot [(tx.elem i j, ty.elem i j)]) add 1) k
  | .accld t base col16 =>
    let x := k.tile t.toNat
    k.accRow (base.toNat + step) (16 * col16.toNat)
      ((List.range x.cfg.rowElems).map fun j => BitVec.ofNat 32 (codeAt x.data 5 (step * x.cfg.rowBytes) j)) false 1
  | _ => k

/-! ## Starting an array instruction, and B loads (R66 to R69) -/

/-- The B group, path and shape class of an instruction that uses the array with one. -/
def bOf : Op → Option (TReg × Bool × Bool)
  | .mm _ _ b _ _ tp _ => some (b, tp, false)
  | .mmq _ b _ tp _ _ _ _ _ => some (b, tp, true)
  | _ => none

/-- Begin a load into a buffer (R67, R68). -/
def Core.beginLoad (k : Core) (buf : Fin 2) (b : TReg) (tp split byArray : Bool) : Core :=
  { k with mx := { k.mx.setBuf buf ⟨false, true, tp, split, b, (k.tile b.toNat).cfg.format, byArray⟩ with
                   cnt := bump k.mx.cnt (if byArray then 6 else 7) 1 } }

/-- The buffer an array instruction uses from its start: a matching one, one being loaded with its group, or its own load; none
while another group's load must complete first (R67). -/
def Core.takeBuffer (k : Core) (b : TReg) (tp split : Bool) : Core × Option (Fin 2) :=
  match k.mx.match_ b tp split, k.mx.loadOf b tp split with
  | some x, _ => ({ k with mx := { k.mx with lastBuf := x } }, some x)
  | none, some x => ({ k with mx := { k.mx with lastBuf := x } }, some x)
  | none, none =>
    if k.mx.isLoading then (k, none)
    else
      let x := otherBuf k.mx.lastBuf
      let k := k.beginLoad x b tp split true
      ({ k with mx := { k.mx with lastBuf := x } }, some x)

/-- The quarters that take part, with their steps: the enabled ones in split mode, the whole array as quarter 0 otherwise. -/
def Core.jobQuarters (k : Core) (op : Op) : Tab QJob :=
  let f4 := k.opClass op == 1
  let job (n : Nat) : QJob := { QJob.none with rows := n }
  match op with
  | .mm a alen .. => [(0, job (stepsOf f4 (k.runRows a alen)))]
  | .mmq m _ _ _ _ q0 q1 q2 q3 =>
    (List.range 4).filterMap fun q =>
      if m.getLsbD q then
        let r := quarterRun q q0 q1 q2 q3
        some (q, job (stepsOf f4 (k.runRows r.a r.alen)))
      else none
  | .ew x .. => [(0, job (stepsOf f4 (k.tile x.toNat).cfg.rows.toNat))]
  | .accld t .. => [(0, job (k.tile t.toNat).cfg.rows.toNat)]
  | _ => []

/-- mx.mm, mx.mmq, mx.ew and mx.accld start: their shapes are checked, their B is found or loaded, and they feed (R67, R81). LAST_BUF
keeps the buffer of the last mx.mm or mx.mmq: the spec does not say which buffer the most recent array instruction used when that is
an mx.ew or an mx.accld, which use none (DESIGN CHOICE, log entry 11). -/
def State.startArray (s : State) (c : Nat) (e : Entry) : State :=
  let k := s.core c
  if !k.arrayShape e.op then s.entryShape c .mx e
  else
    let qs := k.jobQuarters e.op
    let (k, buf) := match bOf e.op with
      | some (b, tp, split) => k.takeBuffer b tp split
      | none => (k, none)
    let k : Core := { k with mx := { k.mx with jobs := k.mx.jobs ++ [⟨e.seq, e.op, k.mx.clk, buf, qs⟩] } }
    (s.setCore c k).entryRuns c .mx e

/-- mx.ldb starts (R68). -/
def State.startLdb (s : State) (c : Nat) (e : Entry) (b : TReg) (tp split : Bool) : State :=
  let k := s.core c
  if !k.arrayShape e.op then s.entryShape c .mx e
  else if (k.mx.match_ b tp split).isSome then s.entryDone c .mx e none
  else if (k.mx.loadOf b tp split).isSome then s.entryRuns c .mx e
  else (s.setCore c (k.beginLoad (otherBuf k.mx.lastBuf) b tp split false)).entryRuns c .mx e

/-- Does the entry wait for the load of this group? -/
def waitsForLoad (x : BBuf) : Op → Bool
  | .ldb b tp split => x.tagged b tp split
  | _ => false

/-- The B load of a buffer completes: its tag is valid, the mx.ldb that wait for it are done, and an array instruction that waits
for its own load begins it (R66 to R68). -/
def Core.loadComplete (k : Core) (buf : Fin 2) : Core :=
  let x := k.mx.buf buf
  if !x.loading then k
  else
    let k : Core := { k with mx := k.mx.setBuf buf { x with loading := false, valid := true } }
    let k : Core := { k with mxq := k.mxq.map fun e => if e.started && waitsForLoad x e.op then { e with done := true } else e }
    match k.mx.jobs.find? (fun j => (bOf j.op).isSome && j.buf.isNone) with
    | none => k
    | some j =>
      match bOf j.op with
      | none => k
      | some (b, tp, split) =>
        let (k, u) := k.takeBuffer b tp split
        { k with mx := { k.mx with jobs := k.mx.jobs.map fun i => if i.seq = j.seq then { i with buf := u } else i } }

/-! ## Port arbitration (R80) -/

/-- The place of a requester in the fixed order. -/
def requesterRank : Requester → Nat
  | .array q => q.val
  | .loader => 4
  | .store => 5
  | .tm => 6
  | .vx => 7

/-- Does the requester win against the rivals: the longest unbroken run of refused cycles, then the fixed order? -/
def wins (runs : Tab Nat) (port : Nat) (me : Nat) (rivals : List Nat) : Bool :=
  rivals.all fun r =>
    let a := tabGet 0 runs (16 * port + me)
    let b := tabGet 0 runs (16 * port + r)
    decide (b < a) || (a == b && decide (me < r))

/-- The runs of refused cycles after a cycle: the refused grow by one, the granted and those that made no request are 0. -/
def nextRuns (runs : Tab Nat) (port : Nat) (all : List Nat) : Tab Nat :=
  (List.range 8).foldl (fun t r =>
    if all.contains r && !wins runs port r (all.filter (· != r)) then tabSet 0 t (16 * port + r) (tabGet 0 runs (16 * port + r) + 1)
    else tabSet 0 t (16 * port + r) 0) runs

/-- Who has won a port in this cycle; none while it is not decided. -/
def MxState.winner (m : MxState) (port : Nat) : Option Nat :=
  match tabGet (0, 16) m.grants port with
  | (t, w) => if w < 16 && t == m.clk then some w else none

/-- The decision of a port in this cycle between those that ask, unless it stands: it holds for every requester. -/
def MxState.decide_ (m : MxState) (port : Nat) (all : List Nat) : MxState :=
  if (m.winner port).isSome then m
  else
    match all.find? fun r => wins m.runs port r (all.filter (· != r)) with
    | none => m
    | some w => { m with runs := nextRuns m.runs port all, grants := tabPut m.grants port (m.clk, w) }

/-- A request for a port in this cycle, beside those of the rivals: a port grants one requester once in a cycle, and a grant taken is gone
(8 in place of the winner). A second read of an mx.ew that is refused because the first one of its row has the port leaves the array's run
at 0, since the array was granted in that cycle (DESIGN CHOICE, log entry 11: R74 calls it refused, R80 counts unbroken runs of a
requester). -/
def MxState.request (m : MxState) (port me : Nat) (rivals : List Nat) : MxState × Bool :=
  let m := m.decide_ port (me :: rivals.filter (· != me))
  if m.winner port == some me then ({ m with grants := tabPut m.grants port (m.clk, 8) }, true) else (m, false)

/-- The end of a cycle at the ports that nobody has decided in it: one of those that ask there is granted and the others wait longer; the
array, which made no request, has no run (R80). -/
def MxState.closePorts (m : MxState) (others : Nat → List Nat) : MxState :=
  ((List.range 48).filter fun port => (m.winner port).isNone).foldl (fun m port =>
    { m with runs := nextRuns m.runs port ((others port).filter fun r => decide (4 ≤ r)) }) m

/-- A request for several ports in one cycle: it is met when every one of them is granted. -/
def MxState.requestAll (m : MxState) (me : Nat) (rivals : Nat → List Nat) : List Nat → MxState × Bool
  | [] => (m, true)
  | port :: ps =>
    let (m, a) := m.request port me (rivals port)
    let (m, b) := m.requestAll me rivals ps
    (m, a && b)

/-! ## The array's cycles (R81 to R84)

A core cycle of the array is, in this order: results that reach the accumulators (ACC_RESULT_WRITE), rows that enter and the
category that is counted (A_ROW_ENTER, which ends the cycle's account), and the feeder's reads (A_ROW_READ). A request belongs to the
cycle that `clk` names. -/

/-- Is the instruction in split mode? -/
def isSplit : Op → Bool
  | .mmq .. => true
  | _ => false

/-- Does the instruction pass no row through the array (R78)? -/
def isAccld : Op → Bool
  | .accld .. => true
  | _ => false

/-- The quarter key of an event at quarter q for a job. -/
def jobKey (j : ArrayJob) (q : Nat) : Nat := if isSplit j.op then q else 0

/-- The key of the unfrozen cycles that count for a job's rows in quarter q: those of the quarter in split mode, those in which all four
move otherwise (R72, R81, R83). -/
def clockKey (j : ArrayJob) (q : Nat) : Nat := if isSplit j.op then q else 4

/-- A job's progress in a quarter. -/
def ArrayJob.at (j : ArrayJob) (q : Nat) : QJob := tabGet QJob.none j.quarters (jobKey j q)

/-- The quarters that an instruction moves together with quarter q: all four but in split mode (R72, R83). -/
def ArrayJob.span (j : ArrayJob) (q : Nat) : List Nat := if isSplit j.op then [q] else [0, 1, 2, 3]

/-- Does the quarter take part in the instruction (R71)? -/
def ArrayJob.takes (j : ArrayJob) (q : Nat) : Bool := !isSplit j.op || j.quarters.any fun x => x.1 == q

/-- Has the instruction rows still to enter in the quarter? -/
def ArrayJob.toEnter (j : ArrayJob) (q : Nat) : Bool := decide ((j.at q).enteredAt.length < (j.at q).rows)

/-- Change a job's progress in a quarter. -/
def MxState.modJob (m : MxState) (seq q : Nat) (f : QJob → QJob) : MxState :=
  { m with jobs := m.jobs.map fun j =>
      if j.seq = seq then { j with quarters := j.quarters.map fun x => if x.1 = jobKey j q then (x.1, f x.2) else x } else j }

/-- The instructions in progress that pass rows through the array, oldest first. -/
def MxState.passing (m : MxState) : List ArrayJob := m.jobs.filter fun j => !isAccld j.op

/-- Rows or row pairs read and not entered in a quarter (R81); in full and diagonal mode of the quarter that has the most. -/
def MxState.outstanding (m : MxState) (j : ArrayJob) (q : Nat) : Nat :=
  let at_ (q : Nat) : Nat := m.passing.foldl (fun n j => n + (j.at q).reads.length - (j.at q).enteredAt.length) 0
  if isSplit j.op then at_ q else (List.range 4).foldl (fun n q => max n (at_ q)) 0

/-- The bank of a step's row in a run; of an F4 pair that of the first row, also when the second lies in a register of another bank (DESIGN
CHOICE, log entry 11). -/
def Core.runBank (k : Core) (f4 : Bool) (a : TReg) (step : Nat) : Nat :=
  let rows := max (k.tile a.toNat).cfg.rows.toNat 1
  (a.toNat + (stepRows f4 (8 * rows) step).headD 0 / rows) / 8

/-- The banks whose read ports the next step of quarter q needs; of an mx.ew those of X and Y (R74). -/
def Core.stepBanks (k : Core) (op : Op) (q step : Nat) : Nat × Option Nat :=
  let f4 := k.opClass op == 1
  match op with
  | .mm a .. => (k.runBank f4 a step, none)
  | .mmq _ _ _ _ _ q0 q1 q2 q3 => (k.runBank f4 (quarterRun q q0 q1 q2 q3).a step, none)
  | .ew x y .. => (x.toNat / 8, some (y.toNat / 8))
  | .accld t .. => (t.toNat / 8, none)
  | _ => (0, none)

/-- The instruction that feeds: the first with a row of the quarter still to read, once it has started (R81, R82). -/
def MxState.feeding (m : MxState) (q : Nat) : Option ArrayJob :=
  m.jobs.find? fun j => decide (j.start < m.clk) && decide ((j.at q).reads.length < (j.at q).rows)

/-- May the requester be asking for the read port of the tile bank: it runs an instruction that reads a register there (R80)? -/
def Core.asksTile (k : Core) (bank : Nat) : Requester → Bool
  | .array q => match k.mx.feeding q.val with
    | some j => match k.stepBanks j.op q.val (j.at q.val).reads.length with
      | (x, y) => jobKey j q.val == q.val && (x == bank || y == some bank)
    | none => false
  | .loader => [0, 1].any fun b => (k.mx.buf b).loading && (k.mx.buf b).first.toNat / 8 == bank
  | .store => false
  | .tm => k.tmq.any fun e => e.started && !e.faulted && (resRead e.op).any fun r => match r with | .tile t => t / 8 == bank | _ => false
  | .vx => k.vxq.any fun e => e.started && !e.faulted && (resRead e.op).any fun r => match r with | .tile t => t / 8 == bank | _ => false

/-- Is the next result of a job due in quarter q: 24 unfrozen cycles after its row entered, one more for W16; for mx.accld the
cycle after its read; one result in a cycle (R78, R81)? -/
def Core.resultDue (k : Core) (j : ArrayJob) (q : Nat) : Bool :=
  let p := j.at q
  p.wroteAt != some k.mx.clk &&
  (match j.op with
   | .accld .. => decide (p.written < p.reads.length)
   | _ => match p.enteredAt[p.written]? with
     | some u => decide (u + 24 + (if k.opClass j.op = 2 then 1 else 0) ≤ tabGet 0 k.mx.unfrozen (clockKey j q))
     | none => false)

/-- The rows and columns of a job's next result in quarter q: its rows, first column and number of columns (R60, R71, R73, R78). -/
def Core.resultPlace (k : Core) (j : ArrayJob) (q : Nat) : List Nat × Nat × Nat :=
  let cls := k.opClass j.op
  let step := (j.at q).written
  let rows (base n : Nat) : List Nat := (stepRows (cls == 1) n step).map (base + ·)
  let half (h : Bool) : Nat × Nat := if cls = 2 then (256 * h.toNat, 256) else (0, 512)
  match j.op with
  | .mm a alen _ base _ _ h => (rows base.toNat (k.runRows a alen), half h)
  | .mmq _ _ _ _ h q0 q1 q2 q3 =>
    let r := quarterRun q q0 q1 q2 q3
    (rows r.base.toNat (k.runRows r.a r.alen), if cls = 2 then (128 * q + 64 * h.toNat, 64) else (128 * q, 128))
  | .ew x _ base _ h => (rows base.toNat (k.tile x.toNat).cfg.rows.toNat, half h)
  | .accld t base col => ([base.toNat + step], 16 * col.toNat, (k.tile t.toNat).cfg.rowElems)
  | _ => ([], 0, 0)

/-- The ports of accumulator sub-banks that a job's next result needs: the write port of each sub-bank it covers (R75), and the read
port with it, but for the copies of mx.accld (R78, R88; DEDUCED, log entry 11). -/
def Core.resultPorts (k : Core) (j : ArrayJob) (q : Nat) : List Nat :=
  match k.resultPlace j q with
  | (rows, col, n) =>
    let subs := rows.flatMap fun r => (quartersOf col n).map fun i => r % 4 * 4 + i
    subs.map (32 + ·) ++ (if isAccld j.op then [] else subs.map (16 + ·))

/-- May the requester be asking for the port of an accumulator sub-bank: a fused store that runs reads the column quarters that it
covers (R88), a vector instruction that runs reads or writes an accumulator window (R112)? -/
def Core.asksAcc (k : Core) (port : Nat) : Requester → Bool
  | .array q => k.mx.jobs.any fun j => jobKey j q.val == q.val && k.resultDue j q.val && (k.resultPorts j q.val).contains port
  | .store => port < 32 && k.mxq.any fun e => e.started && !e.done && !e.faulted && (match e.op with
    | .mst _ _ _ _ col16 cols16 .. => (quartersOf (16 * col16.toNat) (16 * cols16.toNat)).contains (port % 4)
    | _ => false)
  | .vx => k.vxq.any fun e => e.started && !e.faulted &&
    (if port < 32 then resRead e.op else resWritten k e.op).any fun r => match r with | .acc _ => true | _ => false
  | .loader | .tm => false

/-- May the requester be asking at the port: of a tile bank up to 7, of an accumulator sub-bank from 16 (reads) and 32 (writes)? -/
def Core.asks (k : Core) (port : Nat) (r : Requester) : Bool := if port < 16 then k.asksTile port r else k.asksAcc port r

/-- Everyone who may ask at a port, in the fixed order (R80). -/
def requesters : List Requester := [.array 0, .array 1, .array 2, .array 3, .loader, .store, .tm, .vx]

/-- Who else asks at the port in this cycle, by their places in the fixed order: those named, and those refused in the cycle before, who ask
again; each only while it may be asking at all (R80). -/
def Core.others (k : Core) (port : Nat) (named : List Requester) : List Nat :=
  (requesters.filter fun r =>
    (named.contains r || tabGet 0 k.mx.runs (16 * port + requesterRank r) != 0) && k.asks port r).map requesterRank

/-- One more unfrozen cycle at a key. -/
def MxState.tick (m : MxState) (key : Nat) : MxState := { m with unfrozen := tabPut m.unfrozen key (tabGet 0 m.unfrozen key + 1) }

/-- The A feeder requests the read of the next row of quarter q, once in a cycle, against the rivals for the banks' read ports: at
most four rows would be read and not entered. A step is read when every row of it is; when X and Y of an mx.ew lie in one bank, the
second read is refused (R74, R78, R80, R81): in F4 once for each row pair (DESIGN CHOICE, log entry 11: R74 speaks of rows). -/
def Core.rowRead (k : Core) (q : Fin 4) (rivals : List Requester) : Core :=
  match k.mx.feeding q.val with
  | none => k
  | some j =>
    let p := j.at q.val
    let clk := k.mx.clk
    if p.lastAsk == some clk || (!isAccld j.op && decide (4 ≤ k.mx.outstanding j q.val)) then k
    else
      let me := jobKey j q.val
      let ask (m : MxState) (bank : Nat) : MxState × Bool := m.request bank me (k.others bank rivals)
      let (m, gotX, gotY) :=
        match k.stepBanks j.op q.val p.reads.length with
        | (x, none) => match ask k.mx x with
          | (m, won) => (m, won, true)
        | (x, some y) =>
          if x = y then
            match ask k.mx x with
            | (m, won) => if p.gotX then (m, true, won) else (m, won, false)
          else
            let (m, wonX) := if p.gotX then (k.mx, true) else ask k.mx x
            let (m, wonY) := if p.gotY then (m, true) else ask m y
            (m, wonX, wonY)
      let first := p.asked.getD clk
      { k with mx := m.modJob j.seq q.val fun p =>
          if gotX && gotY then
            { p with reads := p.reads ++ [(clk, first)], asked := none, lastAsk := some clk, gotX := false, gotY := false }
          else { p with asked := some first, lastAsk := some clk, gotX := gotX, gotY := gotY } }

/-- What an array cycle is counted as (R84, Table 3.15): the index of its counter. -/
inductive Cycle where
  | active | idle | cap | bWait | aBank | accBank
deriving DecidableEq, Repr

/-- The index of a category's counter (Table 3.15). -/
def Cycle.counter : Cycle → Nat
  | .active => 0 | .idle => 1 | .cap => 2 | .bWait => 3 | .aBank => 4 | .accBank => 5

/-- Is the cycle a freeze? -/
def Cycle.freezes : Cycle → Bool
  | .active | .idle => false
  | _ => true

/-- Has the instruction's B load not completed (R67)? -/
def Core.bWaits (k : Core) (j : ArrayJob) : Bool :=
  (bOf j.op).isSome && (match j.buf with | none => true | some b => (k.mx.buf b).loading)

/-- The instruction whose cycle it is in quarter q. Rows enter in order of their instructions: the first one with rows to enter
anywhere holds the array; in split mode a quarter that is through with it goes on to the next one in split mode (R72). A quarter with
no row to enter belongs to the last instruction it takes part in, which drains. While an instruction has rows to enter, the B load of the
next one freezes nothing (DESIGN CHOICE, log entry 11). -/
def MxState.current (m : MxState) (q : Nat) : Option ArrayJob :=
  let js := m.passing
  match js.find? fun j => !j.entered with
  | none => js.reverse.find? fun j => j.takes q
  | some j =>
    if !isSplit j.op then some j
    else
      match js.find? fun i => isSplit i.op && i.toEnter q with
      | some i => some i
      | none => (js.filter fun i => decide (i.seq ≤ j.seq)).reverse.find? fun i => i.takes q

/-- Is the next row ready: read at least 4 cycles before (R81)? -/
def ArrayJob.ready (j : ArrayJob) (q clk : Nat) : Bool :=
  let p := j.at q
  match p.reads[p.enteredAt.length]? with
  | some (t, _) => decide (t + 4 ≤ clk + 1)
  | none => false

/-- Is the next row not ready because its read was refused: it would be, had its first request been granted (Table 3.7)? -/
def ArrayJob.lateByRefusal (j : ArrayJob) (q clk : Nat) : Bool :=
  let p := j.at q
  j.toEnter q &&
  (match p.reads[p.enteredAt.length]?, p.asked with
   | some (t, f), _ => decide (f + 4 ≤ clk + 1) && decide (clk + 1 < t + 4)
   | none, some f => decide (f + 4 ≤ clk + 1)
   | none, none => false)

/-- Does a W16 row that entered in the last unfrozen cycle occupy quarter q (R81)? -/
def Core.occupied (k : Core) (q : Nat) : Bool :=
  k.mx.passing.any fun j => k.opClass j.op == 2 && j.takes q &&
    (match (j.at q).enteredAt.getLast? with | some u => u + 1 == tabGet 0 k.mx.unfrozen (clockKey j q) | none => false)

/-- Does such a row keep the instruction from letting one enter: in any quarter that it feeds together with q (R81, R84)? -/
def Core.blocked (k : Core) (j : ArrayJob) (q : Nat) : Bool := (j.span q).any k.occupied

/-- Has the next row of an mx.ew whose X and Y lie in one bank, which is ready, its A_BANK freeze still to cost: one for each row, also where
the row before it occupies the array meanwhile (R74; DEDUCED, log entry 11)? -/
def Core.owes (k : Core) (j : ArrayJob) (q : Nat) : Bool :=
  let n := (j.at q).enteredAt.length
  decide ((j.at q).paid ≤ n) && j.toEnter q && j.ready q k.mx.clk &&
    (match k.stepBanks j.op q n with | (x, y) => y == some x)

/-- The category of this cycle of quarter q, were no due result refused: the first cause in the order of Table 3.7, else ACTIVE or
IDLE (R83, R84). -/
def Core.category (k : Core) (q : Nat) (withheld : Bool) : Cycle :=
  match k.mx.current q with
  | none => .idle
  | some j =>
    if withheld then .cap
    else if k.bWaits j && j.toEnter q then .bWait
    else if !k.blocked j q && (j.lateByRefusal q k.mx.clk || k.owes j q) then .aBank
    else if k.blocked j q || (j.toEnter q && j.ready q k.mx.clk) then .active
    else .idle

/-- Was a due result of the quarter refused in this cycle? One of an mx.accld counts too: it freezes the instruction behind it (DESIGN
CHOICE, log entry 11). -/
def MxState.refused (m : MxState) (q : Nat) : Bool := m.jobs.any fun j => j.takes q && (j.at q).accRefused

/-- The category that this cycle counts: ACC_BANK comes after the other causes, and only while an instruction passes rows through
the array; a refusal in any quarter freezes all that the instruction moves together (R83, R84, Table 3.7). -/
def Core.counted (k : Core) (q : Nat) (withheld : Bool) : Cycle :=
  let c := k.category q withheld
  match k.mx.current q with
  | some j => if !c.freezes && (j.span q).any k.mx.refused then .accBank else c
  | none => c

/-- Do results on their way in quarter q move in a cycle of this category: in every unfrozen one, and in a B_WAIT cycle of an
instruction whose first row has not entered (R83)? -/
def Core.moves (k : Core) (q : Nat) (c : Cycle) : Bool :=
  !c.freezes || (c == Cycle.bWait && (match k.mx.current q with | some j => (j.at q).enteredAt.isEmpty | none => false))

/-- One cycle of the array: each quarter counts its category, a ready row enters in an ACTIVE one, and time passes for the rows on
their way (R81, R83, R84). A cycle in which a result has been written is not a withheld one. At the ports for which the array has not asked,
`asks` says who else does (R80). -/
def Core.arrayCycle (k : Core) (withheld : Bool) (asks : List (Fin 48 × Requester)) : Core :=
  let withheld := withheld && !k.mx.wrote
  let cat (q : Nat) : Cycle := k.counted q withheld
  let moving (q : Nat) : Bool := k.moves q (cat q)
  let enter (m : MxState) (q : Nat) : MxState :=
    match k.mx.current q with
    | some j =>
      if cat q == Cycle.active && !k.blocked j q && jobKey j q == q then
        m.modJob j.seq q fun p => { p with enteredAt := p.enteredAt ++ [tabGet 0 k.mx.unfrozen (clockKey j q)] }
      else if cat q == Cycle.aBank && jobKey j q == q then m.modJob j.seq q fun p => { p with paid := p.enteredAt.length + 1 }
      else m
    | none => m
  let quarter (m : MxState) (q : Nat) : MxState :=
    let m := enter { m with cnt := bump m.cnt (cat q).counter 1 } q
    if moving q then m.tick q else m
  let m := [0, 1, 2, 3].foldl quarter k.mx
  let m := (if [0, 1, 2, 3].all moving then m.tick 4 else m).closePorts fun port =>
    k.others port ((asks.filter fun x => x.1.val == port).map fun x => x.2)
  { k with mx := { m with
      clk := m.clk + 1, wrote := false, frozen := [0, 1, 2, 3].any fun q => (cat q).freezes,
      jobs := m.jobs.map fun j => { j with quarters := j.quarters.map fun x => (x.1, { x.2 with accRefused := false }) } } }

/-- The instruction whose results come next: the oldest in progress; a later one's wait for all of them (R60, R81). -/
def MxState.writing (m : MxState) : Option ArrayJob :=
  m.jobs.find? fun j => j.quarters.any fun x => decide (x.2.written < x.2.rows)

/-- Has the job a result due in quarter q that moves in this cycle, no cause but a refused port freezing it (R83)? The results of a
full-mode instruction wait for all four quarters, also while one in split mode feeds (DESIGN CHOICE, log entry 11). A due write of an
mx.accld is held in such a cycle too, one that the instruction behind it freezes by A_BANK among them: R78 says that mx.accld never freezes,
R83 that no accumulator is written in a frozen cycle (DESIGN CHOICE, log entry 11). -/
def Core.resultMoves (k : Core) (j : ArrayJob) (q : Nat) : Bool :=
  decide ((j.at q).written < (j.at q).rows) && k.resultDue j q && (j.span q).all fun i => k.moves i (k.category i false)

/-- The other quarters of the job whose results are due in this cycle and freeze quarter q with them, because the instruction that feeds
moves all four together (R83). -/
def Core.bound (k : Core) (j : ArrayJob) (q : Nat) : List Nat :=
  match k.mx.current q with
  | some i => ((i.span q).filter fun p => p != q && jobKey j p == p).filter fun p => isSplit j.op && k.resultMoves j p
  | none => []

/-- The ports of another quarter's due result are decided; it is refused unless it has won all of them. -/
def Core.settle (k : Core) (j : ArrayJob) (rivals : List Requester) (q : Nat) : Core :=
  let ports := k.resultPorts j q
  let m := ports.foldl (fun m port => m.decide_ port (q :: (k.others port rivals).filter (· != q))) k.mx
  if ports.all fun port => m.winner port == some q then { k with mx := m }
  else { k with mx := m.modJob j.seq q fun p => { p with accRefused := true } }

/-- The due result of quarter q reaches the accumulators when every port it needs is won and no cause freezes the quarter in
this cycle; the instruction completes with its last one (R60, R78, R80, R81, R83). -/
def Core.resultWrite (k : Core) (q : Fin 4) (rivals : List Requester) : Core :=
  match k.mx.writing with
  | none => k
  | some j =>
    if !k.resultMoves j q.val then k
    else
      let bound := k.bound j q.val
      let k := bound.foldl (fun k p => k.settle j rivals p) k
      let (m, won) := k.mx.requestAll (jobKey j q.val) (fun port => k.others port rivals) (k.resultPorts j q.val)
      let k : Core := { k with mx := m }
      if !won then { k with mx := k.mx.modJob j.seq q.val fun p => { p with accRefused := true } }
      else if bound.any k.mx.refused then k
      else
        let k := k.writeStep j.op q.val (j.at q.val).written
        let m := k.mx.modJob j.seq q.val fun p => { p with written := p.written + 1, wroteAt := some k.mx.clk }
        let k : Core := { k with mx := { m with wrote := true } }
        let ended := k.mx.jobs.any fun i => i.seq == j.seq && i.quarters.all fun x => decide (x.2.rows ≤ x.2.written)
        if ended then
          let k : Core := { k with mx := { k.mx with jobs := k.mx.jobs.filter fun i => i.seq != j.seq } }
          k.modEntry .mx j.seq fun x => { x with done := true }
        else k

/-! ## The fused store (R85 to R88) -/

/-- Table 3.9. -/
def mstShape (base rows col16 cols16 : Nat) (fmt : BitVec 4) (xpose : Bool) : Bool :=
  let cols := 16 * cols16
  let len := if xpose then rows else cols
  decide (1 ≤ rows) && decide (base + rows ≤ 1024) && decide (rows ≤ if xpose then 512 else 1024) &&
  decide (16 ≤ cols) && decide (16 * col16 + cols ≤ 512) && decide (1 ≤ fmt.toNat) && decide (fmt.toNat ≤ 5) &&
  decide (len % (if fmt = fmtF4 then 64 else 16) = 0)

/-- Output row i of a fused store: each element converted with the keys of its source (R85, Table 4.4). -/
def Core.mstRow (k : Core) (base rows col cols : Nat) (fmt : BitVec 4) (rnd xpose : Bool) (i : Nat) : List Byte :=
  let src := (List.range (if xpose then rows else cols)).map fun j => if xpose then (base + j, col + i) else (base + i, col + j)
  let vs := src.map fun p =>
    (k.mx.accAt p.1 p.2,
     if rnd then Rnd.stoch (rng k.mx.seed k.mx.step 1 k.key p.1 p.2 (k.mx.termsAt p.1 (p.2 / 128)).toNat) else Rnd.nearest)
  let (data, scales) := encodeRow fmt vs
  data ++ scales

/-- The output rows are written in turn through L1; the first that faults stops the store (R85, R87). -/
def State.mstRows (s : State) (c : Nat) (addr : Nat → Nat) (row : Nat → List Byte) : List Nat → State × Option (Nat × Code × Nat)
  | [] => (s, none)
  | i :: is_ =>
    match s.store c (addr i) (row i) with
    | (s, .ok ()) => s.mstRows c addr row is_
    | (s, .fail st a) => (s, some (i, st, a))

/-- mx.st starts (R85 to R87). -/
def State.startMst (s : State) (c : Nat) (e : Entry) (base : BitVec 10) (rows : BitVec 11) (col16 : BitVec 5)
    (cols16 : BitVec 6) (fmt : BitVec 4) (rnd xpose : Bool) : State :=
  if !mstShape base.toNat rows.toNat col16.toNat cols16.toNat fmt xpose then s.entryShape c .mx e
  else
    let k := s.core c
    let n := if xpose then 16 * cols16.toNat else rows.toNat
    let row := k.mstRow base.toNat rows.toNat (16 * col16.toNat) (16 * cols16.toNat) fmt rnd xpose
    let addr (i : Nat) := rowAddr (e.arg 0) (e.arg 1) none i
    match s.mstRows c addr row (List.range n) with
    | (s, none) => s.entryRuns c .mx e
    | (s, some (i, status, a)) => s.entryFaults c .mx e status (some (0, i)) (some a)

/-- CLEAR sets the elements read and their term counts to zero when the store completes (R87, Table 3.5). -/
def MxState.clear (m : MxState) (base rows col cols : Nat) : MxState :=
  { m with
    acc := m.acc.filter fun p =>
      !(decide (base ≤ p.1 / 512) && decide (p.1 / 512 < base + rows) && decide (col ≤ p.1 % 512) && decide (p.1 % 512 < col + cols))
    terms := m.terms.filter fun p =>
      !(decide (base ≤ p.1 / 4) && decide (p.1 / 4 < base + rows) && (quartersOf col cols).contains (p.1 % 4)) }

/-- The fused store's last row is in L1: CLEAR acts, and the instruction is done (R87, R88). -/
def Core.storeComplete (k : Core) : Core :=
  match k.mxq.find? (fun e => isStore e.op && e.started && !e.done && !e.faulted) with
  | none => k
  | some e =>
    let k := match e.op with
      | .mst _ _ base rows col16 cols16 _ _ _ true =>
        { k with mx := k.mx.clear base.toNat rows.toNat (16 * col16.toNat) (16 * cols16.toNat) }
      | _ => k
    k.modEntry .mx e.seq fun x => { x with done := true }

/-! ## Rounding control (R99 to R101) -/

/-- mx.rmode: the mode and the clamped threshold (R99). -/
def MxState.rmode (m : MxState) (mode : BitVec 2) (longSum : BitVec 17) : MxState :=
  { m with lsMode := mode, longSum := BitVec.ofNat 17 (min (max longSum.toNat 256) 65536) }

end Sys2Proof.Machine
end

