-- ==== Sys2Proof/Machine/Vector.lean ====
section
/-!
DEFINITION. The vector engine (R112 to R133): operand shapes, element-wise results and their one rounding, the table unit and its
slots, row instructions, and seeds.
-/
namespace Sys2Proof.Machine

/-! ## Operands (R112, R163) -/

/-- The window of a selector. -/
def selWindow (w0 w1 : Window) : VSel → Option Window
  | .win0 => some w0
  | .win1 => some w1
  | _ => none

/-- Is a window a range inside the accumulators (R112)? -/
def windowInside (w : Window) : Bool :=
  decide (1 ≤ w.rows.toNat) && decide (1 ≤ w.cols16.toNat) && decide (w.base.toNat + w.rows.toNat ≤ 1024) &&
  decide (16 * w.col16.toNat + 16 * w.cols16.toNat ≤ 512)

/-- The rows and elements per row of a non-scalar operand. -/
def Core.selDims (k : Core) (w0 w1 : Window) : VSel → Option (Nat × Nat)
  | .tile t => some ((k.tile t.toNat).cfg.rows.toNat, (k.tile t.toNat).cfg.rowElems)
  | .win0 => some (w0.rows.toNat, 16 * w0.cols16.toNat)
  | .win1 => some (w1.rows.toNat, 16 * w1.cols16.toNat)
  | .scalar _ => none

/-- The FORMAT of an operand: its register's, FP32 for a window or a scalar. -/
def Core.selFormat (k : Core) : VSel → BitVec 4
  | .tile t => (k.tile t.toNat).cfg.format
  | _ => 5

/-- An operand is configured, inside the accumulators, and in a format allowed: U32 only as the source of vx.cvt (R112, R173). -/
def Core.selOk (k : Core) (w0 w1 : Window) (u32 : Bool) (v : VSel) : Bool :=
  (match selWindow w0 w1 v with
   | some w => windowInside w
   | none => true) &&
  k.selFormat v != fmtNone && (u32 || k.selFormat v != fmtU32)

/-- The shape rules of an element-wise instruction (R112, R173). -/
def Core.vecShape (k : Core) (w0 w1 : Window) (d : VSel) (srcs : List VSel) (u32Src packed : Bool) : Bool :=
  k.selOk w0 w1 false d && srcs.all (k.selOk w0 w1 u32Src) &&
  srcs.all (fun v => v.isScalar || k.selDims w0 w1 v == k.selDims w0 w1 d) &&
  (!packed || (d :: srcs).all fun v => match v with
    | .tile t => (k.tile t.toNat).cfg.format == 4
    | _ => false)

/-- Element i of row r of a source; a scalar's value was read at issue. -/
def Core.selElem (k : Core) (e : Entry) (w0 w1 : Window) (v : VSel) (r i : Nat) : Num :=
  match v with
  | .tile t => (k.tile t.toNat).elem r i
  | .win0 => f32Num (k.mx.acc |> fun a => tabGet f32Zero a (512 * (w0.base.toNat + r) + (16 * w0.col16.toNat + i)))
  | .win1 => f32Num (k.mx.acc |> fun a => tabGet f32Zero a (512 * (w1.base.toNat + r) + (16 * w1.col16.toNat + i)))
  | .scalar _ => f32Num ((e.arg 0).setWidth 32)

/-! ## Draws (R117, R118) -/

/-- Does the instruction draw from the generator (R117)? -/
def opDraws : Op → Bool
  | .rand .. => true
  | .vec _ v => v.rnd
  | .act _ _ rnd _ _ _ | .actd _ _ _ rnd _ _ _ | .fn _ _ _ rnd _ _ => rnd
  | .row _ r => r.rnd
  | _ => false

/-- The DRAW of an entry: VX_DRAW and the drawing instructions before it that have not completed (R117, R118). -/
def Core.drawOf (k : Core) (e : Entry) : Nat :=
  (k.vx.draw + BitVec.ofNat 64 ((k.vxq.filter fun x => decide (x.seq < e.seq) && x.draws).length)).toNat

/-- The random value of element i of row r, for a purpose (Table 5.3). -/
def Core.vxRand (k : Core) (purpose draw r i : Nat) : Nat :=
  rng k.vx.seed k.vx.step purpose k.key r (i % 512) (draw % 2 ^ 19 * 2 + i / 512)

/-- The rounding of element i of row r. -/
def Core.vxRnd (k : Core) (rnd : Bool) (draw r i : Nat) : Rnd := if rnd then .stoch (k.vxRand 2 draw r i) else .nearest

/-! ## Results (R113, R116) -/

/-- Write a row of codes and scales into a tile destination, ending the tags that cover it. -/
def Core.putTileRow (k : Core) (t r : Nat) (data scales : List Byte) : Core := k.writeTile t ((k.tile t).setRow r data scales)

/-- Write a row of FP32 results into an accumulator window; term counts stay (R112). -/
def Core.putAccRow (k : Core) (w : Window) (r : Nat) (vs : List F32) : Core :=
  let at_ (i : Nat) : Nat := 512 * (w.base.toNat + r) + (16 * w.col16.toNat + i)
  let acc := ((List.range vs.length).zip vs).foldl (fun a p => tabSet f32Zero a (at_ p.1) p.2) k.mx.acc
  { k with mx := { k.mx with acc := acc } }

/-- Write a row of FP32 results into a destination, converted to its format, each element with its own rounding. -/
def Core.putRow (k : Core) (w0 w1 : Window) (d : VSel) (r : Nat) (vs : List (F32 × Rnd)) : Core :=
  match d with
  | .tile t =>
    let (data, scales) := encodeRow (k.tile t.toNat).cfg.format vs
    k.putTileRow t.toNat r data scales
  | .win0 => k.putAccRow w0 r (vs.map (·.1))
  | .win1 => k.putAccRow w1 r (vs.map (·.1))
  | .scalar _ => k

/-- Write results, computed for every row before any is written (R113). -/
def Core.putRows (k : Core) (w0 w1 : Window) (d : VSel) (rows : List (List (F32 × Rnd))) : Core :=
  ((List.range rows.length).zip rows).foldl (fun x p => x.putRow w0 w1 d p.1 p.2) k

/-- The exact result of an element-wise operation (R116). -/
def vecExact (f : VecFn) (a b c : Num) : Num :=
  match f with
  | .add => Num.sum [a, b]
  | .mul => Num.mul a b
  | .fma => Num.sum [Num.mul a b, c]
  | .max => numMax a b
  | .min => numMin a b
  | .cvt => a

/-- An exact value rounded to W16, overflow to ±∞ (R116: PACKED). -/
def w16Code (rnd : Rnd) : Num → Nat
  | .nan => Fmt.w16.nanCode
  | .inf n => withSign .w16 n Fmt.w16.infCode
  | .fin d => roundInf .w16 rnd d.neg d.m 1 d.e

/-- Is the destination an FP32 one? -/
def Core.toFp32 (k : Core) (d : VSel) : Bool := k.selFormat d == 5

/-- vx.add, vx.mul, vx.fma, vx.max, vx.min and vx.cvt start: every result is formed exactly and rounded once, to FP32 or, PACKED, to W16; a
narrower destination then converts the FP32 results (R116). A U32 source of vx.cvt is an exact integer rounded likewise (log entry 26). -/
def Core.runVec (k : Core) (e : Entry) (f : VecFn) (v : VecOps) : Core :=
  let (n, m) := (k.selDims v.w0 v.w1 v.d).getD (0, 0)
  let draw := k.drawOf e
  let exact (r i : Nat) : Num :=
    vecExact f (k.selElem e v.w0 v.w1 v.s1 r i) (k.selElem e v.w0 v.w1 v.s2 r i) (k.selElem e v.w0 v.w1 v.s3 r i)
  let rnd (r i : Nat) : Rnd := k.vxRnd v.rnd draw r i
  match v.d with
  | .tile t =>
    if v.packed then
      let rows := (List.range n).map fun r => packCodes 4 ((List.range m).map fun i => w16Code (rnd r i) (exact r i))
      ((List.range n).zip rows).foldl (fun x p => x.putTileRow t.toNat p.1 p.2 []) k
    else
      k.putRows v.w0 v.w1 v.d ((List.range n).map fun r => (List.range m).map fun i =>
        if k.toFp32 v.d then (roundF32 (rnd r i) (exact r i), .nearest) else (rn (exact r i), rnd r i))
  | _ =>
    k.putRows v.w0 v.w1 v.d ((List.range n).map fun r => (List.range m).map fun i =>
      (roundF32 (rnd r i) (exact r i), .nearest))

/-! ## Table slots (R119 to R124) -/

/-- A table: its domain, its tails and its coefficients C0, C1, C2 by 3 × segment + j (Table 5.4). -/
structure TableFn where
  lo   : F32
  wlog2 : Int
  la   : F32
  lb   : F32
  ra   : F32
  rb   : F32
  coef : Nat → F32

/-- −1.0. -/
def f32MinusOne : F32 := 0xBF800000#32

/-- LO and W_LOG2 of a preloaded pair (Table 5.5). -/
def pairDomain (f : Nat) : F32 × Int := if f = 0 || f = 3 then (0xC1000000#32, -5) else (0xC1800000#32, -4)

/-- The tails of a preloaded slot: left a, left b, right a, right b (Table 5.5). -/
def slotTails (slot : Nat) : F32 × F32 × F32 × F32 :=
  match slot with
  | 0 | 2 | 8 => (f32Zero, f32Zero, f32Zero, f32One)
  | 1 | 3 | 9 | 11 => (f32Zero, f32Zero, f32One, f32Zero)
  | 4 => (f32Zero, f32Zero, f32One, f32Zero)
  | 6 => (f32MinusOne, f32Zero, f32One, f32Zero)
  | 10 => (f32MinusOne, f32Zero, f32Zero, f32One)
  | _ => (f32Zero, f32Zero, f32Zero, f32Zero)

/-- FP32 at a byte offset of an image. -/
def imageF32 (m : Mem) (a : Nat) : F32 := BitVec.ofNat 32 (memNat m a 4)

/-- The table of an image (Table 5.4). -/
def imageTable (m : Mem) : TableFn :=
  { lo := imageF32 m 8, wlog2 := (memGet m 4).toInt, la := imageF32 m 12, lb := imageF32 m 16, ra := imageF32 m 20,
    rb := imageF32 m 24, coef := fun j => imageF32 m (64 + 4 * j) }

/-- The table of a slot, or none while it is unloaded (R119, R126). -/
def VxState.table (x : VxState) (slot : Nat) : Option TableFn :=
  if slot < 12 then
    let (lo, w) := pairDomain (slot / 2)
    let (la, lb, ra, rb) := slotTails slot
    some { lo := lo, wlog2 := w, la := la, lb := lb, ra := ra, rb := rb, coef := Config.preloaded slot }
  else (tabGet none x.slots slot).map fun s => imageTable s.image

/-- tail(x, a, b) of R122. -/
def tableTail (x : Num) (a b : F32) : F32 :=
  if (f32Num b).isZero then a
  else match x with
    | .inf neg => if (f32Num b).sign then rn (.inf (!neg)) else rn (.inf neg)
    | v => rn (Num.sum [f32Num a, Num.mul (f32Num b) v])

/-- n × w as an exact value. -/
def TableFn.span (t : TableFn) (n : Nat) : Num := .fin ⟨false, n, t.wlog2⟩

/-- ⌊v / w⌋ for an exact non-negative v. -/
def TableFn.segment (t : TableFn) : Num → Nat
  | .fin d =>
    let s := d.e - t.wlog2
    if 0 ≤ s then d.m <<< s.toNat else d.m >>> (-s).toNat
  | _ => 0

/-- table(x, T) of R122, of the value that the element decodes to. -/
def TableFn.eval (t : TableFn) (v : Num) : F32 :=
  let lo := f32Num t.lo
  if v.isNan then f32Nan
  else if numLt v lo then tableTail v t.la t.lb
  else if !numLt v (Num.sum [lo, t.span 512]) then tableTail v t.ra t.rb
  else
    let i := t.segment (Num.sum [v, lo.negate])
    let d := rn (Num.sum [v, lo.negate, (t.span i).negate])
    let u := fFma (t.coef (3 * i + 2)) d (t.coef (3 * i + 1))
    fFma u d (t.coef (3 * i))

/-- The fixed functions of vx.fn (R124). -/
def fixFn (f : FixFn) (x : Num) : F32 :=
  match f with
  | .exp => fExp x
  | .exp2 => fExp2 x
  | .log2 => fLog2 x
  | .rsqrt => fRsqrt x
  | .recip => fRecip x

/-- A unary or gradient result for every element of the destination, in FP32 to nearest and then converted (R116, R127). -/
def Core.runMap (k : Core) (e : Entry) (w0 w1 : Window) (d : VSel) (rnd : Bool) (res : Nat → Nat → F32) : Core :=
  let (n, m) := (k.selDims w0 w1 d).getD (0, 0)
  let draw := k.drawOf e
  k.putRows w0 w1 d ((List.range n).map fun r => (List.range m).map fun i => (res r i, k.vxRnd rnd draw r i))

/-- Count table lookups and fixed-function evaluations (Table 5.12). -/
def Core.lookups (k : Core) (n : Nat) : Core := { k with vx := { k.vx with cnt := bump k.vx.cnt 3 n } }

/-- The elements of a destination. -/
def Core.selCount (k : Core) (w0 w1 : Window) (d : VSel) : Nat :=
  let (n, m) := (k.selDims w0 w1 d).getD (0, 0)
  n * m

/-! ## Starting the element-wise and table instructions -/

/-- vx.add to vx.cvt start. -/
def State.startVec (s : State) (c : Nat) (e : Entry) (f : VecFn) (v : VecOps) : State :=
  let k := s.core c
  if !k.vecShape v.w0 v.w1 v.d (v.sources f) (f == .cvt) v.packed then s.entryShape c .vx e
  else (s.setCore c (k.runVec e f v)).entryDone c .vx e none

/-- vx.act starts (R126, R127). Where it breaks a shape rule and its slot is unloaded, TILE_SHAPE is given: the spec does not say which
(DESIGN CHOICE, log entry 26). -/
def State.startAct (s : State) (c : Nat) (e : Entry) (d s1 : VSel) (rnd : Bool) (slot : BitVec 5) (w0 w1 : Window) : State :=
  let k := s.core c
  if !k.vecShape w0 w1 d [s1] false false then s.entryShape c .vx e
  else match k.vx.table slot.toNat with
    | none => s.entryFaults c .vx e Code.wrongState none none
    | some t =>
      let k := (k.runMap e w0 w1 d rnd fun r i => t.eval (k.selElem e w0 w1 s1 r i)).lookups (k.selCount w0 w1 d)
      (s.setCore c k).entryDone c .vx e none

/-- vx.actd starts: it reads only the derivative slot of its pair (R126, R127); TILE_SHAPE is given before WRONG_STATE as by vx.act (DESIGN
CHOICE, log entry 26). -/
def State.startActd (s : State) (c : Nat) (e : Entry) (d g x : VSel) (rnd : Bool) (pair : BitVec 4) (w0 w1 : Window) : State :=
  let k := s.core c
  if !k.vecShape w0 w1 d [g, x] false false then s.entryShape c .vx e
  else match k.vx.table (2 * pair.toNat + 1) with
    | none => s.entryFaults c .vx e Code.wrongState none none
    | some t =>
      let res (r i : Nat) : F32 := rn (Num.mul (k.selElem e w0 w1 g r i) (f32Num (t.eval (k.selElem e w0 w1 x r i))))
      (s.setCore c ((k.runMap e w0 w1 d rnd res).lookups (k.selCount w0 w1 d))).entryDone c .vx e none

/-- vx.fn starts (R124). -/
def State.startFn (s : State) (c : Nat) (e : Entry) (f : FixFn) (d s1 : VSel) (rnd : Bool) (w0 w1 : Window) : State :=
  let k := s.core c
  if !k.vecShape w0 w1 d [s1] false false then s.entryShape c .vx e
  else
    let k := (k.runMap e w0 w1 d rnd fun r i => fixFn f (k.selElem e w0 w1 s1 r i)).lookups (k.selCount w0 w1 d)
    (s.setCore c k).entryDone c .vx e none

/-- vx.rand starts: r × 2⁻²⁴, converted to nearest (R117). -/
def State.startRand (s : State) (c : Nat) (e : Entry) (d : VSel) (w0 w1 : Window) : State :=
  let k := s.core c
  if !k.vecShape w0 w1 d [] false false then s.entryShape c .vx e
  else
    let draw := k.drawOf e
    let k := k.runMap e w0 w1 d false fun r i => rn (.fin ⟨false, k.vxRand 3 draw r i, -24⟩)
    (s.setCore c k).entryDone c .vx e none

/-- The image meets R121. -/
def imageOk (m : Mem) : Bool :=
  let t := imageTable m
  let fin (b : F32) : Bool := (f32Num b).isFin
  decide (-20 ≤ t.wlog2) && decide (t.wlog2 ≤ 6) && fin t.lo &&
  !numLt (f32Num 0x7F7FFFFF#32) (Num.sum [f32Num t.lo, t.span 512]) &&
  fin t.la && fin t.lb && fin t.ra && fin t.rb && (List.range 1536).all fun j => fin (t.coef j)

/-- A user slot is unloaded, and the image read for it is kept until its vx.tload completes. -/
def VxState.reading (x : VxState) (slot : Nat) (image : Option TableSlot) : VxState :=
  { x with slots := tabPut x.slots slot none, loading := tabPut x.loading slot image }

/-- The image that was read for a slot is valid: its vx.tload completes (R121). -/
def VxState.loaded (x : VxState) (slot : Nat) : VxState :=
  { x with slots := tabPut x.slots slot (tabGet none x.loading slot), loading := tabPut x.loading slot none }

/-- vx.tload starts: the image is read through L1; what fails leaves the slot unloaded (R121, R126). -/
def State.startTload (s : State) (c : Nat) (e : Entry) (slot : BitVec 5) : State :=
  let a := (e.arg 0).toNat % 2 ^ 48
  let put (s : State) (v : Option TableSlot) : State := s.modCore c fun k => { k with vx := k.vx.reading slot.toNat v }
  match s.load c a 6208 with
  | (s, .fail st b) => (put s none).entryFaults c .vx e st none (some b)
  | (s, .ok bs) =>
    let m := memWrite [] 0 bs
    if imageOk m then (put s (some ⟨BitVec.ofNat 48 a, m⟩)).entryDone c .vx e none
    else (put s none).entryShape c .vx e

/-- vx.seed starts (R118). -/
def State.startVseed (s : State) (c : Nat) (e : Entry) : State :=
  (s.modCore c fun k => { k with vx := { k.vx with seed := e.arg 0, step := e.arg 1, draw := 0 } }).entryDone c .vx e none

/-! ## Row instructions (R128 to R133) -/

/-- The mean and the reciprocal deviation of a row (R130). -/
def rowStats (xs : List Num) (eps : F32) (n : Nat) (rms : Bool) : Num × Num :=
  let mu := if rms then f32Num f32Zero else f32Num (rnDiv (rn (Num.sum xs)) n)
  let dev := xs.map fun x => let d := Num.sum [x, mu.negate]; Num.mul d d
  let v := rnDiv (rn (Num.sum dev)) n
  (mu, f32Num (fRsqrt (f32Num (fAdd v eps))))

/-- h of R130. -/
def rowH (xs : List Num) (st : Num × Num) : List F32 := xs.map fun x => rn (Num.mul (Num.sum [x, st.1.negate]) st.2)

/-- norm of R130. -/
def rowNorm (xs gam bet : List Num) (eps : F32) (n : Nat) (rms : Bool) : List F32 :=
  if xs.all Num.isFin then
    let h := rowH xs (rowStats xs eps n rms)
    (h.zip (gam.zip bet)).map fun p => rn (Num.sum [Num.mul (f32Num p.1) p.2.1, p.2.2])
  else xs.map fun _ => f32Nan

/-- normb of R130: dx and h. -/
def rowNormb (xs dys gam : List Num) (eps : F32) (n : Nat) (rms : Bool) : List F32 × List F32 :=
  if xs.all Num.isFin then
    let st := rowStats xs eps n rms
    let h := rowH xs st
    let g := (dys.zip gam).map fun p => rn (Num.mul p.1 p.2)
    let a := if rms then f32Zero else rnDiv (rn (Num.sum (g.map f32Num))) n
    let b := rnDiv (rn (Num.sum ((g.zip h).map fun p => Num.mul (f32Num p.1) (f32Num p.2)))) n
    let dx := (g.zip h).map fun p =>
      rn (Num.mul st.2 (Num.sum [f32Num p.1, (f32Num a).negate, (Num.mul (f32Num p.2) (f32Num b)).negate]))
    (dx, h)
  else (xs.map fun _ => f32Nan, xs.map fun _ => f32Nan)

/-- The greatest of a list of values without NaN, −∞ when it is empty. -/
def numMaxOf (l : List Num) : Num := l.foldl numMax (.inf true)

/-- The y[i] of smax for i below L, and how many exponentials were evaluated (R131). -/
def rowSoft (xs : List Num) (sc : F32) : List F32 × Nat :=
  let z := xs.map fun x => rn (Num.mul (f32Num sc) x)
  let zn := z.map f32Num
  if zn.any (fun v => v.isNan || v == .inf false) then (xs.map fun _ => f32Nan, 0)
  else
    let m := numMaxOf zn
    if xs.isEmpty || m == .inf true then (xs.map fun _ => f32Zero, 0)
    else
      let es := zn.map fun v => fExp (f32Num (rn (Num.sum [v, m.negate])))
      let q := fRecip (f32Num (rn (Num.sum (es.map f32Num))))
      (es.map fun v => fMul v q, es.length)

/-- smaxb of R131 for i below L. Σ runs over i < L: the spec gives smaxb no range of its own (DESIGN CHOICE, log entry 26). -/
def rowSoftb (xs dys : List Num) (sc : F32) : List F32 × Nat :=
  let (y, n) := rowSoft xs sc
  let yn := y.map f32Num
  let t := f32Num (rn (Num.sum ((dys.zip yn).map fun p => Num.mul p.1 p.2)))
  ((dys.zip yn).map fun p => rn (Num.mul (Num.mul (f32Num sc) p.2) (Num.sum [p.1, t.negate])), n)

/-- A format of a row stream: F8F, F8G, W16 or FP32 (R128, R173). -/
def streamFmt (f : BitVec 4) : Bool := f == 2 || f == 3 || f == 4 || f == 5

/-- The elements of a stream of bytes. -/
def streamNums (f : BitVec 4) (bs : List Byte) (n : Nat) : List Num :=
  (blocks (fmtBits f / 8) n bs).map fun b => elemNum f (leNat b) 0

/-- Read a stream of n elements through L1. -/
def State.stream (s : State) (c : Nat) (a : Word) (f : BitVec 4) (n : Nat) : State × MemRes (List Num) :=
  match s.load c (a.toNat % 2 ^ 48) (n * (fmtBits f / 8)) with
  | (s, .ok bs) => (s, .ok (streamNums f bs n))
  | (s, .fail st b) => (s, .fail st b)

/-- Read streams one after another; the first that faults ends the reading. -/
def State.streams (s : State) (c n : Nat) : List (Word × BitVec 4) → State × MemRes (List (List Num))
  | [] => (s, .ok [])
  | (a, f) :: t =>
    match s.stream c a f n with
    | (s, .fail st b) => (s, .fail st b)
    | (s, .ok v) =>
      match s.streams c n t with
      | (s, .ok vs) => (s, .ok (v :: vs))
      | r => r

/-- Write bytes at a context address piece by piece until one faults: the status and the address that faults, or none. -/
def State.storePieces (s : State) (c : Nat) : List (Nat × Nat) → List Byte → State × Option (Code × Nat)
  | [], _ => (s, none)
  | (a, n) :: ps, bs =>
    match s.store c a (bs.take n) with
    | (s, .ok ()) => s.storePieces c ps (bs.drop n)
    | (s, .fail st b) => (s, some (st, b))

/-- Write an output row (R128, R133). -/
def State.storeSeq (s : State) (c : Nat) (a : Word) (bs : List Byte) : State × Option (Code × Nat) :=
  s.storePieces c (piecesOf (a.toNat % 2 ^ 48) bs.length) bs

/-- The bytes of an output row of a row instruction. Its stochastic conversion draws with row 0, for each of its rows: Table 5.3 names the
row of an operand of R113, which a stream in memory is not (DESIGN CHOICE, log entry 26). -/
def Core.rowOut (k : Core) (e : Entry) (r : RowOps) (vs : List F32) : List Byte :=
  let draw := k.drawOf e
  (encodeRow r.outfmt (((List.range vs.length).zip vs).map fun p => (p.2, k.vxRnd r.rnd draw 0 p.1))).1

/-- The streams that the load reads, then the streams that the write pass reads (Table 5.6). -/
def rowStreams (e : Entry) (f : RowFn) (r : RowOps) : List (Word × BitVec 4) × List (Word × BitVec 4) :=
  match f with
  | .norm => ([(e.arg 0, r.xfmt)], (e.arg 3, 5) :: (if r.rms then [] else [(e.arg 4, 5)]))
  | .normb => ([(e.arg 0, r.xfmt), (e.arg 2, r.dyfmt), (e.arg 3, 5)], [])
  | .smax => ([(e.arg 0, r.xfmt)], [])
  | .smaxb => ([(e.arg 0, r.xfmt), (e.arg 2, r.dyfmt)], [])

/-- n and L of SN. -/
def rowN (e : Entry) : Nat := (e.arg 5).toNat % 2 ^ 32
def rowL (e : Entry) : Nat := (e.arg 5).toNat / 2 ^ 32

/-- The rules of R128. -/
def rowShape (e : Entry) (f : RowFn) (r : RowOps) : Bool :=
  let n := rowN e
  decide (1 ≤ n) && decide (n ≤ 65536) && streamFmt r.xfmt && streamFmt r.outfmt &&
  (match f with
   | .norm => true
   | .normb => streamFmt r.dyfmt
   | .smax => decide (rowL e ≤ n)
   | .smaxb => decide (rowL e ≤ n) && streamFmt r.dyfmt)

/-- The first L results, then +0.0 up to n (R131). -/
def padZero (n : Nat) (l : List F32) : List F32 := l ++ List.replicate (n - l.length) f32Zero

/-- The output rows of a row instruction from its streams, with the exponentials evaluated. -/
def rowResults (e : Entry) (f : RowFn) (r : RowOps) (vs : List (List Num)) : List (Word × List F32) × Nat :=
  let n := rowN e
  let par : F32 := (e.arg 6).setWidth 32
  let x := vs.getD 0 []
  match f with
  | .norm => ([(e.arg 1, rowNorm x (vs.getD 1 []) (vs.getD 2 (List.replicate n (f32Num f32Zero))) par n r.rms)], 0)
  | .normb =>
    let (dx, h) := rowNormb x (vs.getD 1 []) (vs.getD 2 []) par n r.rms
    ((e.arg 1, dx) :: (if r.hout then [(e.arg 7, h)] else []), 0)
  | .smax =>
    let (y, q) := rowSoft (x.take (rowL e)) par
    ([(e.arg 1, padZero n y)], q)
  | .smaxb =>
    let (dx, q) := rowSoftb (x.take (rowL e)) ((vs.getD 1 []).take (rowL e)) par
    ([(e.arg 1, padZero n dx)], q)

/-- Write the output rows in order until one faults. -/
def State.storeRows (s : State) (c : Nat) : List (Word × List Byte) → State × Option (Code × Nat)
  | [] => (s, none)
  | (a, bs) :: t =>
    match s.storeSeq c a bs with
    | (s, none) => s.storeRows c t
    | r => r

/-- vx.norm, vx.normb, vx.smax and vx.smaxb start: the streams are read, then the outputs are written; the first access that
faults ends the instruction, which leaves the outputs below it written (R128 to R133). LOOKUP_CNT counts the exponentials of an instruction that
ends without a fault, and neither its rsqrt nor its recip (DESIGN CHOICE, log entry 26: Table 5.12 does not say). -/
def State.startRow (s : State) (c : Nat) (e : Entry) (f : RowFn) (r : RowOps) : State :=
  if !rowShape e f r then s.entryShape c .vx e
  else
    let (first, later) := rowStreams e f r
    match s.streams c (rowN e) (first ++ later) with
    | (s, .fail st a) => s.entryFaults c .vx e st none (some a)
    | (s, .ok vs) =>
      let (outs, q) := rowResults e f r vs
      let k := s.core c
      match s.storeRows c (outs.map fun o => (o.1, k.rowOut e r o.2)) with
      | (s, some (st, a)) => s.entryFaults c .vx e st none (some a)
      | (s, none) => (s.modCore c (·.lookups q)).entryDone c .vx e none

end Sys2Proof.Machine
end

