-- ==== Sys2Proof/Machine/Update.lean ====
section
/-!
DEFINITION. The parameter update (R134 to R148): shards, the global norm, the update rule, the step counters, and holding for securing.
-/
namespace Sys2Proof.Machine

/-! ## Shards and the hyperparameter record (Tables 6.1, 6.2) -/

/-- A shard descriptor; `at_` is its own address. -/
structure Shard where
  at_     : Nat
  param   : Nat
  pfmt    : BitVec 4
  avg     : Nat
  afmt    : BitVec 4
  grad    : Nat
  gfmt    : BitVec 4
  count   : Nat
  step    : Word
  cursor  : Nat
  status  : BitVec 8
  freeze  : Nat
deriving DecidableEq, Repr

/-- The fields of Table 6.1 from 64 bytes at an address. -/
def shardOf (a : Nat) (bs : List Byte) : Shard :=
  let w (o n : Nat) : Nat := leNat ((bs.drop o).take n)
  { at_ := a, param := w 0 8 % 2 ^ 48, pfmt := BitVec.ofNat 4 (w 0 8 / 2 ^ 48), avg := w 8 8 % 2 ^ 48,
    afmt := BitVec.ofNat 4 (w 8 8 / 2 ^ 48), grad := w 16 8 % 2 ^ 48, gfmt := BitVec.ofNat 4 (w 16 8 / 2 ^ 48), count := w 24 4,
    step := BitVec.ofNat 64 (w 32 8), cursor := w 40 4, status := BitVec.ofNat 8 (w 44 1), freeze := w 48 8 % 2 ^ 48 }

/-- Are the format codes those of Table 6.1 (R136)? -/
def Shard.formatsOk (h : Shard) : Bool :=
  (h.pfmt == 4 || h.pfmt == 5) && (h.afmt == 4 || h.afmt == 5) && (h.gfmt == 3 || h.gfmt == 4 || h.gfmt == 5)

/-- Regions of 4,096 elements (R135). -/
def Shard.regions (h : Shard) : Nat := (h.count + 4095) / 4096

/-- Elements of region r. -/
def Shard.regionLen (h : Shard) (r : Nat) : Nat := min 4096 (h.count - 4096 * r)

/-- The address of shard i of a table (R134). -/
def shardAddr (table : Word) (i : Nat) : Nat := (table.toNat / 64 * 64 + 64 * i) % 2 ^ 48

/-- How a part of an update instruction ends; `left` are the writes that a hold keeps. -/
inductive UpOut where
  | ok
  | hold (left : List (Nat × List Byte))
  | fault (status : Code) (addr : Nat)
deriving DecidableEq, Repr

/-- Read a shard's descriptor. -/
def State.readShard (s : State) (c : Nat) (table : Word) (i : Nat) : State × MemRes Shard :=
  match s.load c (shardAddr table i) 64 with
  | (s, .ok bs) => (s, .ok (shardOf (shardAddr table i) bs))
  | (s, .fail st a) => (s, .fail st a)

/-- Read a shard's freeze mask; none is needed with FREEZE 0. -/
def State.readMask (s : State) (c : Nat) (h : Shard) : State × MemRes (List Byte) :=
  if h.freeze = 0 then (s, .ok []) else s.load c h.freeze ((h.regions + 7) / 8)

/-- Is region r frozen (R135)? -/
def frozenIn (mask : List Byte) (r : Nat) : Bool := (mask.getD (r / 8) 0).getLsbD (r % 8)

/-- Bytes of an element in a format. -/
def fmtBytes (f : BitVec 4) : Nat := fmtBits f / 8

/-- Read region r of a stream of a shard. -/
def State.readRegion (s : State) (c : Nat) (h : Shard) (base : Nat) (f : BitVec 4) (r : Nat) : State × MemRes (List Num) :=
  let n := h.regionLen r
  match s.load c ((base + 4096 * r * fmtBytes f) % 2 ^ 48) (n * fmtBytes f) with
  | (s, .ok bs) => (s, .ok (streamNums f bs n))
  | (s, .fail st a) => (s, .fail st a)

/-! ## The global norm (R137, R138) -/

/-- The exact sum of squares of the regions of a shard that are not frozen, added to `acc`. -/
def State.sqRegions (s : State) (c : Nat) (h : Shard) (mask : List Byte) : List Nat → Num → State × MemRes Num
  | [], acc => (s, .ok acc)
  | r :: rs, acc =>
    if frozenIn mask r then s.sqRegions c h mask rs acc
    else match s.readRegion c h h.grad h.gfmt r with
      | (s, .ok g) => s.sqRegions c h mask rs (Num.sum (acc :: g.map fun x => Num.mul x x))
      | (s, .fail st a) => (s, .fail st a)

/-- The exact sum over the shards of a table (R136, R137). UP_STATE.SHARD and REGION keep the values of the last up.step or up.setstep: the
spec names them for the shard being updated only (DESIGN CHOICE, log entry 26). -/
def State.sqShards (s : State) (c : Nat) (table : Word) : List Nat → Num → State × MemRes Num
  | [], acc => (s, .ok acc)
  | i :: is_, acc =>
    match s.readShard c table i with
    | (s, .fail st a) => (s, .fail st a)
    | (s, .ok h) =>
      if !h.formatsOk then s.sqShards c table is_ acc
      else match s.readMask c h with
        | (s, .fail st a) => (s, .fail st a)
        | (s, .ok mask) =>
          match s.sqRegions c h mask (List.range h.regions) acc with
          | (s, .ok acc) => s.sqShards c table is_ acc
          | r => r

/-- Does no path lead from a core to the cell at a device address: past L1 for a contribution, and for an ordinary write also for want of the
line in L1 (R247)? -/
def State.cellCut (s : State) (c d : Nat) : Bool := if inReduce d then !s.coreReaches c d else s.cut c d

/-- What the translation of SCELL gives (R138): the device pieces of its four bytes, or a fault; FENCED where no path remains (R247). -/
def State.cellTarget (s : State) (c a : Nat) : State × Except (Code × Nat) (List (Nat × Nat)) :=
  let p := s.ctxOf c
  let flag := match s.lookup p a with
    | .ok t =>
      let d := t.base + a % 2 ^ t.log2
      t.write && s.granted p d && inReduce d && (s.die (scratchDie (d % 2 ^ 30))).flagMode
    | .error _ => false
  if flag then (s, .error (Code.wrongState, 0))
  else match s.xlatAll p true (piecesOf a 4) with
    | (s, .ok ds) =>
      match ((piecesOf a 4).zip ds).find? fun x => s.cellCut c x.2.1 with
      | some x => (s, .error (Code.fenced, x.1.1))
      | none => (s, .ok ds)
    | (s, .fail st b) => (s, .error (st, b))

/-- S is sent to its cell: a contribution in the reduce window, an ordinary write elsewhere (R138). -/
def State.sendNorm (s : State) (c : Nat) (ds : List (Nat × Nat)) (v : F32) : State :=
  let bs := leBytes 4 v.toNat
  match ds with
  | [] => s
  | (d, _) :: _ =>
    if inReduce d then
      s.devWrite (s.rankOf c) (((ds.flatMap fun q => (List.range q.2).map (q.1 + ·)).zip bs)) false
    else s.writePieces c ds bs

/-- Change the update registers. -/
def State.modUp (s : State) (c : Nat) (f : UpState → UpState) : State := s.modCore c fun k => { k with up := f k.up }

/-- An update instruction faults. -/
def State.upFaults (s : State) (c : Nat) (e : Entry) (status : Code) (addr : Option Nat) : State :=
  (s.modUp c fun u => { u with run := 0, hold := false }).entryFaults c .vx e status none addr

/-- up.sq starts (R137, R138). The WRONG_STATE of a cell of a die in flag mode is recorded without an address, which the spec does not ask
for there (DESIGN CHOICE, log entry 26). -/
def State.startUpsq (s : State) (c : Nat) (e : Entry) (sd : SReg) (reduce : Bool) : State :=
  let s := s.modUp c fun u => { u with run := 1 }
  let cell := (e.arg 2).toNat % 2 ^ 48
  match (if reduce then s.cellTarget c cell else (s, .ok [])) with
  | (s, .error (status, a)) => s.upFaults c e status (if status = Code.wrongState then none else some a)
  | (s, .ok ds) =>
    match s.sqShards c (e.arg 0) (List.range ((e.arg 1).toNat % 2 ^ 32)) (.fin ⟨false, 0, 0⟩) with
    | (s, .fail st a) => s.upFaults c e st (some a)
    | (s, .ok acc) =>
      let v := rn acc
      let s := if reduce then s.sendNorm c ds v else s
      (s.modUp c fun u => { u with sq := v }).entryDone c .vx e (some (sd, v.setWidth 64))

/-! ## Holding for securing (R148) -/

/-- Does a device byte lie in a securing unit that the generation in progress has not copied? -/
def State.uncopied (s : State) (p d : Nat) : Bool :=
  match (s.part p).sec.gen with
  | none => false
  | some g => ((List.range g.units.length).zip g.units).any fun u =>
      d / 2 ^ 21 == u.2.2 / 2 ^ 21 && !setHas g.copied u.1

/-- The parts of [a, a + n) in 48-bit space that lie in one 2 MiB page each. -/
def pageParts : Nat → Nat → Nat → List (Nat × Nat)
  | 0, _, _ => []
  | fuel + 1, a, n =>
    if n = 0 then []
    else
      let a := a % 2 ^ 48
      let k := min n (2 ^ 21 - a % 2 ^ 21)
      (a, k) :: pageParts fuel (a + k) (n - k)

/-- The parts of a range. -/
def partsOf (a n : Nat) : List (Nat × Nat) := pageParts (n / 2 ^ 21 + 2) a n

/-- A write in parts of one page each. -/
def writeParts : List (Nat × Nat) → List Byte → List (Nat × List Byte)
  | [], _ => []
  | (a, n) :: t, bs => (a, bs.take n) :: writeParts t (bs.drop n)

/-- The securing unit on which a write at a context address holds (R148). -/
def State.holdsOn (s : State) (c a : Nat) : Option Nat :=
  match s.lookup (s.ctxOf c) a with
  | .ok t =>
    let d := t.base + a % 2 ^ t.log2
    if s.uncopied (s.ctxOf c) d then some (d / 2 ^ 21) else none
  | .error _ => none

/-- Make writes of one page each in order, up to the first that holds: it waits for its own unit only (R148). -/
def State.upWriteGo (s : State) (c : Nat) : List (Nat × List Byte) → State × UpOut
  | [] => (s, .ok)
  | w :: ws =>
    match s.holdsOn c w.1 with
    | some u => (s.modUp c fun x => { x with heldOn := [u] }, .hold (w :: ws))
    | none =>
      match s.store c w.1 w.2 with
      | (s, .ok ()) => s.upWriteGo c ws
      | (s, .fail st a) => (s, .fault st a)

/-- Translate every byte of some writes, and make them in order through L1 (R144, R148). -/
def State.upWrite (s : State) (c : Nat) (ws : List (Nat × List Byte)) : State × UpOut :=
  let ps := ws.flatMap fun w => piecesOf w.1 w.2.length
  match s.xlatAll (s.ctxOf c) true ps with
  | (s, .fail st a) => (s, .fault st a)
  | (s, .ok ds) =>
    match s.cutAt c ps ds with
    | some a => (s, .fault Code.fenced a)
    | none => s.upWriteGo c (ws.flatMap fun w => writeParts (partsOf w.1 w.2.length) w.2)

/-- A hold of a write that is made anew from the shard's CURSOR. -/
def UpOut.again : UpOut → UpOut
  | .hold _ => .hold []
  | q => q

/-! ## The update rule (R140 to R142) -/

/-- The clipping factor (R140, R142). A finite CLIP whose product with rsqrt(G2) overflows gives none, as an infinite c does: R142 takes the
min only on real values, and its list of causes does not name this one (DESIGN CHOICE, log entry 26). -/
def clipFactor (g2 clip : F32) : Option F32 :=
  let g := f32Num g2
  if !g.isFin then none
  else if g.isZero || clip == 0x7F800000#32 then some f32One
  else
    let v := fMul clip (fRsqrt g)
    if !(f32Num v).isFin then none
    else if numLt (f32Num v) (f32Num f32One) then some v else some f32One

/-- The parameters of an up.step from its record. -/
def upParOf (e : Word) (g2 : F32) (bs : List Byte) : UpPar :=
  let w (o n : Nat) : Nat := leNat ((bs.drop o).take n)
  let f (o : Nat) : F32 := BitVec.ofNat 32 (w o 4)
  let t := e.toNat + 1
  let beta := f 4
  { e := e, t := t, lr := f 0, beta := beta, lambda := f 8, seed := BitVec.ofNat 64 (w 16 8), stoch := w 24 1 % 2 == 1,
    c := clipFactor g2 (f 12), b1 := fSub f32One beta, bc := fRecip (f32Num (fSub f32One (fPow beta t))) }

/-- The step number stored and compared: t modulo 2⁶⁴. -/
def UpPar.next (u : UpPar) : Word := BitVec.ofNat 64 u.t

/-- store(v, fmt, purpose) of R140 for element i, as bytes. -/
def UpPar.encode (u : UpPar) (key : Nat) (f : BitVec 4) (purpose i : Nat) (v : Num) : List Byte :=
  if f = 5 then leBytes 4 (rn v).toNat
  else
    let rnd := if u.stoch then Rnd.stoch (rng u.seed u.next purpose key (i / 512 % 1024) (i % 512) (i / 2 ^ 19)) else .nearest
    leBytes 2 (w16Code rnd v)

/-- The value that stored bytes hold. -/
def storedNum (f : BitVec 4) (bs : List Byte) : Num := elemNum f (leNat bs) 0

/-- The new average and the new parameter of element i (R140). -/
def UpPar.element (u : UpPar) (key : Nat) (h : Shard) (cf : F32) (i : Nat) (g m p : Num) : List Byte × List Byte :=
  let gc := f32Num (rn (Num.mul (f32Num cf) g))
  let mb := u.encode key h.afmt 5 i (Num.sum [Num.mul (f32Num u.beta) m, Num.mul (f32Num u.b1) gc])
  let inner := Num.sum [Num.mul (f32Num u.lambda) p, Num.mul (f32Num u.bc) (storedNum h.afmt mb)]
  (mb, u.encode key h.pfmt 4 i (Num.sum [p, (Num.mul (f32Num u.lr) inner).negate]))

/-! ## Regions and shards (R143, R144) -/

/-- CURSOR of a shard, as a write. -/
def Shard.cursorWrite (h : Shard) (r : Nat) : Nat × List Byte := ((h.at_ + 40) % 2 ^ 48, leBytes 4 r)

/-- LAST_STATUS of a shard, as a write. -/
def Shard.statusWrite (h : Shard) (status : Code) : Nat × List Byte := ((h.at_ + 44) % 2 ^ 48, [status])

/-- STEP, CURSOR 0 and LAST_STATUS in one 16-byte write. -/
def stepWrite (a : Nat) (step : Word) (status : Code) : Nat × List Byte :=
  ((a + 32) % 2 ^ 48, leBytes 8 step.toNat ++ [0, 0, 0, 0] ++ [status, 0, 0, 0])

/-- Count an update event (Table 6.8). -/
def State.upCount (s : State) (c i n : Nat) : State := s.modUp c fun u => { u with cnt := bump u.cnt i n }

/-- The regions of a shard in row 6, from its CURSOR on. -/
def State.upRegions (s : State) (c : Nat) (u : UpPar) (cf : F32) (h : Shard) (mask : List Byte) : List Nat → State × UpOut
  | [] => (s, .ok)
  | r :: rs =>
    let s := s.modUp c fun x => { x with region := BitVec.ofNat 20 r }
    if frozenIn mask r then
      match s.upWrite c [h.cursorWrite (r + 1)] with
      | (s, .ok) => (s.upCount c 2 1).upRegions c u cf h mask rs
      | (s, q) => (s, q.again)
    else match s.readRegion c h h.grad h.gfmt r with
      | (s, .fail st a) => (s, .fault st a)
      | (s, .ok g) =>
        match s.readRegion c h h.avg h.afmt r with
        | (s, .fail st a) => (s, .fault st a)
        | (s, .ok m) =>
          match s.readRegion c h h.param h.pfmt r with
          | (s, .fail st a) => (s, .fault st a)
          | (s, .ok p) =>
            let key := (s.core c).key
            let out := (List.range g.length).zip (g.zip (m.zip p)) |>.map fun x =>
              u.element key h cf (4096 * r + x.1) x.2.1 x.2.2.1 x.2.2.2
            let ws := [((h.avg + 4096 * r * fmtBytes h.afmt) % 2 ^ 48, out.flatMap (·.1)),
                       ((h.param + 4096 * r * fmtBytes h.pfmt) % 2 ^ 48, out.flatMap (·.2)), h.cursorWrite (r + 1)]
            match s.upWrite c ws with
            | (s, .ok) => s.upRegions c u cf h mask rs
            | q => q

/-- The regions still to do. -/
def Shard.rest (h : Shard) : List Nat := (List.range h.regions).filter fun r => decide (h.cursor ≤ r)

/-- One shard of up.step: the first row of Table 6.4 that applies; and whether the shard counts as not updated. -/
def State.upShard (s : State) (c : Nat) (u : UpPar) (h : Shard) : State × UpOut × Bool :=
  let only (s : State) (status : Code) (counter : Option Nat) : State × UpOut × Bool :=
    match s.upWrite c [h.statusWrite status] with
    | (s, .ok) => ((match counter with | some i => s.upCount c i 1 | none => s), .ok, true)
    | (s, q) => (s, q.again, true)
  if !h.formatsOk then only s Code.tileShape none
  else if h.step == u.next && h.cursor == 0 && (h.status == Code.ok || h.status == Code.frozenSkipped) then
    (s.upCount c 3 1, .ok, false)
  else if h.step != u.e then only s Code.stepMismatch (some 1)
  else match u.c with
    | none => only s Code.poison (some 4)
    | some cf =>
      match s.readMask c h with
      | (s, .fail st a) => (s, .fault st a, false)
      | (s, .ok mask) =>
        if h.freeze != 0 && (List.range h.regions).all (frozenIn mask) then
          match s.upWrite c [stepWrite h.at_ u.next Code.frozenSkipped] with
          | (s, q) => (s, q.again, true)
        else match s.upRegions c u cf h mask h.rest with
          | (s, .ok) =>
            match s.upWrite c [stepWrite h.at_ u.next Code.ok] with
            | (s, .ok) => (s.upCount c 0 1, .ok, false)
            | (s, q) => (s, q.again, false)
          | (s, q) => (s, q, false)

/-! ## Shards that software does not keep to one core and one place (R146) -/

/-- Where ranges of context addresses lie, by a walk of the bound context's tables. -/
def State.runsOf (s : State) (c : Nat) (ranges : List (Nat × Nat)) : List (Option (Nat × Nat)) :=
  (ranges.flatMap fun r => partsOf r.1 r.2).map fun q =>
    match (s.part (s.ctxOf c)).bound with
    | none => none
    | some x => match s.walk (s.ctxOf c) x.root.toNat q.1 with
      | .ok t => some (t.base + q.1 % 2 ^ t.log2, q.2)
      | .error _ => none

/-- The context ranges that are undefined where R146 says so: STEP, CURSOR and LAST_STATUS, and the state. -/
def Shard.ranges (h : Shard) : List (Nat × Nat) :=
  [((h.at_ + 32) % 2 ^ 48, 13), (h.avg, h.count * fmtBytes h.afmt), (h.param, h.count * fmtBytes h.pfmt)]

/-- Where a shard lies now. -/
def State.shardPlace (s : State) (c : Nat) (h : Shard) : ShardPlace := ⟨h.ranges, s.runsOf c h.ranges⟩

/-- Where shard i of a table lies; of one whose descriptor cannot be read, its STEP, CURSOR and LAST_STATUS. -/
def State.placeOf (s : State) (c : Nat) (table : Word) (i : Nat) : ShardPlace :=
  match (s.readShard c table i).2 with
  | .ok h => s.shardPlace c h
  | .fail .. => let r := [((shardAddr table i + 32) % 2 ^ 48, 13)]; ⟨r, s.runsOf c r⟩

/-- Does an update instruction that has started and not completed on a core name the shard at a context address? -/
def Core.namesShard (k : Core) (a : Nat) : Bool :=
  k.vxq.any fun e => e.started && !e.faulted &&
    (match e.op with | .upstep .. | .upsetstep .. => true | _ => false) &&
    decide ((a + 2 ^ 48 - shardAddr (e.arg 0) 0) % 2 ^ 48 / 64 < (e.arg 1).toNat % 2 ^ 32)

/-- Has another core of the partition the shard as well? -/
def State.sharedShard (s : State) (c : Nat) (a : Nat) : Bool :=
  (s.coresOf (s.ctxOf c)).any fun d => d != c && (s.core d).namesShard a

/-- Bytes at a device address take free values, where the partition's grants hold them and a path leads to them; nothing else changes. -/
def State.freeRun (s : State) (c : Nat) (run : Nat × Nat) : State :=
  let ds := (piecesOf run.1 run.2).filter fun d => s.granted (s.ctxOf c) d.1 && s.populated d.1 && !s.cut c d.1
  let n := ds.foldl (fun n d => n + d.2) 0
  (s.writePieces c ds (s.freeBytes n)).ticks n

/-- A shard is undefined: its state, its STEP, its CURSOR and its LAST_STATUS, where they lay and where they lie (R146). -/
def State.spoilPlace (s : State) (c : Nat) (x : ShardPlace) : State :=
  (x.runs ++ s.runsOf c x.ranges).foldl (fun s r => match r with | some d => s.freeRun c d | none => s) s

/-- An update instruction that holds on another core, and names the shard, no longer knows where it lies, and so takes it for undefined. -/
def Core.forgets (k : Core) (a : Nat) : Core :=
  if !k.namesShard a then k
  else { k with vxq := k.vxq.map fun e =>
    let i := (a + 2 ^ 48 - shardAddr (e.arg 0) 0) % 2 ^ 48 / 64
    { e with resume := e.resume.map fun r =>
        { r with places := r.places.mapIdx fun j x => if j = i then { x with runs := [] } else x } } }

/-- A shard at a context address that several cores have is undefined (R146). -/
def State.spoilShared (s : State) (c a : Nat) (x : ShardPlace) : State :=
  (s.spoilPlace c x).modCores ((s.coresOf (s.ctxOf c)).filter (· != c)) fun k => k.forgets a

/-- Where the shards of a table lie, each in its place. -/
def State.tablePlaces (s : State) (c : Nat) (table : Word) (n : Nat) : List ShardPlace := (List.range n).map (s.placeOf c table)

/-- The shards whose translations have changed since the instruction first held, and that are not undefined yet. -/
def State.movedShards (s : State) (c : Nat) (r : UpResume) : List Nat :=
  (List.range r.places.length).filter fun i => match r.places[i]? with
    | some x => !setHas r.spoiled i && x.runs != s.runsOf c x.ranges
    | none => false

/-- The translations of shards have changed while the instruction ran: those shards are undefined (R146). -/
def State.spoilMoved (s : State) (c : Nat) (r : UpResume) (moved : List Nat) : State :=
  moved.foldl (fun s i => match r.places[i]? with | some x => s.spoilPlace c x | none => s) s

/-- One shard of up.step: undefined when another core has it as well (R146); otherwise as Table 6.4 says. Whether an undefined shard counts
as not updated is free. -/
def State.upOne (s : State) (c : Nat) (u : UpPar) (h : Shard) : State × UpOut × Bool :=
  if s.sharedShard c h.at_ then
    let t := s.spoilShared c h.at_ (s.shardPlace c h)
    (t.tick, .ok, Config.freeBool t.freeCtr)
  else s.upShard c u h

/-- An update instruction from its start. -/
def UpResume.start : UpResume := ⟨0, 0, none, [], [], []⟩

/-- The writes that a hold keeps. -/
def UpOut.kept : UpOut → List (Nat × List Byte)
  | .hold l => l
  | _ => []

/-- The shards of up.step in table order: where it stopped, and the shards counted as not updated. -/
def State.upShards (s : State) (c : Nat) (table : Word) (u : UpPar) : List Nat → Nat → State × UpOut × UpResume
  | [], n => (s, .ok, { UpResume.start with count := n })
  | i :: is_, n =>
    let s := s.modUp c fun x => { x with shard := BitVec.ofNat 28 i, region := 0 }
    match s.readShard c table i with
    | (s, .fail st a) => (s, .fault st a, { UpResume.start with shard := i, count := n })
    | (s, .ok h) =>
      match s.upOne c u h with
      | (s, .ok, counted) => s.upShards c table u is_ (if counted then n + 1 else n)
      | (s, q, _) => (s, q, ⟨i, n, some u, [], [], q.kept⟩)

/-- An update instruction holds: it goes on from there at its release. Where its shards lay at its first hold is kept, and which of them are
undefined (R146). -/
def State.upHolds (s : State) (c : Nat) (e : Entry) (from_ r : UpResume) : State :=
  let s := s.modUp c fun u => { u with hold := true }
  let places := if from_.places.isEmpty then s.tablePlaces c (e.arg 0) ((e.arg 1).toNat % 2 ^ 32) else from_.places
  let r := { r with places := places, spoiled := from_.spoiled }
  s.modCore c fun k => k.modEntry .vx e.seq fun x => { x with started := true, resume := some r }

/-- The shards from `i` to the count. -/
def shardsFrom (i n : Nat) : List Nat := (List.range n).filter fun j => decide (i ≤ j)

/-- What up.step has computed once: as before its hold, or from its record (R140). -/
def State.upParams (s : State) (c : Nat) (e : Entry) (from_ : UpResume) : State × MemRes UpPar :=
  match from_.par with
  | some u => (s, .ok u)
  | none =>
    match s.load c ((e.arg 4).toNat % 2 ^ 48 / 64 * 64) 64 with
    | (s, .ok bs) => (s, .ok (upParOf (e.arg 2) ((e.arg 3).setWidth 32) bs))
    | (s, .fail st a) => (s, .fail st a)

/-- The shards that an update instruction still has to do from where it goes on, but for those that are undefined. -/
def UpResume.rest (from_ : UpResume) (n : Nat) : List Nat := (shardsFrom from_.shard n).filter fun i => !setHas from_.spoiled i

/-- How many of the moved shards still to do count as not updated: a free number of them. -/
def State.movedCount (s : State) (from_ : UpResume) (moved : List Nat) : Nat :=
  Config.freeNat s.freeCtr % ((moved.filter fun i => decide (from_.shard ≤ i)).length + 1)

/-- A held instruction goes on: the shards whose translations have changed are undefined, and what they had left is not written (R146). -/
def State.upMoves (s : State) (c : Nat) (from_ : UpResume) : State × UpResume :=
  match s.movedShards c from_ with
  | [] => (s, from_)
  | moved =>
    let m := s.movedCount from_ moved
    (s.tick.spoilMoved c from_ moved,
      { from_ with count := from_.count + m, spoiled := moved.foldl setAdd from_.spoiled,
                   left := if moved.contains from_.shard then [] else from_.left })

/-- up.step runs from a shard on (R140 to R145); first the writes of a region that a hold has kept are made (R148). -/
def State.runUpstep (s : State) (c : Nat) (e : Entry) (sd : SReg) (from_ : UpResume) : State :=
  let s := s.modUp c fun u => { u with run := 2, hold := false }
  match s.upParams c e from_ with
  | (s, .fail st a) => s.upFaults c e st (some a)
  | (s, .ok u) =>
    let (s, from_) := s.upMoves c from_
    match s.upWriteGo c from_.left with
    | (s, .hold l) => s.upHolds c e from_ { from_ with par := some u, left := l }
    | (s, .fault status a) => s.upFaults c e status (some a)
    | (s, .ok) =>
      match s.upShards c (e.arg 0) u (from_.rest ((e.arg 1).toNat % 2 ^ 32)) from_.count with
      | (s, .ok, r) =>
        (s.modUp c fun x => { x with notOk := BitVec.ofNat 32 r.count }).entryDone c .vx e (some (sd, BitVec.ofNat 64 r.count))
      | (s, .hold _, r) => s.upHolds c e from_ r
      | (s, .fault status a, _) => s.upFaults c e status (some a)

/-- The shards of up.setstep (R147); one that another core has as well is undefined (R146). -/
def State.setShards (s : State) (c : Nat) (table v : Word) : List Nat → State × UpOut × Nat
  | [] => (s, .ok, 0)
  | i :: is_ =>
    let s := s.modUp c fun x => { x with shard := BitVec.ofNat 28 i, region := 0 }
    let a := shardAddr table i
    if s.sharedShard c a then (s.spoilShared c a (s.placeOf c table i)).setShards c table v is_
    else match s.upWrite c [stepWrite a v Code.ok] with
    | (s, .ok) => s.setShards c table v is_
    | (s, q) => (s, q, i)

/-- up.setstep runs from a shard on. -/
def State.runSetstep (s : State) (c : Nat) (e : Entry) (from_ : UpResume) : State :=
  let s := s.modUp c fun u => { u with run := 3, hold := false }
  let (s, from_) := s.upMoves c from_
  match s.setShards c (e.arg 0) (e.arg 2) (from_.rest ((e.arg 1).toNat % 2 ^ 32)) with
  | (s, .ok, _) => s.entryDone c .vx e none
  | (s, .hold _, i) => s.upHolds c e from_ { UpResume.start with shard := i }
  | (s, .fault status a, _) => s.upFaults c e status (some a)

/-- The held update instruction of a core: one that holds and has not faulted (R148). -/
def Core.heldUpdate (k : Core) : Option (Entry × UpResume) :=
  if !k.up.hold then none
  else k.vxq.findSome? fun e => if e.done || e.faulted then none else e.resume.map fun r => (e, r)

/-- A hold ends: its cycles are counted, a number the spec does not give, and the instruction goes on. -/
def State.upResume (s : State) (c : Nat) : State :=
  match (s.core c).heldUpdate with
  | none => s
  | some (e, r) =>
    let s := (s.upCount c 5 (1 + Config.freeNat s.freeCtr)).tick
    match e.op with
    | .upstep _ _ _ _ _ sd => s.runUpstep c e sd r
    | .upsetstep _ _ _ => s.runSetstep c e r
    | _ => s

end Sys2Proof.Machine
end

