-- ==== Sys2Proof/Machine/Engine.lean ====
section
/-!
DEFINITION. The engines' events (R34 to R38, R45, R57): starting the next instruction of a queue, completing one that is done, and
the end of a bank's waking.
-/
namespace Sys2Proof.Machine

/-- An engine starts an instruction: its checks, its faults and its effect. -/
def State.startOp (s : State) (c : Nat) (g : Engine) (e : Entry) : State :=
  match e.op with
  | .mm .. | .mmq .. | .ew .. | .accld .. => s.startArray c e
  | .ldb b tp split => s.startLdb c e b tp split
  | .mst _ _ base rows col16 cols16 fmt rnd xpose _ => s.startMst c e base rows col16 cols16 fmt rnd xpose
  | .rmode mode ls => (s.modCore c fun k => { k with mx := k.mx.rmode mode ls }).entryDone c g e none
  | .mseed _ _ => (s.modCore c fun k => { k with mx := { k.mx with seed := e.arg 0, step := e.arg 1 } }).entryDone c g e none
  | .vec f v => s.startVec c e f v
  | .act d s1 rnd slot w0 w1 => s.startAct c e d s1 rnd slot w0 w1
  | .actd d g' x rnd pair w0 w1 => s.startActd c e d g' x rnd pair w0 w1
  | .fn f d s1 rnd w0 w1 => s.startFn c e f d s1 rnd w0 w1
  | .rand d _ w0 w1 => s.startRand c e d w0 w1
  | .tload _ slot => s.startTload c e slot
  | .vseed _ _ => s.startVseed c e
  | .row f r => s.startRow c e f r
  | .upsq _ _ sd reduce _ => s.startUpsq c e sd reduce
  | .upstep _ _ _ _ _ sd => s.runUpstep c e sd UpResume.start
  | .upsetstep _ _ _ => s.runSetstep c e UpResume.start
  | .tld t _ _ | .tldx t _ _ _ => s.startTld c e t
  | .tst t _ _ | .tstx t _ _ _ => s.startTst c e t
  | .dld d _ => s.startDld c e d
  | .dst d _ => s.startDst c e d
  | .dset d _ w => s.startDset c e d w
  | .copy dd ds xp => s.startCopy c e dd ds xp
  | .gather dd ds di _ => s.startBlocks c e dd ds di true
  | .scatter dd ds di _ => s.startBlocks c e dd ds di false
  | .rput ds _ _ b sig sd => s.startRemote c e ds b sig sd true
  | .rget dd _ _ b sig sd => s.startRemote c e dd b sig sd false
  | .ingest dd ds xfs _ xf sd => s.startIngest c e dd ds xfs xf sd
  | .sbind b _ => s.startBind c e b
  | .sadd b _ _ => s.startAdd c e b
  | .swait b _ _ _ => s.startWait c e b
  | .sread b _ => s.startRead c e b
  | .sbar bar _ _ _ => s.startBar c e bar
  | .sbarcfg bar _ _ => s.startBarcfg c e bar
  | _ => s

/-- An engine starts an instruction that finds an error in what it reads: the unit's test starts; an error that cannot be corrected leaves the
word without content (R248, R334). An instruction that breaks a rule checked at start reads nothing (R45). -/
def State.startOpEcc (s : State) (c : CoreId) (g : Engine) (e : Entry) (ecc : Ecc) : State :=
  if s.startOp c g e = s.entryShape c g e then s.startOp c g e
  else ((s.spoilRead c e.op ecc).startOp c g e).sramError (s.readUnit c e.op) ecc

/-- ENGINE_START: the engine starts the first instruction of its queue that has not started, when nothing holds it. -/
def execEngineStart (c : CoreId) (g : Engine) (ecc : Ecc) (s : State) : Host.Outcome State Fault Refusal :=
  match (s.core c).startable g with
  | none => .next s
  | some e =>
    match ecc with
    | .clean => .next (s.startOp c g e)
    | _ => .next (s.startOpEcc c g e ecc)

/-- An instruction leaves its queue: SD is written and no longer pending, the draw and its dropped writes are counted, the table of a
vx.tload is valid (R35, R37, R118, R121, R212). -/
def Core.retire (k : Core) (g : Engine) (pos : Nat) (e : Entry) : Core :=
  let k := k.setQueue g (listDel (k.queue g) pos)
  let k := match e.result with
    | some (d, v) => { k.setReg d v with pendS := setDel k.pendS d.toNat }
    | none => k
  let k : Core := if e.draws then { k with vx := { k.vx with draw := k.vx.draw + 1 } } else k
  let k : Core := match e.op with | .tload _ slot => { k with vx := k.vx.loaded slot.toNat } | _ => k
  match dropsDesc e.op with
  | some d => if e.drops = 0 then k else k.setDesc d (addDrops (k.desc d) e.drops)
  | none => k

/-- Is the instruction an update instruction? -/
def isUpdate : Op → Bool
  | .upsq .. | .upstep .. | .upsetstep .. => true
  | _ => false

/-- Is the instruction a row instruction? -/
def isRow : Op → Bool
  | .row .. => true
  | _ => false

/-- What a completion counts in the vector engine: its cycles, which the spec bounds and does not fix (R114, R115), and row
instructions (Table 5.12). -/
def State.countVx (s : State) (c : Nat) (e : Entry) : State :=
  let n := s.freeCtr
  let f (t : Tab Word) : Tab Word :=
    let t := bump (bump (bump t 0 (Config.freeNat n)) 1 (Config.freeNat (n + 1))) 2 (Config.freeNat (n + 2))
    if isRow e.op then bump t 4 1 else t
  let s := s.modCore c fun k => { k with vx := { k.vx with cnt := f k.vx.cnt } }
  (if isUpdate e.op then s.modUp c fun u => { u with run := 0 } else s).ticks 3

/-- An instruction that is done reaches its completion point. -/
def State.completeAt (s : State) (c : Nat) (g : Engine) (pos : Nat) (e : Entry) : State :=
  let s := s.modCore c fun k => k.retire g pos e
  let s := match g with | .vx => s.countVx c e | _ => s
  s.abortEnds c

/-- ENGINE_INSTRUCTION_COMPLETE: the instruction at a place of the queue completes when it is done; the rows of a tst reach L1
then (R50), and sync traffic that a flag-mode die has combined reaches the sync store (R243). -/
def execEngineInstructionComplete (c : CoreId) (g : Engine) (pos : Nat) (s : State) : Host.Outcome State Fault Refusal :=
  let s := if g = .sy && (s.core c).works then s.sendSync c else s
  match ((s.core c).queue g)[pos]? with
  | none => .next s
  | some e =>
    if !(s.core c).works || !e.done || e.faulted then .next s
    else match tstReg e.op with
      | none => .next (s.completeAt c g pos e)
      | some t =>
        match s.finishTst c e t with
        | (s, none) => .next (s.completeAt c g pos e)
        | (s, some (r, status, a)) =>
          let s := s.modCore c fun k => k.modEntry g e.seq fun x => { x with done := false }
          .next (s.entryFaults c g e status (some (t, r)) (some a))

/-- The tcfg that waited in the sequencer takes effect (R44, R57). -/
def Core.tcfgEnds (k : Core) (op : Op) : Core :=
  match op with
  | .tcfg first count rows rowLog2 format group =>
    let k := k.applyTcfg first.toNat count.toNat (tcfgValue rows rowLog2 format group)
    { k with tcfgWait := none, platform := k.platform.drop 1 }
  | _ => k

/-- BANK_WAKE_COMPLETE: the bank is awake and reads zero; the tcfg that waits for its last bank takes effect (R57). -/
def execBankWakeComplete (c : CoreId) (bank : Fin 8) (s : State) : Host.Outcome State Fault Refusal :=
  let k := s.core c
  if !k.works || !k.waking.getLsbD bank.val then .next s
  else
    let k := k.wakeBank bank.val
    let k := match k.tcfgWait with
      | some w => if k.waking = 0 then k.tcfgEnds w.op else k
      | none => k
    .next ((s.setCore c k).abortEnds c)

/-- UPDATE_HOLD_RELEASE: the held update instruction goes on (R148). -/
def execUpdateHoldRelease (c : CoreId) (s : State) : Host.Outcome State Fault Refusal := .next (if (s.core c).works then s.upResume c else s)

/-! ## The array's events -/

/-- A core that is not fenced changes. -/
def State.modWorking (s : State) (c : Nat) (f : Core → Core) : State := if (s.core c).works then s.modCore c f else s

/-- The register and the row in it that the next step of quarter q reads, of an F4 pair the first (R62). -/
def Core.stepRow (k : Core) (op : Op) (q step : Nat) : Nat × Nat :=
  let f4 := k.opClass op == 1
  let of (a : TReg) : Nat × Nat :=
    let rows := max (k.tile a.toNat).cfg.rows.toNat 1
    let i := if f4 then 2 * step else step
    (a.toNat + i / rows, i % rows)
  match op with
  | .mm a .. => of a
  | .mmq _ _ _ _ _ q0 q1 q2 q3 => of (quarterRun q q0 q1 q2 q3).a
  | .ew x .. => of x
  | .accld t .. => (t.toNat, step)
  | _ => (0, 0)

/-- A_ROW_READ: the feeder reads the next row of quarter q. An error found in the row starts the test of the core's SRAM bank, and one that
cannot be corrected leaves a word of the row without content (R248, R334). -/
def execARowRead (c : CoreId) (q : Fin 4) (rivals : List Requester) (ecc : Ecc) (s : State) : Host.Outcome State Fault Refusal :=
  let k := s.core c.val
  if !k.works then .next s
  else
    let t := s.setCore c.val (k.rowRead q rivals)
    match k.mx.feeding q.val with
    | none => .next t
    | some j =>
      let reads (m : MxState) : Nat := (m.jobs.find? fun i => i.seq == j.seq).elim 0 fun i => (i.at q.val).reads.length
      if reads (t.core c.val).mx = reads k.mx then .next t
      else
        let (r, i) := k.stepRow j.op q.val (reads k.mx)
        let n := (k.tile r).cfg.rowBytes
        let t := if ecc = .uncorrectable then t.spoilTile c.val r (i * n) n else t
        .next (t.sramError (.coreBank c) ecc)

/-- A_ROW_ENTER: one cycle of the array; it may be withheld only while power capping or the temperature withholds cycles
(R375, R376). The command names the other requesters of the cycle and their ports (R80). -/
def execARowEnter (c : CoreId) (withheld : Bool) (asks : List (Fin 48 × Requester)) (s : State) : Host.Outcome State Fault Refusal :=
  .next (s.modWorking c fun k => k.arrayCycle (withheld && s.power.withhold.toNat + s.power.thermalW.toNat != 0) asks)

/-- ACC_RESULT_WRITE. -/
def execAccResultWrite (c : CoreId) (q : Fin 4) (rivals : List Requester) (s : State) : Host.Outcome State Fault Refusal :=
  .next (s.modWorking c fun k => k.resultWrite q rivals)

/-- B_LOAD_COMPLETE: an error found in the group starts the test of the core's SRAM bank, and one that cannot be corrected leaves a word of
it without content. -/
def execBLoadComplete (c : CoreId) (buf : Fin 2) (ecc : Ecc) (s : State) : Host.Outcome State Fault Refusal :=
  let x := (s.core c.val).mx.buf buf
  if !(s.core c.val).works || !x.loading then .next s
  else
    let r := x.first.toNat + Config.freeNat s.freeCtr % 4
    let t := if ecc = .uncorrectable then s.tick.spoilTile c.val r 0 ((s.core c.val).tile r).cfg.dataBytes else s
    .next ((t.modCore c.val fun k => k.loadComplete buf).sramError (.coreBank c) ecc)

/-- The output rows of a fused store into which the elements (i, j) and (i, j + 1) of its range go. -/
def mstRowsOf (xpose : Bool) (i j : Nat) : List Nat := if xpose then [j, j + 1] else [i]

/-- A word that a fused store has read, of no stated place, had an error that cannot be corrected: the rows that it goes into are stored with
its free content (log entry 17); a row whose translation fails meanwhile faults as any other. -/
def State.mstSpoiled (s : State) (c : Nat) (e : Entry) : State × Option (Nat × Code × Nat) :=
  match e.op with
  | .mst _ _ base rows col16 cols16 fmt rnd xpose _ =>
    let i := Config.freeNat s.freeCtr % max rows.toNat 1
    let j := 2 * (Config.freeNat (s.freeCtr + 1) % max (8 * cols16.toNat) 1)
    let s := (s.ticks 2).spoilAcc c (base.toNat + i) (16 * col16.toNat + j)
    let row := (s.core c).mstRow base.toNat rows.toNat (16 * col16.toNat) (16 * cols16.toNat) fmt rnd xpose
    s.mstRows c (rowAddr (e.arg 0) (e.arg 1) none) row (mstRowsOf xpose i j)
  | _ => (s, none)

/-- FUSED_STORE_COMPLETE; an error found in the accumulators starts the test of the core. -/
def execFusedStoreComplete (c : CoreId) (ecc : Ecc) (s : State) : Host.Outcome State Fault Refusal :=
  let k := s.core c.val
  match k.mxq.find? (fun e => isStore e.op && e.started && !e.done && !e.faulted) with
  | none => .next s
  | some e =>
    if !k.works then .next s
    else
      match if ecc = .uncorrectable then s.mstSpoiled c.val e else (s, none) with
      | (s, none) => .next ((s.modCore c.val fun k => k.storeComplete).sramError (.core c) ecc)
      | (s, some (i, status, a)) => .next ((s.entryFaults c.val .mx e status (some (0, i)) (some a)).sramError (.core c) ecc)

end Sys2Proof.Machine
end

