-- ==== Sys2Proof/Machine/Issue.lean ====
section
/-!
DEFINITION. The sequencer (R33 to R40, R44, R47, R57, R150 to R160, R175, R176): one attempt to issue the instruction at the head of
the platform queue, what each instruction does at issue, and the words that arrive in the platform queue.
-/
namespace Sys2Proof.Machine

/-! ## One attempt to issue -/

/-- May the sequencer issue: a kernel runs, and no fault, interruption, abort or fence has stopped it (R40, R53, R55, R197, R246)? -/
def Core.issuing (k : Core) : Bool := k.works && k.run == .running && !k.halted && !k.aborting && k.kernel.isSome

/-- A core cycle in which nothing issues, counted under its cause (R40, Table 2.3). -/
def Core.stallOn (k : Core) (n : Nat) : Core := { k with cycles := k.cycles + 1, stall := bump k.stall n 1 }

/-- A core cycle in which the head of the platform queue issues. -/
def Core.pop (k : Core) : Core := { k with cycles := k.cycles + 1, platform := k.platform.drop 1 }

/-- The stall counter of an engine's full queue (Table 2.3). -/
def engineStall : Engine → Nat
  | .mx => 0 | .vx => 1 | .tm => 2 | .sy => 3

/-- The first cause of Table 2.3, orders 4 to 7, that holds the head of the platform queue. -/
def Core.heldBy (k : Core) (op : Op) : Option Nat :=
  if k.touchesPending op then some 4
  else match op with
    | .tcfg first count .. => if k.tcfgWait.isSome || k.runBusy first.toNat count.toNat then some 5 else none
    | .fence | .endK => if k.entries.isEmpty then none else some 6
    | _ =>
      match engineOf op with
      | some g => if 16 ≤ (k.queue g).length then some (engineStall g) else none
      | none => none

/-- One attempt of a core's sequencer to issue an instruction (R33, R40, R154): nothing while the core issues none, or when the
instruction is not at the head of the platform queue; a counted stall while a cause of Table 2.3 holds it; one issue cycle and
no effect when its guard value is 0; otherwise `act`, with the instruction's index. A reserved field value is an instruction no
translator lets through. -/
def State.attempt (s : State) (c : CoreId) (i : GOp) (act : Nat → State) : Host.Outcome State Fault Refusal :=
  if !i.op.wf then .fault .illFormed
  else
    let k := s.core c
    if !k.issuing then .next s
    else if k.seqBusy then .next (s.modCore c (·.stallOn 8))
    else match k.platform with
      | [] => .next (s.modCore c (·.stallOn 7))
      | w :: _ =>
        if w.gop != i then .next s
        else if !k.guard i.g then .next (s.modCore c Core.pop)
        else match k.heldBy i.op with
          | some n => .next (s.modCore c (·.stallOn n))
          | none => .next (act w.index)

/-- A fault of an instruction that executes in the sequencer, or faults at issue: it stays at the head of the platform queue
(R175, R176). -/
def State.seqFaults (s : State) (c : CoreId) (engine : BitVec 3) (status : Code) (index : Nat) (addr : Option Nat) : State :=
  (s.modCore c fun k => { k with cycles := k.cycles + 1 }).fault c engine status index none addr

/-- A scalar instruction: it issues, and its destination holds the result (R157). -/
def State.scalar (s : State) (c : CoreId) (g : Guard) (op : Op) (d : SReg) (v : Core → Word) : Host.Outcome State Fault Refusal :=
  s.attempt c ⟨g, op⟩ fun _ => s.modCore c fun k => k.pop.setReg d (v k)

/-- An instruction that writes a predicate. -/
def State.predicate (s : State) (c : CoreId) (g : Guard) (op : Op) (d : PReg) (v : Core → Bool) :
    Host.Outcome State Fault Refusal :=
  s.attempt c ⟨g, op⟩ fun _ => s.modCore c fun k => k.pop.setPred d (v k)

/-- A two-source scalar operation. -/
def State.alu (s : State) (c : CoreId) (g : Guard) (f : AluFn) (d a b : SReg) : Host.Outcome State Fault Refusal :=
  s.scalar c g (.alu f d a b) d fun k => aluOp f (k.reg a) (k.reg b)

/-- A one-source scalar operation. -/
def State.conv (s : State) (c : CoreId) (g : Guard) (f : ConvFn) (d a : SReg) : Host.Outcome State Fault Refusal :=
  s.scalar c g (.conv f d a) d fun k => convOp f (k.reg a)

/-- An immediate operation. -/
def State.immediate (s : State) (c : CoreId) (g : Guard) (f : ImmFn) (d a : SReg) (imm : Word) :
    Host.Outcome State Fault Refusal :=
  s.scalar c g (.immOp f d a imm) d fun k => immFn f (k.reg a) imm

/-- A comparison. -/
def State.compare (s : State) (c : CoreId) (g : Guard) (f : CmpFn) (pd : PReg) (a : SReg) (b : CmpSrc) :
    Host.Outcome State Fault Refusal :=
  s.predicate c g (.cmp f pd a b) pd fun k => cmpOp f (k.reg a) (k.cmpSrc b)

/-- A predicate operation. -/
def State.predOps (s : State) (c : CoreId) (g : Guard) (f : PredFn) (pd pa pb : PReg) : Host.Outcome State Fault Refusal :=
  s.predicate c g (.pred f pd pa pb) pd fun k => predOp f (k.pred pa) (k.pred pb)

/-! ## The scalar instructions -/

/-- sq.add (R157). -/
def execSqAdd (c : CoreId) (g : Guard) (d a b : SReg) (s : State) : Host.Outcome State Fault Refusal :=
  s.alu c g .add d a b

/-- sq.sub (R157). -/
def execSqSub (c : CoreId) (g : Guard) (d a b : SReg) (s : State) : Host.Outcome State Fault Refusal :=
  s.alu c g .sub d a b

/-- sq.mul (R157). -/
def execSqMul (c : CoreId) (g : Guard) (d a b : SReg) (s : State) : Host.Outcome State Fault Refusal :=
  s.alu c g .mul d a b

/-- sq.mulhu (R157). -/
def execSqMulhu (c : CoreId) (g : Guard) (d a b : SReg) (s : State) : Host.Outcome State Fault Refusal :=
  s.alu c g .mulhu d a b

/-- sq.and (R157). -/
def execSqAnd (c : CoreId) (g : Guard) (d a b : SReg) (s : State) : Host.Outcome State Fault Refusal :=
  s.alu c g .and d a b

/-- sq.or (R157). -/
def execSqOr (c : CoreId) (g : Guard) (d a b : SReg) (s : State) : Host.Outcome State Fault Refusal :=
  s.alu c g .or d a b

/-- sq.xor (R157). -/
def execSqXor (c : CoreId) (g : Guard) (d a b : SReg) (s : State) : Host.Outcome State Fault Refusal :=
  s.alu c g .xor d a b

/-- sq.shl (R157). -/
def execSqShl (c : CoreId) (g : Guard) (d a b : SReg) (s : State) : Host.Outcome State Fault Refusal :=
  s.alu c g .shl d a b

/-- sq.shr (R157). -/
def execSqShr (c : CoreId) (g : Guard) (d a b : SReg) (s : State) : Host.Outcome State Fault Refusal :=
  s.alu c g .shr d a b

/-- sq.sra (R157). -/
def execSqSra (c : CoreId) (g : Guard) (d a b : SReg) (s : State) : Host.Outcome State Fault Refusal :=
  s.alu c g .sra d a b

/-- sq.min (R157). -/
def execSqMin (c : CoreId) (g : Guard) (d a b : SReg) (s : State) : Host.Outcome State Fault Refusal :=
  s.alu c g .min d a b

/-- sq.max (R157). -/
def execSqMax (c : CoreId) (g : Guard) (d a b : SReg) (s : State) : Host.Outcome State Fault Refusal :=
  s.alu c g .max d a b

/-- sq.minu (R157). -/
def execSqMinu (c : CoreId) (g : Guard) (d a b : SReg) (s : State) : Host.Outcome State Fault Refusal :=
  s.alu c g .minu d a b

/-- sq.maxu (R157). -/
def execSqMaxu (c : CoreId) (g : Guard) (d a b : SReg) (s : State) : Host.Outcome State Fault Refusal :=
  s.alu c g .maxu d a b

/-- sq.fadd (R157). -/
def execSqFadd (c : CoreId) (g : Guard) (d a b : SReg) (s : State) : Host.Outcome State Fault Refusal :=
  s.alu c g .fadd d a b

/-- sq.fsub (R157). -/
def execSqFsub (c : CoreId) (g : Guard) (d a b : SReg) (s : State) : Host.Outcome State Fault Refusal :=
  s.alu c g .fsub d a b

/-- sq.fmul (R157). -/
def execSqFmul (c : CoreId) (g : Guard) (d a b : SReg) (s : State) : Host.Outcome State Fault Refusal :=
  s.alu c g .fmul d a b

/-- sq.i2f (R157). -/
def execSqI2f (c : CoreId) (g : Guard) (d a : SReg) (s : State) : Host.Outcome State Fault Refusal :=
  s.conv c g .i2f d a

/-- sq.f2i (R157). -/
def execSqF2i (c : CoreId) (g : Guard) (d a : SReg) (s : State) : Host.Outcome State Fault Refusal :=
  s.conv c g .f2i d a

/-- sq.addi (R156, R157). -/
def execSqAddi (c : CoreId) (g : Guard) (d a : SReg) (imm : Word) (s : State) : Host.Outcome State Fault Refusal :=
  s.immediate c g .addi d a imm

/-- sq.andi (R156, R157). -/
def execSqAndi (c : CoreId) (g : Guard) (d a : SReg) (imm : Word) (s : State) : Host.Outcome State Fault Refusal :=
  s.immediate c g .andi d a imm

/-- sq.ori (R156, R157). -/
def execSqOri (c : CoreId) (g : Guard) (d a : SReg) (imm : Word) (s : State) : Host.Outcome State Fault Refusal :=
  s.immediate c g .ori d a imm

/-- sq.xori (R156, R157). -/
def execSqXori (c : CoreId) (g : Guard) (d a : SReg) (imm : Word) (s : State) : Host.Outcome State Fault Refusal :=
  s.immediate c g .xori d a imm

/-- sq.shli (R156, R157). -/
def execSqShli (c : CoreId) (g : Guard) (d a : SReg) (imm : Word) (s : State) : Host.Outcome State Fault Refusal :=
  s.immediate c g .shli d a imm

/-- sq.shri (R156, R157). -/
def execSqShri (c : CoreId) (g : Guard) (d a : SReg) (imm : Word) (s : State) : Host.Outcome State Fault Refusal :=
  s.immediate c g .shri d a imm

/-- sq.srai (R156, R157). -/
def execSqSrai (c : CoreId) (g : Guard) (d a : SReg) (imm : Word) (s : State) : Host.Outcome State Fault Refusal :=
  s.immediate c g .srai d a imm

/-- sq.ceq (R157). -/
def execSqCeq (c : CoreId) (g : Guard) (pd : PReg) (a : SReg) (b : CmpSrc) (s : State) : Host.Outcome State Fault Refusal :=
  s.compare c g .eq pd a b

/-- sq.cne (R157). -/
def execSqCne (c : CoreId) (g : Guard) (pd : PReg) (a : SReg) (b : CmpSrc) (s : State) : Host.Outcome State Fault Refusal :=
  s.compare c g .ne pd a b

/-- sq.clt (R157). -/
def execSqClt (c : CoreId) (g : Guard) (pd : PReg) (a : SReg) (b : CmpSrc) (s : State) : Host.Outcome State Fault Refusal :=
  s.compare c g .lt pd a b

/-- sq.cge (R157). -/
def execSqCge (c : CoreId) (g : Guard) (pd : PReg) (a : SReg) (b : CmpSrc) (s : State) : Host.Outcome State Fault Refusal :=
  s.compare c g .ge pd a b

/-- sq.cltu (R157). -/
def execSqCltu (c : CoreId) (g : Guard) (pd : PReg) (a : SReg) (b : CmpSrc) (s : State) : Host.Outcome State Fault Refusal :=
  s.compare c g .ltu pd a b

/-- sq.cgeu (R157). -/
def execSqCgeu (c : CoreId) (g : Guard) (pd : PReg) (a : SReg) (b : CmpSrc) (s : State) : Host.Outcome State Fault Refusal :=
  s.compare c g .geu pd a b

/-- sq.cflt (R157). -/
def execSqCflt (c : CoreId) (g : Guard) (pd : PReg) (a : SReg) (b : CmpSrc) (s : State) : Host.Outcome State Fault Refusal :=
  s.compare c g .flt pd a b

/-- sq.cfle (R157). -/
def execSqCfle (c : CoreId) (g : Guard) (pd : PReg) (a : SReg) (b : CmpSrc) (s : State) : Host.Outcome State Fault Refusal :=
  s.compare c g .fle pd a b

/-- sq.cfeq (R157). -/
def execSqCfeq (c : CoreId) (g : Guard) (pd : PReg) (a : SReg) (b : CmpSrc) (s : State) : Host.Outcome State Fault Refusal :=
  s.compare c g .feq pd a b

/-- sq.pand (R156). -/
def execSqPand (c : CoreId) (g : Guard) (pd pa pb : PReg) (s : State) : Host.Outcome State Fault Refusal :=
  s.predOps c g .and pd pa pb

/-- sq.por (R156). -/
def execSqPor (c : CoreId) (g : Guard) (pd pa pb : PReg) (s : State) : Host.Outcome State Fault Refusal :=
  s.predOps c g .or pd pa pb

/-- sq.pxor (R156). -/
def execSqPxor (c : CoreId) (g : Guard) (pd pa pb : PReg) (s : State) : Host.Outcome State Fault Refusal :=
  s.predOps c g .xor pd pa pb

/-- sq.pnot (R156). -/
def execSqPnot (c : CoreId) (g : Guard) (pd pa : PReg) (s : State) : Host.Outcome State Fault Refusal :=
  s.predOps c g .not pd pa 0

/-! ## Control, memory and system (R158 to R160) -/

/-- Execution moves to an index: the platform queue is empty until the target's first word arrives (R158, R204). -/
def Core.jump (k : Core) (n : Int) : Core :=
  { k with platform := [], kernel := k.kernel.map fun r => { r with fetch := n.toNat } }

/-- sq.br (R158). -/
def execSqBr (c : CoreId) (g : Guard) (off : BitVec 32) (s : State) : Host.Outcome State Fault Refusal :=
  s.attempt c ⟨g, .br off⟩ fun i => s.modCore c fun k => k.pop.jump (i + off.toInt)

/-- sq.loop (R158). -/
def execSqLoop (c : CoreId) (g : Guard) (sa : SReg) (off : BitVec 32) (s : State) : Host.Outcome State Fault Refusal :=
  s.attempt c ⟨g, .loop sa off⟩ fun i => s.modCore c fun k =>
    let v := k.reg sa - 1
    let k := k.pop.setReg sa v
    if v = 0 then k else k.jump (i + off.toInt)

/-- sq.end (R158, R193, R237). -/
def execSqEnd (c : CoreId) (g : Guard) (s : State) : Host.Outcome State Fault Refusal :=
  s.attempt c ⟨g, .endK⟩ fun _ => ((s.modCore c Core.pop).flush c).kernelEnds c

/-- The address of a scalar access (R159). -/
def scalarAddr (a : Word) (off : BitVec 32) : Nat := ((a + off.signExtend 64).toNat) % 2 ^ 48

/-- The bytes of a scalar access. -/
def scalarBytes (size : BitVec 2) : Nat := 2 ^ size.toNat

/-- The value that a scalar load writes: zero-extended, or sign-extended from its `n` bytes. -/
def loaded (n : Nat) (signed : Bool) (bs : List Byte) : Word :=
  let v := leNat bs
  if signed && decide (2 ^ (8 * n - 1) ≤ v) then BitVec.ofInt 64 ((v : Int) - 2 ^ (8 * n)) else BitVec.ofNat 64 v

/-- A scalar access issues and executes in the sequencer until its completion. -/
def Core.popBusy (k : Core) : Core := { k.pop with seqBusy := true }

/-- sq.ld (R159). -/
def execSqLd (c : CoreId) (g : Guard) (sr sa : SReg) (size : BitVec 2) (signed : Bool) (off : BitVec 32) (s : State) :
    Host.Outcome State Fault Refusal :=
  s.attempt c ⟨g, .ld sr sa size signed off⟩ fun i =>
    let n := scalarBytes size
    match s.load c (scalarAddr ((s.core c).reg sa) off) n with
    | (s, .ok bs) => s.modCore c fun k => k.popBusy.setReg sr (loaded n signed bs)
    | (s, .fail st a) => s.seqFaults c 0 st i (some a)

/-- sq.st (R159). -/
def execSqSt (c : CoreId) (g : Guard) (sr sa : SReg) (size : BitVec 2) (off : BitVec 32) (s : State) :
    Host.Outcome State Fault Refusal :=
  s.attempt c ⟨g, .st sr sa size off⟩ fun i =>
    let k := s.core c
    match s.store c (scalarAddr (k.reg sa) off) (leBytes (scalarBytes size) (k.reg sr).toNat) with
    | (s, .ok ()) => s.modCore c Core.popBusy
    | (s, .fail st a) => s.seqFaults c 0 st i (some a)

/-- sq.nop. -/
def execSqNop (c : CoreId) (g : Guard) (s : State) : Host.Outcome State Fault Refusal :=
  s.attempt c ⟨g, .nopK⟩ fun _ => s.modCore c Core.pop

/-- sq.fence: every earlier instruction has completed; L1 is written back and invalidated (R39, R237). -/
def execSqFence (c : CoreId) (g : Guard) (s : State) : Host.Outcome State Fault Refusal :=
  s.attempt c ⟨g, .fence⟩ fun _ => (s.modCore c Core.popBusy).flush c

/-- Core cycles since launch: those in which the model's sequencer was attempted, and cycles of no stated number besides
(R160, log entry 2). -/
def Core.cyclesNow (k : Core) (n : Nat) : Word := k.cycles + BitVec.ofNat 64 (Config.freeNat n)

/-- The values of Table 7.5. -/
def State.sysValue (s : State) (c : CoreId) (sel : BitVec 8) : Word :=
  let k := s.core c
  let r := k.kernel
  match sel.toNat with
  | 0 => put 0 k.lg
  | 1 => put 0 ((r.map (·.rank)).getD 0)
  | 2 => put 0 ((r.map (·.size)).getD 0)
  | 3 => put 0 (s.partN c)
  | 4 => s.devId.setWidth 64
  | 5 => s.consist.domainId.setWidth 64
  | 6 => (r.map (·.arg)).getD 0
  | 7 => k.cyclesNow s.freeCtr
  | 8 => s.lineTime
  | 9 => s.power.mhz.setWidth 64
  | _ => s.capUnit

/-- sq.rdsys (R160). -/
def execSqRdsys (c : CoreId) (g : Guard) (sd : SReg) (sel : BitVec 8) (s : State) : Host.Outcome State Fault Refusal :=
  s.attempt c ⟨g, .rdsys sd sel⟩ fun _ =>
    let v := s.sysValue c sel
    let s := s.modCore c fun k => k.pop.setReg sd v
    if sel = 7 then (s.modCore c fun k => { k with cycles := v + 1 }).tick else s

/-- tcfg: TILE_SHAPE when it is inconsistent; otherwise it wakes the gated banks it needs and waits, or takes effect (R44, R46,
R57). -/
def execTcfg (c : CoreId) (g : Guard) (first : TReg) (count : BitVec 7) (rows : BitVec 11) (rowLog2 format : BitVec 4)
    (group : Bool) (s : State) : Host.Outcome State Fault Refusal :=
  s.attempt c ⟨g, .tcfg first count rows rowLog2 format group⟩ fun i =>
    let k := s.core c
    if !tcfgConsistent first.toNat count.toNat rows.toNat rowLog2.toNat format group then s.seqFaults c 0 Code.tileShape i none
    else
      let banks := k.toWake first.toNat count.toNat format
      if banks.isEmpty then s.setCore c (k.pop.applyTcfg first.toNat count.toNat (tcfgValue rows rowLog2 format group))
      else
        let k : Core := k.stallOn 5
        let w := banks.foldl (fun w b => setBit8 w b true) k.waking
        s.setCore c { k with waking := w, tcfgWait := some ⟨i, .tcfg first count rows rowLog2 format group⟩ }

/-- SEQUENCER_INSTRUCTION_COMPLETE: the scalar access or fence that executes in the sequencer completes (R34). -/
def execSequencerInstructionComplete (c : CoreId) (s : State) : Host.Outcome State Fault Refusal :=
  if !(s.core c).works || !(s.core c).seqBusy then .next s
  else .next ((s.modCore c fun k => { k with seqBusy := false }).abortEnds c)

/-! ## Engine instructions (R34 to R37) -/

/-- The sequencer hands an instruction to its engine: its scalars are read, it takes the tail of the queue, and the scalar it
will write is pending (R34 to R37). -/
def Core.enqueue (k : Core) (e : Engine) (op : Op) (index : Nat) : Core :=
  let x : Entry :=
    { seq := k.seqNo, index := index, op := op, args := (scalarsRead op).map k.reg, started := false, done := false,
      faulted := false, result := none, drops := 0, draws := opDraws op, resume := none }
  let pend := match scalarWritten op with
    | some d => if d = 0 then k.pendS else setAdd k.pendS d.toNat
    | none => k.pendS
  let k := k.pop
  { k.setQueue e (k.queue e ++ [x]) with seqNo := k.seqNo + 1, pendS := pend }

/-- An engine instruction issues. -/
def State.engineIssue (s : State) (c : CoreId) (g : Guard) (e : Engine) (op : Op) : Host.Outcome State Fault Refusal :=
  s.attempt c ⟨g, op⟩ fun i => s.modCore c fun k => k.enqueue e op i

/-- tm.ingest: on a device without the transform unit, a transform from SXF faults at issue (R176). -/
def execTmIngest (c : CoreId) (g : Guard) (dd ds : DReg) (xfs : Bool) (sxf : SReg) (xf : BitVec 9) (sd : SReg) (s : State) :
    Host.Outcome State Fault Refusal :=
  s.attempt c ⟨g, .ingest dd ds xfs sxf xf sd⟩ fun i =>
    let k := s.core c
    if xfs && s.fuses.gradeB && ((k.reg sxf).setWidth 9 : BitVec 9) != 0 then s.seqFaults c 3 Code.absentEngine i none
    else s.setCore c (k.enqueue .tm (.ingest dd ds xfs sxf xf sd) i)

/-- tld issues to its engine (R34 to R37). -/
def execTld (c : CoreId) (g : Guard) (t : TReg) (sbase sstride : SReg) (s : State) : Host.Outcome State Fault Refusal :=
  s.engineIssue c g .tm (.tld t sbase sstride)

/-- tst issues to its engine (R34 to R37). -/
def execTst (c : CoreId) (g : Guard) (t : TReg) (sbase sstride : SReg) (s : State) : Host.Outcome State Fault Refusal :=
  s.engineIssue c g .tm (.tst t sbase sstride)

/-- tld.x issues to its engine (R34 to R37). -/
def execTldX (c : CoreId) (g : Guard) (t : TReg) (sbase sstride : SReg) (tidx : TReg) (s : State) :
    Host.Outcome State Fault Refusal :=
  s.engineIssue c g .tm (.tldx t sbase sstride tidx)

/-- tst.x issues to its engine (R34 to R37). -/
def execTstX (c : CoreId) (g : Guard) (t : TReg) (sbase sstride : SReg) (tidx : TReg) (s : State) :
    Host.Outcome State Fault Refusal :=
  s.engineIssue c g .tm (.tstx t sbase sstride tidx)

/-- mx.mm issues to its engine (R34 to R37). -/
def execMxMm (c : CoreId) (g : Guard) (a : TReg) (alen : BitVec 3) (b : TReg) (base : BitVec 10) (add tp half : Bool) (s : State) :
    Host.Outcome State Fault Refusal :=
  s.engineIssue c g .mx (.mm a alen b base add tp half)

/-- mx.mmq issues to its engine (R34 to R37). -/
def execMxMmq (c : CoreId) (g : Guard) (qmask : BitVec 4) (b : TReg) (add tp half : Bool) (q0 q1 q2 q3 : QRun) (s : State) :
    Host.Outcome State Fault Refusal :=
  s.engineIssue c g .mx (.mmq qmask b add tp half q0 q1 q2 q3)

/-- mx.ew issues to its engine (R34 to R37). -/
def execMxEw (c : CoreId) (g : Guard) (x y : TReg) (base : BitVec 10) (add half : Bool) (s : State) :
    Host.Outcome State Fault Refusal :=
  s.engineIssue c g .mx (.ew x y base add half)

/-- mx.accld issues to its engine (R34 to R37). -/
def execMxAccld (c : CoreId) (g : Guard) (t : TReg) (base : BitVec 10) (col16 : BitVec 5) (s : State) :
    Host.Outcome State Fault Refusal :=
  s.engineIssue c g .mx (.accld t base col16)

/-- mx.ldb issues to its engine (R34 to R37). -/
def execMxLdb (c : CoreId) (g : Guard) (b : TReg) (tp split : Bool) (s : State) : Host.Outcome State Fault Refusal :=
  s.engineIssue c g .mx (.ldb b tp split)

/-- mx.st issues to its engine (R34 to R37). -/
def execMxSt (c : CoreId) (g : Guard) (saddr sstride : SReg) (base : BitVec 10) (rows : BitVec 11) (col16 : BitVec 5) (cols16 : BitVec 6) (fmt : BitVec 4) (rnd xpose clear : Bool) (s : State) :
    Host.Outcome State Fault Refusal :=
  s.engineIssue c g .mx (.mst saddr sstride base rows col16 cols16 fmt rnd xpose clear)

/-- mx.rmode issues to its engine (R34 to R37). -/
def execMxRmode (c : CoreId) (g : Guard) (mode : BitVec 2) (longSum : BitVec 17) (s : State) : Host.Outcome State Fault Refusal :=
  s.engineIssue c g .mx (.rmode mode longSum)

/-- mx.seed issues to its engine (R34 to R37). -/
def execMxSeed (c : CoreId) (g : Guard) (sseed sstep : SReg) (s : State) : Host.Outcome State Fault Refusal :=
  s.engineIssue c g .mx (.mseed sseed sstep)

/-- vx.add issues to its engine (R34 to R37). -/
def execVxAdd (c : CoreId) (g : Guard) (v : VecOps) (s : State) : Host.Outcome State Fault Refusal :=
  s.engineIssue c g .vx (.vec .add v)

/-- vx.mul issues to its engine (R34 to R37). -/
def execVxMul (c : CoreId) (g : Guard) (v : VecOps) (s : State) : Host.Outcome State Fault Refusal :=
  s.engineIssue c g .vx (.vec .mul v)

/-- vx.fma issues to its engine (R34 to R37). -/
def execVxFma (c : CoreId) (g : Guard) (v : VecOps) (s : State) : Host.Outcome State Fault Refusal :=
  s.engineIssue c g .vx (.vec .fma v)

/-- vx.max issues to its engine (R34 to R37). -/
def execVxMax (c : CoreId) (g : Guard) (v : VecOps) (s : State) : Host.Outcome State Fault Refusal :=
  s.engineIssue c g .vx (.vec .max v)

/-- vx.min issues to its engine (R34 to R37). -/
def execVxMin (c : CoreId) (g : Guard) (v : VecOps) (s : State) : Host.Outcome State Fault Refusal :=
  s.engineIssue c g .vx (.vec .min v)

/-- vx.cvt issues to its engine (R34 to R37). -/
def execVxCvt (c : CoreId) (g : Guard) (v : VecOps) (s : State) : Host.Outcome State Fault Refusal :=
  s.engineIssue c g .vx (.vec .cvt v)

/-- vx.act issues to its engine (R34 to R37). -/
def execVxAct (c : CoreId) (g : Guard) (d s1 : VSel) (rnd : Bool) (slot : BitVec 5) (w0 w1 : Window) (s : State) :
    Host.Outcome State Fault Refusal :=
  s.engineIssue c g .vx (.act d s1 rnd slot w0 w1)

/-- vx.actd issues to its engine (R34 to R37). -/
def execVxActd (c : CoreId) (g : Guard) (d s1 s2 : VSel) (rnd : Bool) (pair : BitVec 4) (w0 w1 : Window) (s : State) :
    Host.Outcome State Fault Refusal :=
  s.engineIssue c g .vx (.actd d s1 s2 rnd pair w0 w1)

/-- vx.fn issues to its engine (R34 to R37). -/
def execVxFn (c : CoreId) (g : Guard) (f : FixFn) (d s1 : VSel) (rnd : Bool) (w0 w1 : Window) (s : State) :
    Host.Outcome State Fault Refusal :=
  s.engineIssue c g .vx (.fn f d s1 rnd w0 w1)

/-- vx.rand issues to its engine (R34 to R37). -/
def execVxRand (c : CoreId) (g : Guard) (d : VSel) (rnd : Bool) (w0 w1 : Window) (s : State) : Host.Outcome State Fault Refusal :=
  s.engineIssue c g .vx (.rand d rnd w0 w1)

/-- vx.tload issues to its engine (R34 to R37). -/
def execVxTload (c : CoreId) (g : Guard) (saddr : SReg) (slot : BitVec 5) (s : State) : Host.Outcome State Fault Refusal :=
  s.engineIssue c g .vx (.tload saddr slot)

/-- vx.seed issues to its engine (R34 to R37). -/
def execVxSeed (c : CoreId) (g : Guard) (sseed sstep : SReg) (s : State) : Host.Outcome State Fault Refusal :=
  s.engineIssue c g .vx (.vseed sseed sstep)

/-- vx.norm issues to its engine (R34 to R37). -/
def execVxNorm (c : CoreId) (g : Guard) (r : RowOps) (s : State) : Host.Outcome State Fault Refusal :=
  s.engineIssue c g .vx (.row .norm r)

/-- vx.normb issues to its engine (R34 to R37). -/
def execVxNormb (c : CoreId) (g : Guard) (r : RowOps) (s : State) : Host.Outcome State Fault Refusal :=
  s.engineIssue c g .vx (.row .normb r)

/-- vx.smax issues to its engine (R34 to R37). -/
def execVxSmax (c : CoreId) (g : Guard) (r : RowOps) (s : State) : Host.Outcome State Fault Refusal :=
  s.engineIssue c g .vx (.row .smax r)

/-- vx.smaxb issues to its engine (R34 to R37). -/
def execVxSmaxb (c : CoreId) (g : Guard) (r : RowOps) (s : State) : Host.Outcome State Fault Refusal :=
  s.engineIssue c g .vx (.row .smaxb r)

/-- tm.dld issues to its engine (R34 to R37). -/
def execTmDld (c : CoreId) (g : Guard) (d : DReg) (sa : SReg) (s : State) : Host.Outcome State Fault Refusal :=
  s.engineIssue c g .tm (.dld d sa)

/-- tm.dst issues to its engine (R34 to R37). -/
def execTmDst (c : CoreId) (g : Guard) (d : DReg) (sa : SReg) (s : State) : Host.Outcome State Fault Refusal :=
  s.engineIssue c g .tm (.dst d sa)

/-- tm.dset issues to its engine (R34 to R37). -/
def execTmDset (c : CoreId) (g : Guard) (d : DReg) (sv : SReg) (word : BitVec 3) (s : State) : Host.Outcome State Fault Refusal :=
  s.engineIssue c g .tm (.dset d sv word)

/-- tm.copy issues to its engine (R34 to R37). -/
def execTmCopy (c : CoreId) (g : Guard) (dd ds : DReg) (xpose : Bool) (s : State) : Host.Outcome State Fault Refusal :=
  s.engineIssue c g .tm (.copy dd ds xpose)

/-- tm.gather issues to its engine (R34 to R37). -/
def execTmGather (c : CoreId) (g : Guard) (dd ds di : DReg) (scnt : SReg) (s : State) : Host.Outcome State Fault Refusal :=
  s.engineIssue c g .tm (.gather dd ds di scnt)

/-- tm.scatter issues to its engine (R34 to R37). -/
def execTmScatter (c : CoreId) (g : Guard) (dd ds di : DReg) (scnt : SReg) (s : State) : Host.Outcome State Fault Refusal :=
  s.engineIssue c g .tm (.scatter dd ds di scnt)

/-- tm.rput issues to its engine (R34 to R37). -/
def execTmRput (c : CoreId) (g : Guard) (ds : DReg) (sdev srd : SReg) (b : BReg) (sig : Bool) (sd : SReg) (s : State) :
    Host.Outcome State Fault Refusal :=
  s.engineIssue c g .tm (.rput ds sdev srd b sig sd)

/-- tm.rget issues to its engine (R34 to R37). -/
def execTmRget (c : CoreId) (g : Guard) (dd : DReg) (sdev srd : SReg) (b : BReg) (sig : Bool) (sd : SReg) (s : State) :
    Host.Outcome State Fault Refusal :=
  s.engineIssue c g .tm (.rget dd sdev srd b sig sd)

/-- sy.bind issues to its engine (R34 to R37). -/
def execSyBind (c : CoreId) (g : Guard) (b : BReg) (sv : SReg) (s : State) : Host.Outcome State Fault Refusal :=
  s.engineIssue c g .sy (.sbind b sv)

/-- sy.add issues to its engine (R34 to R37). -/
def execSyAdd (c : CoreId) (g : Guard) (b : BReg) (sv sd : SReg) (s : State) : Host.Outcome State Fault Refusal :=
  s.engineIssue c g .sy (.sadd b sv sd)

/-- sy.wait issues to its engine (R34 to R37). -/
def execSyWait (c : CoreId) (g : Guard) (b : BReg) (sv st sd : SReg) (s : State) : Host.Outcome State Fault Refusal :=
  s.engineIssue c g .sy (.swait b sv st sd)

/-- sy.read issues to its engine (R34 to R37). -/
def execSyRead (c : CoreId) (g : Guard) (b : BReg) (sd : SReg) (s : State) : Host.Outcome State Fault Refusal :=
  s.engineIssue c g .sy (.sread b sd)

/-- sy.bar issues to its engine (R34 to R37). -/
def execSyBar (c : CoreId) (g : Guard) (bar : BitVec 10) (slap st sd : SReg) (s : State) : Host.Outcome State Fault Refusal :=
  s.engineIssue c g .sy (.sbar bar slap st sd)

/-- sy.barcfg issues to its engine (R34 to R37). -/
def execSyBarcfg (c : CoreId) (g : Guard) (bar : BitVec 10) (scount sd : SReg) (s : State) : Host.Outcome State Fault Refusal :=
  s.engineIssue c g .sy (.sbarcfg bar scount sd)

/-- up.sq issues to its engine (R34 to R37). -/
def execUpSq (c : CoreId) (g : Guard) (stab scnt sd : SReg) (reduce : Bool) (scell : SReg) (s : State) :
    Host.Outcome State Fault Refusal :=
  s.engineIssue c g .vx (.upsq stab scnt sd reduce scell)

/-- up.step issues to its engine (R34 to R37). -/
def execUpStep (c : CoreId) (g : Guard) (stab scnt se sg2 srec sd : SReg) (s : State) : Host.Outcome State Fault Refusal :=
  s.engineIssue c g .vx (.upstep stab scnt se sg2 srec sd)

/-- up.setstep issues to its engine (R34 to R37). -/
def execUpSetstep (c : CoreId) (g : Guard) (stab scnt sv : SReg) (s : State) : Host.Outcome State Fault Refusal :=
  s.engineIssue c g .vx (.upsetstep stab scnt sv)

/-! ## The platform queue (R33, R203, R204) -/

/-- Words of the platform queue (R33). -/
def platformSize : Nat := 512

/-- Native words of the instruction at an index: at least one, a private number (R34), at most the whole queue. -/
def opWords (index : Nat) : Nat := min platformSize (1 + Config.nativeWords index)

/-- Native words in the platform queue. -/
def Core.nativeWords (k : Core) : Nat := k.platform.foldl (fun n i => n + opWords i.index) 0

/-- The instructions from an index on, whole, that find room in so many words (Table 1.4). -/
def fitting : Nat → Nat → List GOp → List GOp
  | _, _, [] => []
  | room, i, o :: t => if opWords i ≤ room then o :: fitting (room - opWords i) (i + 1) t else []

/-- PLATFORM_WORD_ARRIVAL: the next instructions of the core's kernel arrive, as many as are said, remain and find room for their native
words (R33, Table 1.4). -/
def execPlatformWordArrival (c : CoreId) (n : Nat) (s : State) : Host.Outcome State Fault Refusal :=
  let k := s.core c
  match if k.works then k.kernel else none with
  | none => .next s
  | some r =>
    match tabGet none (s.part (s.partN c)).slots r.slot with
    | none => .next s
    | some slot =>
      let ops := fitting (platformSize - k.nativeWords) r.fetch ((slot.ops.drop r.fetch).take n)
      let items := (List.range ops.length).zipWith (fun i o => (⟨r.fetch + i, o⟩ : PItem)) ops
      .next (s.setCore c { k with platform := k.platform ++ items, kernel := some { r with fetch := r.fetch + ops.length } })

end Sys2Proof.Machine
end

