-- ==== Sys2Proof/Machine/Partition.lean ====
section
/-!
DEFINITION. What a partition's changes of state do to its cores (R53 to R58, R151, R197, R266, R267): logical numbers and spares (R15,
R337, R348), fencing a core (R246, R336), launching, interrupting, saving and restoring a core, and abandoning a generation (R328).
-/
namespace Sys2Proof.Machine

/-! ## Logical numbers (R15, R348) -/

/-- Number the enabled cores of a cluster: a core in the image's FENCED map gives way to the lowest spare left, or takes none. -/
def numberCores (fenced : NatSet) : List Nat → List Nat → List Nat
  | [], _ => []
  | c :: cs, spares =>
    if setHas fenced c then
      match spares with
      | sp :: t => sp :: numberCores fenced cs t
      | [] => numberCores fenced cs []
    else c :: numberCores fenced cs spares

/-- The cores of a cluster (R14). -/
def clusterCores (k : Nat) : List Nat := (List.range 9).map (9 * k + ·)

/-- The physical cores that the applied image gives logical numbers, in the order of the numbers (R348). -/
def State.numbering (s : State) : List Nat :=
  (List.range 32).flatMap fun k =>
    numberCores s.consist.spares ((clusterCores k).filter s.fuses.enabled.getLsbD)
      ((clusterCores k).filter fun c => s.fuses.spare.getLsbD c && !setHas s.consist.spares c)

/-- Does a logical number lie inside the partition (R191)? -/
def State.insidePart (s : State) (p n : Nat) : Bool :=
  match s.numbering[n]? with
  | some c => (s.part p).clusters.getLsbD (clusterOf c)
  | none => false

/-! ## Fencing and spares (R246, R336, R337) -/

/-- The crossbar ports of a die, with the port of core `c` changed (R235). -/
def Die.setPort (d : Die) (c : Nat) (v : Nat × Bool) : Die :=
  { d with ports := d.ports.map fun x =>
      match x.2 with
      | some (n, _) => if n = c then (x.1, some v) else x
      | none => x }

/-- A core is fenced: it gives up its logical number, its port is disabled, its dirty lines are lost, its registers stay as they are;
a spare is no longer in use; one that runs a kernel stops and its partition enters FAULTED (R15, R246, R336, Table 14.10). A core fused as
disabled stays what it is (R30). -/
def State.fenceCore (s : State) (c : Nat) : State :=
  let k := s.core c
  if !k.works || k.role = .disabled then s
  else
    let ran := k.kernel.isSome
    let s := s.modCore c fun k =>
      { k with role := .fenced, logical := none, former := k.logical, l1 := L1.empty, run := if ran then .faulted else k.run }
    let s := { s with fencedMap := setAdd s.fencedMap c, spareUse := setDel s.spareUse c }
    let s := s.modDie (dieOf c) fun d => d.setPort c (c, true)
    let s := if ran then
        let s := s.partFaulted c
        match s.partOf c with
        | none => s
        | some p => s.eventDue p Code.fenced 0xFFFFFFFF#32 (put 0 c ||| put 16 0xFFFFFFFF)
      else s
    (s.sendSync c).abortEnds c

/-- At a context boundary the logical number that a fenced core held, and its port, go to an unused spare of its cluster (R337). -/
def State.mapSpare (s : State) (f : Nat) : State :=
  match (s.core f).works, (s.core f).former with
  | false, some l =>
    let s := s.modCore f fun k => { k with former := none }
    match (clusterCores (clusterOf f)).find? fun c =>
        s.fuses.spare.getLsbD c && (s.core c).works && !setHas s.spareUse c && (s.core c).logical.isNone with
    | none => s
    | some c =>
      let s := s.modCore c fun k => { k with logical := some l }
      let s := { s with spareUse := setAdd s.spareUse c }
      let s := s.modDie (dieOf f) fun d => d.setPort f (c, false)
      s.log 6 Code.ok (s.partOf f) 0 0 (BitVec.ofNat 32 (c * 65536 + f))
  | _, _ => s

/-- A context boundary of a set of clusters (R337). -/
def State.boundary (s : State) (clusters : BitVec 32) : State :=
  ((List.range 32).filter clusters.getLsbD).foldl (fun s k => (clusterCores k).foldl State.mapSpare s) s

/-- The context boundary of a partition. -/
def State.contextBoundary (s : State) (p : Nat) : State := s.boundary (s.part p).clusters

/-- Every tag of the B buffers ends (R66). -/
def MxState.noTags (m : MxState) : MxState :=
  { m with bufs := m.bufs.map fun b => (b.1, { b.2 with valid := false, loading := false }) }

/-! ## A core's kernel starts (R151, R58, R79, R102, R118, R126) -/

/-- The matrix engine at a kernel's launch (R66, R79, R102). -/
def MxState.launched (m : MxState) (det : Bool) : MxState :=
  { m.noTags with acc := [], terms := [], det := det, lsMode := 0, longSum := 0x1000#17, seed := 0, step := 0, jobs := [] }

/-- The scalars at launch: s1 the argument block, s2 the rank, s3 the cores, s4 the logical number. -/
def launchScalars (r : KernelRef) (lg : Nat) : Tab Word :=
  [(1, r.arg), (2, BitVec.ofNat 64 r.rank), (3, BitVec.ofNat 64 r.size), (4, BitVec.ofNat 64 lg)]

/-- A core at the start of a kernel. Its fault record is zero as a whole, where Table 2.10 clears VALID and says nothing of the other fields and
of CORE_FAULT_ADDR (DESIGN CHOICE, log entry 10). -/
def Core.launched (k : Core) (r : KernelRef) : Core :=
  { k with run := .running, kernel := some r, scalars := launchScalars r k.lg, preds := [], pendS := [], platform := [], seqNo := 0,
           seqBusy := false, tcfgWait := none, cycles := 0, fault := FaultRec.none, tiles := [], powered := 0, waking := 0,
           mxq := [], vxq := [], tmq := [], syq := [], mx := k.mx.launched r.det,
           vx := { k.vx with seed := 0, step := 0, draw := 0, slots := [], loading := [] }, descs := [], handles := [], halted := false,
           aborting := false }

/-! ## Interruption, save and restore of a core (R52, R55, R56, R126) -/

/-- A core is interrupted: issue stops and its tile transfer in execution is abandoned. -/
def State.interruptCore (s : State) (c : Nat) : State :=
  let s := s.modCore c fun k => { k with halted := true }
  (s.core c).tmq.foldl (fun s e => s.abandon c e) s

/-- Is the entry a wait on a baton or barrier that has not ended? -/
def Entry.waiting (e : Entry) : Bool :=
  e.started && !e.done && (match e.op with | .swait .. | .sbar .. => true | _ => false)

/-- Has every executing instruction but the waits of the SY engine completed? -/
def Core.quiet (k : Core) : Bool :=
  !k.works || (!k.seqBusy && k.tcfgWait.isNone && k.entries.all fun e => !e.started || e.faulted || e.waiting)

/-- What a restored core takes from its saved context, the registers of gated banks as zero (R56, R57); the role, the logical number
and the counters are the physical core's own. -/
def Core.restored (k saved : Core) : Core :=
  { k with run := if saved.fault.valid then .faulted else if saved.kernel.isSome then .running else .idle,
           scalars := saved.scalars, preds := saved.preds, pendS := saved.pendS, platform := saved.platform, kernel := saved.kernel,
           seqNo := saved.seqNo, seqBusy := false, tcfgWait := none, cycles := saved.cycles, fault := saved.fault,
           tiles := saved.tiles.filter fun t => saved.powered.getLsbD (t.1 / 8), powered := saved.powered, waking := 0,
           mxq := saved.mxq, vxq := saved.vxq, tmq := saved.tmq, syq := saved.syq, descs := saved.descs, handles := saved.handles,
           mx := { saved.mx.noTags with cnt := k.mx.cnt },
           vx := { saved.vx with loading := [], cnt := k.vx.cnt }, up := { k.up with hold := false, run := 0 }, l1 := L1.empty,
           halted := false, aborting := false }

/-- The user table slots are loaded again from their addresses; what fails is unloaded (R126). -/
def State.reloadSlots (s : State) (c : Nat) : State :=
  (s.core c).vx.slots.foldl (fun s x =>
    match x.2 with
    | none => s
    | some t =>
      let set (s : State) (v : Option TableSlot) : State :=
        s.modCore c fun k => { k with vx := { k.vx with slots := tabPut k.vx.slots x.1 v } }
      match s.ctxRead (s.ctxOf c) t.addr.toNat 6208 with
      | (s, .ok bs) =>
        let m := memWrite [] 0 bs
        set s (if imageOk m then some ⟨t.addr, m⟩ else none)
      | (s, _) => set s none) s

/-- A faulted entry runs again from its start (R54). -/
def Entry.again (e : Entry) : Entry := if e.faulted then { e with started := false, done := false, faulted := false, resume := none } else e

/-- A core resumes after a fault (R54, R200); one that a probe has halted stays so (R364). -/
def Core.resumed (k : Core) : Core :=
  { k with run := if k.halted then .debugHalt else .running, fault := { k.fault with valid := false }, mxq := k.mxq.map Entry.again, vxq := k.vxq.map Entry.again,
           tmq := k.tmq.map Entry.again, syq := k.syq.map Entry.again }

/-! ## Ending waits (Table 11.5) -/

/-- Every wait of the partition's cores ends with OWNER_LOST, an arrival at a barrier that is still in a die's crossbar too (R243). -/
def State.coreWaitsLost (s : State) (p : Nat) : State :=
  let s := s.syncLost p false
  ((s.part p).waiters.filter fun w => match w.who with | .core _ => true | .host _ => false).foldl
    (fun s w => s.endWait p w Code.ownerLost) s

/-- Every wait of the partition ends with OWNER_LOST, and so does the sync traffic in the crossbars of its dies. -/
def State.waitsLost (s : State) (p : Nat) : State :=
  let s := s.syncLost p true
  (s.part p).waiters.foldl (fun s w => s.endWait p w Code.ownerLost) s

/-! ## Generations (R328, Table 14.4) -/

/-- The phase that shows when no generation is in progress: a restore's, or that of a replay that is awaited. -/
def SecPart.otherPhase (x : SecPart) : SecPhase :=
  if x.rest.isSome then .restoring else if x.verify = 1 then .awaitReplay else .idle

/-- Is the record one of a generation of the partition? -/
def ofGeneration (p : Nat) : TwinRec → Bool
  | .clear q _ | .unit q _ _ _ | .digest q _ _ _ | .commit q _ _ => q.val == p
  | .restoreCommit .. | .restoreTable .. | .restoreUnit .. | .restoreRequest .. => false

/-- What waits of a generation at the twin ports is not sent any more. -/
def State.dropGen (s : State) (p : Nat) : State :=
  twinPorts.foldl (fun s n => s.modPort n fun x =>
    { x with waiting := x.waiting.filter fun k => match k.msg with | .twin r => !ofGeneration p r | _ => true }) s

/-- The generation in progress is abandoned: it sends nothing further. -/
def State.abandonGen (s : State) (p : Nat) (status : Code) : State :=
  if (s.part p).sec.gen.isNone then s
  else
    let s := (s.dropGen p).modPart p fun x => { x with sec := { x.sec with gen := none, phase := x.sec.otherPhase, genStatus := status, allShares := false } }
    (s.bumpTwin 2).log 3 status (some p) 0 0 (s.part p).sec.unitsLeft

end Sys2Proof.Machine
end

