-- ==== Sys2Proof/Machine/Pair.lean ====
section
/-!
DEFINITION. The pair of twins as its ports and the roster make it (R317, R318, R338, R339): the pair's state, what its loss ends, and
the projection of windowed generations when the twin ports' rate changes.
-/
namespace Sys2Proof.Machine

/-- Bytes of a 2 MiB data unit. -/
def unitBytes : Nat := 2 ^ 21

/-- The payload rate of the twin ports in bytes per nanosecond: 100 per fibre that is UP (R271). -/
def State.twinRate (s : State) : Nat :=
  (twinPorts.filter s.twinUp).foldl (fun n p => n + 100 * (s.port p).width.toNat) 0

/-- A restore ends (R330): its status, and an event of kind 4 with VERIFY. A generation in progress goes on in its phase. -/
def State.restoreEnds (s : State) (p : Nat) (status : Code) (verify : BitVec 2) (phase : SecPhase) : State :=
  let s := s.modPart p fun x =>
    { x with sec := { x.sec with rest := none, restoreStatus := status, verify := verify,
                                 phase := if x.sec.gen.isSome then x.sec.phase else phase } }
  s.log 4 status (some p) 0 0 (verify.setWidth 32)

/-- What the twin's slots hold is unknown to this device (R325). -/
def State.heldUnknown (s : State) : State :=
  (List.range 16).foldl (fun s p => s.modPart p fun x => { x with sec := { x.sec with heldB := none, heldKnown := false } }) s

/-- The twin has told which of its slots hold the current generations of this device's partitions (R325). -/
def State.heldAre (s : State) (held : List (PartId × Bool)) : State :=
  (List.range 16).foldl (fun s p => s.modPart p fun x =>
    { x with sec := { x.sec with heldB := (held.find? fun h => h.1.val == p).map (·.2), heldKnown := true } }) s

/-- The pair is LOST: every generation is abandoned, and every restore ends, with TIMEOUT (Table 14.4, R330). -/
def State.pairLost (s : State) : State :=
  let s : State := { s with twin := { s.twin with state := .lost } }
  (List.range 16).foldl (fun s p =>
    let s := s.abandonGen p Code.timeout
    if (s.part p).sec.rest.isSome then s.restoreEnds p Code.timeout (s.part p).sec.verify .idle else s) s

/-- Is the twin absent from the roster in force while this device is present (Table 14.1)? -/
def State.twinAbsent (s : State) : Bool :=
  (s.roster.entries.any fun e => e.dev == s.devId) && !(s.roster.entries.any fun e => e.dev == s.twin.dev)

/-- Does a twin port hold role TWIN? -/
def State.twinRole (s : State) : Bool := twinPorts.any fun n => (s.port n).role == 2

/-- The pair's state from its ports and the roster (Table 14.1); with neither port UP it stays until PAIR_LOST_TIMEOUT. While the far
memory of either device is being written to zero it is neither PAIRED nor DEGRADED (R358). -/
def State.pairState (s : State) : PairState :=
  let up := twinPorts.countP s.twinUp
  if !s.twinRole then .none
  else if s.twinAbsent then .lost
  else if up != 0 && !(s.start.farZero && s.twin.peerReady) then .waiting
  else if up = 2 then .paired
  else if up = 1 then .degraded
  else if !s.twin.everUp then .waiting
  else s.twin.state

/-! ## Reservations (R339) -/

/-- Has the partition a windowed generation in progress? -/
def SecPart.windowedGen (x : SecPart) : Bool := match x.gen with | some g => g.windowed | none => false

/-- Does a windowed generation, at the reserved rate, finish after its window ends? -/
def State.late (s : State) (p : Nat) : Bool :=
  let x := (s.part p).sec
  match x.gen with
  | none => false
  | some g =>
    let bytes := unitBytes * (g.units.length - g.copied.length)
    let left := g.windowEnd.toNat - s.lineTime.toNat
    g.windowed && decide (left * (x.twinShare.toNat * s.twinRate) < bytes * 100)

/-- The partitions whose share a late generation of `p` takes: they secure, and have no window in progress. -/
def State.yielders (s : State) (p : Nat) : List Nat :=
  (List.range 16).filter fun q =>
    let x := (s.part q).sec
    q != p && x.gen.isSome && !x.windowedGen && x.twinShare != 0

/-- The twin ports' rate has changed: each windowed generation is projected, and a late one receives the shares (R338, R339). -/
def State.reproject (s : State) : State :=
  if s.twinRate = 0 then s
  else (List.range 16).foldl (fun s p =>
    if s.late p && !(s.part p).sec.allShares then
      let s := s.modPart p fun x => { x with sec := { x.sec with allShares := true } }
      (s.yielders p).foldl (fun s q => s.yielded 4 5 (some q) (some p)) s
    else s) s

/-- After a change of the twin ports or the roster: the pair's state, and the projection when the rate has changed. `rate` is the
rate before. A pair whose roles are taken away begins anew (R318). -/
def State.pairChanged (s : State) (rate : Nat) : State :=
  let s := { s with twin := { s.twin with everUp := s.twinRole && (s.twin.everUp || twinPorts.any s.twinUp) } }
  let st := s.pairState
  let s := if st = .lost && s.twin.state != .lost then s.pairLost else { s with twin := { s.twin with state := st } }
  if s.twinRate = rate then s else s.reproject

end Sys2Proof.Machine
end

