-- ==== Sys2Proof/Machine/Links.lean ====
section
/-!
DEFINITION. The optical ports (R269 to R278, R282 to R287, R293): training, retraining, loss of light, flits; the arrival of records
and what a gateway does with them (R281, R295 to R297); transfers that time out; and the roster (R289 to R291).
-/
namespace Sys2Proof.Machine

/-! ## Laser inputs (R273) -/

/-- The edge (0 west, 1 east) and the position of a port on it. -/
def portEdge (n : Nat) : Nat := if n < 12 then 0 else if n < 24 then 1 else n % 2
def portPos (n : Nat) : Nat := if n < 24 then n % 12 else if n < 26 then 12 else 13

/-- The laser input that feeds a fibre of a port. -/
def laserInput (n fibre : Nat) : Nat := 4 * portEdge n + 2 * fibre + (if portPos n < 7 then 0 else 1)

/-- The power of a laser input in 0.01 dBm. -/
def State.laserPower (s : State) (li : Nat) : BitVec 16 := tabGet 0 s.board.laserPower li

/-- Has the input 13.0 dBm or more on its weakest wavelength? -/
def lit (w : BitVec 16) : Bool := decide (1300 ≤ w.toInt)

/-- Has the fibre light? -/
def State.fibreLit (s : State) (n fibre : Nat) : Bool := lit (s.laserPower (laserInput n fibre))

/-- Can the fibre carry its four lanes: it has light and no lane of it is fenced (R335)? -/
def State.fibreWorks (s : State) (n fibre : Nat) : Bool :=
  s.fibreLit n fibre && (List.range 4).all fun l => !(s.port n).laneFailed.getLsbD (4 * fibre + l)

/-- The widest width that the port can hold (R274). -/
def State.ownWidth (s : State) (n : Nat) : Nat := (List.range 2).countP (s.fibreWorks n)

/-! ## Ports going down and coming up (R277, R282) -/

/-- A port changes; the pair of twins follows its ports. -/
def State.changePort (s : State) (n : Nat) (f : Port → Port) : State :=
  let rate := s.twinRate
  let s := s.modPort n f
  if n = 24 || n = 25 then s.pairChanged rate else s

/-- The link layer of a port that carries nothing. -/
def Port.cleared (p : Port) (st : PortState) : Port :=
  { p with state := st, width := 0, rxLock := 0, version := 0, delayNs := 0, txSeq := 0, rxSeq := 0, replay := [], waiting := [],
           spent := [], resends := 0, discarding := false }

/-- Records go to the head of the hold that keeps newer ones of their flow (R287, log entry 24). -/
def State.holdFirst (s : State) (vc : Fin 8) (r : Record) : State :=
  { s with holds := s.holds.map fun h => if h.isFor r then { h with records := (vc, r) :: h.records } else h }

/-- The messages that leave the output of a port that is not UP any more: records go to the ports that remain, ahead of newer ones of
their flow that are held (R277, R287), those for the twin to the other twin port (R318). -/
def State.rehome (s : State) (n : Nat) (ks : List Packet) : State :=
  let records := ks.filterMap fun k => match k.msg with | .record r => some (k.vc, r) | _ => none
  let isHeld (m : Fin 8 × Record) : Bool := s.holds.any (·.isFor m.2)
  let s := (ks.filter fun k => match k.msg with | .twin _ | .twinAck _ => true | _ => false).foldl (fun s k => s.toTwin n k.msg) s
  let s := (records.filter isHeld).reverse.foldl (fun s m => s.holdFirst m.1 m.2) s
  (records.filter fun m => !isHeld m).foldl (fun s m => s.transmit m.2 (some (n, m.1.val)) (portJunction n)) s

/-- May a message that waits at a port which is not UP leave by another: none of its flits has been sent, and another port that is UP
takes it? -/
def State.mayMove (s : State) (n : Nat) (k : Packet) : Bool :=
  !k.begun && match k.msg with
    | .record r => (match s.exitOf r (some (n, k.vc.val)) (portJunction n) with | .ok x => x.port != n | .error _ => false)
    | .twin _ | .twinAck _ => (s.twinPort n).isSome
    | _ => false

/-- While a port retrains, or a lane of it is tested, its flows use the other live ports of their direction (R277, R334). -/
def State.divert (s : State) (n : Nat) : State :=
  let ks := (s.port n).waiting.filter (s.mayMove n)
  (s.modPort n fun p => { p with waiting := p.waiting.filter fun k => !s.mayMove n k }).rehome n ks

/-- A port goes DOWN, or out of use: its replay buffer is discarded, and what waits goes to the ports that remain (R277, R287, R318). -/
def State.portOut (s : State) (n : Nat) (st : PortState) : State :=
  let ks := (s.port n).waiting
  (s.changePort n fun p => p.cleared st).rehome n ks

/-- A port goes DOWN. -/
def State.portDown (s : State) (n : Nat) : State :=
  if (s.port n).state = .off then s else s.portOut n .down

/-- The targeted self-tests of a port's lanes start (R277, R334); while one runs the port is in SELF_TEST. -/
def State.testLanes (s : State) (p : PortId) : State :=
  let s := ((List.range 8).filter fun l => !(s.port p.val).laneFailed.getLsbD l).foldl
    (fun s l => s.startTest (.lane p ⟨l % 8, Nat.mod_lt l (by decide)⟩) false) s
  let runs := s.twin.tests.any fun t => t.running && (match t.unit with | .lane q _ => q == p | _ => false)
  if runs && (s.port p.val).state == .down then s.changePort p.val fun x => { x with state := .selfTest } else s

/-- RETRAIN_TIMEOUT: a retraining that has not completed within 20 ms leaves the port DOWN and its lanes under self-test. -/
def execRetrainTimeout (p : PortId) (s : State) : Host.Outcome State Fault Refusal :=
  .next (if (s.port p.val).state = .training then (s.portDown p.val).testLanes p else s)

/-- The neighbour of this device in a torus direction. -/
def State.neighbour (s : State) (dir : Nat) : BitVec 16 :=
  let dim := dir / 2
  let d := max (s.extentOf dim) 1
  let c := coordOf s.devId dim
  let c2 := if dir % 2 = 0 then (c + 1) % d else (c + d - 1) % d
  BitVec.ofNat 16 (s.devId.toNat - c * 32 ^ dim + c2 * 32 ^ dim)

/-- Is a FABRIC port's dimension of extent 1 (R285)? -/
def State.portIdle (s : State) (n : Nat) : Bool := (s.port n).role == 1 && decide (s.extentOf (n % 6 / 2) ≤ 1)

/-- A port retrains (R277): its replay buffer stays, and its flows use other ports. A FABRIC port of a dimension of extent 1 (R285) and a port at a fenced junction
(R247) stay DOWN. -/
def State.retrain (s : State) (n : Nat) : State :=
  if (s.port n).role = 0 || (s.port n).state = .off || s.portIdle n || setHas s.fabric.fenced (portJunction n) then s
  else (s.changePort n fun p => { p with state := .training, width := 0, rxLock := 0, version := 0, resends := 0, cnt := bump p.cnt 4 1 }).divert n

/-- LINK_RETRAIN: 8 fruitless resends, or a lane without codeword lock for 1 µs. -/
def execLinkRetrain (p : PortId) (s : State) : Host.Outcome State Fault Refusal :=
  .next (if (s.port p.val).state = .up then s.retrain p.val else s)

/-- PORT_RETRAIN: PORT_CTRL.RETRAIN is written with 1. -/
def execPortRetrain (p : PortId) (s : State) : Host.Outcome State Fault Refusal := .next (s.retrain p.val)

/-- Is the peer the one that the port's role accepts (R270, R282)? -/
def State.peerAccepted (s : State) (n : Nat) (t : Training) : Bool :=
  let role := (s.port n).role
  if role = 3 then t.isBridge
  else t.role == role &&
    (if role = 1 then
      t.domain == s.consist.domainId && t.dev == s.neighbour (n % 6) && t.port.toNat == (if n % 2 = 0 then n + 1 else n - 1)
    else if role = 2 then t.domain == s.consist.domainId && t.dev == s.twin.dev && t.port.toNat == n
    else t.domain != s.consist.domainId &&
      s.consist.lines.any fun l => l.gatewayDev == s.devId && l.port.toNat == n && l.farDomain == t.domain)

/-- The highest Relay Link version that both sides hold; this device holds 1.0 and 1.1 (R31, R282). -/
def negotiate (t : Training) : Option (BitVec 8) :=
  let hi := min 0x11 t.rlMax.toNat
  if max 0x10 t.rlMin.toNat ≤ hi then some (BitVec.ofNat 8 hi) else none

/-- The receive lanes in lock at a width (R274). -/
def State.lanesAt (s : State) (n w : Nat) : BitVec 8 :=
  if 2 ≤ w then 0xFF#8 else if s.fibreWorks n 0 then 0x0F#8 else 0xF0#8

/-- The ports whose waiting messages another one takes when it comes up: the other twin port, and ports of its direction (R277, R287, R318). -/
def portSiblings (n : Nat) : List Nat :=
  if n = 24 || n = 25 then [49 - n] else if n < 24 then (List.range 24).filter fun m => m != n && m % 6 == n % 6 else []

/-- What waits at the ports that are not UP goes to a port that has come up. -/
def State.takeOver (s : State) (n : Nat) : State :=
  ((portSiblings n).filter fun m => (s.port m).state != .up).foldl State.divert s

/-- The port comes up. A twin tells which of its slots hold generations; one whose far memory is still to be written to zero will hold none
(R358, R325; DESIGN CHOICE, log entry 29: the spec does not say how this device learns it). -/
def State.portUp (s : State) (n w : Nat) (version : BitVec 8) (t : Training) : State :=
  let lanes := s.lanesAt n w
  let s := if n = 24 || n = 25 then
      let s := s.heldAre (if t.farReady then t.held else [])
      { s with twin := { s.twin with peerReady := t.farReady } }
    else s
  let s := s.changePort n fun p =>
    let host := p.role == 3
    { p with
      state := .up, peerDev := if host then 0 else t.dev, peerPort := if host then 0 else t.port,
      peerLevel := if host then 0 else t.level, version := if host then 0 else version, width := BitVec.ofNat 2 w,
      peerDomain := if host then 0 else t.domain, delayNs := t.delayNs, rxLock := lanes, resends := 0 }
  (s.pumpPort n id).takeOver n

/-- A versions' mismatch is logged; Table 14.7 gives the event no KIND and no INFO, which are free. -/
def State.versionFails (s : State) (n : Nat) : State :=
  let s := s.portOut n .versionFail
  let k := Config.freeNat s.freeCtr
  let info := (Config.freeWord s.freeCtr).setWidth 32
  s.tick.log k Code.version none 0 0 info

/-- TRAINING_FLIT_RECEIVE: the peer's training record decides whether the port comes up, and how. -/
def execTrainingFlitReceive (p : PortId) (t : Training) (s : State) : Host.Outcome State Fault Refusal :=
  let n := p.val
  let x := s.port n
  if x.role = 0 || x.state = .off || x.state = .selfTest || s.portIdle n || setHas s.fabric.fenced (portJunction n) then .next s
  else if !s.peerAccepted n t then .next (s.portOut n .miswired)
  else
    let w := min (s.ownWidth n) (min t.width.toNat 2)
    if w = 0 then .next (s.portDown n)
    else if x.role = 3 then .next (s.portUp n w 0 t)
    else match negotiate t with
      | none => .next (s.versionFails n)
      | some v => .next (s.portUp n w v t)

/-- A laser input's power changes. -/
def State.setLaser (s : State) (li : Fin 8) (power : BitVec 16) : State :=
  { s with board := { s.board with laserPower := tabPut s.board.laserPower li.val power } }

/-- A fibre of a port has gone dark: with two dark fibres the port goes DOWN, with one it trains at width 1 (R273). -/
def State.fibreDark (s : State) (n : Nat) : State :=
  let x := s.port n
  if x.state != .up then s
  else if s.ownWidth n = 0 then s.portDown n
  else if s.ownWidth n < x.width.toNat then s.retrain n
  else s

/-- LASER_INPUT_LOSS. -/
def execLaserInputLoss (li : Fin 8) (power : BitVec 16) (s : State) : Host.Outcome State Fault Refusal :=
  let s := s.setLaser li power
  if lit power then .next s
  else .next (((List.range 28).filter fun n => laserInput n 0 == li.val || laserInput n 1 == li.val).foldl State.fibreDark s)

/-- LASER_INPUT_RETURN: the fibres have light again; a port takes them at its next training. -/
def execLaserInputReturn (li : Fin 8) (power : BitVec 16) (s : State) : Host.Outcome State Fault Refusal := .next (s.setLaser li power)

/-- PEER_PORT_DOWN: the link partner's port has gone down at a fenced junction (R293); the ports of fenced clusters are OP ports. -/
def execPeerPortDown (p : PortId) (s : State) : Host.Outcome State Fault Refusal :=
  .next (if p.val < 24 && (s.port p.val).role != 0 then s.portDown p.val else s)

/-- CAP_LEVEL_UPDATE (R284). -/
def execCapLevelUpdate (p : PortId) (level : BitVec 8) (s : State) : Host.Outcome State Fault Refusal :=
  .next (if (s.port p.val).state = .up && (s.port p.val).role != 3 then s.modPort p.val fun x => { x with peerLevel := level } else s)

/-! ## Flits (R275, R276) -/

/-- The flits up to an acknowledged one leave the replay buffer. -/
def Port.acked (p : Port) (ack : BitVec 24) : Port :=
  if p.replay.any (fun f => f.seq == ack) then
    { p with replay := (p.replay.dropWhile fun f => f.seq != ack).drop 1, resends := 0 }
  else p

/-- Is the flit at the head of the replay buffer among those that `again` names? -/
def Port.headAgain (p : Port) (again : TxFlit → Bool) : Bool := match p.replay with | f :: _ => again f | [] => false

/-- Flits of the replay buffer are sent again, those that `again` names; `resends` counts how often the first unacknowledged one has been,
since an acknowledgement came last (R277). -/
def Port.resend (p : Port) (own now : Word) (again : TxFlit → Bool) : Port :=
  let n := p.replay.countP again
  { p with replay := p.replay.map (fun f => if again f then { f with sent := own, ends := f.ends.map (Msg.sentAt now) } else f)
           cnt := bump (bump p.cnt 0 n) 3 n, resends := p.resends + (p.headAgain again).toNat }

/-- Flits are sent again; a port whose first one has been sent 8 times without progress retrains instead (R277). -/
def State.sendAgain (s : State) (n : Nat) (again : TxFlit → Bool) : State :=
  if decide (7 ≤ (s.port n).resends) && (s.port n).headAgain again then s.retrain n
  else s.modPort n (·.resend s.lt.own s.lineTime again)

/-- Credits come back, one count per channel. -/
def Port.credited (p : Port) (credits : List Nat) : Port :=
  { p with spent := p.spent.map fun x => (x.1, x.2 - credits.getD x.1 0) }

/-- The flits before a sequence number were received. -/
def Port.received (p : Port) (seq : BitVec 24) : Port :=
  if (p.replay.takeWhile fun f => f.seq != seq).isEmpty then p
  else { p with replay := p.replay.dropWhile (fun f => f.seq != seq), resends := 0 }

/-- A NAK asks for the flits from a sequence number on. -/
def State.nakked (s : State) (n : Nat) (seq : BitVec 24) : State :=
  if (s.port n).replay.any (fun f => f.seq == seq) then (s.modPort n (·.received seq)).sendAgain n fun _ => true else s

/-- The slice cycles that a flit waited for a credit are not modelled: a free number is counted. -/
def Port.creditStalls (p : Port) (n : Nat) : Port := if p.waiting.isEmpty then p else { p with cnt := bump p.cnt 7 n }

/-- CONTROL_FLIT_RECEIVE; the remote transfers under way issue the records that wait for credits (R281). -/
def execControlFlitReceive (p : PortId) (ackSeq : BitVec 24) (nak : Option (BitVec 24)) (credits : List Nat) (s : State) :
    Host.Outcome State Fault Refusal :=
  if (s.port p.val).state != .up then .next s
  else
    let n := Config.freeNat s.freeCtr
    let s := s.tick.modPort p.val fun x => ((x.creditStalls n).acked ackSeq).credited credits
    let s := match nak with | some q => s.nakked p.val q | none => s
    .next ((List.range 288).foldl State.transferGoesOn (s.pumpPort p.val id))

/-- The time after which an unacknowledged flit is sent again: 10 µs. -/
def replayAge : Nat := 10000

/-- When the unacknowledged flit sent longest ago was sent, on the own count. -/
def Port.oldest (p : Port) : Option Word :=
  match p.replay with
  | [] => none
  | f :: t => some (t.foldl (fun m g => if g.sent.toNat < m.toNat then g.sent else m) f.sent)

/-- REPLAY_TIMEOUT: the unacknowledged flit sent longest ago was sent 10 µs ago; every flit sent as long ago is sent again. -/
def execReplayTimeout (p : PortId) (s : State) : Host.Outcome State Fault Refusal :=
  match (s.port p.val).oldest with
  | none => .next s
  | some t =>
    if (s.port p.val).state != .up then .next s
    else
      let s := s.passTo ⟨t + BitVec.ofNat 64 replayAge, true⟩
      .next (s.sendAgain p.val fun g => decide (replayAge ≤ (s.lt.own - g.sent).toNat))

/-! ## Records that arrive (R281, R286) -/

/-- Has the record arrived at or past its deadline (R281)? -/
def State.expired (s : State) (r : Record) : Bool := decide (r.deadline.toNat ≤ s.lineTime.toNat)

/-- A record ends in a flit: discarded past its deadline, forwarded when it is for another device, delivered otherwise. On a long
line it is delivered to the gateway (R296). -/
def State.recordArrives (s : State) (n : Nat) (vc : Fin 8) (r : Record) : State :=
  if (s.port n).role = 4 then s.modPort n fun p => { p with delivered := p.delivered ++ [r] }
  else
    let s := s.photoRecord r
    if s.expired r then s.bumpPort n 6
    else if r.dstDev == s.devId then
      (s.photoEvent r.dstPart.val (s.originOf r) r.srcDev).modPort n fun p => { p with delivered := p.delivered ++ [r] }
    else s.transmit r (some (n, vc.val)) (portJunction n)

/-- An accepted flit: its records arrive in order. -/
def State.flitAccepted (s : State) (n : Nat) (f : Flit) : State :=
  let corrected := Config.freeNat s.freeCtr
  let s := s.tick.modPort n fun p =>
    { p with rxSeq := p.nextSeq p.rxSeq, discarding := false, cnt := bump (bump p.cnt 1 1) 5 corrected }
  if (s.port n).role = 2 then s else f.records.foldl (fun s r => s.recordArrives n f.vc r) s

/-- DATA_FLIT_RECEIVE: a flit with a CRC error is discarded, and so is every later one until the expected SEQ arrives. -/
def execDataFlitReceive (p : PortId) (f : Flit) (s : State) : Host.Outcome State Fault Refusal :=
  let n := p.val
  if (s.port n).state != .up || (s.port n).role == 3 then .next s
  else if !f.crcOk then .next ((s.bumpPort n 2).modPort n fun x => { x with discarding := true })
  else
    let s := s.pumpPort n (·.acked f.ackSeq)
    if (s.port n).rxSeq != f.seq then .next s else .next (s.flitAccepted n f)

/-- The record is taken from the records delivered on the port, or from those of this device to itself, when it is the next; with it the
junction at which it enters: the port's, or that of the core it comes from. A record of this device to itself arrives when it is taken, and
past its deadline it is discarded: then there is no junction (R281). -/
def State.takeRecord (s : State) (n : Nat) (r : Record) : Option (State × Option Nat) :=
  let own : Option (State × Option Nat) := match s.loopback with
    | y :: u =>
      if y = r then
        let s := ({ s with loopback := u }).photoRecord r
        if s.expired r then some (s, none)
        else some (s.photoEvent r.dstPart.val (s.originOf r) r.srcDev, some (s.junctionOf r.srcCore.toNat))
      else none
    | [] => none
  match (s.port n).delivered with
  | x :: t =>
    if x = r && (s.port n).role != 4 then some (s.modPort n fun p => { p with delivered := t }, some (portJunction n)) else own
  | [] => own

/-- A request record acts at its target. -/
def State.requestArrives (s : State) (n : Nat) (type : RecType) (r : Record) : State :=
  if r.type = type then
    match s.takeRecord n r with
    | some (s, some j) => s.serve r j
    | some (s, none) => s
    | none => s
  else s

/-- An answer reaches the engine of the core that sent the request (R221, R253); it is discarded when no core holds the number (R246). -/
def State.answerArrives (s : State) (n : Nat) (type : RecType) (r : Record) : State :=
  if r.type = type then
    match s.takeRecord n r with
    | none => s
    | some (s, none) => s
    | some (s, some _) =>
      match s.physical r.srcCore.toNat with
      | none => s
      | some c => if r.engineSy then s.answerSy c r else s.answerTm c r
  else s

/-- WRITE. -/
def execWrite (p : PortId) (r : Record) (s : State) : Host.Outcome State Fault Refusal := .next (s.requestArrives p.val .write r)
/-- WRITE64. -/
def execWrite64 (p : PortId) (r : Record) (s : State) : Host.Outcome State Fault Refusal := .next (s.requestArrives p.val .write64 r)
/-- READ. -/
def execRead (p : PortId) (r : Record) (s : State) : Host.Outcome State Fault Refusal := .next (s.requestArrives p.val .read r)
/-- INC. -/
def execInc (p : PortId) (r : Record) (s : State) : Host.Outcome State Fault Refusal := .next (s.requestArrives p.val .inc r)
/-- READ_DATA. -/
def execReadData (p : PortId) (r : Record) (s : State) : Host.Outcome State Fault Refusal := .next (s.answerArrives p.val .readData r)
/-- ACK. -/
def execAck (p : PortId) (r : Record) (s : State) : Host.Outcome State Fault Refusal := .next (s.answerArrives p.val .ack r)
/-- NACK. -/
def execNack (p : PortId) (r : Record) (s : State) : Host.Outcome State Fault Refusal := .next (s.answerArrives p.val .nack r)

/-! ## Transfers that time out (R281, R305) -/

/-- The transfer or increment that an engine waits for. -/
def Core.xferOf (k : Core) (e : Engine) : Option Xfer :=
  match e with
  | .tm => k.remoteNow.map fun x => x.2.2.2
  | .sy => k.incNow
  | _ => none

/-- It ends with TIMEOUT. -/
def State.xferOut (s : State) (c : Nat) (e : Engine) : State :=
  match e with
  | .tm => s.xferTimeout c
  | .sy => s.incEnds c Code.timeout
  | _ => s

/-- The deadline of the last record that waits for its acknowledgement, on Line Time. -/
def State.awaited (s : State) : Awaits → Option Word
  | .engine c e =>
    match (s.core c).xferOf e with
    | some x => if x.onOwn || x.sent.isEmpty then none else some x.deadline
    | none => none
  | .generation p => match (s.part p).sec.gen with | some g => g.sent | none => none
  | .restore p => ((s.part p).sec.rest).map Rest.sent

/-- TRANSFER_ACK_TIMEOUT: the ACK is missing at DEADLINE + 1 µs of the last record issued; a generation is abandoned and a restore ends,
with TIMEOUT (R281, Table 14.4, R330). -/
def execTransferAckTimeout (w : Awaits) (s : State) : Host.Outcome State Fault Refusal :=
  match s.awaited w with
  | none => .next s
  | some at_ =>
    let d : Deadline := ⟨at_ + 1000, false⟩
    if !s.comes d then .next s
    else
      let s := s.passTo d
      match w with
      | .engine c e => .next (s.xferOut c e)
      | .generation p => .next (s.abandonGen p Code.timeout)
      | .restore p => .next (s.restoreEnds p Code.timeout (s.part p).sec.verify .idle)

/-- PRELOCK_TRANSFER_TIMEOUT: LIFETIME has passed on the own count. -/
def execPrelockTransferTimeout (c : CoreId) (e : Engine) (s : State) : Host.Outcome State Fault Refusal :=
  match (s.core c).xferOf e with
  | some x => .next (if x.onOwn then (s.passTo ⟨x.deadline, true⟩).xferOut c e else s)
  | none => .next s

/-! ## Ingest (R226, Table 9.5) -/

/-- INGEST_READ_COMPLETION. -/
def execIngestReadCompletion (c : CoreId) (reply : ReadReply) (data : List Byte) (s : State) : Host.Outcome State Fault Refusal :=
  match (s.core c).ingestNow with
  | none => .next s
  | some (e, dd, ds, sd, x) =>
    if x.hostLen = 0 then .next s
    else match reply with
    | .ok => .next (s.ingestData c e dd ds sd x data)
    | .poisoned | .failed => .next (s.xferEnds c e sd Code.poison)

/-- INGEST_COMPLETION_TIMEOUT: a host read has had no completion for 50 ms. -/
def execIngestCompletionTimeout (c : CoreId) (s : State) : Host.Outcome State Fault Refusal :=
  match (s.core c).ingestNow with
  | none => .next s
  | some (e, _, _, sd, x) =>
    if x.hostLen = 0 then .next s else .next ((s.passTo ⟨x.deadline, true⟩).xferEnds c e sd Code.timeout)

/-! ## Long lines (R295 to R297) -/

/-- A gateway answers a record of a long line on the port it came from. -/
def State.gatewayRefuses (s : State) (n : Nat) (r : Record) : State :=
  if isAnswer r.type then s else s.putOnPort n (vcOf 2) (s.answer r .nack Code.securityDenied [])

/-- The gateway's own line for a record that came on its port `n` from a device of another domain (R295). -/
def State.lineFrom (s : State) (n : Nat) (farDomain dev : BitVec 16) : Option Line :=
  s.consist.lines.find? fun l => l.farDomain == farDomain && l.farDev == dev && l.gatewayDev == s.devId && l.port.toNat == n

/-- A record of a long line at the far gateway: late records are discarded, the IDs are replaced, and it goes on into this domain;
`remaining` is R, signed, since a record can be sent past its deadline, and `farDev` the far device that the line entry of the
sending gateway names (log entry 24). Its arrival is compared with the deadline that the gateway gives it (R296, R309). -/
def State.gatewayTakes (s : State) (n : Nat) (r : Record) (remaining : Word) (farDomain farDev : BitVec 16) : State :=
  let delay : Word := (s.port n).delayNs.setWidth 64
  let line := s.lineFrom n farDomain r.srcDev
  let src := match line with | some l => l.lineId | none => r.srcDev
  let s := s.photoRecord { r with srcDev := src, dstDev := farDev, deadline := s.lineTime + remaining - delay }
  if decide (remaining.toInt ≤ delay.toInt) then s
  else if farDev.getLsbD 15 then s.gatewayRefuses n { r with dstDev := farDev }
  else match line with
    | none => s.gatewayRefuses n { r with dstDev := farDev }
    | some l =>
      let r : Record := { r with srcDev := l.lineId, dstDev := farDev, deadline := s.lineTime + remaining - delay }
      if r.dstDev == s.devId then { s with loopback := s.loopback ++ [r] } else s.transmit r none (portJunction n)

/-- LONG_LINE_RECORD_RECEIVE. -/
def execLongLineRecordReceive (p : PortId) (r : Record) (remaining : Word) (farDomain farDev : BitVec 16) (s : State) :
    Host.Outcome State Fault Refusal :=
  match (s.port p.val).delivered with
  | x :: t =>
    if x = r && (s.port p.val).role == 4 then
      .next ((s.modPort p.val fun q => { q with delivered := t }).gatewayTakes p.val r remaining farDomain farDev)
    else .next s
  | [] => .next s

/-! ## Flows that move (R245, R287) -/

/-- FLOW_HOLD_RELEASE: the old port holds no record of the flow any more; the held records go out by the ports as they are. -/
def execFlowHoldRelease (k : Nat) (s : State) : Host.Outcome State Fault Refusal :=
  match s.holds[k]? with
  | none => .next s
  | some h =>
    if (s.port h.oldPort).holds h.isFor then .next s
    else
      let s := { s with holds := listDel s.holds k }
      .next (h.records.foldl (fun s r => s.transmit r.2 (some (h.newPort, r.1.val)) (portJunction h.newPort)) s)

/-! ## The roster (R289 to R291) -/

/-- The least time between rosters: 10 ms. -/
def rosterGap : Word := 10000000#64

/-- Has this device met the roster before? -/
def State.knowsRoster (s : State) (r : Roster) : Bool :=
  s.rosters.any (fun o => o.epoch == r.epoch) || (s.lastEffective.isSome && s.roster.epoch == r.epoch)

/-- A roster has come: its effective time is at least 10 ms after that of the one before it; the same roster over again has no
effect. -/
def State.rosterComes (s : State) (r : Roster) : State :=
  if s.knowsRoster r then s
  else
    let eff := match s.lastEffective with
      | some e => if r.effective.toNat < (e + rosterGap).toNat then e + rosterGap else r.effective
      | none => r.effective
    { s with rosters := s.rosters ++ [⟨r.epoch, eff, r.entries, r.segments⟩], lastEffective := some eff }

/-- ROSTER_RECEIVE: a roster comes from a neighbour, on a FABRIC port that is UP (R297), and a new one goes on to the other
neighbours (R289). -/
def execRosterReceive (p : PortId) (r : Roster) (s : State) : Host.Outcome State Fault Refusal :=
  if !s.fabricUp.contains p.val || s.knowsRoster r then .next s
  else .next ((s.rosterComes r).tellNeighbours (some p.val) (.roster r))

/-- ROSTER_PUBLISH: only the time master publishes a roster; it goes to the neighbours. -/
def execRosterPublish (r : Roster) (s : State) : Host.Outcome State Fault Refusal :=
  .next (if s.lt.state = .master then (s.rosterComes r).tellNeighbours none (.roster r) else s)

/-- ROSTER_APPLY: the next roster takes effect; the one before it is kept for records stamped before. -/
def execRosterApply (s : State) : Host.Outcome State Fault Refusal :=
  match s.rosters with
  | [] => .next s
  | r :: t =>
    let d : Deadline := ⟨r.effective, false⟩
    let s := s.passTo d
    .next (if !s.reached d then s else { s with prevRoster := some s.roster, roster := r, rosters := t }.pairChanged s.twinRate)

/-- ROSTER_GRACE_EXPIRY: 8 ms after it took effect, only the new roster is kept. -/
def execRosterGraceExpiry (s : State) : Host.Outcome State Fault Refusal :=
  match s.prevRoster with
  | none => .next s
  | some _ =>
    let d : Deadline := ⟨s.roster.effective + 8000000#64, false⟩
    .next (if s.comes d then { s.passTo d with prevRoster := none } else s)

end Sys2Proof.Machine
end

