-- ==== Sys2Proof/Machine/Image.lean ====
section
/-!
DEFINITION. The consist image (R342 to R349): its header, directory and sections as the loader takes them (Tables 15.1 to 15.6), the
hops of its routing section, and its checks (Table 15.3).
-/
namespace Sys2Proof.Machine

/-! ## Sections (R342, R343) -/

/-- A section of an image: its place. -/
structure Sect where
  off : Nat
  len : Nat
deriving DecidableEq, Repr

/-- Byte `o` of a section; beyond its end it reads 0. -/
def sectByte (m : Mem) (x : Sect) (o : Nat) : Byte := if o < x.len then memGet m (x.off + o) else 0

/-- `n` bytes at `o` of a section as a number. -/
def sectNat (m : Mem) (x : Sect) (o n : Nat) : Nat := leNat ((List.range n).map fun i => sectByte m x (o + i))

/-- SECTION_COUNT and IMAGE_BYTES (Table 15.1). -/
def sectionCount (m : Mem) : Nat := memNat m 6 2
def imageBytes (m : Mem) : Nat := memNat m 8 4

/-- The first directory entry of a type; none when there is none or its range leaves the sections' part of the image. -/
def sectionOf (m : Mem) (type : Nat) : Option Sect :=
  match (List.range (sectionCount m)).find? fun i => memNat m (64 + 16 * i) 1 == type with
  | none => none
  | some i =>
    let x : Sect := ⟨memNat m (64 + 16 * i + 4) 4, memNat m (64 + 16 * i + 8) 4⟩
    if x.len = 0 || (decide (64 + 16 * sectionCount m ≤ x.off) && decide (x.off + x.len + 96 ≤ imageBytes m)) then some x else none

/-! ## Sets of 2 MiB units as rising intervals, for the grants -/

/-- Intervals [a, b), rising and apart. -/
abbrev Intervals := List (Nat × Nat)

/-- Add an interval. -/
def ivAdd (l : Intervals) (x : Nat × Nat) : Intervals :=
  if x.2 ≤ x.1 then l
  else
    let touch := l.filter fun y => decide (x.1 ≤ y.2) && decide (y.1 ≤ x.2)
    let lo := touch.foldl (fun m y => min m y.1) x.1
    let hi := touch.foldl (fun m y => max m y.2) x.2
    l.filter (fun y => decide (y.2 < x.1)) ++ [(lo, hi)] ++ l.filter (fun y => decide (x.2 < y.1))

/-- Take an interval away. -/
def ivSub (l : Intervals) (x : Nat × Nat) : Intervals :=
  if x.2 ≤ x.1 then l
  else l.flatMap fun y => [(y.1, min y.2 x.1), (max y.1 x.2, y.2)].filter fun z => decide (z.1 < z.2)

/-- An interval cut to a window. -/
def ivCut (x w : Nat × Nat) : Nat × Nat := (max x.1 w.1, min x.2 w.2)

/-- The windows that grants may cover, in 2 MiB units: near memory and slice scratch (Table 10.1). -/
def grantWindows : Intervals := [(0, 0x90000), (0x180000, 0x180200)]

/-! ## The sections' values as taken (Tables 15.4 to 15.6) -/

/-- A number from 16 bits. -/
def w16 (n : Nat) : BitVec 16 := BitVec.ofNat 16 n

/-- LIFETIME_US as taken. -/
def takeLifetime (n : Nat) : BitVec 16 := w16 (if n < 10 then 10 else min n 8000)

/-- DOMAIN_LEAD_US as taken. -/
def takeLead (n : Nat) : BitVec 16 := w16 (if n = 0 then 100 else max n 20)

/-- The clusters of partition p as taken: those that no lower partition names. -/
def takeClusters (m : Mem) (x : Sect) : Tab (BitVec 32) :=
  ((List.range 16).foldl (fun (acc : Tab (BitVec 32) × BitVec 32) p =>
    let named : BitVec 32 := BitVec.ofNat 32 (sectNat m x (8 * p) 4)
    (tabSet 0 acc.1 p (named &&& ~~~acc.2), acc.2 ||| named)) ([], 0)).1

/-- A hop code as taken: Deliver, a hop the junction has, or None. -/
def takeHop (j code : Nat) : Nat := if code = 0 || (hopFrom j code).isSome then code else 7

/-- A routing byte as taken. -/
def takeHops (j : Nat) (b : Byte) : BitVec 8 := BitVec.ofNat 8 (takeHop j (b.toNat % 8) + 8 * takeHop j (b.toNat / 8 % 8))

/-- May a port take a role (Table 12.1)? -/
def roleAllowed (n role : Nat) : Bool :=
  (role == 1 && decide (n < 24)) || (role == 2 && (n == 24 || n == 25)) || (role == 3 && (n == 26 || n == 27)) ||
  (role == 4 && decide (n < 24))

/-- The roles as taken, and the buffers of the LONG_LINE ports: one whose buffer is out of range or overlaps that of a lower port
stays OFF. -/
def takeRoles (role llBuf : Nat → Nat) : Tab (BitVec 4) × Tab (Option Nat) :=
  (List.range 28).foldl (fun (acc : Tab (BitVec 4) × Tab (Option Nat)) n =>
    let r := role n
    if !roleAllowed n r then acc
    else if r != 4 then (tabPut acc.1 n (BitVec.ofNat 4 r), acc.2)
    else if 1151 < llBuf n || acc.2.any (fun x => x.2 == some (llBuf n)) then acc
    else (tabPut acc.1 n 4, tabPut acc.2 n (some (llBuf n)))) ([], [])

/-- The extents as taken: (SIZE_GIB, BASE_GIB, TWIN_SHARE) by partition. -/
def takeExtents (m : Mem) (x : Sect) : Tab (BitVec 9 × BitVec 9 × BitVec 8) :=
  ((List.range 16).foldl (fun (acc : Tab (BitVec 9 × BitVec 9 × BitVec 8) × Intervals × Nat) p =>
    let w := sectNat m x (8 + 8 * p) 8
    let size := w % 2 ^ 9
    let base := w / 2 ^ 16 % 2 ^ 9
    let share := min (w / 2 ^ 32 % 2 ^ 8) (100 - acc.2.2)
    let bad := decide (440 < base + size) || acc.2.1.any fun y => decide (y.1 < base + size) && decide (base < y.2)
    let size := if bad then 0 else size
    (tabSet (0, 0, 0) acc.1 p (BitVec.ofNat 9 size, BitVec.ofNat 9 base, BitVec.ofNat 8 share),
      if size = 0 then acc.2.1 else acc.2.1 ++ [(base, base + size)], acc.2.2 + share)) ([], [], 0)).1

/-- The units that the section grants partition p, whoever else they are granted to. -/
def namedUnits (m : Mem) (x : Sect) (p : Nat) : Intervals :=
  (List.range (sectNat m x 2 2)).foldl (fun l g =>
    let o := 232 + 16 * g
    if sectNat m x (o + 12) 1 % 16 != p then l
    else
      let a := sectNat m x o 8 / 2 ^ 21
      grantWindows.foldl (fun l w => ivAdd l (ivCut (a, a + sectNat m x (o + 8) 4) w)) l) []

/-- The grants as taken: each unit belongs to the lowest partition that is granted it, and none lies in a LONG_LINE buffer. -/
def takeGrants (m : Mem) (x : Sect) (bufs : Tab (Option Nat)) : List Grant :=
  ((List.range 16).foldl (fun (acc : List Grant × Intervals) p =>
    let named := namedUnits m x p
    let mine := acc.2.foldl ivSub named
    let mine := bufs.foldl (fun l b => match b.2 with | some g => ivSub l (512 * g, 512 * g + 512) | none => l) mine
    (acc.1 ++ mine.map fun v => (⟨2 ^ 21 * v.1, v.2 - v.1, p⟩ : Grant), named.foldl ivAdd acc.2)) ([], [])).1

/-- The timetable entries as taken: the first entry of a number counts, and a reserved ACTION is NONE. -/
def takeTimetable (m : Mem) (x : Sect) : List TtImage :=
  (List.range ((x.len + 31) / 32)).foldl (fun l i =>
    let o := 32 * i
    let e : BitVec 8 := sectByte m x o
    if l.any fun t => t.entry == e then l
    else
      let w1 := sectNat m x (o + 16) 8
      let w2 := sectNat m x (o + 24) 8
      let act := w2 / 2 ^ 8 % 16
      l ++ [{ entry := e, time := BitVec.ofNat 64 (sectNat m x (o + 8) 8), period := BitVec.ofNat 32 (w1 / 2 ^ 32),
              duration := BitVec.ofNat 32 w1, arg := BitVec.ofNat 32 (w2 / 2 ^ 32), partMask := BitVec.ofNat 16 (w2 / 2 ^ 16),
              action := BitVec.ofNat 4 (if act < 7 then act else 0) }]) []

/-- The policy entries. -/
def takePolicy (m : Mem) (x : Sect) : List Policy :=
  (List.range (sectNat m x 0 2)).map fun i =>
    let w := sectNat m x (32 + 8 * i) 8
    ⟨w16 w, w16 (w / 2 ^ 16), BitVec.ofNat 4 (w / 2 ^ 32), w / 2 ^ 36 % 2 == 1⟩

/-- The line entries as taken: IDs have bit 15 set, and the first entry of an ID counts. -/
def takeLines (m : Mem) (x : Sect) : List Line :=
  (List.range (sectNat m x 0 2)).foldl (fun l i =>
    let o := 8 + 16 * i
    let id := w16 (sectNat m x o 2)
    if !id.getLsbD 15 || l.any fun y => y.lineId == id then l
    else l ++ [⟨id, w16 (sectNat m x (o + 2) 2), sectByte m x (o + 4), w16 (sectNat m x (o + 6) 2), w16 (sectNat m x (o + 8) 2),
                takeLifetime (sectNat m x (o + 10) 2)⟩]) []

/-- Byte table [0, n) of a section. -/
def sectTab (m : Mem) (x : Sect) (n : Nat) : Tab Byte := (List.range n).map fun i => (i, sectByte m x i)

/-- A value of a section, or the value of the Absent column. -/
def orAbsent {α : Type} (x : Option Sect) (absent : α) (f : Sect → α) : α := match x with | some x => f x | none => absent

/-- An image as taken (R346, R347); a fuse map leaves FENCED bits of disabled cores out. -/
def takeImage (fuses : Fuses) (m : Mem) : Consist :=
  let ident := sectionOf m 1
  let ports := sectionOf m 6
  let tiers := sectionOf m 8
  let time := sectionOf m 9
  let policy := sectionOf m 11
  let dev := orAbsent ident 0 fun x => w16 (sectNat m x 0 2)
  let roles := takeRoles
    (fun n => orAbsent ports (if 26 ≤ n then 3 else 0) fun x => (sectByte m x n).toNat % 16)
    (fun n => orAbsent tiers 0 fun x => sectNat m x (136 + 4 * n) 4)
  { gen := BitVec.ofNat 64 (memNat m 16 8), deviceId := dev
    domainId := orAbsent ident 0 fun x => w16 (sectNat m x 2 2)
    twinDev := orAbsent ident 0 fun x => w16 (sectNat m x 4 2)
    shape := orAbsent ident (1, 1, 1) fun x =>
      ((sectByte m x 6).toNat % 32 + 1, (sectByte m x 7).toNat % 32 + 1, (sectByte m x 8).toNat % 32 + 1)
    lifetimeUs := orAbsent ident 1000#16 fun x => takeLifetime (sectNat m x 10 2)
    clusters := orAbsent (sectionOf m 2) [] (takeClusters m)
    hosts := orAbsent (sectionOf m 2) [] fun x =>
      ((List.range 16).map fun p => (p, (sectByte m x (8 * p + 4)).getLsbD 0)).filter (·.2)
    slices := orAbsent (sectionOf m 3) [] fun x =>
      ((List.range 256).map fun i => (i, BitVec.ofNat 4 (min ((sectByte m x i).toNat % 16) 8))).filter fun y => y.2 != 0
    network := orAbsent (sectionOf m 4) 0 fun x => sectByte m x 0
    routing := (sectionOf m 5).map fun x => (List.range 1600).map fun i => (i, takeHops (i / 40) (sectByte m x i))
    roles := roles.1
    spares := orAbsent (sectionOf m 7) [] fun x => (List.range 288).filter fun c =>
      (sectByte m x (c / 8)).getLsbD (c % 8) && (fuses.enabled.getLsbD c || fuses.spare.getLsbD c)
    threshold := orAbsent tiers 1024#16 fun x => w16 (sectNat m x 0 2)
    extents := orAbsent tiers [] (takeExtents m)
    llBufs := roles.2
    grants := orAbsent tiers [] fun x => takeGrants m x roles.2
    masterDev := orAbsent time dev fun x => w16 (sectNat m x 0 2)
    backupDev := orAbsent time dev fun x => w16 (sectNat m x 2 2)
    leadUs := orAbsent time 100#16 fun x => takeLead (sectNat m x 4 2)
    fibreMax := orAbsent time 0 fun x => w16 (sectNat m x 6 2)
    timetable := orAbsent (sectionOf m 10) [] (takeTimetable m)
    debugMax := orAbsent policy [] fun x =>
      ((List.range 16).map fun p => (p, (sectByte m x (16 + p)).setWidth 2)).filter fun y => y.2 != 0
    policy := orAbsent policy [] (takePolicy m)
    lines := orAbsent (sectionOf m 12) [] (takeLines m)
    digest := sha384 (memRead m 0 (imageBytes m)) }

/-! ## The acyclicity check (R349) -/

/-- The directed links from a junction: (junction, hop code). -/
abbrev DirLink := Nat × Nat

/-- The hops of junction j towards destination d: primary and alternate. -/
def hopsOf (r : Tab (BitVec 8)) (j d : Nat) : List Nat :=
  let b := (tabGet (0x3F#8) r (40 * j + d)).toNat
  [b % 8, b / 8 % 8]

/-- The links that junction j holds a hop onto, for some destination. -/
def linksOut (r : Tab (BitVec 8)) (j : Nat) : List DirLink :=
  ((List.range 5).map (· + 1)).filterMap fun c =>
    if (hopFrom j c).isSome && (List.range 40).any fun d => (hopsOf r j d).contains c then some (j, c) else none

/-- The links that follow a link: those that the junction it enters holds a hop onto. -/
def linksNext (r : Tab (BitVec 8)) (l : DirLink) : List DirLink :=
  match hopFrom l.1 l.2 with
  | some j => linksOut r j
  | none => []

/-- Every directed ring and mesh link of the package. -/
def dirLinks : List DirLink :=
  (List.range 40).flatMap fun j => ((List.range 5).map (· + 1)).filterMap fun c => if (hopFrom j c).isSome then some (j, c) else none

/-- Links from which every path ends are taken away until none is left to take: what stays lies on, or leads into, a cycle. -/
def trimEnds (r : Tab (BitVec 8)) (ls : List DirLink) : Nat → List DirLink
  | 0 => ls
  | n + 1 => trimEnds r (ls.filter fun l => (linksNext r l).any ls.contains) n

/-- Links into which no path leads are taken away in the same way: what stays lies on a cycle, or between two. -/
def trimStarts (r : Tab (BitVec 8)) (ls : List DirLink) : Nat → List DirLink
  | 0 => ls
  | n + 1 => trimStarts r (ls.filter fun l => ls.any fun k => (linksNext r k).contains l) n

/-- The links reached from some links. -/
def reach (r : Tab (BitVec 8)) (ls : List DirLink) : Nat → List DirLink
  | 0 => ls
  | n + 1 => reach r (ls ++ (ls.flatMap (linksNext r)).eraseDups.filter fun l => !ls.contains l) n

/-- Does the edge from link a to link b lie on a cycle? -/
def onCycle (r : Tab (BitVec 8)) (a b : DirLink) : Bool := (reach r [b] 160).contains a

/-- The junction and destination of the first edge of a cycle, in ascending j and then ascending k; none when the routing is
acyclic. -/
def routingCycle (r : Tab (BitVec 8)) : Option (Nat × Nat) :=
  let left := trimStarts r (trimEnds r dirLinks 160) 160
  if left.isEmpty then none
  else
    ((List.range 1600).find? fun i =>
      let j := i / 40
      (hopsOf r j (i % 40)).any fun c =>
        left.contains (j, c) && left.any fun a => hopFrom a.1 a.2 == some j && onCycle r a (j, c)).map fun i => (i / 40, i % 40)

/-! ## Checks 1 to 5 (Table 15.3) -/

/-- Is consist loading permitted (Table 16.1)? -/
def Lifecycle.loads : Lifecycle → Bool
  | .provisioned | .operational | .diagnostic => true
  | .blank | .retired => false

/-- Is a consist key slot provisioned and not revoked (R361)? -/
def Security.keyIn (x : Security) (k : Nat) : Bool :=
  let s := tabGet KeySlot.empty x.keys k
  s.provisioned && !s.revoked

/-- The signature of an image (R344). -/
def Security.signedBy (x : Security) (m : Mem) : Bool :=
  let n := imageBytes m
  let k := memNat m 5 1
  decide (k < 4) && x.keyIn k &&
    ecdsaVerifies (tabGet KeySlot.empty x.keys k).key (memRead m 0 (n - 96)) (BitVec.ofNat 768 (beNat (memRead m (n - 96) 96)))

/-- The outcome of checks 1 to 5: the status, and the result of check 5 when it was reached. -/
structure Checked where
  status : Code
  cycle  : Option (Option (Nat × Nat))
deriving DecidableEq, Repr

/-- Checks 1 to 5 on an image; `staged` is CL_STAGE_LEN for a staged one. -/
def State.checkImage (s : State) (m : Mem) (staged : Option Nat) : Checked :=
  let n := imageBytes m
  if !s.security.lifecycle.loads then ⟨Code.securityDenied, none⟩
  else if memNat m 0 4 != 0x54534E43 || n < 160 || 1048576 < n || (match staged with | some l => decide (l < n) | none => false) ||
      32 < sectionCount m || n < 64 + 16 * sectionCount m then ⟨Code.translateError, none⟩
  else if memNat m 4 1 != 0x10 then ⟨Code.version, none⟩
  else if !s.security.signedBy m then ⟨Code.securityDenied, none⟩
  else match (takeImage s.fuses m).routing with
    | none => ⟨Code.ok, some none⟩
    | some r =>
      match routingCycle r with
      | none => ⟨Code.ok, some none⟩
      | some e => ⟨Code.translateError, some (some e)⟩

end Sys2Proof.Machine
end

