-- ==== Sys2Proof/Machine/Evis.lean ====
section
/-!
DEFINITION. The encoding of EVIS instructions (R152 to R171, Tables 7.2 to 7.10) and the translator's checks of a kernel image
(R177 to R181, Tables 7.13, 7.14).
-/
namespace Sys2Proof.Machine

/-! ## Fields -/

/-- Fields, lowest first, as (width, value), placed side by side. -/
def packBits : List (Nat × Nat) → Nat
  | [] => 0
  | (w, v) :: t => v + 2 ^ w * packBits t

/-- The values of fields of the given widths, lowest first. -/
def unpackBits : List Nat → Nat → List Nat
  | [], _ => []
  | w :: t, n => n % 2 ^ w :: unpackBits t (n / 2 ^ w)

/-- A selector of 8 bits (R163). -/
def VSel.code : VSel → Nat
  | .tile t => t.toNat
  | .win0 => 0x40
  | .win1 => 0x80
  | .scalar r => 0xC0 + r.toNat

/-- The selector of a code. -/
def vselOf (n : Nat) : VSel :=
  match n / 64 % 4 with
  | 0 => .tile (BitVec.ofNat 6 n)
  | 1 => .win0
  | 2 => .win1
  | _ => .scalar (BitVec.ofNat 5 n)

/-- The fields of a window (R163). -/
def windowFields (w : Window) : List (Nat × Nat) :=
  [(6, w.cols16.toNat), (5, w.col16.toNat), (11, w.rows.toNat), (10, w.base.toNat)]

/-- A window from its 32 bits. -/
def windowOf (n : Nat) : Window :=
  ⟨BitVec.ofNat 10 (n / 2 ^ 22), BitVec.ofNat 11 (n / 2 ^ 11), BitVec.ofNat 5 (n / 2 ^ 6), BitVec.ofNat 6 n⟩

/-- MINOR of the operations of a class. -/
def aluMinor : AluFn → Nat
  | .add => 0x00 | .sub => 0x01 | .mul => 0x02 | .mulhu => 0x03 | .and => 0x04 | .or => 0x05 | .xor => 0x06 | .shl => 0x07
  | .shr => 0x08 | .sra => 0x09 | .min => 0x0A | .max => 0x0B | .minu => 0x0C | .maxu => 0x0D | .fadd => 0x10 | .fsub => 0x11
  | .fmul => 0x12
def convMinor : ConvFn → Nat
  | .i2f => 0x13 | .f2i => 0x14
def immMinor : ImmFn → Nat
  | .addi => 0x00 | .andi => 0x04 | .ori => 0x05 | .xori => 0x06 | .shli => 0x07 | .shri => 0x08 | .srai => 0x09
def cmpMinor : CmpFn → Nat
  | .eq => 0 | .ne => 1 | .lt => 2 | .ge => 3 | .ltu => 4 | .geu => 5 | .flt => 6 | .fle => 7 | .feq => 8
def predMinor : PredFn → Nat
  | .and => 0x10 | .or => 0x11 | .xor => 0x12 | .not => 0x13
def vecMinor : VecFn → Nat
  | .add => 0 | .mul => 1 | .fma => 2 | .max => 3 | .min => 4 | .cvt => 5
def fixCode : FixFn → Nat
  | .exp => 0 | .exp2 => 1 | .log2 => 2 | .rsqrt => 3 | .recip => 4
def rowMinor : RowFn → Nat
  | .norm => 0 | .normb => 1 | .smax => 2 | .smaxb => 3

/-- MAJOR and MINOR of an instruction (Tables 7.3 to 7.10). -/
def opcodeOf : Op → Nat × Nat
  | .alu f _ _ _ => (0x01, aluMinor f)
  | .conv f _ _ => (0x01, convMinor f)
  | .immOp f _ _ _ => (0x02, immMinor f)
  | .cmp f _ _ _ => (0x03, cmpMinor f)
  | .pred f _ _ _ => (0x03, predMinor f)
  | .br _ => (0x04, 0) | .loop _ _ => (0x04, 1) | .endK => (0x04, 2)
  | .ld .. => (0x05, 0) | .st .. => (0x05, 1)
  | .nopK => (0x06, 0) | .fence => (0x06, 1) | .rdsys _ _ => (0x06, 2)
  | .tcfg .. => (0x08, 0)
  | .tld .. => (0x09, 0) | .tst .. => (0x09, 1) | .tldx .. => (0x09, 2) | .tstx .. => (0x09, 3)
  | .mm .. => (0x0A, 0) | .mmq .. => (0x0A, 1) | .ew .. => (0x0A, 2) | .accld .. => (0x0A, 3) | .ldb .. => (0x0A, 4)
  | .mst .. => (0x0B, 0)
  | .rmode .. => (0x0C, 0) | .mseed .. => (0x0C, 1)
  | .vec f _ => (0x0E, vecMinor f)
  | .act .. => (0x0F, 0) | .actd .. => (0x0F, 1) | .fn .. => (0x0F, 2) | .rand .. => (0x0F, 3) | .tload .. => (0x0F, 4)
  | .vseed .. => (0x0F, 5)
  | .row f _ => (0x10, rowMinor f)
  | .dld .. => (0x12, 0) | .dst .. => (0x12, 1) | .dset .. => (0x12, 2) | .copy .. => (0x12, 3)
  | .gather .. => (0x13, 0) | .scatter .. => (0x13, 1)
  | .rput .. => (0x14, 0) | .rget .. => (0x14, 1) | .ingest .. => (0x14, 2)
  | .sbind .. => (0x16, 0) | .sadd .. => (0x16, 1) | .swait .. => (0x16, 2) | .sread .. => (0x16, 3) | .sbar .. => (0x16, 4)
  | .sbarcfg .. => (0x16, 5)
  | .upsq .. => (0x18, 0) | .upstep .. => (0x18, 1) | .upsetstep .. => (0x18, 2)

/-- Is the MAJOR and MINOR pair assigned (R155)? -/
def opcodeAssigned (major minor : Nat) : Bool :=
  match major with
  | 0x01 => minor ≤ 0x0D || (0x10 ≤ minor && minor ≤ 0x14)
  | 0x02 => minor = 0 || (4 ≤ minor && minor ≤ 9)
  | 0x03 => minor ≤ 8 || (0x10 ≤ minor && minor ≤ 0x13)
  | 0x04 | 0x06 | 0x14 | 0x18 => minor ≤ 2
  | 0x05 | 0x0C | 0x13 => minor ≤ 1
  | 0x08 | 0x0B => minor = 0
  | 0x09 | 0x10 | 0x12 => minor ≤ 3
  | 0x0A => minor ≤ 4
  | 0x0E | 0x0F | 0x16 => minor ≤ 5
  | _ => false

/-- A flag as a field value. -/
def flag (b : Bool) : Nat := b.toNat

/-- The operand fields, bits 48:0 (Tables 7.4 to 7.10); `x` says whether an immediate stands in an extension word. -/
def operandFields (x : Bool) : Op → List (Nat × Nat)
  | .alu _ d a b => [(34, 0), (5, b.toNat), (5, a.toNat), (5, d.toNat)]
  | .conv _ d a => [(34, 0), (5, 0), (5, a.toNat), (5, d.toNat)]
  | .immOp _ d a imm => [(39, if x then 0 else imm.toNat % 2 ^ 39), (5, a.toNat), (5, d.toNat)]
  | .cmp _ pd a (.reg b) => [(35, 0), (5, b.toNat), (1, 0), (5, a.toNat), (3, pd.toNat)]
  | .cmp _ pd a (.imm v) => [(35, v.toNat % 2 ^ 35), (5, v.toNat / 2 ^ 35), (1, 1), (5, a.toNat), (3, pd.toNat)]
  | .pred _ pd pa pb => [(40, 0), (3, pb.toNat), (3, pa.toNat), (3, pd.toNat)]
  | .br off => [(32, off.toNat), (17, 0)]
  | .loop sa off => [(32, off.toNat), (12, 0), (5, sa.toNat)]
  | .endK | .nopK | .fence => [(49, 0)]
  | .ld sr sa size sg off => [(32, off.toNat), (4, 0), (1, flag sg), (2, size.toNat), (5, sa.toNat), (5, sr.toNat)]
  | .st sr sa size off => [(32, off.toNat), (4, 0), (1, 0), (2, size.toNat), (5, sa.toNat), (5, sr.toNat)]
  | .rdsys sd sel => [(8, sel.toNat), (36, 0), (5, sd.toNat)]
  | .tcfg first count rows rl fmt group =>
    [(16, 0), (1, flag group), (4, fmt.toNat), (4, rl.toNat), (11, rows.toNat), (7, count.toNat), (6, first.toNat)]
  | .tld t b st | .tst t b st => [(33, 0), (5, st.toNat), (5, b.toNat), (6, t.toNat)]
  | .tldx t b st i | .tstx t b st i => [(27, 0), (6, i.toNat), (5, st.toNat), (5, b.toNat), (6, t.toNat)]
  | .mm a alen b base add tp half =>
    [(21, 0), (1, flag half), (1, flag tp), (1, flag add), (10, base.toNat), (6, b.toNat), (3, alen.toNat), (6, a.toNat)]
  | .mmq m b add tp half q0 q1 q2 q3 =>
    [(3, q0.alen.toNat), (6, q0.a.toNat), (3, q1.alen.toNat), (6, q1.a.toNat), (3, q2.alen.toNat), (6, q2.a.toNat),
     (3, q3.alen.toNat), (6, q3.a.toNat), (1, flag half), (1, flag tp), (1, flag add), (6, b.toNat), (4, m.toNat)]
  | .ew x y base add half =>
    [(25, 0), (1, flag half), (1, flag add), (10, base.toNat), (6, y.toNat), (6, x.toNat)]
  | .accld t base col => [(28, 0), (5, col.toNat), (10, base.toNat), (6, t.toNat)]
  | .ldb b tp split => [(41, 0), (1, flag split), (1, flag tp), (6, b.toNat)]
  | .mst sa ss base rows col cols fmt rnd xp cl =>
    [(1, flag cl), (1, flag xp), (1, flag rnd), (4, fmt.toNat), (6, cols.toNat), (5, col.toNat), (11, rows.toNat),
     (10, base.toNat), (5, ss.toNat), (5, sa.toNat)]
  | .rmode mode ls => [(30, 0), (17, ls.toNat), (2, mode.toNat)]
  | .mseed a b | .vseed a b => [(39, 0), (5, b.toNat), (5, a.toNat)]
  | .vec _ v =>
    [(15, 0), (1, flag v.packed), (1, flag v.rnd), (8, VSel.code v.s3), (8, VSel.code v.s2), (8, VSel.code v.s1),
     (8, VSel.code v.d)]
  | .act d s1 rnd slot _ _ => [(11, 0), (5, slot.toNat), (1, flag rnd), (16, 0), (8, VSel.code s1), (8, VSel.code d)]
  | .actd d g x rnd pair _ _ =>
    [(11, 0), (4, pair.toNat), (1, 0), (1, flag rnd), (8, 0), (8, VSel.code x), (8, VSel.code g), (8, VSel.code d)]
  | .fn f d s1 rnd _ _ => [(11, 0), (3, fixCode f), (2, 0), (1, flag rnd), (16, 0), (8, VSel.code s1), (8, VSel.code d)]
  | .rand d rnd _ _ => [(16, 0), (1, flag rnd), (24, 0), (8, VSel.code d)]
  | .tload a slot => [(11, 0), (5, slot.toNat), (28, 0), (5, a.toNat)]
  | .row _ r =>
    [(11, 0), (1, flag r.rnd), (1, flag r.hout), (1, flag r.rms), (5, r.spar.toNat), (5, r.sn.toNat), (5, r.sbet.toNat),
     (5, r.sgam.toNat), (5, r.sdy.toNat), (5, r.sout.toNat), (5, r.sx.toNat)]
  | .dld d a | .dst d a => [(40, 0), (5, a.toNat), (4, d.toNat)]
  | .dset d v w => [(37, 0), (3, w.toNat), (5, v.toNat), (4, d.toNat)]
  | .copy dd ds xp => [(40, 0), (1, flag xp), (4, ds.toNat), (4, dd.toNat)]
  | .gather dd ds di n | .scatter dd ds di n => [(32, 0), (5, n.toNat), (4, di.toNat), (4, ds.toNat), (4, dd.toNat)]
  | .rput d dev rd b sig sd | .rget d dev rd b sig sd =>
    [(25, 0), (5, sd.toNat), (1, flag sig), (4, b.toNat), (5, rd.toNat), (5, dev.toNat), (4, d.toNat)]
  | .ingest dd ds xfs sxf xf sd =>
    [(21, 0), (5, sd.toNat), (9, xf.toNat), (5, sxf.toNat), (1, flag xfs), (4, ds.toNat), (4, dd.toNat)]
  | .sbind b v => [(40, 0), (5, v.toNat), (4, b.toNat)]
  | .sadd b v sd => [(35, 0), (5, sd.toNat), (5, v.toNat), (4, b.toNat)]
  | .swait b v st sd => [(30, 0), (5, sd.toNat), (5, st.toNat), (5, v.toNat), (4, b.toNat)]
  | .sread b sd => [(40, 0), (5, sd.toNat), (4, b.toNat)]
  | .sbar bar l st sd => [(24, 0), (5, sd.toNat), (5, st.toNat), (5, l.toNat), (10, bar.toNat)]
  | .sbarcfg bar n sd => [(29, 0), (5, sd.toNat), (5, n.toNat), (10, bar.toNat)]
  | .upsq t n sd red x => [(28, 0), (5, x.toNat), (1, flag red), (5, sd.toNat), (5, n.toNat), (5, t.toNat)]
  | .upstep t n e g r sd =>
    [(19, 0), (5, sd.toNat), (5, r.toNat), (5, g.toNat), (5, e.toNat), (5, n.toNat), (5, t.toNat)]
  | .upsetstep t n v => [(34, 0), (5, v.toNat), (5, n.toNat), (5, t.toNat)]

/-- Does a selector of the instruction name a window? -/
def namesWindow : Op → Bool
  | .vec f v => (v.d :: v.sources f).any VSel.isWindow
  | .act d s _ _ _ _ => [d, s].any VSel.isWindow
  | .actd d g x _ _ _ _ => [d, g, x].any VSel.isWindow
  | .fn _ d s _ _ _ => [d, s].any VSel.isWindow
  | .rand d _ _ _ => d.isWindow
  | _ => false

/-- Is an extension word required, forbidden or optional (Table 7.3)? -/
def needsExt (op : Op) : Option Bool :=
  match op with
  | .immOp .. => none
  | .mmq .. | .row .. => some true
  | _ => some (namesWindow op)

/-- The fields of the extension word. -/
def extFields : Op → List (Nat × Nat)
  | .immOp _ _ _ imm => [(64, imm.toNat)]
  | .mmq _ _ _ _ _ q0 q1 q2 q3 =>
    [(10, q0.base.toNat), (6, 0), (10, q1.base.toNat), (6, 0), (10, q2.base.toNat), (6, 0), (10, q3.base.toNat), (6, 0)]
  | .row _ r => [(4, r.xfmt.toNat), (4, r.dyfmt.toNat), (4, r.outfmt.toNat), (5, r.sh.toNat), (47, 0)]
  | .vec _ v => windowFields v.w0 ++ windowFields v.w1
  | .act _ _ _ _ w0 w1 => windowFields w0 ++ windowFields w1
  | .actd _ _ _ _ _ w0 w1 => windowFields w0 ++ windowFields w1
  | .fn _ _ _ _ w0 w1 => windowFields w0 ++ windowFields w1
  | .rand _ _ w0 w1 => windowFields w0 ++ windowFields w1
  | _ => []

/-- The words of an instruction (R152): the first, and the extension word when X is 1. -/
def encodeOp (x : Bool) (i : GOp) : Nat × Option Nat :=
  let (major, minor) := opcodeOf i.op
  let first := packBits (operandFields x i.op ++
    [(3, i.g.pred.toNat), (1, flag i.g.neg), (1, flag x), (5, minor), (5, major)])
  (first, if x then some (packBits (extFields i.op)) else none)

/-! ## Decoding -/

def aluOfMinor : Nat → AluFn
  | 0x00 => .add | 0x01 => .sub | 0x02 => .mul | 0x03 => .mulhu | 0x04 => .and | 0x05 => .or | 0x06 => .xor | 0x07 => .shl
  | 0x08 => .shr | 0x09 => .sra | 0x0A => .min | 0x0B => .max | 0x0C => .minu | 0x0D => .maxu | 0x10 => .fadd | 0x11 => .fsub
  | _ => .fmul
def immOfMinor : Nat → ImmFn
  | 0x00 => .addi | 0x04 => .andi | 0x05 => .ori | 0x06 => .xori | 0x07 => .shli | 0x08 => .shri | _ => .srai
def cmpOfMinor : Nat → CmpFn
  | 0 => .eq | 1 => .ne | 2 => .lt | 3 => .ge | 4 => .ltu | 5 => .geu | 6 => .flt | 7 => .fle | _ => .feq
def predOfMinor : Nat → PredFn
  | 0x10 => .and | 0x11 => .or | 0x12 => .xor | _ => .not
def vecOfMinor : Nat → VecFn
  | 0 => .add | 1 => .mul | 2 => .fma | 3 => .max | 4 => .min | _ => .cvt
def fixOfCode : Nat → Option FixFn
  | 0 => some .exp | 1 => some .exp2 | 2 => some .log2 | 3 => some .rsqrt | 4 => some .recip | _ => none
def rowOfMinor : Nat → RowFn
  | 0 => .norm | 1 => .normb | 2 => .smax | _ => .smaxb

/-- A bit vector of a field value. -/
def fv {w : Nat} (n : Nat) : BitVec w := BitVec.ofNat w n

/-- A flag of a field value. -/
def fb (n : Nat) : Bool := n == 1

/-- A quarter of an mx.mmq. -/
def quarterOf (alen a base : Nat) : QRun := ⟨fv a, fv alen, fv base⟩

/-- The operation of an assigned MAJOR and MINOR, by the operand fields `b` (bits 48:0) and the extension word `e` (0 when there is none);
none for a reserved FN. Reserved bits are not looked at. -/
def decodeFields (major minor b e : Nat) (x : Bool) : Option Op :=
  let w0 := windowOf e
  let w1 := windowOf (e / 2 ^ 32)
  match major with
  | 0x01 =>
    match unpackBits [34, 5, 5, 5] b with
    | [_, sb, sa, sd] =>
      some (if minor = 0x13 then .conv .i2f (fv sd) (fv sa) else if minor = 0x14 then .conv .f2i (fv sd) (fv sa)
        else .alu (aluOfMinor minor) (fv sd) (fv sa) (fv sb))
    | _ => none
  | 0x02 =>
    match unpackBits [39, 5, 5] b with
    | [i, sa, sd] =>
      some (.immOp (immOfMinor minor) (fv sd) (fv sa) (if x then fv e else ((fv i : BitVec 39).signExtend 64)))
    | _ => none
  | 0x03 =>
    if minor < 0x10 then
      match unpackBits [35, 5, 1, 5, 3] b with
      | [lo, sb, i, sa, pd] =>
        some (.cmp (cmpOfMinor minor) (fv pd) (fv sa) (if i = 1 then .imm (fv (lo + 2 ^ 35 * sb)) else .reg (fv sb)))
      | _ => none
    else
      match unpackBits [40, 3, 3, 3] b with
      | [_, pb, pa, pd] => some (.pred (predOfMinor minor) (fv pd) (fv pa) (fv pb))
      | _ => none
  | 0x04 =>
    match unpackBits [32, 12, 5] b with
    | [off, _, sa] => some (if minor = 0 then .br (fv off) else if minor = 1 then .loop (fv sa) (fv off) else .endK)
    | _ => none
  | 0x05 =>
    match unpackBits [32, 4, 1, 2, 5, 5] b with
    | [off, _, sg, size, sa, sr] =>
      some (if minor = 0 then .ld (fv sr) (fv sa) (fv size) (fb sg) (fv off) else .st (fv sr) (fv sa) (fv size) (fv off))
    | _ => none
  | 0x06 =>
    match unpackBits [8, 36, 5] b with
    | [sel, _, sd] => some (if minor = 0 then .nopK else if minor = 1 then .fence else .rdsys (fv sd) (fv sel))
    | _ => none
  | 0x08 =>
    match unpackBits [16, 1, 4, 4, 11, 7, 6] b with
    | [_, g, f, rl, rows, n, t] => some (.tcfg (fv t) (fv n) (fv rows) (fv rl) (fv f) (fb g))
    | _ => none
  | 0x09 =>
    match unpackBits [27, 6, 5, 5, 6] b with
    | [_, i, st, sb, t] =>
      some (if minor = 0 then .tld (fv t) (fv sb) (fv st) else if minor = 1 then .tst (fv t) (fv sb) (fv st)
        else if minor = 2 then .tldx (fv t) (fv sb) (fv st) (fv i) else .tstx (fv t) (fv sb) (fv st) (fv i))
    | _ => none
  | 0x0A =>
    match minor with
    | 0 =>
      match unpackBits [21, 1, 1, 1, 10, 6, 3, 6] b with
      | [_, h, tp, add, base, bb, al, a] => some (.mm (fv a) (fv al) (fv bb) (fv base) (fb add) (fb tp) (fb h))
      | _ => none
    | 1 =>
      match unpackBits [3, 6, 3, 6, 3, 6, 3, 6, 1, 1, 1, 6, 4] b, unpackBits [10, 6, 10, 6, 10, 6, 10, 6] e with
      | [l0, a0, l1, a1, l2, a2, l3, a3, h, tp, add, bb, m], [b0, _, b1, _, b2, _, b3, _] =>
        some (.mmq (fv m) (fv bb) (fb add) (fb tp) (fb h) (quarterOf l0 a0 b0) (quarterOf l1 a1 b1) (quarterOf l2 a2 b2)
          (quarterOf l3 a3 b3))
      | _, _ => none
    | 2 =>
      match unpackBits [25, 1, 1, 10, 6, 6] b with
      | [_, h, add, base, y, x] => some (.ew (fv x) (fv y) (fv base) (fb add) (fb h))
      | _ => none
    | 3 =>
      match unpackBits [28, 5, 10, 6] b with
      | [_, col, base, t] => some (.accld (fv t) (fv base) (fv col))
      | _ => none
    | _ =>
      match unpackBits [41, 1, 1, 6] b with
      | [_, sp, tp, bb] => some (.ldb (fv bb) (fb tp) (fb sp))
      | _ => none
  | 0x0B =>
    match unpackBits [1, 1, 1, 4, 6, 5, 11, 10, 5, 5] b with
    | [cl, xp, r, f, cols, col, rows, base, ss, sa] =>
      some (.mst (fv sa) (fv ss) (fv base) (fv rows) (fv col) (fv cols) (fv f) (fb r) (fb xp) (fb cl))
    | _ => none
  | 0x0C =>
    if minor = 0 then
      match unpackBits [30, 17, 2] b with
      | [_, ls, m] => some (.rmode (fv m) (fv ls))
      | _ => none
    else
      match unpackBits [39, 5, 5] b with
      | [_, st, sd] => some (.mseed (fv sd) (fv st))
      | _ => none
  | 0x0E =>
    match unpackBits [15, 1, 1, 8, 8, 8, 8] b with
    | [_, p, r, s3, s2, s1, d] => some (.vec (vecOfMinor minor) ⟨vselOf d, vselOf s1, vselOf s2, vselOf s3, fb r, fb p, w0, w1⟩)
    | _ => none
  | 0x0F =>
    match minor with
    | 0 =>
      match unpackBits [11, 5, 1, 16, 8, 8] b with
      | [_, slot, r, _, s1, d] => some (.act (vselOf d) (vselOf s1) (fb r) (fv slot) w0 w1)
      | _ => none
    | 1 =>
      match unpackBits [11, 4, 1, 1, 8, 8, 8, 8] b with
      | [_, p, _, r, _, s2, s1, d] => some (.actd (vselOf d) (vselOf s1) (vselOf s2) (fb r) (fv p) w0 w1)
      | _ => none
    | 2 =>
      match unpackBits [11, 3, 2, 1, 16, 8, 8] b with
      | [_, f, _, r, _, s1, d] => (fixOfCode f).map fun f => .fn f (vselOf d) (vselOf s1) (fb r) w0 w1
      | _ => none
    | 3 =>
      match unpackBits [16, 1, 24, 8] b with
      | [_, r, _, d] => some (.rand (vselOf d) (fb r) w0 w1)
      | _ => none
    | 4 =>
      match unpackBits [11, 5, 28, 5] b with
      | [_, slot, _, a] => some (.tload (fv a) (fv slot))
      | _ => none
    | _ =>
      match unpackBits [39, 5, 5] b with
      | [_, st, sd] => some (.vseed (fv sd) (fv st))
      | _ => none
  | 0x10 =>
    match unpackBits [11, 1, 1, 1, 5, 5, 5, 5, 5, 5, 5] b, unpackBits [4, 4, 4, 5, 47] e with
    | [_, r, h, m, spar, sn, sbet, sgam, sdy, sout, sx], [xf, df, of_, sh, _] =>
      some (.row (rowOfMinor minor) ⟨fv sx, fv sout, fv sdy, fv sgam, fv sbet, fv sn, fv spar, fb m, fb h, fb r, fv xf, fv df,
        fv of_, fv sh⟩)
    | _, _ => none
  | 0x12 =>
    match minor with
    | 3 =>
      match unpackBits [40, 1, 4, 4] b with
      | [_, xp, ds, dd] => some (.copy (fv dd) (fv ds) (fb xp))
      | _ => none
    | _ =>
      match unpackBits [37, 3, 5, 4] b with
      | [_, w, a, d] => some (if minor = 0 then .dld (fv d) (fv a) else if minor = 1 then .dst (fv d) (fv a) else .dset (fv d) (fv a) (fv w))
      | _ => none
  | 0x13 =>
    match unpackBits [32, 5, 4, 4, 4] b with
    | [_, n, di, ds, dd] =>
      some (if minor = 0 then .gather (fv dd) (fv ds) (fv di) (fv n) else .scatter (fv dd) (fv ds) (fv di) (fv n))
    | _ => none
  | 0x14 =>
    if minor = 2 then
      match unpackBits [21, 5, 9, 5, 1, 4, 4] b with
      | [_, sd, xf, sxf, xfs, ds, dd] => some (.ingest (fv dd) (fv ds) (fb xfs) (fv sxf) (fv xf) (fv sd))
      | _ => none
    else
      match unpackBits [25, 5, 1, 4, 5, 5, 4] b with
      | [_, sd, sig, bb, rd, dev, d] =>
        some (if minor = 0 then .rput (fv d) (fv dev) (fv rd) (fv bb) (fb sig) (fv sd)
          else .rget (fv d) (fv dev) (fv rd) (fv bb) (fb sig) (fv sd))
      | _ => none
  | 0x16 =>
    match minor with
    | 4 =>
      match unpackBits [24, 5, 5, 5, 10] b with
      | [_, sd, st, l, bar] => some (.sbar (fv bar) (fv l) (fv st) (fv sd))
      | _ => none
    | 5 =>
      match unpackBits [29, 5, 5, 10] b with
      | [_, sd, n, bar] => some (.sbarcfg (fv bar) (fv n) (fv sd))
      | _ => none
    | _ =>
      match unpackBits [30, 5, 5, 5, 4] b with
      | [_, z, y, v, bb] =>
        some (if minor = 0 then .sbind (fv bb) (fv v) else if minor = 1 then .sadd (fv bb) (fv v) (fv y)
          else if minor = 2 then .swait (fv bb) (fv v) (fv y) (fv z) else .sread (fv bb) (fv v))
      | _ => none
  | 0x18 =>
    match minor with
    | 0 =>
      match unpackBits [28, 5, 1, 5, 5, 5] b with
      | [_, x, red, sd, n, t] => some (.upsq (fv t) (fv n) (fv sd) (fb red) (fv x))
      | _ => none
    | 1 =>
      match unpackBits [19, 5, 5, 5, 5, 5, 5] b with
      | [_, sd, r, g, e, n, t] => some (.upstep (fv t) (fv n) (fv e) (fv g) (fv r) (fv sd))
      | _ => none
    | _ =>
      match unpackBits [34, 5, 5, 5] b with
      | [_, v, n, t] => some (.upsetstep (fv t) (fv n) (fv v))
      | _ => none
  | _ => none

/-- X of a first word. -/
def wordX (w : Nat) : Bool := w / 2 ^ 53 % 2 == 1

/-- Checks 4 to 6 of Table 7.14 on an instruction's words: the instruction, or none. Reserved bits are those that the encoding of
what was read does not give back. -/
def decodeOp (w : Nat) (e : Option Nat) : Option GOp :=
  match unpackBits [49, 3, 1, 1, 5, 5] w with
  | [b, gp, gn, x, minor, major] =>
    if !opcodeAssigned major minor then none
    else match decodeFields major minor b (e.getD 0) (fb x) with
      | none => none
      | some op =>
        let i : GOp := ⟨⟨fb gn, fv gp⟩, op⟩
        let xOk := match needsExt op with | none => true | some n => fb x == n
        if xOk && op.wf && encodeOp (fb x) i == (w, e) then some i else none
  | _ => none

/-! ## The translator's checks (R177, R178, Tables 7.13, 7.14) -/

/-- One bit of CRC-32 (IEEE 802.3, reflected). -/
def crcBit (c : BitVec 32) : BitVec 32 := if c.getLsbD 0 then (c >>> 1) ^^^ 0xEDB88320#32 else c >>> 1

/-- One byte. -/
def crcByte (c : BitVec 32) (b : Byte) : BitVec 32 :=
  crcBit (crcBit (crcBit (crcBit (crcBit (crcBit (crcBit (crcBit (c ^^^ b.setWidth 32))))))))

/-- CRC-32 as Table 7.13 gives it. -/
def crc32 (bs : List Byte) : BitVec 32 := ~~~(bs.foldl crcByte 0xFFFFFFFF#32)

/-- Bytes [lo, lo + n) of an image as a number. -/
def imageNat (image : List Byte) (lo n : Nat) : Nat := leNat ((image.drop lo).take n)

/-- The words of an image. -/
def imageWords : Nat → List Byte → List Nat
  | 0, _ => []
  | n + 1, bs => leNat (bs.take 8) :: imageWords n (bs.drop 8)

/-- What translation makes of an image: the instructions, or the outcome with the index reported. -/
abbrev Translated := Except (Code × BitVec 32) (List GOp)

/-- The index reported for a failure of the whole image. -/
def noIndex : BitVec 32 := 0xFFFFFFFF#32

/-- Checks 7 and 8 on an instruction, and 9 and 10 on the last. `n` is INSTR_COUNT, `left` the words after it. -/
def instrCheck (gradeB : Bool) (n idx : Nat) (left : List Nat) (i : GOp) : Option Code :=
  let target (off : BitVec 32) : Bool := decide (0 ≤ (idx : Int) + off.toInt) && decide ((idx : Int) + off.toInt < n)
  let absent := match i.op with | .ingest _ _ xfs _ xf _ => gradeB && !xfs && xf != 0 | _ => false
  let branch := match i.op with | .br off | .loop _ off => target off | _ => true
  let last := idx + 1 == n
  let ends := match i.op with | .endK | .br _ => i.g == Guard.always | _ => false
  if absent then some Code.absentEngine
  else if !branch || (last && (!left.isEmpty || !ends)) then some Code.translateError
  else none

/-- Instructions idx to n − 1 of an image. -/
def translateFrom (gradeB : Bool) (n : Nat) : Nat → Nat → List Nat → Translated
  | 0, _, _ => .ok []
  | fuel + 1, idx, ws =>
    let bad (c : Code) : Translated := .error (c, BitVec.ofNat 32 idx)
    match ws with
    | [] => bad Code.translateError
    | w :: t =>
      let r : Option (Option Nat × List Nat) :=
        if wordX w then (match t with | [] => none | e :: t => some (some e, t)) else some (none, t)
      match r with
      | none => bad Code.translateError
      | some (e, t) =>
        match decodeOp w e with
        | none => bad Code.translateError
        | some i =>
          match instrCheck gradeB n idx t i with
          | some c => bad c
          | none =>
            match translateFrom gradeB n fuel (idx + 1) t with
            | .ok l => .ok (i :: l)
            | .error x => .error x

/-- The translation of a kernel image by the checks of Table 7.14 in their order. -/
def State.translate (s : State) (image : List Byte) : Translated :=
  let n := imageNat image 8 4
  let wc := imageNat image 12 4
  let code := (image.drop 32).take (8 * wc)
  let reserved := imageNat image 5 3 != 0 || imageNat image 17 1 != 0 || imageNat image 20 4 != 0 || imageNat image 28 4 != 0
  if imageNat image 0 4 != 0x53495645 || reserved || n = 0 || decide (1048576 < n) || decide (4096 < imageNat image 18 2) ||
      BitVec.ofNat 32 (imageNat image 24 4) != crc32 code then .error (Code.translateError, noIndex)
  else if imageNat image 4 1 != 0x10 then .error (Code.version, noIndex)
  else if imageNat image 16 1 &&& s.capUnit.toNat != imageNat image 16 1 then .error (Code.absentEngine, noIndex)
  else translateFrom s.fuses.gradeB n n 0 (imageWords (min wc (code.length / 8)) code)

/-- ARG_BYTES of an image. -/
def imageArgBytes (image : List Byte) : Nat := imageNat image 18 2

end Sys2Proof.Machine
end

