-- ==== Sys2Proof/Machine/SignalBox.lean ====
section
/-!
DEFINITION. The signal box (08): rings, doorbells and indices, starting a command of a ring, the commands of Table 8.3 and what
completes them, the partition state machine, and the records and interrupts that go to the host.
-/
namespace Sys2Proof.Machine

/-! ## Rings and doorbells (R183 to R188) -/

/-- Is the partition treated as ABSENT (R183, R355)? -/
def State.isAbsent (s : State) (p : Nat) : Bool := (s.part p).state == .absent || s.partHeld p

/-- Sizes of the rings. -/
def Part.ringSize (x : Part) : Nat := 2 ^ x.sizeLog2.toNat
def Part.cqSize (x : Part) : Nat := 2 ^ x.cqLog2.toNat

/-- Are doorbells of the partition taken from this host port (R183, R205, R355)? -/
def State.doorbellTaken (s : State) (p : Nat) (hp : HostPort) : Bool :=
  !s.isAbsent p && (s.part p).enable && (s.part p).host == hp

/-- RING_DB: the producer advances; an overrun is discarded, counted and halts the ring (R187). -/
def execRingDb (p : PartId) (hp : HostPort) (v : BitVec 32) (s : State) : Host.Outcome State Fault Refusal :=
  if !s.doorbellTaken p.val hp then .next (s.modPart p.val (·.bump 4))
  else .next (s.modPart p.val fun x =>
    if x.ringSize < (v - x.producer).toNat || x.ringSize < (v - x.consumer).toNat then
      let x := x.bump 2
      if x.halted then x else { x with halted := true, haltStatus := Code.queueOverrun, haltIndex := x.producer }
    else { x with producer := v })

/-- The completion-ring consumer advances: a command that waited for a slot, and has one now, completes now (R189, R201). -/
def Part.slotsFree (x : Part) (v : BitVec 32) (now own : Word) : Part :=
  let was := x.freeSlots
  let x := { x with cqConsumer := v }
  let stamp (i : Nat) (d : Due) : Due :=
    if !d.isEvent && decide (was ≤ i) && decide (i < x.freeSlots) then { d with rec_ := { d.rec_ with lineTime := now } } else d
  Part.trackFull { x with due := ((List.range x.due.length).zip x.due).map fun p => stamp p.1 p.2 } own

/-- CQ_DB (R188). -/
def execCqDb (p : PartId) (hp : HostPort) (v : BitVec 32) (s : State) : Host.Outcome State Fault Refusal :=
  if !s.doorbellTaken p.val hp then .next (s.modPart p.val (·.bump 4))
  else .next (s.modPart p.val fun x =>
    if (x.cqProducer - v).toNat ≤ x.cqSize then x.slotsFree v s.lineTime s.lt.own else x.bump 2)

/-- The device writes bytes to the memory of a port's host. -/
def State.hostWrite (s : State) (hp : HostPort) (a : Nat) (bs : List Byte) : State :=
  if hp = 0 then { s with hostOut0 := memWrite s.hostOut0 a bs } else { s with hostOut1 := memWrite s.hostOut1 a bs }

/-- CONSUMER_MIRROR_WRITE (R185). -/
def execConsumerMirrorWrite (p : PartId) (s : State) : Host.Outcome State Fault Refusal :=
  let x := s.part p.val
  if !x.enable then .next s
  else .next ((s.setPart p.val { x with mirror := x.consumer }).hostWrite x.host x.mirrorAddr.toNat (leBytes 8 x.consumer.toNat))

/-! ## Starting a command (R184, R190, R192, R195) -/

/-- A command that BIND, UNBIND, PREEMPT and RESTORE do not wait for (R192). -/
def CmdKind.isLong : CmdKind → Bool
  | .launch _ | .wait _ _ => true
  | _ => false

/-- Have the earlier commands of the ring completed, their records written, those saved with a parked context among them (R189, R192,
R197)? `long` leaves LAUNCH and WAIT out. -/
def Part.earlierDone (x : Part) (long : Bool) : Bool :=
  x.cmds.all (fun k => long && k.kind.isLong) && (long || x.parked.all fun k => k.cmds.isEmpty) &&
  x.due.all fun d => d.isEvent || (long && (d.rec_.opcode == 0x05#8 || d.rec_.opcode == 0x0D#8))

/-- Does the opcode wait as R192 gives for BIND, UNBIND, PREEMPT and RESTORE? -/
def waitsForEarlier (opcode : BitVec 8) : Bool :=
  opcode == 0x01#8 || opcode == 0x02#8 || opcode == 0x08#8 || opcode == 0x09#8

/-- A LAUNCH, RESUME or RESTORE: a command that runs kernels (R368). -/
def runsKernels (opcode : BitVec 8) : Bool := opcode == 0x05#8 || opcode == 0x06#8 || opcode == 0x09#8

/-- Does a power state let commands start (R368)? -/
def PwrState.starts : PwrState → Bool
  | .run | .idle => true
  | _ => false

/-- Do commands start now: neither the power state nor the one being entered is below Idle (R368), and a command that runs kernels
waits for the end of stage 2 (R356)? -/
def State.commandsStart (s : State) (opcode : BitVec 8) : Bool :=
  s.power.state.starts && s.power.target.starts && (!runsKernels opcode || s.start.nearZero)

/-- May the ring start its next command (R192, R195, R203, R368)? Behind a command with HALT that failed it may until that command's record is
written, which is when R203 halts the ring (DESIGN CHOICE, log entry 16: R195 says only that the ring does not continue). -/
def State.ringReady (s : State) (h : CmdHdr) (opcode : BitVec 8) : Bool :=
  let x := s.part h.part.val
  !s.isAbsent h.part.val && x.enable && !x.halted && x.producer != x.consumer &&
  x.state != .quiescing && x.state != .resetting && s.commandsStart opcode &&
  (!h.flags.getLsbD 3 || x.earlierDone false) && (!waitsForEarlier opcode || x.earlierDone true)

/-- Is INFO of the opcode 0 whatever the status (Table 8.3)? -/
def infoIsZero (opcode : BitVec 8) : Bool :=
  opcode == 0x00#8 || opcode == 0x01#8 || opcode == 0x02#8 || opcode == 0x04#8 || opcode == 0x0A#8

/-- A command completes without having been taken: its INFO, where Table 8.3 gives it none, is free. -/
def State.refuseCmd (s : State) (h : CmdHdr) (opcode : BitVec 8) (i : BitVec 32) (status : Code) : State :=
  let info := if infoIsZero opcode then 0 else Config.freeWord s.freeCtr
  s.tick.finish h.part.val i opcode h.flags h.tag h.vector status info

/-- A command completes at once. -/
def State.endCmd (s : State) (h : CmdHdr) (opcode : BitVec 8) (i : BitVec 32) (status : Code) (info : Word) : State :=
  s.finish h.part.val i opcode h.flags h.tag h.vector status info

/-- A command that goes on after its start. -/
def State.addCmd (s : State) (h : CmdHdr) (opcode : BitVec 8) (i : BitVec 32) (k : CmdKind) : State :=
  s.modPart h.part.val fun x =>
    { x with cmds := x.cmds ++ [⟨i, opcode, h.flags, h.tag, h.vector, k, x.nextCmd⟩], nextCmd := x.nextCmd + 1 }

/-- WRONG_STATE is counted. -/
def State.wrongState (s : State) (h : CmdHdr) (opcode : BitVec 8) (i : BitVec 32) : State :=
  (s.modPart h.part.val (·.bump 1)).refuseCmd h opcode i Code.wrongState

/-- The states in which a command other than BIND, RESTORE and RESET may be legal (Table 8.4). -/
def PState.isBound : PState → Bool
  | .ready | .running | .faulted => true
  | _ => false

/-- The next command of a ring starts: the consumer advances; a malformed record completes with TRANSLATE_ERROR, one that is illegal
in the state with WRONG_STATE and no other effect (R195), and any other acts; in Idle one that needs Run returns the device to it
(R368). -/
def State.startCmd (s : State) (h : CmdHdr) (opcode : BitVec 8) (bad : Bool) (legal : Part → Bool)
    (act : State → BitVec 32 → State) : Host.Outcome State Fault Refusal :=
  let opcode := h.badOp.getD opcode
  if !s.ringReady h opcode then .next s
  else
    let i := (s.part h.part.val).consumer
    let s := s.modPart h.part.val fun x => { (x.bump 0) with consumer := x.consumer + 1 }
    let needsRun := (s.power.state == .idle || s.power.target == .idle) && runsKernels opcode
    if h.reserved || h.badOp.isSome || 16 ≤ h.flags.toNat || bad then .next (s.refuseCmd h opcode i Code.translateError)
    else if !legal (s.part h.part.val) then .next (s.wrongState h opcode i)
    else if needsRun && s.security.lifecycle == .retired then .next (s.refuseCmd h opcode i Code.securityDenied)
    else .next (act (if needsRun then s.returnsToRun else s) i)

/-! ## Simple commands -/

/-- NOP. -/
def execNop (h : CmdHdr) (s : State) : Host.Outcome State Fault Refusal :=
  s.startCmd h 0x00 false (fun _ => true) fun s i => s.endCmd h 0x00 i Code.ok 0

/-- TIMESTAMP. -/
def execTimestamp (h : CmdHdr) (s : State) : Host.Outcome State Fault Refusal :=
  s.startCmd h 0x0E false (fun _ => true) fun s i => s.endCmd h 0x0E i Code.ok s.lineTime

/-- A fresh 256-bit key (R362). -/
def freshKey (n : Nat) : BitVec 256 :=
  Config.freeWord n ++ Config.freeWord (n + 1) ++ Config.freeWord (n + 2) ++ Config.freeWord (n + 3)

/-- Every cached translation of the partition is gone, those of a parked context too (R234). -/
def Part.noCached (x : Part) : Part := { x with tlb := [], parked := x.parked.map fun k => { k with tlb := [] } }

/-- BIND: a context with no slot loaded, its sync state at zero and no cached translation (R197, R234, R250, R267, R362); a context
boundary. -/
def execBind (h : CmdHdr) (ctx : BitVec 16) (root : Word) (s : State) : Host.Outcome State Fault Refusal :=
  s.startCmd h 0x01 false (fun x => x.state == .idle) fun s i =>
    let key := freshKey s.freeCtr
    let s := (s.ticks 4).modPart h.part.val fun x =>
      { x.noCached with
        state := .ready, bound := some ⟨ctx, root⟩, slots := [], sync := Sync.zero, frozen := false, context := ctx, key := some key,
        lostAValid := x.lostAValid && x.lostA != ctx, lostBValid := x.lostBValid && x.lostB != ctx }
    (s.contextBoundary h.part.val).endCmd h 0x01 i Code.ok 0

/-- UNBIND: the context's slots are unloaded, every cached translation discarded, a generation abandoned. A host WAIT in progress goes on, and
after a BIND it watches the next context's baton (DESIGN CHOICE, log entry 17: Table 8.6 has no column for UNBIND). -/
def execUnbind (h : CmdHdr) (s : State) : Host.Outcome State Fault Refusal :=
  s.startCmd h 0x02 false (fun x => x.state == .ready) fun s i =>
    let s := s.abandonGen h.part.val Code.ownerLost
    let s := s.modPart h.part.val fun x => { x.noCached with state := .idle, bound := none, slots := [], key := none }
    s.endCmd h 0x02 i Code.ok 0

/-! ## LOAD, TRANSLATION_COMPLETE, UNLOAD (R191, R195, R197) -/

/-- Does a launch of the bound context that runs or is pending use the slot (R195)? -/
def Part.slotUsed (x : Part) (slot : Nat) : Bool :=
  x.cmds.any fun k => match k.kind with | .launch l => l.slot == slot | _ => false

/-- The image that LOAD reads from device memory: the header, then its words when the code area has room for them. -/
def State.readImage (s : State) (p : Nat) (src codeBytes : Nat) : State × MemRes (List Byte) :=
  match s.ctxRead p src 32 with
  | (s, .ok hd) =>
    let wc := imageNat hd 12 4
    if codeBytes < 16 * wc + 4096 then (s, .ok hd)
    else
      match s.ctxRead p (src + 32) (8 * wc) with
      | (s, .ok bs) => (s, .ok (hd ++ bs))
      | r => r
  | r => r

/-- The status of a failed access. -/
def MemRes.status {α : Type} : MemRes α → Code
  | .ok _ => Code.ok
  | .fail status _ => status

/-- INFO of a LOAD: the index reported and the code bytes used. -/
def loadInfo (index : BitVec 32) (used : Nat) : Word := put 32 used ||| index.setWidth 64

/-- LOAD: the slot is unloaded and the image read; translation is in progress. -/
def execLoad (h : CmdHdr) (slot : BitVec 8) (srcHost : Bool) (src code : Word) (codeBytes : BitVec 32) (image : List Byte)
    (s : State) : Host.Outcome State Fault Refusal :=
  s.startCmd h 0x03 (64 ≤ slot.toNat || code.toNat % 4096 != 0) (fun x => x.state.isBound && !x.slotUsed slot.toNat)
    fun s i =>
      let p := h.part.val
      let s := s.modPart p fun x => { x with slots := tabPut x.slots slot.toNat none }
      match if srcHost then (s, .ok image) else s.readImage p src.toNat codeBytes.toNat with
      | (s, .ok bs) => s.addCmd h 0x03 i (.load slot.toNat code codeBytes.toNat bs)
      | (s, r) =>
        s.tick.endCmd h 0x03 i r.status (loadInfo ((Config.freeWord s.freeCtr).setWidth 32) 0)

/-- Code-area bytes of a translated kernel (R191): of no stated number, at least one and at most 16 × WORD_COUNT + 4,096. -/
def codeUsed (wc : Nat) : Nat := min (max 1 (Config.nativeBytes wc)) (16 * wc + 4096)

/-- A LOAD fails: its slot is unloaded, whatever another LOAD put there meanwhile (R191). -/
def State.loadFails (s : State) (p : Nat) (k : Cmd) (slot : Nat) (status : Code) (index : BitVec 32) : State :=
  (s.modPart p fun x => { x with slots := tabPut x.slots slot none }).complete p k.seq status (loadInfo index 0)

/-- TRANSLATION_COMPLETE: the oldest LOAD in progress is translated; the native words, which are private, are written to the code
area and the slot is loaded, or the slot is unloaded. -/
def execTranslationComplete (p : PartId) (s : State) : Host.Outcome State Fault Refusal :=
  match (s.part p.val).cmds.find? (fun k => match k.kind with | .load .. => true | _ => false) with
  | none => .next s
  | some k =>
    match k.kind with
    | .load slot code codeBytes image =>
      let wc := imageNat image 12 4
      if codeBytes < 16 * wc + 4096 then .next (s.loadFails p.val k slot Code.translateError noIndex)
      else match s.translate image with
        | .error (status, idx) => .next (s.loadFails p.val k slot status idx)
        | .ok ops =>
          let n := codeUsed wc
          let bs := s.freeBytes n
          let idx := (Config.freeWord (s.freeCtr + n)).setWidth 32
          match (s.ticks (n + 1)).ctxWrite p.val (code.toNat % 2 ^ 48) bs false with
          | (s, .ok ()) =>
            let s := s.modPart p.val fun x => { x with slots := tabPut x.slots slot (some ⟨ops, code, n, imageArgBytes image⟩) }
            .next (s.complete p.val k.seq Code.ok (loadInfo idx n))
          | (s, r) => .next (s.loadFails p.val k slot r.status idx)
    | _ => .next s

/-- UNLOAD. -/
def execUnload (h : CmdHdr) (slot : BitVec 8) (s : State) : Host.Outcome State Fault Refusal :=
  s.startCmd h 0x04 (64 ≤ slot.toNat) (fun x => x.state.isBound && !x.slotUsed slot.toNat) fun s i =>
    (s.modPart h.part.val fun x => { x with slots := tabPut x.slots slot.toNat none }).endCmd h 0x04 i Code.ok 0

/-! ## LAUNCH (R151, R191, R193, R204) -/

/-- The logical numbers of a CORE_MASK, ascending. -/
def maskCores (mask : BitVec 256) : List Nat := (List.range 256).filter mask.getLsbD

/-- The cores of a launch start its kernel, ranked in ascending logical number (R151). -/
def State.startCores (s : State) (seq : Nat) (l : LaunchInfo) : State :=
  (List.range l.cores.length).foldl (fun s r =>
    match s.physical (l.cores.getD r 0) with
    | none => s
    | some c => s.modCore c fun k => k.launched ⟨seq, l.slot, r, l.cores.length, l.arg, l.det, 0⟩) s

/-- Are the cores of a launch idle, and no earlier pending launch waits for one of them (R193)? -/
def State.coresIdle (s : State) (p seq : Nat) (cores : List Nat) : Bool :=
  cores.all (fun n => match s.physical n with | some c => (s.core c).kernel.isNone | none => false) &&
  ((s.part p).cmds.takeWhile fun k => k.seq != seq).all fun k =>
    match k.kind with
    | .launch l => l.started || l.cores.all fun n => !cores.contains n
    | _ => true

/-- Does a mask name a logical core that no physical core holds (R15, R336)? -/
def State.maskFenced (s : State) (cores : List Nat) : Bool :=
  cores.any fun n => match s.physical n with | some c => !(s.core c).works | none => true

/-- LAUNCH: its cores start at once when they are idle, and later otherwise. The spec does not order WRONG_STATE against the mask's
SECURITY_DENIED and FENCED; the model gives WRONG_STATE first, as for every command (DESIGN CHOICE, log entry 16). -/
def execLaunch (h : CmdHdr) (slot : BitVec 8) (det : Bool) (arg : Word) (mask : BitVec 256) (s : State) :
    Host.Outcome State Fault Refusal :=
  s.startCmd h 0x05 (64 ≤ slot.toNat || mask = 0 || arg.toNat % 64 != 0)
    (fun x => (x.state == .ready || x.state == .running) && (tabGet none x.slots slot.toNat).isSome) fun s i =>
      let p := h.part.val
      let cores := maskCores mask
      if cores.any fun n => !s.insidePart p n then s.refuseCmd h 0x05 i Code.securityDenied
      else if s.maskFenced cores then s.refuseCmd h 0x05 i Code.fenced
      else
        let seq := (s.part p).nextCmd
        let l : LaunchInfo := ⟨slot.toNat, det, arg, cores, cores, s.coresIdle p seq cores, 0⟩
        let s := (s.modPart p fun x => { x with state := .running }).addCmd h 0x05 i (.launch l)
        if l.started then s.startCores seq l else s

/-- Is the command a pending LAUNCH that goes on now: its cores are idle, or one is lost to a fence? -/
def State.launchDue (s : State) (p : Nat) (k : Cmd) : Bool :=
  match k.kind with
  | .launch l => !l.started && (s.maskFenced l.cores || s.coresIdle p k.seq l.cores)
  | _ => false

/-- LAUNCH_DEFERRED_START: a pending launch starts once its cores are idle (R193). One that has lost a core to a fence meanwhile
completes with FENCED, and no core starts (R336; DEDUCED, log entry 18). The command names it by its index, which an older one of a context
that was parked may have too (R183, R197): then the older one that can start does. -/
def execLaunchDeferredStart (p : PartId) (index : BitVec 32) (s : State) : Host.Outcome State Fault Refusal :=
  match (s.part p.val).cmds.find? (fun k => k.index == index && s.launchDue p.val k) with
  | none => .next s
  | some k =>
    match k.kind with
    | .launch l =>
      if (s.part p.val).state == .quiescing || (s.part p.val).state == .resetting then .next s
      else if s.maskFenced l.cores then .next ((s.complete p.val k.seq Code.fenced s.lineTime).settle p.val)
      else
        let s := s.modPart p.val fun x => { x with cmds := x.cmds.map fun m =>
          if m.seq == k.seq then { m with kind := .launch { l with started := true } } else m }
        .next (s.startCores k.seq l)
    | _ => .next s

/-! ## RESUME and ABORT (R197, R200) -/

/-- The partition's faulted cores that are not fenced. -/
def State.faultedCores (s : State) (p : Nat) : List Nat :=
  (s.coresOf p).filter fun c => (s.core c).works && ((s.core c).run == .faulted || ((s.core c).run == .debugHalt && (s.core c).fault.valid))

/-- The faulted cores resume and the partition is RUNNING (R54, R200); the number of cores resumed. -/
def State.resumeCores (s : State) (p : Nat) : State × Nat :=
  let cs := s.faultedCores p
  ((s.modPart p fun x => { x with state := .running }).modCores cs Core.resumed, cs.length)

/-- Does a self-test of a core of the partition run (R334)? -/
def State.coreTestRuns (s : State) (p : Nat) : Bool :=
  s.twin.tests.any fun t => t.running && (match t.unit with
    | .core c | .coreBank c => s.partOf c.val == some p
    | _ => false)

/-- RESUME; it completes after a core test that runs. -/
def execResume (h : CmdHdr) (s : State) : Host.Outcome State Fault Refusal :=
  s.startCmd h 0x06 false (fun x => x.state == .faulted) fun s i =>
    if s.coreTestRuns h.part.val then s.addCmd h 0x06 i .resume
    else
      let (s, n) := s.resumeCores h.part.val
      s.endCmd h 0x06 i Code.ok (BitVec.ofNat 64 n)

/-- A core test has ended: every RESUME that waited for it completes. One that finds its partition no longer FAULTED, since an ABORT
or a PREEMPT came meanwhile, resumes nothing (R334; DESIGN CHOICE, log entry 18). -/
def State.resumeWaiting (s : State) (p : Nat) : State :=
  if s.coreTestRuns p then s
  else ((s.part p).cmds.filter fun k => match k.kind with | .resume => true | _ => false).foldl (fun s k =>
    let (s, n) := if (s.part p).state = .faulted then s.resumeCores p else (s, 0)
    s.complete p k.seq Code.ok (BitVec.ofNat 64 n)) s

/-- The launches of a partition in progress. -/
def Part.launches (x : Part) : List Cmd := x.cmds.filter fun k => match k.kind with | .launch _ => true | _ => false

/-- The rounds of the partition's launches end, all at once (R242). -/
def State.roundsEnd (s : State) (p : Nat) : State := s.endRounds ((s.part p).launches.map fun k => ⟨p, k.seq⟩)

/-- Every LAUNCH in progress completes with a status, and their rounds end (R197, R242). -/
def State.launchesEnd (s : State) (p : Nat) (status : Code) : State :=
  (s.part p).launches.foldl (fun s k => s.complete p k.seq status s.lineTime) (s.roundsEnd p)

/-- ABORT: every launch ends, the waits of cores end, and each core becomes idle once its executing instructions have ended. The partition is
READY from the start of the ABORT, which completes with its last core (DESIGN CHOICE, log entry 18: Table 8.4 names the state and no moment). -/
def execAbort (h : CmdHdr) (s : State) : Host.Outcome State Fault Refusal :=
  s.startCmd h 0x07 false (fun x => x.state == .running || x.state == .faulted) fun s i =>
    let p := h.part.val
    let cs := (s.coresOf p).filter fun c => (s.core c).kernel.isSome
    let s := (s.launchesEnd p Code.ownerLost).modPart p fun x => { x with state := .ready }
    let s := s.coreWaitsLost p
    if cs.isEmpty then s.endCmd h 0x07 i Code.ok 0
    else
      let s := s.modCores cs fun k => { k with aborting := true, run := .quiescing }
      let s := s.addCmd h 0x07 i (.abort cs cs.length)
      cs.foldl (fun s c => s.abortEnds c) s

/-! ## PREEMPT, SAVE_COMPLETE, RESTORE (R55, R56, R196, R197, R266) -/

/-- Saving begins: every core of the partition is interrupted, and its sync traffic reaches the sync store before the copy (R55, R266). -/
def State.beginSave (s : State) (p : Nat) : State :=
  let cs := (s.coresOf p).filter fun c => (s.core c).works && (s.core c).kernel.isSome
  let s := s.modPart p fun x => { x with state := .quiescing }
  (cs.foldl (fun s c => (s.interruptCore c).modCore c fun k => { k with run := .quiescing }) s).syncArrives p

/-- Is a PREEMPT legal (Table 8.4, R195)? -/
def Part.canPreempt (x : Part) : Bool := x.state.isBound && x.parked.isNone

/-- PREEMPT. -/
def execPreempt (h : CmdHdr) (s : State) : Host.Outcome State Fault Refusal :=
  s.startCmd h 0x08 false Part.canPreempt fun s i => (s.addCmd h 0x08 i .preempt).beginSave h.part.val

/-- The state a save records (R196). -/
def State.savedState (s : State) (p : Nat) (cmds : List Cmd) : PState :=
  if (s.coresOf p).any fun c => (s.core c).works && (s.core c).fault.valid then .faulted
  else if cmds.any fun k => match k.kind with | .launch l => !l.left.isEmpty | _ => false then .running
  else .ready

/-- Bytes of the sidings image: 3,136 KiB for each core (R56) and the 528 KiB sync image (R266). -/
def sidingBytes (cores : Nat) : Nat := cores * (3136 * 1024) + 528 * 1024

/-- A wait that is parked names its core by logical number, one that returns by physical number (R15, R266); that of a fenced core is not
saved, since its wake-up reaches nothing (R246). -/
def State.waiterOut (s : State) (w : Waiter) : Option Waiter :=
  match w.who with
  | .core c => if (s.core c).works then (s.core c).logical.map fun l => { w with who := .core l.toNat } else none
  | .host _ => some w
def State.waiterIn (s : State) (w : Waiter) : Option Waiter :=
  match w.who with
  | .core n => (s.physical n).map fun c => { w with who := .core c }
  | .host _ => some w

/-- The sidings hold the saved image, encrypted under the partition key in the private format: a fresh one (R56, R362). -/
def State.sealImage (s : State) (p : Nat) (key : Option (BitVec 256)) : State :=
  match key with
  | some k => { s with sealed := tabPut s.sealed p (some (k, s.freeCtr)) }.tick
  | none => s

/-- A launch that has been saved once more: contributions it made before are never applied (R242). -/
def Cmd.savedOnce (k : Cmd) : Cmd :=
  match k.kind with
  | .launch l => { k with kind := .launch { l with saves := l.saves + 1 } }
  | _ => k

/-- SAVE_COMPLETE: once every executing instruction but the waits has ended, and no LOAD or COPY is in progress, L1 is written back,
the context is parked and the partition is IDLE. -/
def execSaveComplete (p : PartId) (s : State) : Host.Outcome State Fault Refusal :=
  let x := s.part p.val
  let cs := (s.coresOf p.val).filter fun c => (s.core c).works
  let busy := x.cmds.any fun k => match k.kind with | .launch _ | .wait _ _ | .preempt => false | _ => true
  match x.state, x.bound with
  | .quiescing, some ctx =>
    if busy || cs.any fun c => !(s.core c).quiet then .next s
    else
      let s := cs.foldl (fun s c => s.flush c) s
      let keep := (x.cmds.filter fun k => k.kind.isLong).map Cmd.savedOnce
      let s := s.roundsEnd p.val
      let saved := cs.foldl (fun t c => tabPut t (s.core c).lg (s.core c)) ([] : Tab Core)
      let x := s.part p.val
      let park : Parked := ⟨ctx, s.savedState p.val keep, saved, x.sync, x.slots, keep, x.waiters.filterMap s.waiterOut, x.tlb⟩
      let s := s.modCores cs fun k => { k.emptied with run := .saved, mx := k.emptied.mx.noTags }
      let s := s.modPart p.val fun x =>
        { x with state := .idle, bound := none, slots := [], parked := some park, parkedKey := x.key, key := none, waiters := [],
                 tlb := [], cmds := x.cmds.filter fun k => !k.kind.isLong }
      let s := s.sealImage p.val x.key
      match (s.part p.val).cmds.find? (fun k => match k.kind with | .preempt => true | _ => false) with
      | some k => .next (s.complete p.val k.seq Code.ok (BitVec.ofNat 64 (sidingBytes cs.length)))
      | none => .next s
  | _, _ => .next s

/-- Is a parked context there to be restored (R362)? -/
def Part.canRestore (x : Part) : Bool := x.state == .idle && x.parked.isSome && x.parkedKey.isSome

/-- A wait that returns with its context: OK when its condition holds, TIMEOUT when its deadline has passed, waiting otherwise
(Table 11.5). -/
def State.waitReturns (s : State) (p : Nat) (w : Waiter) : State :=
  let met := match w.on with
    | .baton n v => decide (v.toNat ≤ ((s.part p).sync.baton n).toNat)
    | .bar _ _ => false
  if met then s.endWait p w Code.ok
  else match w.deadline with
    | some d => if s.reached d then s.endWait p w Code.timeout else s
    | none => s

/-- RESTORE: the parked context returns, with its cores, slots, commands and waits; a context boundary. -/
def execRestore (h : CmdHdr) (s : State) : Host.Outcome State Fault Refusal :=
  s.startCmd h 0x09 false Part.canRestore fun s i =>
    let p := h.part.val
    match (s.part p).parked with
    | none => s
    | some k =>
      let s := s.contextBoundary p
      let s := s.modPart p fun x =>
        { x with state := k.state, bound := some k.ctx, context := k.ctx.id, slots := k.slots, sync := k.sync, frozen := false,
                 parked := none, key := x.parkedKey, parkedKey := none, cmds := x.cmds ++ k.cmds, tlb := k.tlb }
      let waits := k.waiters.filterMap s.waiterIn
      let s := s.modPart p fun x => { x with waiters := x.waiters ++ waits }
      let s := k.cores.foldl (fun s e =>
        match s.physical e.1 with
        | none => s
        | some c => (s.modCore c fun y => y.restored e.2).reloadSlots c) s
      let s := waits.foldl (fun s w => s.waitReturns p w) s
      s.endCmd h 0x09 i Code.ok (BitVec.ofNat 64 (PState.code k.state))

/-! ## RESET and RESET_COMPLETE (R196 to R198, R267) -/

/-- The device address of a context address that an agent may write; none where its translation fails, which nothing records here. -/
def State.writeTarget (s : State) (p a : Nat) : Option Nat :=
  match s.lookup p a with
  | .ok t =>
    let d := t.base + a % 2 ^ t.log2
    if t.write && s.granted p d && s.populated d && s.agentReaches p d then some d else none
  | .error _ => none

/-- Bytes of a context range, those that can be written, take free values, each piece by itself. -/
def State.freePieces (s : State) (p : Nat) : List (Nat × Nat) → State
  | [] => s
  | (a, n) :: t =>
    let s := match s.writeTarget p a with
      | some d => (s.ticks n).devWrite none (atAddrs d (s.freeBytes n)) false
      | none => s
    s.freePieces p t

/-- A COPY or LOAD ended by RESET leaves its destination bytes undefined (R197). -/
def State.destUndefined (s : State) (p : Nat) (k : CmdKind) : State :=
  match k with
  | .load _ code n _ => s.freePieces p (piecesOf (code.toNat % 2 ^ 48) n)
  | .copy dir _ dst n _ =>
    if dir = 1 then (s.ticks n).hostWrite (s.part p).host dst.toNat (s.freeBytes n)
    else s.freePieces p (piecesOf (dst.toNat % 2 ^ 48) n)
  | _ => s

/-- The parked context is discarded: its LAUNCH and WAIT complete with OWNER_LOST, a WAIT with its baton's value (R197, R267, Table
8.3). -/
def State.discardParked (s : State) (p : Nat) : State :=
  match (s.part p).parked with
  | none => s
  | some k =>
    let s := s.modPart p fun x => { x with parked := none, parkedKey := none, lostB := k.ctx.id, lostBValid := true }
    k.cmds.foldl (fun s m =>
      let info := match m.kind with
        | .wait b _ => k.sync.baton b.toNat
        | _ => s.lineTime
      s.finish p m.index m.opcode m.flags m.tag m.vector Code.ownerLost info) s

/-- A RESET takes effect: the commands in progress end, a generation is abandoned (R328), the sync state freezes, the context is lost
and the cores stop; an IDLE partition has no context to reset, only a WAIT that went on after UNBIND. -/
def State.beginReset (s : State) (p : Nat) (discard : Bool) : State :=
  let s := if discard then s.discardParked p else s
  let s := (s.abandonGen p Code.ownerLost).waitsLost p
  match (s.part p).bound with
  | none => s
  | some ctx =>
    let s := s.launchesEnd p Code.ownerLost
    let s := ((s.part p).cmds.filter fun k => match k.kind with | .load .. | .copy .. | .resume => true | _ => false).foldl
      (fun s k => ((s.destUndefined p k.kind).tick).complete p k.seq Code.ownerLost (Config.freeWord s.freeCtr)) s
    let s := s.modPart p fun x => { x with state := .resetting, frozen := true, lostA := ctx.id, lostAValid := true }
    s.modCores ((s.coresOf p).filter fun c => (s.core c).kernel.isSome) fun k =>
      { k with halted := true, run := if k.works then .quiescing else k.run }

/-- Is the partition's reset at its end: no instruction of its cores executes? -/
def State.resetDone (s : State) (p : Nat) : Bool :=
  (s.part p).state == .resetting && !(s.coresOf p).any fun c => (s.core c).executing

/-- The reset completes: L1 is discarded, the cores are idle, the context is gone; a context boundary. -/
def State.endReset (s : State) (p : Nat) : State :=
  let s := s.modCores (s.coresOf p) fun k => if k.works then { k.emptied with run := .idle, l1 := L1.empty } else { k.emptied with run := .idle }
  let s := s.modPart p fun x => { x with state := .idle, bound := none, slots := [], tlb := [], key := none }
  let s := s.contextBoundary p
  match (s.part p).cmds.find? (fun k => match k.kind with | .reset _ => true | _ => false) with
  | some k => s.complete p k.seq Code.ok 0
  | none => s

/-- RESET. -/
def execReset (h : CmdHdr) (discardParked : Bool) (s : State) : Host.Outcome State Fault Refusal :=
  s.startCmd h 0x0A false (fun x => x.state == .idle || x.state.isBound) fun s i =>
    let p := h.part.val
    if (s.part p).bound.isNone then
      ((s.beginReset p discardParked).contextBoundary p).endCmd h 0x0A i Code.ok 0
    else (s.beginReset p discardParked).addCmd h 0x0A i (.reset discardParked)

/-- RESET_COMPLETE. -/
def execResetComplete (p : PartId) (s : State) : Host.Outcome State Fault Refusal :=
  if (s.part p.val).wiping || !s.resetDone p.val then .next s else .next (s.endReset p.val)

/-! ## COPY and COPY_COMPLETE -/

/-- COPY starts. -/
def execCopy (h : CmdHdr) (dir : BitVec 8) (src dst bytes : Word) (data : List Byte) (s : State) :
    Host.Outcome State Fault Refusal :=
  s.startCmd h 0x0B (3 ≤ dir.toNat || bytes = 0 || 2 ^ 40 < bytes.toNat) (fun x => x.state.isBound) fun s i =>
    s.addCmd h 0x0B i (.copy dir.toNat src dst bytes.toNat data)

/-- Copy pieces in ascending order until one fails: the bytes written, and the status. -/
def State.copyPieces (s : State) (p : Nat) (get : State → Nat → Nat → State × MemRes (List Byte))
    (put_ : State → Nat → List Byte → State × MemRes Unit) : List (Nat × Nat) → Nat → State × Nat × Code
  | [], n => (s, n, Code.ok)
  | (_, k) :: t, n =>
    match get s n k with
    | (s, .ok bs) =>
      match put_ s n bs with
      | (s, .ok ()) => s.copyPieces p get put_ t (n + k)
      | (s, r) => (s, n, r.status)
    | (s, r) => (s, n, r.status)

/-- COPY_COMPLETE: the oldest COPY in progress moves its bytes; an access that fails ends it. -/
def execCopyComplete (p : PartId) (s : State) : Host.Outcome State Fault Refusal :=
  match (s.part p.val).cmds.find? (fun k => match k.kind with | .copy .. => true | _ => false) with
  | none => .next s
  | some k =>
    match k.kind with
    | .copy dir src dst n data =>
      let bytes := data.take n ++ s.freeBytes (n - data.length)
      let s := s.ticks (n - data.length)
      let get (s : State) (o k : Nat) : State × MemRes (List Byte) :=
        if dir = 0 then (s, .ok ((bytes.drop o).take k)) else s.ctxRead p.val ((src.toNat + o) % 2 ^ 48) k
      let put_ (s : State) (o : Nat) (bs : List Byte) : State × MemRes Unit :=
        if dir = 1 then (s.hostWrite (s.part p.val).host (dst.toNat + o) bs, .ok ()) else s.ctxWrite p.val ((dst.toNat + o) % 2 ^ 48) bs false
      let (s, w, status) := s.copyPieces p.val get put_ (piecesOf (if dir = 1 then src.toNat else dst.toNat) n) 0
      .next (s.complete p.val k.seq status (BitVec.ofNat 64 w))
    | _ => .next s

/-! ## SIGNAL and WAIT (R195, R261) -/

/-- Does the bound context have this ID? -/
def Part.boundIs (x : Part) (ctx : BitVec 16) : Bool := match x.bound with | some b => b.id == ctx | none => false

/-- A SIGNAL of a context: in the sync store when it is bound, in the parked copy otherwise; the baton after the add. -/
def State.signal (s : State) (p n : Nat) (ctx : BitVec 16) (v : Word) : State × Word :=
  if (s.part p).boundIs ctx then
    let s := (s.modPart p (·.bumpSy 0)).increment p n v s.devId
    (s, (s.part p).sync.baton n)
  else
    let s := s.incrementParked p n v
    (s, match (s.part p).parked with | some k => k.sync.baton n | none => 0)

/-- SIGNAL. -/
def execSignal (h : CmdHdr) (baton ctx : BitVec 16) (value : Word) (s : State) : Host.Outcome State Fault Refusal :=
  s.startCmd h 0x0C false (fun x => (x.state.isBound && x.boundIs ctx) || x.parkedIs ctx) fun s i =>
    let (s, v) := s.signal h.part.val baton.toNat ctx value
    s.endCmd h 0x0C i Code.ok v

/-- WAIT. -/
def execWait (h : CmdHdr) (baton : BitVec 16) (value timeout : Word) (s : State) : Host.Outcome State Fault Refusal :=
  s.startCmd h 0x0D false (fun x => x.state.isBound) fun s i =>
    let p := h.part.val
    let b := (s.part p).sync.baton baton.toNat
    if value.toNat ≤ b.toNat then s.endCmd h 0x0D i Code.ok b
    else (s.addCmd h 0x0D i (.wait baton value)).addWaiter p ⟨.host (s.part p).nextCmd, .baton baton.toNat value, s.waitDeadline timeout⟩

/-- WAIT_TIMEOUT: the deadline of the k-th waiter of the partition arrives (R256, R264). An error found in the sync store that holds
the waiters starts the test of its I/O die (R20, R250, R334). -/
def execWaitTimeout (p : PartId) (k : Nat) (ecc : Ecc) (s : State) : Host.Outcome State Fault Refusal :=
  let s := if ecc = .clean then s else s.startTest (.ioDie ⟨p.val % 2, Nat.mod_lt _ (by decide)⟩) (ecc == .uncorrectable)
  match (s.part p.val).waiters[k]? with
  | none => .next s
  | some w =>
    match w.deadline with
    | none => .next s
    | some d => .next (if s.comes d then (s.passTo d).endWait p.val w Code.timeout else s)

/-! ## Records and interrupts (R189, R199, R201, R202, R203) -/

/-- The 32 bytes of a completion record (Table 8.7). -/
def CqRec.bytes (r : CqRec) : List Byte :=
  leBytes 2 r.tag.toNat ++ [r.opcode, r.status] ++ leBytes 4 r.index.toNat ++ leBytes 8 r.info.toNat ++ leBytes 8 r.lineTime.toNat ++
  leBytes 4 0 ++ leBytes 4 r.phase.toNat

/-- The record at the head of those due is written to a free slot in the memory of the owning port's host, and its interrupt is sent; a
failed command with HALT set halts the ring. Into a full ring nothing is written. A completion is compared with the window boundaries as its
record is written (R309); an event was as it fell due. -/
def State.writeRecord (s : State) (p : Nat) (event : Bool) : State :=
  let x := s.part p
  match x.due with
  | [] => s
  | d :: t =>
    if d.isEvent != event || !x.enable || x.cqSize ≤ (x.cqProducer - x.cqConsumer).toNat then s
    else
      let r := { d.rec_ with phase := x.cqProducer.toNat / x.cqSize % 2 == 0 }
      let s := (s.hostWrite x.host (x.cqBase.toNat + 32 * (x.cqProducer.toNat % x.cqSize)) r.bytes).traced [.record p r]
      let s := s.modPart p fun x => { x with due := t, cqProducer := x.cqProducer + 1 }
      let s := if event then s else s.photoEvent p r.lineTime s.devId
      let s := if event || d.flags.getLsbD 2 then s.partInterrupt p d.vector.toNat else s
      if !event && d.flags.getLsbD 0 && r.status != Code.ok then
        s.modPart p fun x =>
          if x.halted then x else { x with halted := true, haltStatus := r.status, haltIndex := r.index }
      else s

/-- COMPLETION_RECORD_WRITE. -/
def execCompletionRecordWrite (p : PartId) (s : State) : Host.Outcome State Fault Refusal := .next (s.writeRecord p.val false)

/-- EVENT_RECORD_WRITE. -/
def execEventRecordWrite (p : PartId) (s : State) : Host.Outcome State Fault Refusal := .next (s.writeRecord p.val true)

/-! ## Ring configuration and PART_CTRL (R183, R184, R198, R203, R205, Tables 8.13, 8.15) -/

/-- The rings are disabled: waiting event records are discarded and counted (R183); a halt ends with them (DESIGN CHOICE, log entry 17: the
spec does not say whether a ring is still halted after ENABLE has gone to 0 and back). -/
def Part.disable (x : Part) (own : Word) : Part :=
  Part.trackFull { x with enable := false, due := [], cnt := Machine.bump x.cnt 5 x.waitingEvents, halted := false } own

/-- RING_CFG: its fields change while the rings are disabled; ENABLE falls only in IDLE with no command in progress, and its rise
sets the indices to 0, with an empty completion ring (R183, R184). -/
def State.ringConfig (s : State) (p : Nat) (v : Word) : State :=
  let x := s.part p
  if x.enable then
    if v.getLsbD 0 || x.state != .idle || !x.cmds.isEmpty || x.due.any (fun d => !d.isEvent) then s else s.setPart p (x.disable s.lt.own)
  else
    let size (old : BitVec 5) (n : Nat) : BitVec 5 := if 6 ≤ n ∧ n ≤ 16 then BitVec.ofNat 5 n else old
    let x := { x with eventVector := BitVec.ofNat 8 (field v 24 8), cqLog2 := size x.cqLog2 (field v 16 5),
                      sizeLog2 := size x.sizeLog2 (field v 8 5) }
    s.setPart p (if v.getLsbD 0 && !s.isAbsent p then
      { x with enable := true, producer := 0, consumer := 0, cqProducer := 0, cqConsumer := 0, due := [], fullSince := none } else x)

/-- RING_CFG_WRITE. -/
def execRingCfgWrite (p : PartId) (value : Word) (s : State) : Host.Outcome State Fault Refusal := .next (s.ringConfig p.val value)

/-- A PART_CTRL write: dropped and counted on the port that does not own the partition (R205). -/
def State.partCtrl (s : State) (p : Nat) (hp : HostPort) (f : State → State) : State :=
  if (s.part p).host != hp then s.modPart p (·.bump 4) else f s

/-- PART_RESTART (R203). -/
def execPartRestart (p : PartId) (hp : HostPort) (s : State) : Host.Outcome State Fault Refusal :=
  .next (s.partCtrl p.val hp fun s => s.modPart p.val fun x => { x with halted := false })

/-- A PREEMPT inserted ahead of the ring (R198). -/
def State.preemptNow (s : State) (p : Nat) : State :=
  if s.isAbsent p || !(s.part p).canPreempt then s.modPart p (·.bump 1) else s.beginSave p

/-- PREEMPT_NOW. -/
def execPreemptNow (p : PartId) (hp : HostPort) (s : State) : Host.Outcome State Fault Refusal :=
  .next (s.partCtrl p.val hp (·.preemptNow p.val))

/-- A RESET inserted ahead of the ring (R198). -/
def State.resetNow (s : State) (p : Nat) (discard : Bool) : State :=
  let x := s.part p
  if s.isAbsent p || !(x.state == .idle || x.state.isBound) then s.modPart p (·.bump 1)
  else
    let s := s.beginReset p discard
    if x.bound.isNone then s.contextBoundary p else s

/-- RESET_NOW: with DISCARD_PARKED 0, as the reset of a VF's function has it (DESIGN CHOICE, log entry 17: R366 gives the value for a wipe
alone). -/
def execResetNow (p : PartId) (hp : HostPort) (s : State) : Host.Outcome State Fault Refusal :=
  .next (s.partCtrl p.val hp (·.resetNow p.val false))

/-- PART_CTRL.CNT_CLR: a wait for a slot of the completion ring is counted anew (R9, R189). -/
def State.clearPart (s : State) (p : Nat) : State :=
  s.modPart p fun x => { x with cnt := [], fullSince := x.fullSince.map fun _ => s.lt.own }

/-- PART_CNT_CLR. -/
def execPartCntClr (p : PartId) (hp : HostPort) (s : State) : Host.Outcome State Fault Refusal :=
  .next (s.partCtrl p.val hp (·.clearPart p.val))

/-- VF_FUNCTION_LEVEL_RESET of a VF that exists: RESET_NOW, ENABLE at 0 (R198), and the function's MSI-X state at its reset values. It is the VF on
the port that owns the partition (DESIGN CHOICE, log entry 19: R198 does not say what the same VF of the other port does, whose PART_CTRL
writes R205 drops). -/
def execVfFunctionLevelReset (p : PartId) (s : State) : Host.Outcome State Fault Refusal :=
  let hp := (s.part p.val).host
  if !(s.pcie hp).sriov || (s.pcie hp).numVFs < p.val + 1 then .next s
  else
  let s := (s.resetNow p.val false).modPart p.val (·.disable s.lt.own)
  let fn := p.val + 1
  .next (s.modPcie hp fun x =>
    { x with msixOn := setDel x.msixOn fn, maskAll := setDel x.maskAll fn,
             unmasked := setDelRun x.unmasked (4096 * fn) 4096, pending := setDelRun x.pending (4096 * fn) 4096,
             d3hot := setDel x.d3hot fn })

/-! ## The BAR4 window (R205, R207, Table 8.11) -/

/-- Window size of a host port. -/
def State.bar4Size (s : State) (hp : HostPort) : Nat := 2 ^ (30 + (s.pcie hp).bar4Log2)

/-- Writes at populated device addresses, a granule at a time. -/
def State.devWriteAt (s : State) (j : Nat) : List (Nat × Nat) → List Byte → State
  | [], _ => s
  | (a, n) :: t, bs =>
    let s := if s.populated a && !inFar a && s.reachesAddr j a then s.devWrite none (atAddrs a (bs.take n)) false else s
    s.devWriteAt j t (bs.drop n)

/-- BAR4_WRITE: the bytes within the window reach the device-local addresses that the window shows. -/
def execBar4Write (hp : HostPort) (off : Nat) (data : List Byte) (s : State) : Host.Outcome State Fault Refusal :=
  let size := s.bar4Size hp
  if size < off + data.length then .next s
  else
    let a := s.bar4Base.toNat / size * size + off
    .next (s.devWriteAt (portJunction (26 + hp.val)) (piecesOf a data.length) data)

end Sys2Proof.Machine
end

