-- ==== Sys2Proof/Machine/Time.lean ====
section
/-!
DEFINITION. Line Time and the timetable (R300 to R315): beacons and the states of the Line Time unit, arming, cancelling and copying
entries, and their firing.
-/
namespace Sys2Proof.Machine

/-! ## Times in nanoseconds -/

/-- 10 µs, the beacons' period (R302). -/
def beaconPeriod : Nat := 10000
/-- 20 µs, the lead of a local entry (R311). -/
def localLead : Nat := 20000
/-- 1 ms. -/
def msNs : Nat := 1000000

/-! ## Arming (R305, R311, R312) -/

/-- Is the entry a domain entry (R310)? -/
def isDomain (e : Nat) : Bool := decide (192 ≤ e)

/-- The lead of an entry in ns (R311). -/
def State.leadOf (s : State) (e : Nat) : Nat :=
  if isDomain e then max (1000 * s.lt.leadUs.toNat) s.lt.boundNs.toNat else localLead

/-- Can entries be armed: Line Time is LOCKED, HOLDOVER or MASTER? -/
def State.timeKnown (s : State) : Bool := s.lt.state == .locked || s.lt.state == .holdover || s.lt.state == .master

/-- Is a lead short? -/
def State.leadShort (s : State) (e : Nat) : Bool :=
  decide ((s.ttEntry e).time.toNat < s.lineTime.toNat + s.leadOf e)

/-- An arm that is refused: the entry stays unarmed, and an image's entry still waits for the first lock (R305). -/
def State.armRefused (s : State) (e : Nat) (status : Code) : State :=
  s.modTt e fun x => { x with armed := false, status := status }

/-- A copy or a cancel has been met, sent or received. -/
def TtEntry.meets (x : TtEntry) (cancel : Bool) (stamp : Word) (origin : BitVec 16) : TtEntry :=
  { x with seen := (cancel, stamp, origin) :: x.seen }

/-- Has it been met before? -/
def TtEntry.met (x : TtEntry) (t : TtCopy) : Bool := x.seen.any fun m => m == (t.cancel, t.stamp, t.origin)

/-- The entry is armed on this device, or refused with its status (R311). -/
def State.arm (s : State) (e : Nat) : State :=
  if (s.ttEntry e).action = 0 || !s.timeKnown then s.armRefused e Code.wrongState
  else if s.leadShort e then (s.armRefused e Code.timetableLate).bumpLt 1
  else s.modTt e fun x =>
    { x with armed := true, fromImage := false, status := Code.ok, stamp := s.lineTime, fired := 0, stepDue := none,
             originDev := if isDomain e then s.devId else 0 }

/-- The copy of a domain entry, or its cancel, leaves for every device of the roster, on the fabric ports (R312). -/
def State.sendCopy (s : State) (e : Fin 256) (cancel : Bool) : State :=
  let x := s.ttEntry e.val
  let t : TtCopy := { entry := e, cancel := cancel, time := x.time, period := x.period, duration := x.duration, arg := x.arg,
                      partMask := x.partMask, action := x.action, origin := s.devId, stamp := s.lineTime, inPort := 0 }
  (s.modTt e.val (·.meets cancel s.lineTime s.devId)).tellNeighbours none (.copy t)

/-- ARM: a domain entry that is armed so goes out as a copy (R311, R312). -/
def State.armEntry (s : State) (e : Fin 256) : State :=
  if (s.ttEntry e.val).armed then s
  else
    let t := s.arm e.val
    if (t.ttEntry e.val).armed && isDomain e.val then t.sendCopy e false else t

/-- TIMETABLE_ARM. -/
def execTimetableArm (e : Fin 256) (s : State) : Host.Outcome State Fault Refusal := .next (s.armEntry e)

/-- CANCEL: a local entry is disarmed at once; a domain entry needs its lead, and the cancel goes out like a copy (R312). -/
def State.cancelEntry (s : State) (e : Fin 256) : State :=
  if !(s.ttEntry e.val).armed then s
  else if !isDomain e.val then s.modTt e.val fun x => { x with armed := false, stepDue := none }
  else if s.leadShort e.val then (s.modTt e.val fun x => { x with status := Code.timetableLate }).bumpLt 1
  else (s.modTt e.val fun x => { x with armed := false, stepDue := none }).sendCopy e true

/-- TIMETABLE_CANCEL. -/
def execTimetableCancel (e : Fin 256) (s : State) : Host.Outcome State Fault Refusal := .next (s.cancelEntry e)

/-- The photo-finish entry of a copy (R309, R312): written for every late copy, and for one at most 25 ns before the lead boundary. -/
def State.photoCopy (s : State) (t : TtCopy) : State :=
  let arrival : Int := s.lineTime.toNat
  let off : Int := arrival - ((t.time.toNat : Int) - localLead)
  if off < -25 then s
  else s.pfWrite ⟨s.lineTime, true, decide (0 < off), false, BitVec.ofNat 8 t.entry.val, t.origin, 4, BitVec.ofInt 8 (min off 25)⟩

/-- Does a copy yield to the armed entry that stands there: by its origin stamp, then by the device ID (R312)? -/
def TtEntry.prevails (x : TtEntry) (t : TtCopy) : Bool :=
  x.armed && (decide (t.stamp.toNat < x.stamp.toNat) || (x.stamp == t.stamp && decide (x.originDev.toNat ≤ t.origin.toNat)))

/-- A copy of a domain entry, or of its cancel, acts on this device. A cancel has effect on an entry armed by no later origin stamp. -/
def State.copyActs (s : State) (t : TtCopy) : State :=
  let e := t.entry.val
  let x := s.ttEntry e
  let late := decide (t.time.toNat < s.lineTime.toNat + localLead)
  let s := s.photoCopy t
  if t.cancel then
    if !x.armed || decide (t.stamp.toNat < x.stamp.toNat) then s
    else if late then (s.modTt e fun x => { x with status := Code.timetableLate }).bumpLt 1
    else s.modTt e fun x => { x with armed := false, stepDue := none }
  else if x.prevails t then s
  else
    let s := s.modTt e fun x =>
      { time := t.time, period := t.period, duration := t.duration, arg := t.arg, partMask := t.partMask, action := t.action,
        armed := !late, originDev := t.origin, status := if late then Code.timetableLate else Code.ok, stamp := t.stamp,
        fired := 0, fromImage := false, stepDue := none, seen := x.seen }
    if late then s.bumpLt 1 else s

/-- A copy arrives: one met before is discarded; another is relayed as beacons are, and acts when this device is in the roster in force
at its origin stamp (R312). -/
def State.copyArrives (s : State) (t : TtCopy) : State :=
  let e := t.entry.val
  if !isDomain e || (s.ttEntry e).met t then s
  else
    let s := (s.modTt e (·.meets t.cancel t.stamp t.origin)).tellNeighbours (some t.inPort.val) (.copy t)
    if Roster.holds (s.rosterAt t.stamp) s.devId then s.copyActs t else s

/-- Does the port carry beacons, copies and rosters: FABRIC and UP (R302)? -/
def State.carriesTime (s : State) (n : Nat) : Bool := (s.port n).role == 1 && (s.port n).state == .up

/-- TIMETABLE_COPY_RECEIVE. -/
def execTimetableCopyReceive (t : TtCopy) (s : State) : Host.Outcome State Fault Refusal :=
  .next (if s.carriesTime t.inPort.val then s.copyArrives t else s)

/-! ## The Line Time unit (R302 to R305) -/

/-- The first lock of the device: the entries of the image are armed, in ascending number (R305). -/
def State.firstLock (s : State) : State :=
  if s.lt.everLocked then s
  else
    let s := { s with lt := { s.lt with everLocked := true } }
    ((List.range 256).filter fun e => (s.ttEntry e).fromImage).foldl
      (fun s e => (s.modTt e fun x => { x with fromImage := false }).arm e) s

/-- The unit enters a state. -/
def State.enterLt (s : State) (st : LtState) : State := { s with lt := { s.lt with state := st } }

/-- The first multiple of 10 µs at or after an instant. -/
def nextBeacon (t : Word) : Word := BitVec.ofNat 64 ((t.toNat + beaconPeriod - 1) / beaconPeriod * beaconPeriod)

/-- BEACON_SEND: the source's Line Time reaches the multiple of 10 µs at which the next beacon is due, or has reached it; the beacon leaves
on every FABRIC port that is UP (R302). -/
def execBeaconSend (s : State) : Host.Outcome State Fault Refusal :=
  .next (if s.lt.state = .master then
    let s := s.passTo ⟨s.lt.beaconDue, false⟩
    let s := { s with lt := { s.lt with beaconDue := s.lt.beaconDue + BitVec.ofNat 64 beaconPeriod } }
    s.tellNeighbours none (.beacon s.devId 0 s.lineTime)
  else s)

/-- Is the device one that LT_CFG names as a source? -/
def State.isSource (s : State) (dev : BitVec 16) : Bool := dev == s.lt.masterDev || dev == s.lt.backupDev

/-- Does this device follow the beacon: not its own; a MASTER only as a returning master, whose backup has taken over (R304)? -/
def State.follows (s : State) (dev : BitVec 16) : Bool :=
  s.isSource dev && dev != s.devId && (s.lt.state != .master || s.devId == s.lt.masterDev)

/-- The state after an accepted beacon at Line Time `t` (Table 13.1); beacons 1 ms apart start the lock anew. -/
def LineTime.beacon (lt : LineTime) (t : Word) : LineTime :=
  match lt.state with
  | .seeking | .unlocked | .master => { lt with state := .locking, lockStart := t }
  | .locking => if lt.lastBeacon.toNat + msNs ≤ t.toNat then { lt with lockStart := t } else lt
  | .holdover => { lt with state := .locked }
  | .locked => lt

/-- An accepted beacon at Line Time `t`, its value and the link delay (R302, R303): the first one sets Line Time, with a fraction that the
spec leaves open; after that a device behind its source slews forward, and one ahead of it holds Line Time until the source has
caught up. -/
def State.acceptBeacon (s : State) (dev : BitVec 16) (hops : BitVec 8) (t : Word) : State :=
  let first := s.lt.state == .seeking
  let s := if first then
      { s.tick with lt := { s.lt with now := t, frac := (Config.freeWord s.freeCtr).setWidth 16, hold := 0, slew := 0 } }
    else { s with lt := { s.lt with hold := BitVec.ofNat 64 (s.lt.now.toNat - t.toNat), slew := BitVec.ofNat 64 (t.toNat - s.lt.now.toNat) } }
  let lt := s.lt.beacon s.lt.now
  let s := { s with lt :=
    { lt with sourceDev := dev, hops := hops, lastBeacon := s.lt.now, period := some (BitVec.ofNat 64 (t.toNat / beaconPeriod)) } }
  s.bumpLt 2

/-- BEACON_RECEIVE: a beacon arrives `after` nanoseconds later. The first beacon of a 10 µs period from a named source is used, and goes
on to the other neighbours with the hop count raised by 1 and this device's own stamp. -/
def execBeaconReceive (p : PortId) (dev : BitVec 16) (hops : BitVec 8) (value : Word) (after : Nat) (s : State) :
    Host.Outcome State Fault Refusal :=
  let t := value + (s.port p.val).delayNs.setWidth 64
  let used := s.lt.period == some (BitVec.ofNat 64 (t.toNat / beaconPeriod))
  let s := s.pass after
  .next (if s.carriesTime p.val && s.follows dev && !used then
    let s := s.acceptBeacon dev hops t
    s.tellNeighbours (some p.val) (.beacon dev (hops + 1) s.lineTime)
  else s)

/-- LOCK_ACHIEVED: 50 ms of beacons with no gap of 1 ms. -/
def execLockAchieved (s : State) : Host.Outcome State Fault Refusal :=
  let t := max s.lineTime.toNat (s.lt.lockStart.toNat + 50 * msNs)
  if s.lt.state = .locking && decide (t < s.lt.lastBeacon.toNat + msNs) then
    .next ((s.passTo ⟨BitVec.ofNat 64 t, false⟩).enterLt .locked).firstLock
  else .next s

/-- HOLDOVER_ENTRY: 1 ms without a beacon. -/
def execHoldoverEntry (s : State) : Host.Outcome State Fault Refusal :=
  .next (if s.lt.state = .locked then
    ((s.passTo ⟨s.lt.lastBeacon + BitVec.ofNat 64 msNs, false⟩).enterLt .holdover).bumpLt 3 else s)

/-- UNLOCK_TIMEOUT: 10 ms since the last accepted beacon. -/
def execUnlockTimeout (s : State) : Host.Outcome State Fault Refusal :=
  .next (if s.lt.state = .holdover then
    (s.passTo ⟨s.lt.lastBeacon + BitVec.ofNat 64 (10 * msNs), false⟩).enterLt .unlocked else s)

/-- BACKUP_TAKEOVER: the backup has been LOCKED and misses the master's beacons for 1 ms; it goes on as the source. -/
def execBackupTakeover (s : State) : Host.Outcome State Fault Refusal :=
  let lt := s.lt
  if s.devId = lt.backupDev && lt.backupDev != lt.masterDev && lt.everLocked &&
      (lt.state == .locked || lt.state == .holdover || lt.state == .unlocked) then
    let s := s.passTo ⟨lt.lastBeacon + BitVec.ofNat 64 msNs, false⟩
    .next { s with lt := { s.lt with state := .master, sourceDev := s.devId, hops := 0, hold := 0, slew := 0, beaconDue := nextBeacon s.lt.now } }
  else .next s

/-- A read of LT_NOW latches the fraction of its instant (R301). -/
def State.ltNowRead (s : State) : State := { s with lt := { s.lt with latched := s.lt.frac } }

/-- LT_NOW_READ. -/
def execLtNowRead (s : State) : Host.Outcome State Fault Refusal := .next s.ltNowRead

/-- LT_CNT_CLR. -/
def execLtCntClr (s : State) : Host.Outcome State Fault Refusal := .next { s with lt := { s.lt with cnt := [] } }

/-- The unit restarts when an image with a changed IDENTITY or TIME is applied, and at start-up: MASTER with a new epoch on the
master, SEEKING elsewhere (Table 15.8, R300). -/
def State.ltRestart (s : State) : State :=
  let master := s.devId == s.lt.masterDev
  let s := { s with lt :=
    { s.lt with now := 0, frac := 0, hold := 0, slew := 0, state := if master then .master else .seeking, sourceDev := if master then s.devId else 0, hops := 0,
                lastBeacon := 0, lockStart := 0, period := none, beaconDue := 0 } }
  if master then s.firstLock else s

/-! ## Firing (R310, R313, R314) -/

/-- When the entry acts next: a due POWER_STEP at its staggered instant (R314). -/
def TtEntry.acts (x : TtEntry) : Nat := match x.stepDue with | some t => t.toNat | none => x.due

/-- Does another armed entry act before entry `e`? Entries due in one control cycle act in ascending number, those that have waited for
it too (R313). -/
def State.dueBefore (s : State) (e : Nat) : Bool :=
  let at_ (n : Nat) : Nat := max (s.ttEntry n).acts s.lineTime.toNat
  (List.range 256).any fun n =>
    n != e && (s.ttEntry n).armed && (decide (at_ n < at_ e) || (at_ n == at_ e && decide (n < e)))

/-- The outcome of an action over the selected partitions: the first that is not OK. -/
def firstBad (a b : Code) : Code := if a = Code.ok then b else a

/-- QUEUE_RELEASE on a partition, as the SIGNAL command does: 1 is added to a baton of its bound context, or of its parked one (R261);
WRONG_STATE where SIGNAL is illegal, as in RESETTING, whose batons accept nothing (Table 8.4, R267). While the partition is QUIESCING SIGNAL only
waits: the entry, whose instant it is, adds 1, which the save takes with it (R195, R266). -/
def State.queueRelease (s : State) (p n : Nat) : State × Code :=
  let x := s.part p
  match x.bound, x.parked with
  | some b, _ => if (x.state.isBound || x.state == .quiescing) && !x.frozen then ((s.signal p n b.id 1).1, Code.ok) else (s, Code.wrongState)
  | none, some k => if s.isAbsent p then (s, Code.wrongState) else ((s.signal p n k.ctx.id 1).1, Code.ok)
  | none, none => (s, Code.wrongState)

/-- SNAPSHOT and PARTITION_RESET as the PART_CTRL writes they are; a refusal counts there and gives WRONG_STATE (R198). -/
def State.asPartCtrl (s : State) (legal : Bool) (f : State → State) : State × Code :=
  (f s, if legal then Code.ok else Code.wrongState)

/-- The instant action of an entry on one partition. -/
def State.actOn (s : State) (action : BitVec 4) (arg : BitVec 32) (p : Nat) : State × Code :=
  let x := s.part p
  let here := !s.isAbsent p
  if action = 3 then s.asPartCtrl (here && x.canPreempt) (·.preemptNow p)
  else if action = 4 then s.asPartCtrl (here && (x.state == .idle || x.state.isBound)) (·.resetNow p false)
  else if action = 6 then s.queueRelease p (arg.toNat % 65536)
  else (s, Code.ok)

/-- The action on each selected partition in turn. -/
def State.actAll (s : State) (action : BitVec 4) (arg : BitVec 32) : List Nat → Code → State × Code
  | [], c => (s, c)
  | p :: t, c =>
    let (s, d) := s.actOn action arg p
    s.actAll action arg t (firstBad c d)

/-- The partitions of a mask. -/
def maskParts (m : BitVec 16) : List Nat := (List.range 16).filter m.getLsbD

/-- The stagger of a POWER_STEP on this device in ns (R314). -/
def stagger (dev : BitVec 16) (arg : BitVec 32) : Nat :=
  dev.toNat % (arg.toNat / 2 ^ 8 % 2 ^ 8 + 1) * (arg.toNat / 2 ^ 16 * 10)

/-- The longest LIFETIME of a record in ns (R281, R295). -/
def Consist.longestLife (c : Consist) : Nat := c.lines.foldl (fun n l => max n (1000 * l.lifetimeUs.toNat)) (1000 * c.lifetimeUs.toNat)

/-- A window opens; an empty one holds nothing, and those of the entry that have ended are gone. Their bounds stay for the photo-finish log
as long as an event with a stamp near them can still come: a record does so within its LIFETIME (R309). -/
def State.openWindow (s : State) (e : Nat) (x : TtEntry) : State :=
  let t := x.due
  let old := s.windows.filter fun w => !(w.entry == e && decide (w.stop.toNat + 25 + s.consist.longestLife < t) && (w.action != 1 || w.ended))
  if x.window = 0 then { s with windows := old }
  else { s with windows := old ++ [⟨e, x.action, BitVec.ofNat 64 t, BitVec.ofNat 64 (t + x.window), x.partMask, x.arg, false⟩] }

/-- The entry's action at its time, and its outcome. -/
def State.fireAction (s : State) (e : Nat) : State × Code :=
  let x := s.ttEntry e
  if x.action = 1 || x.action = 2 then (s.openWindow e x, Code.ok)
  else s.actAll x.action x.arg (maskParts x.partMask) Code.ok

/-- The entry is done with an occurrence: a one-shot entry disarms, a periodic one waits for its next. -/
def TtEntry.after (x : TtEntry) (status : Code) : TtEntry :=
  { x with status := status, armed := x.period != 0, stepDue := none, fired := if x.period = 0 then x.fired else x.fired + 1 }

/-- An entry acts at its instant by an action, and is done with the occurrence; a domain entry does not act while Line Time is UNLOCKED
(R313). -/
def State.fireBy (s : State) (e : Nat) (act : State → State × Code) : State :=
  let s := s.passTo ⟨BitVec.ofNat 64 (s.ttEntry e).acts, false⟩
  if isDomain e && s.lt.state == .unlocked then s.modTt e (·.after Code.wrongState)
  else
    let (s, status) := act s
    (s.modTt e (·.after status)).bumpLt 0

/-- An entry fires. A POWER_STEP fires at its staggered instant (R314): at TIME that instant is set. -/
def State.fire (s : State) (e : Nat) : State :=
  let x := s.ttEntry e
  if x.action = 5 then
    (s.passTo ⟨BitVec.ofNat 64 x.due, false⟩).modTt e fun y => { y with stepDue := some (BitVec.ofNat 64 (x.due + stagger s.devId x.arg)) }
  else s.fireBy e (·.fireAction e)

/-- May the entry act next: armed, before no other, while no image is being applied (R355) and Line Time is not SEEKING? -/
def State.mayAct (s : State) (e : Nat) : Bool :=
  (s.ttEntry e).armed && !s.dueBefore e && s.loader.applying.isNone && s.lt.state != .seeking

/-- TIMETABLE_FIRE. -/
def execTimetableFire (e : Fin 256) (s : State) : Host.Outcome State Fault Refusal :=
  .next (if s.mayAct e.val && (s.ttEntry e.val).stepDue.isNone then s.fire e.val else s)

end Sys2Proof.Machine
end

