-- ==== Sys2Proof/Machine/Twins.lean ====
section
/-!
DEFINITION. Securing and restoring (R317 to R333): the stages of a generation, what the twin's records write into the replica slots,
the committed generations held there, and a restore with its verification.
-/
namespace Sys2Proof.Machine

/-- Securing and restoring proceed only in PAIRED and DEGRADED (R318). -/
def State.paired (s : State) : Bool := s.twin.state == .paired || s.twin.state == .degraded

/-- A change of a partition's securing page. -/
def State.modSec (s : State) (p : Nat) (f : SecPart → SecPart) : State := s.modPart p fun x => { x with sec := f x.sec }

/-! ## Generations (R325, R326, R328) -/

/-- SECURE_WINDOW_END: an open securing window of the entry ends; a windowed generation that belongs to it and has not committed is
abandoned. -/
def execSecureWindowEnd (e : Fin 256) (s : State) : Host.Outcome State Fault Refusal :=
  match s.windows.find? fun w => w.entry == e.val && w.action == 1 && !w.ended with
  | none => .next s
  | some w =>
    let s := s.passTo ⟨w.stop, false⟩
    let s := { s with windows := s.windows.map fun v => if v = w then { v with ended := true } else v }
    .next ((maskParts w.partMask).foldl (fun s p =>
      match (s.part p).sec.gen with
      | some g => if g.windowed && g.windowEnd == w.stop then s.abandonGen p Code.timeout else s
      | none => s) s)

/-- The generation in progress goes on in a phase. -/
def State.toPhase (s : State) (p : Nat) (ph : SecPhase) (f : Gen → Gen) : State :=
  s.modSec p fun x => { x with phase := ph, gen := x.gen.map f }

/-- A SHA-256 digest as it stands in a record: its 32 bytes, first byte first. -/
def digestBytes (d : BitVec 256) : List Byte := (leBytes 32 d.toNat).reverse

/-- The digest table of a generation (Table 14.3): an entry for each data unit. -/
def Gen.table (g : Gen) : List Byte :=
  (List.range g.units.length).flatMap fun i =>
    digestBytes (tabGet 0 g.digests i) ++ leBytes 8 (((g.units[i]?).map (·.1)).getD 0) ++ List.replicate 24 0

/-- The commit record of a generation, sent now (Table 14.2). -/
def State.commitRecord (s : State) (p : Nat) (g : Gen) : List Byte :=
  leBytes 4 0x54494D43 ++ [0x01#8, BitVec.ofNat 8 p] ++ leBytes 2 s.devId.toNat ++ leBytes 8 g.generation.toNat ++
  leBytes 8 g.step.toNat ++ leBytes 4 g.units.length ++ leBytes 4 g.loss.toNat ++ leBytes 8 s.lineTime.toNat ++
  leBytes 8 s.fuses.serial.toNat ++ digestBytes (sha256 g.table) ++ List.replicate 48 0

/-- A record of the generation goes to the twin, which has to acknowledge it by the record's deadline. -/
def State.sendGen (s : State) (p i : Nat) (r : TwinRec) : State :=
  (s.modSec p fun x => { x with gen := x.gen.map fun g => { g with sent := some s.twinDeadline } }).sendTwin i r

/-- Stage 5: the commit record is sent, in one record. -/
def State.toCommit (s : State) (p : Nat) (g : Gen) : State :=
  (s.toPhase p .commit fun _ => g).sendGen p 0 (.commit (partNo p) g.slotB (s.commitRecord p g))

/-- Stage 4 ends: LOSS_BATON has reached STEP, and the check value is read. -/
def State.readLoss (s : State) (p : Nat) (g : Gen) : State :=
  if (s.part p).bound.isNone || decide (((s.part p).sync.baton g.lossBaton.toNat).toNat < g.step.toNat) then s
  else match s.ctxRead p g.lossAddr.toNat 4 with
    | (s, .ok bs) => s.toCommit p { g with loss := BitVec.ofNat 32 (leNat bs) }
    | (s, .fail st _) => s.abandonGen p st

/-- GENERATION_STAGE_ADVANCE: the twin has acknowledged every write of the stage, and the next one starts. -/
def execGenerationStageAdvance (p : PartId) (s : State) : Host.Outcome State Fault Refusal :=
  let x := (s.part p.val).sec
  match x.gen with
  | none => .next s
  | some g =>
    let g := { g with sent := none }
    match x.phase with
    | .clearing => .next (s.toPhase p.val .data fun _ => g)
    | .data =>
      .next (if g.copied.length = g.units.length then
        (s.toPhase p.val .digest fun _ => g).sendGen p.val 0 (.digest p g.slotB 0 g.table) else s)
    | .digest =>
      .next (if g.lossAddr = 0 then s.toCommit p.val g
        else s.toPhase p.val .waitLoss fun _ => { g with stage4At := s.lineTime })
    | .waitLoss => .next (s.readLoss p.val g)
    | _ => .next s

/-- The units on which an update write of the partition's cores is held. -/
def State.heldUnits (s : State) (p : Nat) : NatSet :=
  (s.coresOf p).foldl (fun t c => if (s.core c).up.hold then (s.core c).up.heldOn.foldl setAdd t else t) []

/-- The unit copied next: the lowest on which a write is held, or the lowest not copied (R326). -/
def State.nextUnit (s : State) (p : Nat) (g : Gen) : Option Nat :=
  let left := (List.range g.units.length).filter fun i => !setHas g.copied i
  let held := s.heldUnits p
  let waits := left.filter fun i => match g.units[i]? with | some u => setHas held (u.2 / 2 ^ 21) | none => false
  match waits with
  | i :: _ => some i
  | [] => left.head?

/-- Does a run of whole granules hold poisoned data? -/
def State.spoilt (s : State) (a n : Nat) : Bool := (List.range (n / 32)).any fun i => s.poisoned (a + 32 * i)

/-- Does a 2 MiB unit hold poisoned data? -/
def State.unitPoisoned (s : State) (d : Nat) : Bool := s.spoilt d unitBytes

/-- The securing engine reads a data unit: through the slices, as every agent (R236), with the error that it detects at one of its granules
(R334). -/
def State.readDataUnit (s : State) (d : Nat) (ecc : Ecc) : State :=
  let a := d + 32 * (Config.freeNat s.freeCtr % 65536)
  let s := if ecc = .clean then s
    else match sliceOf a with
      | some (die, sl) => s.tick.readError die sl a ecc
      | none => s
  s.agentReads 0 (piecesOf d unitBytes)

/-- UNIT_COPIED: the next data unit has been read and digested, and goes to the twin; poisoned data abandons the generation, and so does a
unit that no path reaches, with FENCED (R247, DEDUCED, log entry 12). -/
def execUnitCopied (p : PartId) (ecc : Ecc) (s : State) : Host.Outcome State Fault Refusal :=
  let x := (s.part p.val).sec
  match x.gen, x.phase with
  | some g, .data =>
    match s.nextUnit p.val g with
    | none => .next s
    | some i =>
      let d := ((g.units[i]?).map (·.2)).getD 0
      if (piecesOf d unitBytes).any (fun q => !s.agentReaches p.val q.1) then .next (s.abandonGen p.val Code.fenced)
      else
        let s := s.readDataUnit d ecc
        if s.unitPoisoned d then .next (s.abandonGen p.val Code.poison)
        else
          let data := s.devBytes d unitBytes
          let s := s.modSec p.val fun x =>
            { x with gen := x.gen.map (fun g => { g with copied := setAdd g.copied i, digests := tabPut g.digests i (sha256 data) }),
                     unitsLeft := x.unitsLeft - 1 }
          .next (s.sendGen p.val i (.unit p g.slotB i data))
  | _, _ => .next s

/-- LOSS_WAIT_TIMEOUT: LOSS_BATON is still below STEP, LOSS_WAIT_MS after stage 4 began. -/
def execLossWaitTimeout (p : PartId) (s : State) : Host.Outcome State Fault Refusal :=
  let x := (s.part p.val).sec
  match x.gen, x.phase with
  | some g, .waitLoss =>
    if g.step.toNat ≤ ((s.part p.val).sync.baton g.lossBaton.toNat).toNat then .next s
    else
      let s := s.passTo ⟨g.stage4At + BitVec.ofNat 64 (g.lossWaitMs.toNat * msNs), false⟩
      .next (s.abandonGen p.val Code.timeout)
  | _, _ => .next s

/-- GENERATION_COMMIT: the twin has acknowledged the commit record. -/
def execGenerationCommit (p : PartId) (s : State) : Host.Outcome State Fault Refusal :=
  let x := (s.part p.val).sec
  match x.gen, x.phase with
  | some g, .commit =>
    .next ((s.modSec p.val fun x =>
      { x with gen := none, phase := x.otherPhase, genStatus := Code.ok, commitStep := g.step, commitGen := g.generation,
               heldB := some g.slotB, heldKnown := true, allShares := false }).bumpTwin 1)
  | _, _ => .next s

/-- ABANDON: SEC_PCTRL.ABANDON is written with 1. -/
def execAbandon (p : PartId) (s : State) : Host.Outcome State Fault Refusal := .next (s.abandonGen p.val Code.ownerLost)

/-! ## Replica slots (R320 to R322) -/

/-- The start of a partition's extent in a slot (R320). -/
def SecPart.slotAt (x : SecPart) (slotB : Bool) : Nat := (if slotB then 0x26E00000000 else 0x20000000000) + x.baseGib.toNat * 2 ^ 30

/-- Units of the digest table (R321). -/
def SecPart.tableUnits (x : SecPart) : Nat := (x.sizeGib.toNat + 63) / 64

/-- The address of the digest table and of a data unit. -/
def SecPart.tableAt (x : SecPart) (slotB : Bool) : Nat := x.slotAt slotB + unitBytes
def SecPart.unitAt (x : SecPart) (slotB : Bool) (i : Nat) : Nat := x.slotAt slotB + unitBytes * (1 + x.tableUnits + i)

/-- Bytes [o, o + n) of a record as a number. -/
def recNat (m : List Byte) (o n : Nat) : Nat := leNat ((m.drop o).take n)

/-- The STEP and GENERATION of the generation a slot holds, 0 for an ignored slot (R322): a commit record or stored table entries that
cannot be read do not match. -/
def State.slotHolds (s : State) (p : Nat) (slotB : Bool) : Word × Word :=
  let x := (s.part p).sec
  let a := x.slotAt slotB
  let r := s.devBytes a 128
  let units := recNat r 24 4
  let t := x.tableAt slotB
  if x.sizeGib != 0 && !s.spoilt a 128 && recNat r 0 4 == 0x54494D43 && recNat r 4 1 == 1 &&
      recNat r 5 1 == p && recNat r 6 2 == s.twin.dev.toNat && recNat r 8 8 != 0 && decide (units ≤ extentUnits x.sizeGib.toNat) &&
      !s.spoilt t (64 * units) && (r.drop 48).take 32 == digestBytes (sha256 (s.devBytes t (64 * units)))
  then (BitVec.ofNat 64 (recNat r 16 8), BitVec.ofNat 64 (recNat r 8 8))
  else (0, 0)

/-- REPL_A_* and REPL_B_* of a partition. -/
def State.refreshRepl (s : State) (p : Nat) : State :=
  let a := s.slotHolds p false
  let b := s.slotHolds p true
  s.modSec p fun x => { x with replAStep := a.1, replAGen := a.2, replBStep := b.1, replBGen := b.2 }

/-- REPL_A_* and REPL_B_* of every partition, after a change of far memory that no securing record makes. -/
def State.refreshAll (s : State) : State := (List.range 16).foldl State.refreshRepl s

/-- The slot that holds the current generation for the twin's partition: the committed one with the higher GENERATION; or, asked for the
older, the other committed one (R322, R330). -/
def State.slotFor (s : State) (p : Nat) (older : Bool) : Option Bool :=
  let a := (s.slotHolds p false).2
  let b := (s.slotHolds p true).2
  if a = 0 && b = 0 then none
  else
    let current := decide (a.toNat < b.toNat)
    if !older then some current else if (if current then a else b) = 0 then none else some (!current)

/-- Bytes written in far memory. -/
def State.farWrite (s : State) (a : Nat) (bs : List Byte) : State := s.devWritePieces false (piecesOf a bs.length) bs

/-- Does the device serve its twin (R318, R358)? -/
def State.servesTwin (s : State) : Bool := s.paired && s.start.farZero

/-- Does the device take the twin's securing records of a partition, which has an extent here (R320)? -/
def State.takesRecords (s : State) (p : Nat) : Bool := s.servesTwin && (s.part p).sec.sizeGib != 0

/-! ## Restoring (R330 to R332) -/

/-- Is the restore verified by digest: the roster's count is below VERIFY_THRESHOLD, or no check value was recorded (R331)? -/
def State.byDigest (s : State) (loss : F32) : Bool :=
  decide (s.roster.entries.length < s.twin.threshold.toNat) || loss == 0x7FC00000#32

/-- A change of the restore in progress. -/
def State.modRest (s : State) (p : Nat) (f : Rest → Rest) : State := s.modSec p fun x => { x with rest := x.rest.map f }

/-- The commit record comes, with the slot it stands in, or none of the kind requested. -/
def State.restoreCommit (s : State) (p : Nat) (slotB : Bool) (data : List Byte) : State :=
  if data.isEmpty then s.restoreEnds p Code.wrongState (s.part p).sec.verify .idle
  else
    let loss : F32 := BitVec.ofNat 32 (recNat data 28 4)
    let units := recNat data 24 4
    let s := s.modRest p fun r => { r with record := memWrite [] 0 data, slotB := slotB, units := units, written := [], table := none }
    s.modSec p fun x => { x with unitsLeft := BitVec.ofNat 32 units, verifyReplay := !s.byDigest loss }

/-- A data unit that the digest table lists is written at its recorded address, or the restore ends at it: PAGE_FAULT where its address
lacks translation or permission, before POISON (R330), and at FENCED where no path remains to it (R247). Units travel on two ports, and come in any order. -/
def State.restoreUnit (s : State) (p : Nat) (r : Rest) (table : Mem) (i : Nat) (data : List Byte) (poison : Bool) : State :=
  if setHas r.written i || r.units ≤ i then s
  else
    let a := memNat table (64 * i + 32) 8 % 2 ^ 48
    let verify := (s.part p).sec.verify
    match s.xlatAll p true (piecesOf a unitBytes) with
    | (s, .fail _ _) => s.restoreEnds p Code.pageFault verify .idle
    | (s, .ok _) =>
      if poison then s.restoreEnds p Code.poison verify .idle
      else if !(s.part p).sec.verifyReplay && memRead table (64 * i) 32 != digestBytes (sha256 data) then
        s.restoreEnds p Code.poison 3 .idle
      else match s.ctxWrite p a (data.take unitBytes) false with
        | (s, .ok ()) =>
          (s.modRest p fun r => { r with written := setAdd r.written i }).modSec p fun x => { x with unitsLeft := x.unitsLeft - 1 }
        | (s, .fail status _) => s.restoreEnds p status verify .idle

/-- A data unit comes; one that overtakes the digest table waits for it. -/
def State.unitComes (s : State) (p : Nat) (r : Rest) (i : Nat) (data : List Byte) (poison : Bool) : State :=
  match r.table with
  | some t => s.restoreUnit p r t i data poison
  | none => s.modRest p fun r => { r with early := r.early ++ [(i, data, poison)] }

/-- The digest table comes: poisoned data ends the restore with POISON, and so does a table that, under digest verification, does not
match the record's TABLE_DIGEST; then the units that were early are written (R330, R332). -/
def State.restoreTable (s : State) (p : Nat) (r : Rest) (data : List Byte) (poison : Bool) : State :=
  let want := memRead r.record 48 32
  if poison then s.restoreEnds p Code.poison (s.part p).sec.verify .idle
  else if !(s.part p).sec.verifyReplay && want != digestBytes (sha256 (data.take (64 * r.units))) then
    s.restoreEnds p Code.poison 3 .idle
  else
    let t := memWrite [] 0 data
    r.early.foldl (fun s u =>
      match (s.part p).sec.rest with
      | some r => s.restoreUnit p r t u.1 u.2.1 u.2.2
      | none => s) (s.modRest p fun r => { r with table := some t, early := [] })

/-- Is a run of far memory of no use to a reader: poisoned, or past every path that remains (R247; DEDUCED, log entry 12)? -/
def State.farSpoilt (s : State) (p a n : Nat) : Bool := s.spoilt a n || !(List.range 4).any fun j => s.reachesAll (ioJunction p + j) a n

/-- The twin asks for a generation of its partition (R330): the commit record, the digest table and the data units go to it, or an empty
commit record where the slots hold none of the kind. -/
def State.sendReplica (s : State) (p : PartId) (older : Bool) : State :=
  match s.slotFor p.val older with
  | none => s.sendTwin 0 (.restoreCommit p false [])
  | some b =>
    let x := (s.part p.val).sec
    let record := s.devBytes (x.slotAt b) 128
    let units := recNat record 24 4
    let t := x.tableAt b
    let s := (s.sendTwin 0 (.restoreCommit p b record)).sendTwin 0 (.restoreTable p (s.devBytes t (64 * units)) (s.farSpoilt p t (64 * units)))
    (List.range units).foldl (fun s i =>
      let a := x.unitAt b i
      s.sendTwin i (.restoreUnit p i (s.devBytes a unitBytes) (s.farSpoilt p a unitBytes))) s

/-- A write of a generation is acknowledged on the port it came on (R325). -/
def State.ackTwin (s : State) (n : Nat) (p : PartId) : State := s.putMsg n 5 s.lineTime (.twinAck p)

/-- A securing record of the twin writes into a replica slot and is acknowledged. One that no path from the port leads to far memory is
neither written nor acknowledged (R247; DEDUCED, log entry 12). -/
def State.farRecord (s : State) (n : Nat) (p : PartId) (a : Nat) (data : List Byte) (after : State → State) : State :=
  if s.reachesAll (portJunction n) a data.length then (after (s.farWrite a data)).ackTwin n p else s

/-- A securing record comes for a partition with its extent here: into a slot's commit record, digest table or data units; data that does not
fit there is not written (R321). -/
def State.securingRecord (s : State) (n : Nat) (r : TwinRec) : State :=
  let refresh (p : PartId) (s : State) : State := s.refreshRepl p.val
  match r with
  | .clear p b => s.farRecord n p ((s.part p.val).sec.slotAt b) (List.replicate 128 0) (refresh p)
  | .commit p b data => s.farRecord n p ((s.part p.val).sec.slotAt b) (data.take 128) (refresh p)
  | .unit p b i data =>
    let x := (s.part p.val).sec
    if i < extentUnits x.sizeGib.toNat then s.farRecord n p (x.unitAt b i) (data.take unitBytes) id else s.ackTwin n p
  | .digest p b i data =>
    let x := (s.part p.val).sec
    if 64 * i + data.length ≤ unitBytes * x.tableUnits then s.farRecord n p (x.tableAt b + 64 * i) data (refresh p) else s.ackTwin n p
  | _ => s

/-- A restore record comes for a restore in progress. -/
def State.restoreRecord (s : State) (r : TwinRec) (x : Rest) : State :=
  match r with
  | .restoreCommit p b data => s.restoreCommit p.val b data
  | .restoreTable p data poison => s.restoreTable p.val x data poison
  | .restoreUnit p i data poison => s.unitComes p.val x i data poison
  | _ => s

/-- TWIN_RECORD_RECEIVE: a record comes on a twin port that is UP: a securing record writes into a replica slot of this device and is
acknowledged, a restore record into the partition that is being restored, and a request is answered from the slots, by a device without
an extent for the partition too. -/
def execTwinRecordReceive (n : PortId) (r : TwinRec) (s : State) : Host.Outcome State Fault Refusal :=
  match r with
  | .clear p .. | .unit p .. | .digest p .. | .commit p .. => .next (if s.twinUp n.val && s.takesRecords p.val then s.securingRecord n.val r else s)
  | .restoreCommit p .. | .restoreTable p .. | .restoreUnit p .. =>
    match (s.part p.val).sec.rest with
    | some x => .next (if s.twinUp n.val && s.paired then (s.modRest p.val fun y => { y with sent := s.twinDeadline }).restoreRecord r x else s)
    | none => .next s
  | .restoreRequest p older => .next (if s.twinUp n.val && s.servesTwin then s.sendReplica p older else s)

/-- A restore is requested: refused with WRONG_STATE, or begun: the twin is asked for the generation (R330). -/
def State.beginRestore (s : State) (p : Nat) (older : Bool) : State :=
  let x := s.part p
  if x.state != .ready || s.partHeld p || !s.paired || x.sec.gen.isSome || x.sec.rest.isSome then
    let s := s.modSec p fun y => { y with restoreStatus := Code.wrongState }
    s.log 4 Code.wrongState (some p) 0 0 ((s.part p).sec.verify.setWidth 32)
  else
    (s.modSec p fun y => { y with rest := some ⟨older, [], false, none, 0, [], [], s.twinDeadline⟩, phase := .restoring, verify := 0 }).sendTwin 0
      (.restoreRequest (partNo p) older)

/-- SEC_RESTORE. -/
def execSecRestore (p : PartId) (s : State) : Host.Outcome State Fault Refusal := .next (s.beginRestore p.val false)

/-- RESTORE_OLDER. -/
def execRestoreOlder (p : PartId) (s : State) : Host.Outcome State Fault Refusal := .next (s.beginRestore p.val true)

/-- RESTORE_COMPLETE: every unit is written; verified by digest the state has passed, by replay it waits for the replayed value. The twin's
current generation is the one restored, or the other when the older was asked for. -/
def execRestoreComplete (p : PartId) (s : State) : Host.Outcome State Fault Refusal :=
  match (s.part p.val).sec.rest with
  | none => .next s
  | some r =>
    if r.record = [] || r.table.isNone || r.written.length != r.units then .next s
    else
      let step : Word := BitVec.ofNat 64 (memNat r.record 16 8)
      let replay := (s.part p.val).sec.verifyReplay
      let s := s.modSec p.val fun x =>
        { x with commitStep := step, commitGen := BitVec.ofNat 64 (memNat r.record 8 8), heldB := some (r.slotB != r.older), heldKnown := true,
                 replayStep := step, replayLoss := BitVec.ofNat 32 (memNat r.record 28 4) }
      .next (if replay then s.restoreEnds p.val Code.ok 1 .awaitReplay else s.restoreEnds p.val Code.ok 2 .idle)

/-- PAIR_LOST_TIMEOUT: neither twin port of a pair whose ports have been UP has been UP for 20 ms. -/
def execPairLostTimeout (s : State) : Host.Outcome State Fault Refusal :=
  .next (if !(twinPorts.any s.twinUp) && s.twinRole && s.twin.everUp && s.twin.state != .lost then s.pairLost else s)

/-- SEC_CNT_CLR. -/
def execSecCntClr (s : State) : Host.Outcome State Fault Refusal := .next { s with twin := { s.twin with cnt := [] } }

end Sys2Proof.Machine
end

