-- ==== Sys2Proof/Machine/Memory.lean ====
section
/-!
DEFINITION. The events of the fabric and the memory: invalidation of translations (R234), evictions from L1 (R237), reads and writes at
a slice (R236, R238), reduce contributions and their retries (R240, R241), the patrol scrub (R248), and self-tests with the fencing of
what fails them (R246, R247, R334, R335).
-/
namespace Sys2Proof.Machine

/-! ## Translations and L1 -/

/-- XLAT_INVAL: XLAT_CTRL.INVAL is written with 1. -/
def execXlatInval (p : PartId) (s : State) : Host.Outcome State Fault Refusal :=
  .next (s.modPart p.val fun x => { x with inval := true })

/-- XLAT_INVAL_DONE: every cached translation is gone, and INVAL reads 0. -/
def execXlatInvalDone (p : PartId) (s : State) : Host.Outcome State Fault Refusal :=
  .next (if (s.part p.val).inval then s.modPart p.val fun x => 
    { x.noCached with inval := false } else s)

/-! ## Errors (R248) -/

/-- L1_EVICTION_WRITEBACK: the line's written bytes go to its slice, and the line leaves L1; an error found in it starts the test of
the core's SRAM bank, and one that cannot be corrected leaves each granule written poisoned, counted and recorded (R248). -/
def execL1EvictionWriteback (c : CoreId) (line : Nat) (ecc : Ecc) (s : State) : Host.Outcome State Fault Refusal :=
  let k := s.core c.val
  if k.works && k.l1.lines.contains line then
    let t := s.writeBack c.val line
    let gs := dedup ((k.l1.dirtyOf line).map fun b => b.1 / 32)
    let t := match ecc with
      | .uncorrectable => (gs.foldl (fun (t : State) g => t.eccError (32 * g) ecc (.coreBank c)) t).sramError (.coreBank c) ecc
      | _ => t.eccError (128 * line) ecc (.coreBank c)
    .next (t.dropLine c.val line)
  else .next s

/-- An error that a read of a memory stack detects at an address: in its row (R248). -/
def State.stackError (s : State) (a : Nat) (ecc : Ecc) : State :=
  let s := s.eccError a ecc (rowOf ((stackOf a).getD 0) a)
  if inFar a && ecc == .uncorrectable then s.refreshAll else s

/-- PATROL_SCRUB of a granule of a stack. -/
def execPatrolScrub (stack : Fin 20) (addr : BitVec 48) (ecc : Ecc) (s : State) : Host.Outcome State Fault Refusal :=
  let a := addr.toNat
  .next (if stackOf a = some stack.val then s.stackError a ecc else s)

/-! ## Slices (R236, R238) -/

/-- SLICE_READ: a read from a core port joins the group of its line or is served (R238); one that joins reads nothing anew. Without a port it
is a read by an agent of the device or over the mesh, of far memory too: the command whose read it is makes the access and counts it, and this
one is what the read detects, before that command (R248, R334; DESIGN CHOICE, log entry 14). -/
def execSliceRead (port : Option (Fin 32)) (addr : BitVec 48) (cycle : Nat) (ecc : Ecc) (s : State) : Host.Outcome State Fault Refusal :=
  let a := addr.toNat
  if !s.populated a then .next s
  else match sliceOf a, port with
    | some (d, sl), none => .next (s.readError d sl a ecc)
    | some (d, sl), some q =>
      if s.joins q.val a cycle then .next (s.portRead q.val a cycle)
      else .next ((s.readError d sl a ecc).portRead q.val a cycle)
    | none, none => .next (s.stackError a ecc)
    | none, some _ => .next s

/-- Bytes written at device addresses, granule by granule, where a slice serves them. -/
def State.sliceWrites (s : State) (who : Option Ranked) : List (Nat × Nat) → List Byte → State
  | [], _ => s
  | (a, n) :: t, bs =>
    let s := if (sliceOf a).isSome && s.populated a then s.devWrite who (atAddrs a (bs.take n)) false else s
    s.sliceWrites who t (bs.drop n)

/-- SLICE_WRITE. -/
def execSliceWrite (addr : BitVec 48) (data : List Byte) (s : State) : Host.Outcome State Fault Refusal :=
  .next (s.sliceWrites none (piecesOf addr.toNat data.length) data)

/-- The cores of a launch in progress (R241). -/
def State.launchSize (s : State) (l : LaunchId) : Nat :=
  match (s.part l.part).cmds.find? fun k => k.seq == l.seq with
  | some k => (match k.kind with | .launch i => i.cores.length | _ => 0)
  | none => 0

/-- How often a launch in progress has been saved (R242). -/
def State.launchSaves (s : State) (l : LaunchId) : Nat :=
  match (s.part l.part).cmds.find? fun k => k.seq == l.seq with
  | some k => (match k.kind with | .launch i => i.saves | _ => 0)
  | none => 0

/-- REDUCE_CONTRIBUTION: a write through the reduce window, ranked when a core of a DET launch makes it; a core that runs no kernel
makes none, and one made before a save of its launch is never applied (R242). -/
def execReduceContribution (src : Contributor) (addr : BitVec 48) (data : List Byte) (s : State) : Host.Outcome State Fault Refusal :=
  if inReduce addr.toNat then
    let put (who : Option Ranked) := Host.Outcome.next (s.sliceWrites who (piecesOf addr.toNat data.length) data)
    match src with
    | .core c => if (s.core c.val).kernel.isSome then put (s.rankOf c.val) else .next s
    | .ranked p seq rank origin port saves =>
      put (some ⟨⟨p.val, seq⟩, rank, s.launchSize ⟨p.val, seq⟩, origin, port, saves != s.launchSaves ⟨p.val, seq⟩⟩)
    | .unranked => put none
  else .next s

/-- Is a contribution's origin older: the earlier stamp, then the lower source port (R245)? -/
def Contribution.older (a b : Contribution) : Bool :=
  decide (a.origin.toNat < b.origin.toNat) || (a.origin == b.origin && decide (a.port < b.port))

/-- Would an offer of the contribution change anything: is it discarded, applied or held (R241)? -/
def State.wouldTake (s : State) (k : Contribution) : Bool :=
  let d := s.die (scratchDie k.cell)
  k.dead || !s.launchLive k.launch || s.sliceFenced (cellAddr k.cell) || decide (d.held.length < 2048) ||
  (tabGet Cell.free d.cells k.cell).inTurn k.launch k.rank

/-- Does a refused contribution wait behind another that the junction of its slice grants first (R245)? One that would be refused
again changes nothing and holds none up. -/
def State.behind (s : State) (d k : Nat) (x : Contribution) : Bool :=
  let l := (s.die d).refused
  (List.range l.length).any fun i =>
    match l[i]? with
    | some y => i != k && scratchSlice y.cell / 8 == scratchSlice x.cell / 8 && s.wouldTake y &&
        (y.older x || (!x.older y && decide (i < k)))
    | none => false

/-- A refused contribution is offered again when it is the oldest at its junction that can go on; refused once more, it keeps its
place. -/
def State.retryReduce (s : State) (d k : Nat) : State :=
  match (s.die d).refused[k]? with
  | none => s
  | some x =>
    if s.behind d k x then s else
    let t := s.modDie d fun y => { y with refused := listDel y.refused k }
    if t.sliceFenced (cellAddr x.cell) then t.bumpDie d 5
    else
      let u := t.offer x
      if (t.die d).refused.length < (u.die d).refused.length then s else u

/-- REDUCE_RETRY. -/
def execReduceRetry (d : DieId) (k : Nat) (s : State) : Host.Outcome State Fault Refusal := .next (s.retryReduce d.val k)

/-! ## Fencing a cluster (R247, R293) -/

/-- The mesh links of a junction. -/
def linksAt (k : Nat) : List Nat :=
  (List.range 13).filter fun l => match meshLinks[l]? with | some (a, b) => a == k || b == k | none => false

/-- The contributions held for cells of a fenced cluster's slices are dropped and counted (R247; DEDUCED, log entry 12: none of them comes into
turn any more). -/
def State.dropHeld (s : State) (k : Nat) : State :=
  let gone (x : Contribution) : Bool := scratchSlice x.cell / 8 == k % 4
  s.modDie (k / 4) fun d =>
    { d with held := d.held.filter fun x => !gone x, cnt := bump d.cnt 5 (d.held.filter gone).length }

/-- A cluster is fenced: its cores, its slices and its junction; the mesh links and the port at the junction go down. -/
def State.fenceCluster (s : State) (k : Nat) : State :=
  if setHas s.fabric.fenced k then s
  else
    let alts := s.alternates k
    let s := if s.consist.routing.isNone then s.ticks 40 else s
    let s := (clusterCores k).foldl State.fenceCore s
    let s := s.modDie (k / 4) fun d => { d with sliceFenced := d.sliceFenced ||| (0xFF#32 <<< (8 * (k % 4))) }
    let s := s.dropHeld k
    let f := s.fabric
    let s := { s with fabric := { f with
      fenced := setAdd f.fenced k
      altUse := alts.foldl setAdd f.altUse
      linkUp := (linksAt k).foldl setDel f.linkUp } }
    ((List.range 28).filter fun n => portJunction n == k).foldl State.portDown s

/-! ## Self-tests (R334, R335, Table 14.5) -/

/-- How long a test takes, in ns. -/
def testTime : TestUnit → Nat
  | .core _ => 40000
  | .coreBank _ | .clusterBank _ | .ioDie _ => 5000
  | .memRow _ _ => 2000
  | .lane _ _ => 1000000

/-- The cluster of a unit, if it lies in one. -/
def testCluster : TestUnit → Option Nat
  | .core c | .coreBank c => some (clusterOf c.val)
  | .clusterBank k => some k.val
  | _ => none

/-- The partition of a unit. -/
def State.testPart (s : State) (u : TestUnit) : Option Nat := (testCluster u).bind s.partOfCluster

/-- Does an open SELF_TEST_WINDOW admit the unit and contain its test? -/
def State.windowAdmits (s : State) (u : TestUnit) : Bool :=
  s.windows.any fun w =>
    w.action == 2 && w.arg.getLsbD (testArgBit u) && decide (w.start.toNat ≤ s.lineTime.toNat) &&
    decide (s.lineTime.toNat + testTime u ≤ w.stop.toNat) &&
    (match s.testPart u with | some p => w.partMask.getLsbD p | none => w.partMask != 0)

/-- Is the unit free for a test in a window: a core must be idle? -/
def State.testFree (s : State) (u : TestUnit) : Bool :=
  match u with
  | .core c | .coreBank c => (s.core c.val).run == .idle
  | _ => true

/-- May the pending test start now, at once or in a window, and behind no test detected earlier that may? -/
def State.mayTest (s : State) (t : SelfTest) : Bool := s.windowAdmits t.unit && s.testFree t.unit

/-- A lane under test takes its port out of use (Table 14.5); its flows use the other ports (R334). -/
def State.laneUnderTest (s : State) (u : TestUnit) : State :=
  match u with
  | .lane p _ =>
    if (s.port p.val).state == .off then s
    else (s.changePort p.val fun x => { x with state := .selfTest, width := 0, rxLock := 0, version := 0 }).divert p.val
  | _ => s

/-- SELF_TEST_RUN. -/
def execSelfTestRun (k : Nat) (s : State) : Host.Outcome State Fault Refusal :=
  match s.twin.tests[k]? with
  | none => .next s
  | some t =>
    let before := (s.twin.tests.take k).any fun u => !u.running && s.mayTest u
    if t.running || !(s.testsAtOnce t.unit t.uncorrectable || (s.mayTest t && !before)) then .next s
    else
      let s := { s with twin := { s.twin with tests := listSet s.twin.tests k { t with running := true } } }
      .next (s.laneUnderTest t.unit)

/-- INFO of a self-test's event (Table 14.7); the table names no unit for an I/O die, whose number is free. -/
def State.testInfo (s : State) (u : TestUnit) : BitVec 32 :=
  match u with
  | .core c => BitVec.ofNat 32 c.val
  | .coreBank c => BitVec.ofNat 32 (2 ^ 28 + c.val)
  | .clusterBank k => BitVec.ofNat 32 (2 * 2 ^ 28 + k.val)
  | .memRow n row => BitVec.ofNat 32 (3 * 2 ^ 28 + n.val * 2 ^ 23 + row.toNat)
  | .lane p l => BitVec.ofNat 32 (4 * 2 ^ 28 + 8 * p.val + l.val)
  | .ioDie _ => 0x20000000#32 ||| ((Config.freeWord s.freeCtr).setWidth 28).setWidth 32

/-- The unit is fenced (R335); an I/O die that fails is a failure of the device, shown on DEVICE_ERR_N (R20, R384). -/
def State.fenceUnit (s : State) (u : TestUnit) : State :=
  match u with
  | .core c | .coreBank c => s.fenceCore c.val
  | .clusterBank k => s.fenceCluster k.val
  | .memRow n row =>
    let s := s.modStack n.val fun x =>
      { x with fencedRows := setAdd x.fencedRows row.toNat
               freshDone := x.freshDone.filter fun g => Config.memRow (32 * g) != row.toNat
               freshRows := setDel x.freshRows row.toNat }
    if 16 ≤ n.val then s.refreshAll else s
  | .lane p l => s.modPort p.val fun x => { x with laneFailed := x.laneFailed ||| (1#8 <<< l.val) }
  | .ioDie _ => { s with board := { s.board with deviceErr := true } }

/-- After the last test of its lanes a port trains at the width that remains. -/
def State.laneTested (s : State) (u : TestUnit) : State :=
  match u with
  | .lane p _ =>
    let more := s.twin.tests.any fun t => t.running && (match t.unit with | .lane q _ => q == p | _ => false)
    if more || (s.port p.val).state != .selfTest then s else s.changePort p.val fun x => { x with state := .training }
  | _ => s

/-- A RESUME that waited for a core's test completes (R334). -/
def State.coreTested (s : State) (u : TestUnit) : State :=
  match u with
  | .core c | .coreBank c => match s.partOf c.val with | some p => s.resumeWaiting p | none => s
  | _ => s

/-- SELF_TEST_COMPLETE: a passed test classifies the error as transient; a failed one as lasting, and its unit is fenced. -/
def execSelfTestComplete (k : Nat) (pass : Bool) (s : State) : Host.Outcome State Fault Refusal :=
  match s.twin.tests[k]? with
  | none => .next s
  | some t =>
    if !t.running then .next s
    else
      let u := t.unit
      let part := s.testPart u
      let info := s.testInfo u
      let s := { s.tick with twin := { s.twin with tests := listDel s.twin.tests k } }
      let s := if pass then (s.log 1 Code.ok part 0 0 info).bumpTwin 5
        else ((s.fenceUnit u).log 2 Code.fenced part 0 0 info).bumpTwin 6
      .next ((s.laneTested u).coreTested u)

/-! ## Spare rows (R335) -/

/-- At a device reset or change point, a spare row takes the place of each fenced row while the stack has one left; it reads as
poisoned until written. -/
def Stack.repaired (x : Stack) : Stack :=
  let n := min x.fencedRows.length (256 - x.sparesUsed)
  let now := x.fencedRows.take n
  { x with fencedRows := x.fencedRows.drop n, sparesUsed := x.sparesUsed + n, freshRows := now.foldl setAdd x.freshRows,
           freshDone := x.freshDone.filter fun g => !now.contains (Config.memRow (32 * g)) }

/-- Spare rows take the places of fenced rows in every stack. -/
def State.repairRows (s : State) : State := (List.range 20).foldl (fun s n => s.modStack n Stack.repaired) s

end Sys2Proof.Machine
end

