-- ==== Sys2Proof/Machine/Loader.lean ====
section
/-!
DEFINITION. The consist loader and start-up (R350 to R358, R384): verifying, applying and persisting an image, change points, device
reset and the stages that follow it.
-/
namespace Sys2Proof.Machine

/-! ## The loader's requests (R351, R353, R355) -/

/-- A request on CL_CTRL: refused and counted while the loader is busy (R355). -/
def State.loaderRequest (s : State) (f : State → State) : State :=
  if s.loader.state != 0 then { s with loader := { s.loader with busyCnt := s.loader.busyCnt + 1 } } else f s

/-- A change of the loader. -/
def State.modLoader (s : State) (f : Loader → Loader) : State := { s with loader := f s.loader }

/-- An operation of the loader ends: idle, with its status. -/
def State.loaderEnds (s : State) (op : BitVec 4) (status : Code) : State :=
  s.modLoader fun l => { l with state := 0, lastOp := op, lastStatus := status }

/-- CL_CYCLE after check 5 (Table 15.12). -/
def Loader.cycled (l : Loader) (r : Checked) : Loader :=
  match r.cycle with
  | none => l
  | some none => { l with cycleValid := false, cycleJunction := 0, cycleDest := 0 }
  | some (some (j, k)) => { l with cycleValid := true, cycleJunction := BitVec.ofNat 6 j, cycleDest := BitVec.ofNat 6 k }

/-- The checks on the staged image, with CL_CYCLE recorded. -/
def State.checkStaged (s : State) : State × Code :=
  let r := s.checkImage s.loader.staging (some s.loader.stageLen.toNat)
  (s.modLoader (·.cycled r), r.status)

/-- CL_VERIFY: the loader is checking until CONSIST_CHECKS_COMPLETE. -/
def execClVerify (s : State) : Host.Outcome State Fault Refusal :=
  .next (s.loaderRequest fun s => s.modLoader fun l => { l with state := 1, lastOp := 2 })

/-- CONSIST_CHECKS_COMPLETE. -/
def execConsistChecksComplete (s : State) : Host.Outcome State Fault Refusal :=
  if s.loader.state = 1 then
    let (s, status) := s.checkStaged
    .next (s.loaderEnds 2 status)
  else .next s

/-! ## Affected partitions (R353) -/

/-- The dies of a set of clusters. -/
def diesOf (clusters : BitVec 32) : List Nat :=
  (List.range 8).filter fun d => (List.range 4).any fun i => clusters.getLsbD (4 * d + i)

/-- Does a change reach every partition? -/
def Consist.allAffected (a b : Consist) : Bool :=
  a.deviceId != b.deviceId || a.domainId != b.domainId || a.twinDev != b.twinDev || a.shape != b.shape ||
  a.lifetimeUs != b.lifetimeUs || a.routing != b.routing || a.roles != b.roles || a.spares != b.spares ||
  a.masterDev != b.masterDev || a.backupDev != b.backupDev || a.leadUs != b.leadUs || a.fibreMax != b.fibreMax ||
  a.lines != b.lines || a.threshold != b.threshold

/-- Is partition p affected? -/
def Consist.affects (a b : Consist) (p : Nat) : Bool :=
  let ca := tabGet 0 a.clusters p
  let cb := tabGet 0 b.clusters p
  let mine (x : Consist) : List Policy := x.policy.filter fun e => e.target.toNat == p
  a.allAffected b || ca != cb || tabGet false a.hosts p != tabGet false b.hosts p ||
  tabGet (0, 0, 0) a.extents p != tabGet (0, 0, 0) b.extents p ||
  a.grants.filter (fun g => g.part == p) != b.grants.filter (fun g => g.part == p) ||
  mine a != mine b || tabGet 0 a.debugMax p != tabGet 0 b.debugMax p ||
  (diesOf (ca ||| cb)).any fun d =>
    a.network.getLsbD d != b.network.getLsbD d ||
    (List.range 32).any fun i => tabGet 0 a.slices (32 * d + i) != tabGet 0 b.slices (32 * d + i)

/-- The partitions that an image affects. -/
def Consist.affected (a b : Consist) : BitVec 16 :=
  (List.range 16).foldl (fun m p => if a.affects b p then m ||| (1#16 <<< p) else m) 0

/-- Is a partition quiesced? A command whose record waits for a slot has not completed (R189). -/
def Part.quiesced (x : Part) : Bool :=
  (x.state == .absent || (x.state == .idle && x.parked.isNone)) && x.cmds.isEmpty && x.due.all Due.isEvent && x.sec.gen.isNone && x.sec.rest.isNone

/-- CL_APPLY: the checks, and the change point begins; the affected partitions are treated as ABSENT until APPLY_COMPLETE (R355),
and hold D0 from now on (R364; DEDUCED, log entry 37). -/
def execClApply (s : State) : Host.Outcome State Fault Refusal :=
  .next (s.loaderRequest fun s =>
    let (s, status) := s.checkStaged
    if status != Code.ok then s.loaderEnds 3 status
    else
      let c := takeImage s.fuses s.loader.staging
      let m := s.consist.affected c
      if (maskParts m).all fun p => (s.part p).quiesced then
        let levels := s.security.levels.filter fun l => 16 ≤ l.1 || !m.getLsbD l.1
        { s with security := { s.security with levels := levels } }.modLoader fun l =>
          { l with state := 2, lastOp := 3, applying := some c, affected := m }
      else s.loaderEnds 3 Code.wrongState)

/-! ## Application (R348, R354, Table 15.8) -/

/-- An affected partition takes its place in the new image: ABSENT, or IDLE, or RESETTING while a wipe of it goes on (R366). -/
def Part.applied (x : Part) (clusters : BitVec 32) (hp1 : Bool) (own : Word) : Part :=
  let x : Part := { x with clusters := clusters, host := if hp1 then 1 else 0, tlb := [], parked := none, bound := none }
  if clusters = 0 then { x.disable own with state := .absent } else { x with state := if x.wiping then .resetting else .idle }

/-- The securing page's fields that the image gives. What the twin's slots hold of a changed extent is unknown (R325). -/
def SecPart.extent (x : SecPart) (e : BitVec 9 × BitVec 9 × BitVec 8) : SecPart :=
  let same := x.sizeGib == e.1 && x.baseGib == e.2.1
  { x with sizeGib := e.1, baseGib := e.2.1, twinShare := e.2.2,
           heldB := if same then x.heldB else none, heldKnown := same && x.heldKnown }

/-- The partitions under an image. -/
def State.applyParts (s : State) (c : Consist) (affected : BitVec 16) : State :=
  (List.range 16).foldl (fun s p =>
    if affected.getLsbD p then
      s.modPart p fun x => { x.applied (tabGet 0 c.clusters p) (tabGet false c.hosts p) s.lt.own with
        sec := x.sec.extent (tabGet (0, 0, 0) c.extents p) }
    else s) s

/-- The dies' modes and slice splits; a die whose split changes keeps no cached line. -/
def State.applyDies (s : State) (c : Consist) : State :=
  (List.range 8).foldl (fun s d =>
    let split : Tab (BitVec 4) :=
      ((List.range 32).map fun i => (i, tabGet (0#4) c.slices (32 * d + i))).filter fun x => x.2 != 0
    s.modDie d fun x => { x with flagMode := c.network.getLsbD d, scratch512k := split,
                                 cached := if split = x.scratch512k then x.cached else [], groups := [] }) s

/-- The logical number that the image gives a core (R348). -/
def State.imageNumber (s : State) (c : Nat) : Option (BitVec 8) := (listFind (· == c) s.numbering).map (BitVec.ofNat 8)

/-- The cores of a cluster under the applied image: fences, numbers and ports (R235, R348). -/
def State.applyCluster (s : State) (k : Nat) : State :=
  let cs := clusterCores k
  let s := (cs.filter fun c => setHas s.consist.spares c).foldl State.fenceCore s
  let nums := s.numbering
  let s := cs.foldl (fun s c => s.modCore c fun x =>
    let n := (listFind (· == c) nums).map (BitVec.ofNat 8)
    if x.works then { x with logical := n, former := none } else { x with logical := none, former := n }) s
  let mine := nums.filter fun c => clusterOf c == k
  let use := mine.filter s.fuses.spare.getLsbD
  let s := { s with spareUse := use.foldl setAdd (s.spareUse.filter fun c => clusterOf c != k) }
  let ports : Tab (Option (Nat × Bool)) :=
    ((List.range mine.length).zip mine).map fun x => (8 * (k % 4) + x.1, some (x.2, !(s.core x.2).works))
  s.modDie (k / 4) fun d =>
    { d with ports := ports.foldl (fun t x => tabPut t x.1 x.2) (d.ports.filter fun x => x.1 / 8 != k % 4) }

/-- The clusters whose numbers are given anew: of every affected partition, and all of them when all are affected. -/
def Consist.renumbered (a b : Consist) (affected : BitVec 16) : List Nat :=
  (List.range 32).filter fun k =>
    a.allAffected b || (maskParts affected).any fun p =>
      (tabGet 0 a.clusters p).getLsbD k || (tabGet 0 b.clusters p).getLsbD k

/-- A port under the applied image: one whose role changes trains in the new role, and a FABRIC or TWIN port retrains when IDENTITY
changes (R277); a FABRIC port of a dimension of extent 1 and a port at a fenced junction are DOWN. `boot` is start-up, which trains every
port for the first time. -/
def State.applyPort (s : State) (role : BitVec 4) (identity boot : Bool) (n : Nat) : State :=
  let stays (s : State) : Bool := s.portIdle n || setHas s.fabric.fenced (portJunction n)
  if (s.port n).role = role then
    if !(identity && (role = 1 || role = 2)) then s
    else if stays s then s.portDown n
    else s.retrain n
  else
    let s := (s.portOut n .off).modPort n fun p => { p with role := role }
    if role = 0 then s
    else if stays s then s.modPort n fun p => { p with state := .down }
    else s.modPort n fun p => { p with state := .training, cnt := if boot then p.cnt else bump p.cnt 4 1 }

/-- H of R315 and the distribution bound. -/
def hopsMax (shape : Nat × Nat × Nat) : Nat := shape.1 / 2 + shape.2.1 / 2 + shape.2.2 / 2
def boundOf (shape : Nat × Nat × Nat) (fibre : Nat) : Nat := 2000 + hopsMax shape * (1000 + fibre)

/-- LT_CFG and LT_BOUND. -/
def LineTime.config (lt : LineTime) (c : Consist) : LineTime :=
  { lt with masterDev := c.masterDev, backupDev := c.backupDev, leadUs := c.leadUs, fibreMax := c.fibreMax,
            hopsMax := BitVec.ofNat 8 (Machine.hopsMax c.shape), boundNs := BitVec.ofNat 32 (boundOf c.shape c.fibreMax.toNat) }

/-- An entry of the image replaces its number, and waits to be armed. -/
def TtEntry.ofImage (t : TtImage) : TtEntry :=
  { TtEntry.reset with time := t.time, period := t.period, duration := t.duration, arg := t.arg, partMask := t.partMask,
                       action := t.action, fromImage := true }

/-- Timetable entries of the image, and those waiting armed when Line Time has locked before (R305, R311). -/
def State.applyTimetable (s : State) (c : Consist) : State :=
  c.timetable.foldl (fun s t => s.modTt t.entry.toNat fun _ => TtEntry.ofImage t) s

/-- The entries of the image are armed at once when the first lock has been. -/
def State.armImage (s : State) : State :=
  if s.lt.everLocked then ((List.range 256).filter fun e => (s.ttEntry e).fromImage).foldl
      (fun s e => (s.modTt e fun x => { x with fromImage := false }).arm e) s else s

/-- Debug ceilings (Table 16.9), and D0 for a partition that is ABSENT; in Operational no level exceeds its new ceiling (R364). Cores that a
lower level lets go on are in no affected partition, which is quiesced (R353). -/
def State.applyDebug (s : State) (c : Consist) : State :=
  let x := s.security
  let keep := x.levels.filter fun l => 16 ≤ l.1 || (s.part l.1).state != .absent
  let caps := tabPut c.debugMax 16 1
  let under (l : Nat × BitVec 2) : BitVec 2 :=
    if x.lifecycle == .operational && decide ((tabGet 0 caps l.1).toNat < l.2.toNat) then tabGet 0 caps l.1 else l.2
  { s with security := { x with maxLevels := caps, levels := keep.map fun l => (l.1, under l) } }

/-- An image takes effect; `affected` are the partitions it affects, `boot` whether this is start-up. -/
def State.applyImage (s : State) (c : Consist) (affected : BitVec 16) (boot : Bool) : State :=
  let old := s.consist
  let identity := boot || old.deviceId != c.deviceId || old.domainId != c.domainId || old.twinDev != c.twinDev ||
    old.shape != c.shape || old.lifetimeUs != c.lifetimeUs
  let time := old.masterDev != c.masterDev || old.backupDev != c.backupDev || old.leadUs != c.leadUs || old.fibreMax != c.fibreMax
  let again := old.renumbered c affected
  let s := { s with consist := c }
  let s := (s.rerouted.applyParts c affected).applyDies c
  let s := (if boot then List.range 32 else again).foldl State.applyCluster s
  let s := if boot then s else s.boundary ((List.range 32).foldl (fun m k => if again.contains k then m ||| (1#32 <<< k) else m) 0)
  let s := s.repairRows
  let s := { s with twin := { s.twin with dev := c.twinDev, threshold := c.threshold,
                                          everUp := s.twin.everUp && !identity } }
  let s := if old.twinDev != c.twinDev then s.heldUnknown else s
  let s := (List.range 28).foldl (fun s n => s.applyPort (tabGet 0 c.roles n) identity boot n) s
  let s := s.pairChanged s.twinRate
  let s := { s with lt := s.lt.config c }
  let s := s.applyTimetable c
  let s := if identity || time then s.ltRestart else s
  let s := (s.armImage).applyDebug c
  s.refreshAll

/-- APPLY_COMPLETE. -/
def execApplyComplete (s : State) : Host.Outcome State Fault Refusal :=
  match s.loader.applying with
  | none => .next s
  | some c =>
    let m := s.loader.affected
    let s := s.modLoader fun l => { l with applying := none, affected := 0, appliedFrom := 3 }
    .next ((s.applyImage c m false).loaderEnds 3 Code.ok)

/-! ## Flash slots (R350, R351) -/

/-- Is a slot valid: its record's MAGIC is correct, and its DIGEST the SHA-384 of its first IMAGE_BYTES bytes (R350)? -/
def FlashSlot.valid (x : FlashSlot) : Bool :=
  x.magic == 0x544F4C53#32 && x.digest == sha384 (memRead x.image 0 x.bytes.toNat)

/-- The slot that PERSIST writes: the one that does not hold the higher SLOT_GEN, A when neither is valid; true for B. -/
def Loader.persistTarget (l : Loader) : Bool :=
  if l.slotA.valid && l.slotB.valid then decide (l.slotB.gen.toNat < l.slotA.gen.toNat) else l.slotA.valid

/-- Replace a slot. -/
def Loader.putSlot (l : Loader) (b : Bool) (x : FlashSlot) : Loader := if b then { l with slotB := x } else { l with slotA := x }

/-- One above the highest valid SLOT_GEN, 1 when no slot is valid. -/
def Loader.nextGen (l : Loader) : BitVec 63 :=
  let g (x : FlashSlot) : Nat := if x.valid then x.gen.toNat else 0
  BitVec.ofNat 63 (max (g l.slotA) (g l.slotB) + 1)

/-- The bytes of the staged image. -/
def stagedImage (l : Loader) : Mem := memWrite [] 0 (memRead l.staging 0 (imageBytes l.staging))

/-- CL_PERSIST: checks 1 to 5; the target slot's record is overwritten with zero bytes, and the image is written. -/
def execClPersist (s : State) : Host.Outcome State Fault Refusal :=
  .next (s.loaderRequest fun s =>
    let (s, status) := s.checkStaged
    if status != Code.ok then s.loaderEnds 4 status
    else s.modLoader fun l =>
      let b := l.persistTarget
      { l.putSlot b { FlashSlot.empty with image := stagedImage l } with state := 3, lastOp := 4, persistB := b })

/-- PERSIST_COMPLETE: after a good read-back the record is written; otherwise it stays zero. -/
def execPersistComplete (readBackOk : Bool) (s : State) : Host.Outcome State Fault Refusal :=
  if s.loader.state != 3 then .next s
  else if !readBackOk then .next (s.loaderEnds 4 Code.poison)
  else
    let l := s.loader
    let n := imageBytes l.staging
    let x : FlashSlot := ⟨0x544F4C53#32, BitVec.ofNat 32 n, l.nextGen, sha384 (memRead l.staging 0 n), stagedImage l⟩
    .next ((s.modLoader fun l => l.putSlot l.persistB x).loaderEnds 4 Code.ok)

/-! ## Device reset (R356, R357, R384) -/

/-- What a stack keeps through a device reset: its rows; spares take the places of the fenced ones (R335). -/
def Stack.afterReset (x : Stack) : Stack := { x with ce := 0, ue := 0, valid := false, lastUe := 0 }.repaired

/-- What the security controller keeps in fuses and flash. -/
def Security.afterReset (x : Security) : Security :=
  { Security.reset with lifecycle := x.lifecycle, diagLeft := x.diagLeft, keys := x.keys, pub := x.pub, hasAttKey := x.hasAttKey }

/-- What the power unit keeps in flash; a device that is Off stays so until RESET_N rises (R369). -/
def Power.afterReset (x : Power) (own : Word) : Power :=
  let x := x.settled own
  let st : PwrState := if x.state == .off then .off else .run
  { Power.reset with tripped := x.tripped, hours := x.hours, hourNs := x.hourNs, planAt := x.planAt, eom := x.eom, state := st, target := st }

/-- What the loader keeps: the flash slots. -/
def Loader.afterReset (l : Loader) : Loader := { Loader.reset with slotA := l.slotA, slotB := l.slotB }

/-- Device-local addresses of near memory and of far memory. -/
def keepFar (a : Nat) : Bool := inFar a
def keepNearFar (a : Nat) : Bool := inNear a || inFar a

/-- The device after a reset. With the supply held, far memory keeps its contents and poison, and near memory keeps its own until it is
written to zero; the bytes of slice scratch read 0 (log entry 3). -/
def State.deviceReset (s : State) (supplyLost : Bool) : State :=
  let keep (a : Nat) : Bool := !supplyLost && keepNearFar a
  { State.reset with
    fuses := s.fuses
    start := { resetLow := true, fuses := false, nearZero := false, farZero := !supplyLost, applied := false, firstPlan := false,
               detects := s.start.detects }
    mem := s.mem.filter fun c => keep c.1
    poison := s.poison.filter fun g => keep (32 * g)
    sealed := if supplyLost then [] else s.sealed
    memStacks := s.memStacks.map fun x => (x.1, x.2.afterReset)
    loader := s.loader.afterReset
    security := s.security.afterReset
    power := s.power.afterReset s.lt.own
    board := { Board.reset with pwrbrkLow := s.board.pwrbrkLow, vaux12 := s.board.vaux12, mgmtId := s.board.mgmtId, ibis := s.board.ibis }
    intrs := s.intrs
    hostOut0 := s.hostOut0
    hostOut1 := s.hostOut1
    freeCtr := s.freeCtr
    pending := s.pending }

/-- Does the next reset follow a loss of the supply: the device is Off, or far memory was still being written to zero (R369)? -/
def State.lostSupply (s : State) : Bool := s.power.state == .off || !s.start.farZero

/-- A fall of RESET_N ends THERMTRIP_N and DEVICE_ERR_N (R384). -/
def State.pinsClear (s : State) : State := { s with board := { s.board with thermtrip := false, deviceErr := false } }

/-- RESET_N_ASSERT: a low level of 100 µs or more resets the device; a shorter one may or may not (R384). -/
def execResetNAssert (lowUs : Nat) (s : State) : Host.Outcome State Fault Refusal :=
  let s := s.pinsClear
  if 100 ≤ lowUs then .next (s.deviceReset s.lostSupply)
  else if Config.freeBool s.freeCtr then .next (s.tick.deviceReset s.lostSupply)
  else .next s.tick

/-- RESET_N_RISE: start-up begins. The board lets RESET_N rise only with both supplies within limits (R356). -/
def execResetNRise (s : State) : Host.Outcome State Fault Refusal :=
  if s.start.resetLow then
    .next { s with start := { s.start with resetLow := false }
                   board := { s.board with vaux12 := true }
                   power := { s.power.settled s.lt.own with state := .run, target := .run } }
  else .next s

/-- The role that the fuse map gives a core. -/
def Fuses.role (f : Fuses) (c : Nat) : Role :=
  if f.enabled.getLsbD c then .enabled else if f.spare.getLsbD c then .spare else .disabled

/-- FUSES_LOADED: stage 1 ends; the capability registers are valid, I3C answers, the own count starts at 0 and the mesh links carry
traffic. It does not begin in Off, which only a rise of RESET_N ends (R369, R382). -/
def execFusesLoaded (s : State) : Host.Outcome State Fault Refusal :=
  if s.start.resetLow || s.start.fuses || s.power.state == .off || !s.board.vaux12 then .next s
  else
    let s := { s with start := { s.start with fuses := true, detects := true }
                      board := { s.board with mgmtReady := true }
                      lt := { s.lt with own := 0, ownRuns := true }
                      fabric := { s.fabric with linkUp := List.range 13 } }
    .next ((List.range 288).foldl (fun s c => s.modCore c fun k => { k with role := s.fuses.role c }) s)

/-- Memory of a window written to zero with valid ECC. -/
def State.zeroWindow (s : State) (inWin : Nat → Bool) (inStack : Nat → Bool) : State :=
  { s with
    mem := s.mem.filter fun c => !inWin c.1
    poison := s.poison.filter fun g => !inWin (32 * g)
    memStacks := s.memStacks.map fun x => if inStack x.1 then (x.1, { x.2 with freshRows := [], freshDone := [] }) else x }

/-- NEAR_MEMORY_ZERO_DONE: stage 2 ends. -/
def execNearMemoryZeroDone (s : State) : Host.Outcome State Fault Refusal :=
  if !s.start.fuses || s.start.nearZero then .next s
  else
    let s := s.zeroWindow inNear fun n => decide (n < 16)
    .next { s with start := { s.start with nearZero := true } }

/-- FAR_MEMORY_ZERO_DONE: stage 3 ends, after a loss of the supply; the pair may form (R357, R358). -/
def execFarMemoryZeroDone (s : State) : Host.Outcome State Fault Refusal :=
  if !s.start.fuses || s.start.farZero then .next s
  else
    let s := s.zeroWindow inFar fun n => decide (16 ≤ n)
    .next (({ s with start := { s.start with farZero := true } }.pairChanged s.twinRate).refreshAll.tellTwin)

/-- The valid slots in descending SLOT_GEN, with CL_STATUS.APPLIED_FROM of each. -/
def Loader.bootSlots (l : Loader) : List (FlashSlot × BitVec 2) :=
  let a := [(l.slotA, (1 : BitVec 2))].filter fun x => x.1.valid
  let b := [(l.slotB, (2 : BitVec 2))].filter fun x => x.1.valid
  if l.slotA.gen.toNat < l.slotB.gen.toNat then b ++ a else a ++ b

/-- The slots tried in turn: the first that passes, and the status of the last one checked. -/
def State.tryBoot (s : State) : List (FlashSlot × BitVec 2) → Code → State × Option (Mem × BitVec 2) × Code
  | [], c => (s, none, c)
  | x :: t, _ =>
    let r := s.checkImage x.1.image none
    let s := s.modLoader (·.cycled r)
    if r.status = Code.ok then (s, some (x.1.image, x.2), Code.ok) else s.tryBoot t r.status

/-- BOOT_IMAGE_APPLY: stages 4 and 5; the best valid slot that passes, or the boot configuration, is applied, and the first margin plan
starts (R352). -/
def execBootImageApply (s : State) : Host.Outcome State Fault Refusal :=
  if !s.start.fuses || s.start.applied then .next s
  else
    let slots := s.loader.bootSlots
    let (s, found, status) := s.tryBoot slots Code.ok
    let (c, from_) : Consist × BitVec 2 := match found with
      | some (m, f) => (takeImage s.fuses m, f)
      | none => (Consist.boot, 0)
    let first := match found, slots with
      | some (_, f), x :: _ => f == x.2
      | _, _ => false
    let s := s.modLoader fun l => { l with appliedFrom := from_, bootFallback := !first }
    let s := { s with start := { s.start with applied := true }, power := { s.power with planning := true, cause := 0 } }
    .next ((s.applyImage c 0xFFFF#16 true).loaderEnds 1 status)

end Sys2Proof.Machine
end

