-- ==== Sys2Proof/Machine/Power.lean ====
section
/-!
DEFINITION. Power states, ageing, power capping and temperature (R367 to R377, R382, R384): steps between states with their conditions
and Table 16.7, what each state loses, margin plans, the withheld fraction, trips and failures of a supply.
-/
namespace Sys2Proof.Machine

/-! ## Table 16.5 and Table 16.7 -/

/-- The code of a power state. -/
def PwrState.code : PwrState → Nat
  | .run => 0
  | .idle => 1
  | .drowse => 2
  | .hold => 3
  | .off => 4

/-- The power state of a code; the others are reserved. -/
def pwrOf (t : Nat) : Option PwrState :=
  match t with
  | 0 => some .run
  | 1 => some .idle
  | 2 => some .drowse
  | 3 => some .hold
  | 4 => some .off
  | _ => none

/-- What Table 16.7 gives a combination: OK, or the code that refuses it. The cells marked L are reached by lowering every level. -/
def combination (l : Lifecycle) (level : Nat) (p : PwrState) : Code :=
  match l with
  | .retired =>
    if 2 ≤ level then Code.securityDenied
    else match p with
      | .idle | .off => Code.ok
      | _ => Code.securityDenied
  | _ =>
    if (level = 2 && p == .hold) || (level = 3 && (p == .drowse || p == .hold)) then Code.wrongState else Code.ok

/-- The debug level of a scope. -/
def State.levelOf (s : State) (scope : Nat) : BitVec 2 := tabGet 0 s.security.levels scope

/-- The debug level of the device: the highest of its scopes (R370). -/
def State.debugLevel (s : State) : Nat := (List.range 17).foldl (fun m k => max m (s.levelOf k).toNat) 0

/-! ## Steps (R368, Table 16.6) -/

/-- A state of a partition in which nothing of it runs. -/
def PState.still : PState → Bool
  | .running | .faulted | .quiescing | .resetting => false
  | _ => true

/-- The conditions for a step to a lower state (Table 16.6). -/
def State.stepAllowed (s : State) (t : PwrState) : Bool :=
  let parts := (List.range 16).map s.part
  parts.all (fun x => x.state.still) &&
  (t == .idle || parts.all fun x => x.sec.gen.isNone && x.sec.rest.isNone) &&
  (t == .idle || t == .drowse || parts.all fun x => x.state == .absent || x.state == .idle)

/-- Does R340 apply: the pair is PAIRED or DEGRADED, and a slot holds a committed generation of the twin? -/
def State.keepsReplica (s : State) : Bool :=
  (s.twin.state == .paired || s.twin.state == .degraded) &&
  (List.range 16).any fun p => (s.part p).sec.replAGen != 0 || (s.part p).sec.replBGen != 0

/-- The state that a step reaches: Off stops at Hold where R340 applies. -/
def State.stepTarget (s : State) (t : PwrState) : PwrState := if t = .off && s.keepsReplica then .hold else t

/-- The outcome of a step request. A step to a lower state needs its conditions; every step needs Table 16.7. -/
def State.judgeStep (s : State) (t : PwrState) : Code :=
  let now := s.power.target
  if t = now then Code.ok
  else if now.code < t.code && !s.stepAllowed t then Code.wrongState
  else combination s.security.lifecycle s.debugLevel t

/-- A step request: refused and counted, or taken; the state is entered at POWER_STEP_COMPLETE. -/
def State.requestStep (s : State) (code : Nat) : State × Code :=
  match pwrOf code with
  | none => ((s.modPower fun x => { x with lastStatus := Code.wrongState }).bumpPwr 4, Code.wrongState)
  | some t =>
    let goal := s.stepTarget t
    let c := s.judgeStep goal
    if c != Code.ok then ((s.modPower fun x => { x with lastStatus := c }).bumpPwr 4, c)
    else
      let s := if goal != t then s.yielded 2 4 none none else s
      (s.modPower fun x => { x with lastStatus := Code.ok, target := goal }, Code.ok)

/-- A step that has been taken: it has completed when the device is in that state already. The interrupt of a step that the board requested
comes when the step in progress ends, whoever requested its present target. -/
def State.stepSettled (s : State) (byI3c : Bool) : State :=
  let s := s.modPower fun x => { x with byI3c := x.byI3c || byI3c }
  if s.power.target = s.power.state then s.setPower s.power.target else s

/-- A request on PWR_CTRL, by the host or over I3C. -/
def State.powerGo (s : State) (byI3c : Bool) : State :=
  let (s, c) := s.requestStep s.power.ctrlTarget.toNat
  if c = Code.ok then s.stepSettled byI3c
  else if byI3c then s.stepIbi else s

/-- PWR_GO. -/
def execPwrGo (s : State) : Host.Outcome State Fault Refusal :=
  .next (if s.power.state = .off then s else s.powerGo false)

/-- The step of a timetable entry to ARG bits 3:0, and its outcome. -/
def State.timedStep (s : State) (e : Nat) : State × Code :=
  let (s, c) := s.requestStep ((s.ttEntry e).arg.toNat % 16)
  (if c = Code.ok then s.stepSettled false else s, c)

/-- POWER_STEP: the staggered instant of a timetable entry: the entry fires (R313, R314). -/
def execPowerStep (e : Fin 256) (s : State) : Host.Outcome State Fault Refusal :=
  .next (if s.mayAct e.val && (s.ttEntry e.val).stepDue.isSome then s.fireBy e.val (·.timedStep e.val) else s)

/-! ## Entering and leaving a state (Table 16.5) -/

/-- What Drowse loses: tile registers, accumulators and L1, whose dirty lines are written back first; a fenced core's block reads as it
did (R30). -/
def State.loseCores (s : State) : State :=
  ((List.range 288).filter fun c => (s.core c).works).foldl (fun s c =>
    (s.flush c).modCore c fun k =>
      { k with tiles := [], powered := 0, waking := 0, l1 := L1.empty,
               mx := { k.mx with acc := [], terms := [], bufs := [] } }) s

/-- The state of a die's slices is lost: cache parts, cells, contributions. -/
def Die.lost (d : Die) : Die := { d with cached := [], groups := [], cells := [], held := [], refused := [] }

/-- What Hold loses: near memory, slices and translations. Near memory reads as it will when it is written to zero. -/
def State.loseMemory (s : State) : State :=
  let s := s.zeroWindow (fun a => inNear a || inScratch a) fun n => decide (n < 16)
  let s := { s with dies := s.dies.map fun x => (x.1, x.2.lost) }
  (List.range 16).foldl (fun s p => s.modPart p fun x => { x with tlb := [], parked := x.parked.map fun k => { k with tlb := [] } }) s

/-- The device is Off: everything but fuses, flash and the management complex is lost (R367, R377, R382). -/
def State.enterOff (s : State) (trip : Bool) : State :=
  let o := s.deviceReset true
  { o with
    start := { o.start with resetLow := s.start.resetLow, detects := false }
    power := { o.power with state := .off, target := .off, tripped := trip }
    board := { s.board with thermtrip := s.board.thermtrip || trip, laserPower := [] } }

/-- The target is reached. On leaving Hold near memory is written to zero; a plan that fell due in Hold starts in Run. -/
def State.enter (s : State) (t : PwrState) : State :=
  let old := s.power.state
  let s := if (t = .drowse || t = .hold) && old.code < 2 then s.loseCores else s
  let s := if t = .hold || old = .hold then s.loseMemory else s
  if t = .run then s.returnsToRun else s.setPower t

/-- POWER_STEP_COMPLETE. -/
def execPowerStepComplete (s : State) : Host.Outcome State Fault Refusal :=
  .next (if s.power.target = s.power.state then s
    else if s.power.target = .off then if s.power.byI3c then (s.enterOff false).stepIbi else s.enterOff false
    else s.enter s.power.target)

/-! ## Margin plans (R371 to R374) -/

/-- MARGIN_PLAN_START: AGE_CTRL.PLAN is written with 1. -/
def execMarginPlanStart (s : State) : Host.Outcome State Fault Refusal := .next (if s.power.state = .off then s else s.startPlan 2)

/-- Nanoseconds in Run, Idle or Drowse until the next plan falls due. -/
def State.toHoursPlan (s : State) : Nat := s.power.planAt.toNat * hourLen - (s.power.hours.toNat * hourLen + s.power.spent s.lt.own)

/-- AGE_HOURS_PLAN: time passes until the next full 1,000 hours have been spent in Run, Idle or Drowse; a plan falls due. -/
def execAgeHoursPlan (s : State) : Host.Outcome State Fault Refusal :=
  .next (if s.start.fuses && s.power.state.counts then
    ((s.pass s.toHoursPlan).modPower fun x => { x with planAt := x.planAt + 1000 }).startPlan 1 else s)

/-- The lowest step of VCORE, from 700 mV in steps of 5 mV, that is not below a voltage. -/
def vcoreStep (mv : Nat) : Nat := max 700 ((mv + 4) / 5 * 5)

/-- The step of VCORE at a clock, when one up to VMAX exists. -/
def stepAt (table : List Slack) (f : Nat) : Option Nat :=
  match table.find? fun x => x.mhz == f with
  | some x => if vcoreStep x.mv ≤ 850 then some (vcoreStep x.mv) else none
  | none => none

/-- The clocks from `top` down to 720 MHz. -/
def clocksFrom (top : Nat) : List Nat := (List.range ((top - 720) / 10 + 1)).map fun i => top - 10 * i

/-- The choice of a plan (R372): the clock and VCORE, or none when EOM is to be set. -/
def planChoice (table : List Slack) (top : Nat) : Option (Nat × Nat) :=
  (clocksFrom top).findSome? fun f => (stepAt table f).map fun v => (f, v)

/-- The clock that a plan tries first. -/
def Power.planTop (x : Power) : Nat := if x.eom then 720 else if x.cause = 0 then 800 else x.mhz.toNat

/-- The capability level (R284, R374). -/
def Power.level (x : Power) : BitVec 8 := BitVec.ofNat 8 ((x.mhz.toNat - 720) / 10) ||| (if x.eom then 0x80#8 else 0)

/-- INFO of an entry of KIND 0x7 (R373). -/
def clockInfo (mhz mv : Nat) : BitVec 32 := BitVec.ofNat 32 (mhz + 65536 * mv)

/-- The slack of each die's worst monitor, as a plan found it: monitor `mon` of die `die` has the worst slack of all, and the other dies'
are free but no worse. -/
def dieSlacks (die : Fin 8) (mon : BitVec 6) (worst : BitVec 16) (n : Nat) : Tab (BitVec 22) :=
  (List.range 8).map fun d => (d,
    if d = die.val then mon ++ worst
    else (Config.freeWord (n + d)).setWidth 6 ++
      BitVec.ofInt 16 (worst.toInt + (Config.freeNat (n + d) % (32768 - worst.toInt).toNat : Nat)))

/-- The issue pause of a clock change, on the cores that run: a free number of cycles (R373, Table 2.3). -/
def State.pauseCores (s : State) : State :=
  ((List.range 288).filter fun c => (s.core c).works && (s.core c).run == .running).foldl (fun s c =>
    (s.modCore c fun k => { k with stall := bump k.stall 9 (Config.freeNat s.freeCtr) }).tick) s

/-- The capability level is sent on VC 4 to the peer of every optical port that is UP (R284, R373, Table 12.5); a HOST port's peer has no
field for it. -/
def State.tellLevel (s : State) : State :=
  ((List.range 28).filter fun n => (s.port n).state == .up && (s.port n).role != 3).foldl
    (fun s n => s.putMsg n 4 s.lineTime (.level s.power.level)) s

/-- The plan's clock and voltage are applied: `first` says that this plan sets EOM. -/
def State.applyClock (s : State) (mhz mv : Nat) (first : Bool) : State :=
  let changed := s.power.mhz.toNat != mhz
  let s := s.modPower fun x => { x with mhz := BitVec.ofNat 16 mhz, vcoreMv := BitVec.ofNat 12 mv }
  let s := if changed then s.pauseCores.bumpPwr 1 else s
  let s := if changed || first then s.tellLevel else s
  if changed || first then s.log 7 (if first then Code.endOfMargin else Code.ok) none 0 0 (clockInfo mhz mv) else s

/-- MARGIN_PLAN_COMPLETE. -/
def execMarginPlanComplete (table : List Slack) (die : Fin 8) (mon : BitVec 6) (worst : BitVec 16) (s : State) : Host.Outcome State Fault Refusal :=
  if !s.power.planning then .next s
  else
    let choice := planChoice table s.power.planTop
    let first := choice.isNone && !s.power.eom
    let s := { s with start := { s.start with firstPlan := s.start.firstPlan || s.power.cause == 0 } }
    let s := (s.modPower fun x =>
      { x with planning := false, slack := worst, dieSlack := dieSlacks die mon worst s.freeCtr, eom := x.eom || choice.isNone }).ticks 8
    let (f, v) := choice.getD (720, 850)
    .next ((s.applyClock f v first).bumpPwr 0)

/-! ## The cap and temperature (R375, R376, R384) -/

/-- A written cap is set to the nearer limit when it lies outside 2,000 W to 3,500 W. -/
def clampCap (n : Nat) : BitVec 12 := BitVec.ofNat 12 (min 3500 (max 2000 n))

/-- The cap in force: the lower of CAP_W and 2,000 W while PWRBRK_N is low. -/
def State.capInForce (s : State) : Nat := if s.board.pwrbrkLow then min s.power.capW.toNat 2000 else s.power.capW.toNat

/-- PWR_STATUS.WITHHOLD: the cap's fraction and the temperature's on top of it. -/
def Power.w (x : Power) : BitVec 8 := BitVec.ofNat 8 (min 255 (x.withhold.toNat + x.thermalW.toNat))

/-- Is the 48 V side of the device measured? -/
def State.measures (s : State) : Bool := s.start.fuses && s.power.state != .off

/-- The withheld fraction that a judgement every 10 µs sets: while the 1 ms average lies above the cap in force it rises (R375). -/
def nextWithhold (old w : BitVec 8) (avg1ms : BitVec 16) (cap : Nat) : BitVec 8 :=
  if cap < avg1ms.toNat then BitVec.ofNat 8 (max w.toNat (min 255 (old.toNat + 1))) else w

/-- The EVIS index of a core: that of the instruction at the head of its platform queue, or of the next word to arrive. -/
def Core.evisIndex (k : Core) : Nat :=
  match k.platform, k.kernel with
  | i :: _, _ => i.index
  | [], some r => r.fetch
  | [], none => 0

/-- CAP_UPDATE: 10 µs pass; the averages, the input voltage and the withheld fraction are as measured and judged; the withheld core cycles
counted are free. The 1 ms average of the device is at most CAP_W and the 100 ms average at most 3,500 W (R380, R25). The trace takes ten samples of every core that runs a kernel
(R364). -/
def execCapUpdate (avg1ms avg100ms inMv : BitVec 16) (w : BitVec 8) (s : State) : Host.Outcome State Fault Refusal :=
  if !s.measures then .next s
  else
    let cap := s.capInForce
    let s := (s.pass 10000).modPower fun x =>
      let w := nextWithhold x.withhold w avg1ms cap
      { x with peakW := BitVec.ofNat 16 (max x.peakW.toNat (min avg1ms.toNat x.capW.toNat)),
               avgW := if avg100ms.toNat ≤ 3500 then avg100ms else 3500, in10mv := inMv, withhold := w,
               cnt := if w = 0 then x.cnt else bump x.cnt 2 (Config.freeNat s.freeCtr) }
    let run := (List.range 288).filter fun c => (s.core c).kernel.isSome
    .next (s.tick.traced (run.map fun c => .index c (s.core c).evisIndex 10))

/-- The temperature's fraction after 100 µs: it rises while a sensor that reached 95 °C holds it up; what of it is left afterwards is
free. -/
def thermalNext (w : BitVec 8) (rising : Bool) (free : Nat) : BitVec 8 :=
  if rising then BitVec.ofNat 8 (min 255 (w.toNat + 1)) else BitVec.ofNat 8 (free % (w.toNat + 1))

/-- Does the rise go on at a hottest sensor of `temp` tenths of a degree: from 95 °C until every sensor reads below 93 °C (R376)? -/
def risesAt (rising : Bool) (temp : Nat) : Bool := decide (950 ≤ temp) || (rising && decide (930 ≤ temp))

/-- THERMAL_WITHHOLD_STEP: the hottest die and its highest sensor after a further 100 µs. -/
def execThermalWithholdStep (die : BitVec 4) (temp : BitVec 12) (s : State) : Host.Outcome State Fault Refusal :=
  if !s.measures then .next s
  else
    let n := s.freeCtr
    let s := (s.pass 100000).modPower fun x =>
      let up := risesAt x.rising temp.toNat
      let w := thermalNext x.thermalW up (Config.freeNat n)
      { x with hotDie := die, tjMax := temp, rising := up, thermalW := w, cnt := if w = 0 then x.cnt else bump x.cnt 3 (Config.freeNat (n + 1)) }
    .next (s.ticks 2)

/-- PWRBRK_N_CHANGE. -/
def execPwrbrkNChange (low : Bool) (s : State) : Host.Outcome State Fault Refusal :=
  .next { s with board := { s.board with pwrbrkLow := low } }

/-- PWR_CNT_CLR: PEAK_W and the counters. -/
def execPwrCntClr (s : State) : Host.Outcome State Fault Refusal := .next (s.modPower fun x => { x with peakW := 0, cnt := [] })

/-! ## Trips and failures (R377, R382, R384) -/

/-- THERMAL_TRIP: a sensor at 110 °C or more puts the device into Off, without conditions. -/
def execThermalTrip (_die : BitVec 4) (temp : BitVec 12) (s : State) : Host.Outcome State Fault Refusal :=
  .next (if s.start.detects && s.power.state != .off && decide (1100 ≤ temp.toNat) then
    s.enterOff true else s)

/-- VIN48_FAIL. -/
def execVin48Fail (s : State) : Host.Outcome State Fault Refusal :=
  .next (if s.start.detects && s.power.state != .off then s.enterOff false else s)

/-- REFCLK_FAIL. -/
def execRefclkFail (s : State) : Host.Outcome State Fault Refusal :=
  .next (if s.start.detects && s.power.state != .off then s.enterOff false else s)

/-- VAUX12_FAIL, from the end of stage 1 on, Off included (R384): the whole device stops, as when both supplies are removed; nothing answers
until RESET_N rises with them back. -/
def execVaux12Fail (s : State) : Host.Outcome State Fault Refusal :=
  if !s.board.vaux12 || !(s.start.detects || s.power.state == .off) then .next s
  else
    let o := s.enterOff false
    .next { o with power := { o.power with tripped := s.power.state == .off && s.power.tripped }
                   board := { Board.reset with pwrbrkLow := s.board.pwrbrkLow, mgmtId := s.board.mgmtId, vaux12 := false,
                                               ibis := s.board.ibis } }

end Sys2Proof.Machine
end

