-- ==== Sys2Proof/Machine/Security.lean ====
section
/-!
DEFINITION. Lifecycle, keys, attestation and debug levels (R359 to R366): requests, challenges, wipes, and a probe's halt, step and
resume of a core.
-/
namespace Sys2Proof.Machine

/-- A change of the security controller. -/
def State.modSecurity (s : State) (f : Security → Security) : State := { s with security := f s.security }

/-- A key or attestation request ends with a status (LC_STATUS.LAST_STATUS). -/
def State.keyStatus (s : State) (c : Code) : State := s.modSecurity fun x => { x with lastStatus := c }

/-- A debug or lifecycle request ends with a status (DBG_STATUS.STATUS). -/
def State.dbgStatus (s : State) (c : Code) : State := s.modSecurity fun x => { x with dbgStatus := c }

/-- The code of a lifecycle state (Table 16.1). -/
def Lifecycle.code : Lifecycle → Nat
  | .blank => 0
  | .provisioned => 1
  | .operational => 2
  | .diagnostic => 3
  | .retired => 4

/-- The bytes of 64-bit registers, word 0 first (R5). -/
def wordsBytes (t : Tab Word) (n : Nat) : List Byte := (List.range n).flatMap fun i => leBytes 8 (tabGet 0 t i).toNat

/-- 96 bytes of registers as two big-endian numbers of 48 bytes. -/
def words768 (t : Tab Word) : BitVec 768 := BitVec.ofNat 768 (beNat (wordsBytes t 12))

/-! ## Keys (R361) -/

/-- KEY_WRITE: a slot is written once, in Blank or Provisioned. -/
def execKeyWrite (s : State) : Host.Outcome State Fault Refusal :=
  let x := s.security
  let n := x.keySlot.toNat
  let k := tabGet KeySlot.empty x.keys n
  .next (if 4 < n then s
    else if (x.lifecycle == .blank || x.lifecycle == .provisioned) && !k.provisioned && !k.revoked then
      (s.modSecurity fun x => { x with keys := tabPut x.keys n ⟨words768 x.keyData, true, false⟩ }).keyStatus Code.ok
    else s.keyStatus Code.wrongState)

/-- Is the slot the last consist slot that holds a key and is not revoked? -/
def Security.lastConsist (x : Security) (n : Nat) : Bool :=
  decide (n < 4) && x.keyIn n && (List.range 4).all fun m => m == n || !x.keyIn m

/-- KEY_REVOKE: for good, in any state but Retired; outside Blank one consist slot always remains. -/
def execKeyRevoke (s : State) : Host.Outcome State Fault Refusal :=
  let x := s.security
  let n := x.keySlot.toNat
  .next (if 4 < n then s
    else if x.lifecycle == .retired || (x.lifecycle != .blank && x.lastConsist n) then s.keyStatus Code.wrongState
    else (s.modSecurity fun x =>
      { x with keys := tabPut x.keys n { tabGet KeySlot.empty x.keys n with revoked := true } }).keyStatus Code.ok)

/-! ## Attestation (R363, Table 16.3) -/

/-- ATT_GO: refused in Blank and Retired; the nonce is taken. A GO while a report is being signed starts no other. -/
def execAttGo (s : State) : Host.Outcome State Fault Refusal :=
  let x := s.security
  .next (if x.lifecycle == .blank || x.lifecycle == .retired then s.keyStatus Code.wrongState
    else if x.attBusy then s
    else s.modSecurity fun x =>
      { x with attBusy := true, attNonce := BitVec.ofNat 256 (leNat (wordsBytes x.nonce 4)) })

/-- A SHA-384 digest as 48 bytes, first byte first. -/
def digest384 (d : BitVec 384) : List Byte := (leBytes 48 d.toNat).reverse

/-- Bytes 0 to 159 of the report. -/
def State.reportBody (s : State) : List Byte :=
  leBytes 4 0x54535441 ++
  [1, BitVec.ofNat 8 s.security.lifecycle.code, BitVec.ofNat 8 s.power.state.code, s.power.level] ++
  leBytes 8 s.fuses.serial.toNat ++ leBytes 8 s.consist.gen.toNat ++ digest384 s.consist.digest ++
  (List.range 17).map (fun k => (s.levelOf k).setWidth 8) ++ List.replicate 7 0 ++
  leBytes 32 s.security.attNonce.toNat ++ leBytes 8 s.lineTime.toNat ++ List.replicate 24 0

/-- A signature as it stands in a report: r then s, big-endian. -/
def sigBytes (v : BitVec 768) : List Byte := (leBytes 96 v.toNat).reverse

/-- ATTESTATION_COMPLETE: the device as it is now is signed; the signature's secret number is a free value. A key destroyed since GO signs nothing. -/
def execAttestationComplete (s : State) : Host.Outcome State Fault Refusal :=
  if !s.security.attBusy then .next s
  else
    let s := s.modSecurity fun x => { x with attBusy := false }
    if !s.security.hasAttKey then .next (s.keyStatus Code.wrongState)
    else
      let body := s.reportBody
      let sig := ecdsaSign (Config.attestationSecret s.fuses.serial) (Config.freeNat s.freeCtr) body
      .next ((s.tick.modSecurity fun x => { x with report := memWrite [] 0 (body ++ sigBytes sig) }).keyStatus Code.ok)

/-! ## Debug levels (R364, R365, R370) -/

/-- Is the core halted by a probe: halted and not fenced (R246), while its partition neither saves nor resets? -/
def State.probeHalted (s : State) (c : Nat) : Bool :=
  let k := s.core c
  k.works && k.halted && (k.run == .debugHalt || k.run == .faulted) &&
  match s.partOf c with
  | some p => (s.part p).state != .quiescing && (s.part p).state != .resetting
  | none => true

/-- A halted core goes on: faulted when it has recorded a fault, and running otherwise. -/
def State.debugResume (s : State) (c : Nat) : State :=
  if s.probeHalted c then
    s.modCore c fun k => { k with halted := false, run := if k.fault.valid then .faulted else .running }
  else s

/-- The physical cores of a scope. -/
def State.scopeCores (s : State) (scope : Nat) : List Nat :=
  if scope < 16 then (List.range 288).filter fun c => s.partOf c == some scope else []

/-- A level takes hold; below D3 the scope's halted cores resume. -/
def State.setLevel (s : State) (scope : Nat) (level : BitVec 2) : State :=
  let s := s.modSecurity fun x => { x with levels := tabPut x.levels scope level }
  if level = 3 then s else (s.scopeCores scope).foldl State.debugResume s

/-- Every level above `cap` is lowered to it. -/
def State.capLevels (s : State) (cap : BitVec 2) : State :=
  (List.range 17).foldl (fun s k => if cap.toNat < (s.levelOf k).toNat then s.setLevel k cap else s) s

/-- What Table 16.7 gives a raise of a scope to a level, in the power state and in the one being entered. -/
def State.raiseCode (s : State) (level : Nat) : Code :=
  let n := max s.debugLevel level
  let c := combination s.security.lifecycle n s.power.state
  if c != Code.ok then c else combination s.security.lifecycle n s.power.target

/-- Is a scope a partition that is ABSENT, or treated as ABSENT while a change point is applied (R355, R364)? -/
def State.absentScope (s : State) (scope : Nat) : Bool := decide (scope < 16) && s.isAbsent scope

/-- A raise that needs no challenge. -/
def State.raise (s : State) (scope : Nat) (level : BitVec 2) : State :=
  if s.absentScope scope then s.dbgStatus Code.wrongState
  else
    let c := s.raiseCode level.toNat
    if c != Code.ok then s.dbgStatus c else (s.setLevel scope level).dbgStatus Code.ok

/-- A write of DBG_LEVELs.LEVEL. Nothing answers in Off, where every level is D0 (Table 16.7). -/
def State.writeLevel (s : State) (scope : Nat) (level : BitVec 2) : State :=
  if s.power.state = .off then s
  else if level.toNat ≤ (s.levelOf scope).toNat then s.setLevel scope level
  else match s.security.lifecycle with
    | .operational => s
    | .retired => if 2 ≤ level.toNat then s.dbgStatus Code.securityDenied else s.raise scope level
    | _ => s.raise scope level

/-- DBG_LEVEL_WRITE. -/
def execDbgLevelWrite (scope : Fin 17) (level : BitVec 2) (s : State) : Host.Outcome State Fault Refusal :=
  .next (s.writeLevel scope.val level)

/-! ## Challenges (R365) -/

/-- The ceiling of a scope (Table 16.1, R364). -/
def State.ceiling (s : State) (scope : Nat) : Nat :=
  match s.security.lifecycle with
  | .operational => (tabGet 0 s.security.maxLevels scope).toNat
  | .retired => 1
  | _ => 3

/-- Does DBG_REQ ask for a debug level above its ceiling? -/
def State.aboveCeiling (s : State) : Bool :=
  let x := s.security
  x.reqScope != 0xFF#8 && decide (s.ceiling x.reqScope.toNat < x.reqLevel.toNat)

/-- DBG_CHALLENGE: a fresh challenge for the request replaces the one that is out; its 60 s are measured on the own count, which no change point
restarts (R306; DEDUCED, log entry 37); while a wipe runs there is none, and in Off nothing
answers (Table 16.7). -/
def execDbgChallenge (s : State) : Host.Outcome State Fault Refusal :=
  .next (if s.power.state = .off then s
    else if s.security.wiping.isSome then s.dbgStatus Code.wrongState
    else if s.aboveCeiling then s.dbgStatus Code.securityDenied
    else
      let chal := freshKey s.freeCtr
      let stop : Deadline := ⟨s.lt.own + 60000000000#64, true⟩
      ((s.ticks 4).modSecurity fun x =>
        { x with chal := chal, chalFor := some (x.reqScope, x.reqLevel), chalEnd := stop, dbgPhase := 1 }).dbgStatus Code.ok)

/-- No challenge is out. -/
def State.noChallenge (s : State) : State := s.modSecurity fun x => { x with chalFor := none, dbgPhase := 0 }

/-- CHALLENGE_EXPIRY: 60 s after its issue the challenge expires. -/
def execChallengeExpiry (s : State) : Host.Outcome State Fault Refusal :=
  .next (if s.security.chalFor.isSome && s.comes s.security.chalEnd then (s.passTo s.security.chalEnd).noChallenge else s)

/-- The message that the debug key signs: challenge, SERIAL, SCOPE, LEVEL. -/
def State.challengeMessage (s : State) : List Byte :=
  leBytes 32 s.security.chal.toNat ++ leBytes 8 s.fuses.serial.toNat ++ [s.security.reqScope, s.security.reqLevel.setWidth 8]

/-- Is the response valid: a challenge for this very request is out and has not expired, and the debug key has signed it? -/
def State.responseValid (s : State) : Bool :=
  let x := s.security
  x.chalFor == some (x.reqScope, x.reqLevel) && !s.reached x.chalEnd && x.keyIn 4 &&
  ecdsaVerifies (tabGet KeySlot.empty x.keys 4).key s.challengeMessage (words768 x.resp)

/-! ## Wipes (R366) -/

/-- The wipe of a partition begins: its context and its parked context are lost as by RESET_NOW with DISCARD_PARKED, and it stays
RESETTING; a save in progress ends with OWNER_LOST. An ABSENT one stays so, and is RESETTING if an image defines it before the wipe ends (R366). -/
def State.beginWipe (s : State) (p : Nat) : State :=
  if (s.part p).state = .absent then s.modPart p fun x => { x with wiping := true }
  else
    let s := if (s.part p).state = .resetting then s.discardParked p else s.beginReset p true
    let s := ((s.part p).cmds.filter fun k => match k.kind with | .preempt => true | _ => false).foldl
      (fun s k => s.tick.complete p k.seq Code.ownerLost (Config.freeWord s.freeCtr)) s
    s.modPart p fun x => { x with state := .resetting, wiping := true }

/-- A wipe begins, of a set of partitions. -/
def State.startWipe (s : State) (ps : List Nat) (after : AfterWipe) : State :=
  let s := ps.foldl State.beginWipe s
  s.modSecurity fun x => { x with wiping := some after, wipeLeft := ps, chalFor := none, dbgPhase := 3 }

/-- Zero is written to every byte of [a, a + n), whole granules. -/
def State.zeroBytes (s : State) (a n : Nat) : State :=
  let s := { s with
    mem := memZero s.mem a n
    poison := setDelRun s.poison (a / 32) (n / 32)
    dies := s.dies.map fun x => (x.1, { x.2 with groups := x.2.groups.filter fun g => 128 * g.line < a || a + n ≤ 128 * g.line }) }
  if s.memStacks.all fun x => x.2.freshRows.isEmpty then s
  else s.freshWritten ((List.range (n / 32)).map (a / 32 + ·))

/-- Zero is written to a 2 MiB unit of slice scratch; at a fenced slice the writes, as many as nothing fixes, are dropped and counted (R247). -/
def State.zeroScratch (s : State) (a : Nat) : State :=
  if s.sliceFenced a then
    s.tick.modDie (scratchDie (a % 2 ^ 30)) fun d => { d with cnt := bump d.cnt 5 (1 + Config.freeNat s.freeCtr) }
  else s.zeroBytes a (2 ^ 21)

/-- Zero is written to a grant. -/
def State.zeroGrant (s : State) (g : Grant) : State :=
  if inScratch g.base then (List.range g.units).foldl (fun s i => s.zeroScratch (g.base + 2 ^ 21 * i)) s
  else s.zeroBytes g.base (g.units * 2 ^ 21)

/-- The start of a partition's sidings. -/
def sidings (p : Nat) : Nat := 0x02DC00000000 + p * 0x40000000

/-- A byte of a partition's sidings: of the encrypted image, where a save has written one and no wipe has followed (R362). -/
def State.sidingsByte (s : State) (p i : Nat) : Byte :=
  match tabGet none s.sealed p with
  | some (key, n) => Config.sealedByte key n i
  | none => memGet s.mem (sidings p + i)

/-- The end of a partition's wipe: its grants in near memory and slice scratch and its sidings are zero, and its keys are gone. -/
def State.wiped (s : State) (p : Nat) : State :=
  let mine := s.consist.grants.filter fun g => g.part == p && (inNear g.base || inScratch g.base)
  let s := mine.foldl State.zeroGrant s
  let s : State := { s.zeroBytes (sidings p) 0x40000000 with sealed := tabPut s.sealed p none }
  let s := if (s.part p).state = .resetting then s.endReset p else s
  let s := s.modPart p fun x => { x with wiping := false, key := none, parkedKey := none, parked := none }
  s.modSecurity fun x => { x with wipeLeft := setDel x.wipeLeft p }

/-- May the wipe of a partition end? -/
def State.wipeEnds (s : State) (p : Nat) : Bool := (s.part p).state == .absent || s.resetDone p

/-! ## Lifecycle changes (R359, R360, Table 16.2) -/

/-- What Retired destroys: the consist keys and the attestation key. -/
def Security.destroyed (x : Security) : Security :=
  { x with keys := x.keys.filter fun k => 4 ≤ k.1, hasAttKey := false, pub := 0 }

/-- A new lifecycle state takes hold, with the effects of Table 16.2; an outstanding challenge expires. -/
def State.enterLifecycle (s : State) (l : Lifecycle) : State :=
  let old := s.security.lifecycle
  let swap := (old == .operational && l == .diagnostic) || (old == .diagnostic && l == .operational)
  let s := s.modSecurity fun x =>
    { x with lifecycle := l, diagLeft := if swap then x.diagLeft - 1 else x.diagLeft, chalFor := none, dbgPhase := 0, dbgStatus := Code.ok }
  match l with
  | .operational => s.capLevels 0
  | .retired =>
    let s := (s.modSecurity Security.destroyed).capLevels 1
    if s.power.state = .off then s else s.enter .idle
  | .provisioned => s.modSecurity fun x => { x with hasAttKey := true, pub := ecdsaPublic (Config.attestationSecret s.fuses.serial) }
  | _ => s

/-- The lifecycle state of a code. -/
def lifecycleOf (n : Nat) : Option Lifecycle :=
  match n with
  | 0 => some .blank
  | 1 => some .provisioned
  | 2 => some .operational
  | 3 => some .diagnostic
  | 4 => some .retired
  | _ => none

/-- A change that Table 16.2 lists with a wipe: authorised by a challenge or by nothing. -/
def State.wipeInto (s : State) (l : Lifecycle) (challenge : Bool) : State :=
  if challenge && !s.responseValid then s.dbgStatus Code.securityDenied
  else s.startWipe (List.range 16) (.lifecycle l)

/-- Are the debug slot and a consist slot provisioned? -/
def Security.provisionable (x : Security) : Bool := x.keyIn 4 && (List.range 4).any x.keyIn

/-- A lifecycle change is submitted. -/
def State.submitLifecycle (s : State) : State :=
  let x := s.security
  let wrong := s.dbgStatus Code.wrongState
  match x.lifecycle, lifecycleOf x.reqLevel.toNat with
  | .blank, some .provisioned => if x.provisionable then s.enterLifecycle .provisioned else wrong
  | .provisioned, some .operational => s.enterLifecycle .operational
  | .operational, some .diagnostic => if x.diagLeft = 0 then wrong else s.wipeInto .diagnostic true
  | .diagnostic, some .operational => if x.diagLeft = 0 then wrong else s.wipeInto .operational true
  | .blank, some .retired => s.wipeInto .retired false
  | .provisioned, some .retired => s.wipeInto .retired false
  | .operational, some .retired => s.wipeInto .retired true
  | .diagnostic, some .retired => s.wipeInto .retired true
  | _, _ => wrong

/-- A debug raise is submitted: a valid response starts the wipe of the scope. -/
def State.submitLevel (s : State) : State :=
  let x := s.security
  let scope := x.reqScope.toNat
  if !s.responseValid || s.aboveCeiling || 3 < x.reqLevel.toNat then s.dbgStatus Code.securityDenied
  else if s.absentScope scope then s.dbgStatus Code.wrongState
  else
    let c := s.raiseCode x.reqLevel.toNat
    if c != Code.ok then s.dbgStatus c
    else s.startWipe (if scope < 16 then [scope] else List.range 16) (.level scope (x.reqLevel.setWidth 2))

/-- DBG_CTRL.SUBMIT; while a wipe runs it is refused. -/
def State.submit (s : State) : State :=
  if s.power.state = .off then s
  else if s.security.wiping.isSome then s.dbgStatus Code.wrongState
  else if s.security.reqScope = 0xFF#8 then s.submitLifecycle
  else s.submitLevel

/-- DBG_SUBMIT: SUBMIT with a debug scope in DBG_REQ. -/
def execDbgSubmit (s : State) : Host.Outcome State Fault Refusal :=
  .next (if s.security.reqScope = 0xFF#8 then s else s.submit)

/-- LIFECYCLE_CHANGE: SUBMIT with SCOPE 0xFF in DBG_REQ. -/
def execLifecycleChange (s : State) : Host.Outcome State Fault Refusal :=
  .next (if s.security.reqScope = 0xFF#8 then s.submit else s)

/-- Once no partition is left, what the wipe was for takes hold; a raise is judged again, by the power state that has come meanwhile and the
one being entered (R370). -/
def State.afterWipe (s : State) : State :=
  match s.security.wiping, s.security.wipeLeft with
  | some a, [] =>
    let s := s.modSecurity fun x => { x with wiping := none, dbgPhase := 0 }
    match a with
    | .level scope level =>
      let c := s.raiseCode level.toNat
      if c != Code.ok then s.dbgStatus c else (s.setLevel scope level).dbgStatus Code.ok
    | .lifecycle l => s.enterLifecycle l
  | _, _ => s

/-- WIPE_COMPLETE: the wipe of a partition, or above 15 of every partition left, ends. -/
def execWipeComplete (scope : Nat) (s : State) : Host.Outcome State Fault Refusal :=
  let left := s.security.wipeLeft
  let done := left.filter fun p => (16 ≤ scope || p == scope) && s.wipeEnds p
  .next (if s.security.wiping.isSome then (done.foldl State.wiped s).afterWipe else s)

/-! ## A probe at D3 (R55, R364) -/

/-- Is the core under a level D3 of its partition? -/
def State.underD3 (s : State) (c : Nat) : Bool :=
  (s.core c).works && match s.partOf c with | some p => s.levelOf p == 3 | none => false

/-- DEBUG_HALT: a core that runs a kernel is interrupted (R55). -/
def execDebugHalt (c : CoreId) (s : State) : Host.Outcome State Fault Refusal :=
  let k := s.core c
  .next (if s.underD3 c && !k.halted && k.kernel.isSome && (k.run == .running || k.run == .faulted) then
    (s.interruptCore c).modCore c fun k => { k with run := .debugHalt } else s)

/-- DEBUG_RESUME. -/
def execDebugResume (c : CoreId) (s : State) : Host.Outcome State Fault Refusal :=
  .next (if s.underD3 c then s.debugResume c else s)

/-- One attempt of the sequencer on an instruction. -/
def stepOp (c : CoreId) (g : Guard) (op : Op) (s : State) : Host.Outcome State Fault Refusal :=
  match op with
  | .alu f d a b => s.alu c g f d a b
  | .conv f d a => s.conv c g f d a
  | .immOp f d a imm => s.immediate c g f d a imm
  | .cmp f pd a b => s.compare c g f pd a b
  | .pred f pd pa pb => s.predOps c g f pd pa pb
  | .br off => execSqBr c g off s
  | .loop sa off => execSqLoop c g sa off s
  | .endK => execSqEnd c g s
  | .ld sr sa size signed off => execSqLd c g sr sa size signed off s
  | .st sr sa size off => execSqSt c g sr sa size off s
  | .nopK => execSqNop c g s
  | .fence => execSqFence c g s
  | .rdsys sd sel => execSqRdsys c g sd sel s
  | .tcfg first count rows rowLog2 format group => execTcfg c g first count rows rowLog2 format group s
  | .ingest dd ds xfs sxf xf sd => execTmIngest c g dd ds xfs sxf xf sd s
  | op =>
    match engineOf op with
    | some e => s.engineIssue c g e op
    | none => .next s

/-- A core that issues again is halted again after a step, unless its kernel has ended. -/
def Core.haltedAgain (k : Core) : Core :=
  if k.kernel.isNone then k else { k with halted := true, run := if k.run == .running then .debugHalt else k.run }

/-- DEBUG_SINGLE_STEP: the halted core makes one attempt to issue the instruction at the head of its platform queue; what it issues to
an engine starts once the core resumes. -/
def execDebugSingleStep (c : CoreId) (i : GOp) (s : State) : Host.Outcome State Fault Refusal :=
  let k := s.core c
  if !s.underD3 c || !s.probeHalted c || k.run != .debugHalt || k.fault.valid then .next s
  else
    let r := stepOp c i.g i.op (s.setCore c { k with halted := false, run := .running })
    match r with
    | .next t => .next (t.modCore c Core.haltedAgain)
    | r => r

end Sys2Proof.Machine
end

