-- ==== Sys2Proof/Machine/Registers.lean ====
section
/-!
DEFINITION. The BAR0 registers (R8 to R12, R29 to R32): what each reads as, and what a write of it does.
-/
namespace Sys2Proof.Machine

/-! ## Codes of status fields -/

/-- PORT_STATUS.STATE (Table 12.8). -/
def PortState.code : PortState → Nat
  | .off => 0 | .down => 1 | .training => 2 | .up => 3 | .miswired => 4 | .versionFail => 5 | .selfTest => 6

/-- LT_STATUS.STATE (Table 13.1). -/
def LtState.code : LtState → Nat
  | .seeking => 0 | .locking => 1 | .locked => 2 | .holdover => 3 | .unlocked => 4 | .master => 5

/-- TWIN_STATUS.STATE (Table 14.1). -/
def PairState.code : PairState → Nat
  | .none => 0 | .waiting => 1 | .paired => 2 | .degraded => 3 | .lost => 4

/-- SEC_PSTATUS.PHASE (Table 14.9). -/
def SecPhase.code : SecPhase → Nat
  | .idle => 0 | .clearing => 1 | .data => 2 | .digest => 3 | .waitLoss => 4 | .commit => 5 | .restoring => 6 | .awaitReplay => 7

/-- Counter i of a table. -/
def cntAt (t : Tab Word) (i : Nat) : Word := tabGet 0 t i

/-! ## Reads: identity, signal box (Tables 1.10 to 1.17, 8.11 to 8.16) -/

/-- The identity and capability block. -/
def State.readIdentity (s : State) (o : Nat) : Word :=
  if o = 0x00 then s.ident
  else if o = 0x08 then s.fuses.serial
  else if o = 0x10 then s.capCore
  else if o = 0x18 then s.capUnit
  else if o = 0x20 then capMem
  else if o = 0x28 then capLink
  else if o = 0x30 then s.capClock
  else if 0x40 ≤ o && o < 0x68 then mapWord s.fuses.enabled ((o - 0x40) / 8)
  else if 0x68 ≤ o && o < 0x90 then mapWord s.fuses.spare ((o - 0x68) / 8)
  else 0

/-- Do the sidings hold a parked context that can return (R362)? -/
def Part.parkedNow (x : Part) : Bool := x.parked.isSome && x.parkedKey.isSome

/-- PART_STATE.RING. -/
def Part.ringCode (x : Part) : Nat := if !x.enable then 0 else if x.halted then 2 else 1

/-- CQ_FULL_CNT with the microseconds of a wait that goes on (R189). -/
def Part.fullCnt (x : Part) (own : Word) : Word :=
  cntAt x.cnt 3 + (match x.fullSince with | some t => BitVec.ofNat 64 ((own - t).toNat / 1000) | none => 0)

/-- The partition page. -/
def Part.read (x : Part) (own : Word) (o : Nat) : Word :=
  if o = 0x000 then
    put 48 x.haltStatus.toNat ||| put 16 x.haltIndex.toNat ||| putB 11 x.parkedNow ||| put 10 x.host.val ||| put 8 x.ringCode |||
    put 0 x.state.code
  else if o = 0x008 then x.ringBase
  else if o = 0x010 then x.cqBase
  else if o = 0x018 then x.mirrorAddr
  else if o = 0x020 then
    put 24 x.eventVector.toNat ||| put 16 x.cqLog2.toNat ||| put 8 x.sizeLog2.toNat ||| putB 0 x.enable
  else if o = 0x028 then put 32 x.consumer.toNat ||| put 0 x.producer.toNat
  else if o = 0x030 then put 32 x.cqConsumer.toNat ||| put 0 x.cqProducer.toNat
  else if o = 0x058 then x.fullCnt own
  else if 0x040 ≤ o && o < 0x070 then cntAt x.cnt ((o - 0x040) / 8)
  else 0

/-- The state field of a partition as the device treats it (R355). -/
def State.readPart (s : State) (p o : Nat) : Word :=
  let x := s.part p
  (if s.partHeld p then { x with state := .absent } else x : Part).read s.lt.own o

/-- The signal box and command block. -/
def State.readSignalBox (s : State) (off : Nat) : Word :=
  if off = 0x00100000 then s.bar4Base.setWidth 64
  else if 0x00110000 ≤ off && off < 0x00120000 then s.readPart ((off - 0x00110000) / 0x1000) (off % 0x1000)
  else 0

/-! ## Reads: a core (Tables 2.7 to 2.14, 3.10 to 3.15, 5.7 to 5.12, 6.5 to 6.8) -/

/-- CORE_STATE. -/
def State.coreState (s : State) (c : Nat) : Word :=
  let k := s.core c
  putB 23 k.logical.isSome ||| put 15 ((k.logical.map BitVec.toNat).getD 0) ||| put 11 (s.partN c) ||| put 4 k.role.code |||
  put 0 k.run.code

/-- QUEUE_LEVEL. -/
def State.queueLevel (s : State) (c : Nat) : Word :=
  let k := s.core c
  put 32 (min platformSize k.nativeWords) ||| put 24 k.syq.length ||| put 16 k.tmq.length ||| put 8 k.vxq.length ||| put 0 k.mxq.length

/-- CORE_FAULT. -/
def FaultRec.word (f : FaultRec) : Word :=
  putB 63 f.valid ||| putB 62 f.rowValid ||| putB 61 f.addrValid ||| put 58 f.engine.toNat ||| put 52 f.tile.toNat |||
  put 42 f.row.toNat ||| put 32 f.status.toNat ||| put 0 f.index.toNat

/-- MX_STATE.MODE of an array instruction. -/
def arrayMode : Op → Nat
  | .mm .. => 1
  | .mmq .. => 2
  | .ew .. => 3
  | _ => 0

/-- Has quarter q rows still to enter? An mx.accld enters none (R78). -/
def MxState.entering (m : MxState) (q : Nat) : Bool := m.passing.any fun j => j.toEnter q

/-- MX_STATE. ARRAY tells the last cycle. MODE is that of the older instruction while one drains and the next feeds: the spec does
not say which (DESIGN CHOICE, log entry 11). -/
def State.mxState (s : State) (c : Nat) : Word :=
  let m := (s.core c).mx
  let array := if m.passing.isEmpty then 0 else if m.frozen then 2 else 1
  let mode := match m.passing with | j :: _ => arrayMode j.op | [] => 0
  put 8 m.lastBuf.val ||| put 4 ((List.range 4).foldl (fun n q => n + if m.entering q then 2 ^ q else 0) 0) ||| put 2 mode ||| put 0 array

/-- MX_BUFb. -/
def BBuf.word (b : BBuf) : Word :=
  putB 15 b.valid ||| putB 14 b.loading ||| putB 13 b.transposed ||| putB 12 b.split ||| put 4 b.first.toNat ||| put 0 b.format.toNat

/-- The matrix engine's registers. -/
def State.readMx (s : State) (c o : Nat) : Word :=
  let m := (s.core c).mx
  if o = 0x0800 then s.mxState c
  else if o = 0x0810 then (m.buf 0).word
  else if o = 0x0818 then (m.buf 1).word
  else if o = 0x0820 then putB 19 m.det ||| put 17 m.lsMode.toNat ||| put 0 m.longSum.toNat
  else if o = 0x0828 then m.seed
  else if o = 0x0830 then m.step
  else if 0x0840 ≤ o && o < 0x0880 then cntAt m.cnt ((o - 0x0840) / 8)
  else 0

/-- VX_STATE.RUN of an instruction. -/
def vxRun : Op → Nat
  | .vec .. | .act .. | .actd .. | .fn .. | .rand .. => 1
  | .row .. => 2
  | .tload .. => 3
  | .upsq .. | .upstep .. | .upsetstep .. => 4
  | _ => 0

/-- The instruction that the vector engine executes. -/
def Core.vxNow (k : Core) : Nat :=
  match k.vxq.find? (fun e => e.started && !e.faulted) with
  | some e => vxRun e.op
  | none => 0

/-- VX_TLOADED.USER. -/
def VxState.loadedMap (x : VxState) : Nat :=
  (List.range 16).foldl (fun n i => n + if (tabGet none x.slots (16 + i)).isSome then 2 ^ i else 0) 0

/-- The vector engine's registers. -/
def Core.readVx (k : Core) (o : Nat) : Word :=
  let x := k.vx
  if o = 0x1000 then put 0 k.vxNow
  else if o = 0x1010 then x.seed
  else if o = 0x1018 then x.step
  else if o = 0x1020 then x.draw
  else if o = 0x1028 then put 16 x.loadedMap ||| put 0 0xFFF
  else if 0x1040 ≤ o && o < 0x1068 then cntAt x.cnt ((o - 0x1040) / 8)
  else if 0x1100 ≤ o && o < 0x1180 then
    match tabGet none x.slots (16 + (o - 0x1100) / 8) with
    | some t => t.addr.setWidth 64
    | none => 0
  else 0

/-- The update registers. -/
def UpState.read (u : UpState) (o : Nat) : Word :=
  if o = 0x1400 then put 32 u.region.toNat ||| put 4 u.shard.toNat ||| putB 3 u.hold ||| put 0 u.run.toNat
  else if o = 0x1410 then put 32 u.notOk.toNat ||| put 0 u.sq.toNat
  else if 0x1440 ≤ o && o < 0x1470 then cntAt u.cnt ((o - 0x1440) / 8)
  else 0

/-- A core block; that of a core fused as disabled is undefined (R30). -/
def State.readCore (s : State) (c o : Nat) : Word :=
  let k := s.core c
  if k.role = .disabled then 0
  else if o = 0x0000 then s.coreState c
  else if o = 0x0010 then s.queueLevel c
  else if o = 0x0018 then k.fault.word
  else if o = 0x0020 then k.fault.addr.setWidth 64
  else if o = 0x0028 then put 8 k.waking.toNat ||| put 0 k.powered.toNat
  else if 0x0040 ≤ o && o < 0x0090 then cntAt k.stall ((o - 0x0040) / 8)
  else if 0x0100 ≤ o && o < 0x0300 then (k.tile ((o - 0x0100) / 8)).cfg.word
  else if 0x0800 ≤ o && o < 0x1000 then s.readMx c o
  else if 0x1000 ≤ o && o < 0x1400 then k.readVx o
  else if 0x1400 ≤ o && o < 0x1800 then k.up.read o
  else 0

/-! ## Reads: fabric and memory (Tables 10.5 to 10.11) -/

/-- PORT_MAPp. -/
def portMapWord : Option (Nat × Bool) → Word
  | some (c, fenced) => putB 10 true ||| putB 9 fenced ||| put 0 c
  | none => 0

/-- A die's registers. -/
def Die.read (d : Die) (o : Nat) : Word :=
  if o = 0x0000 then putB 0 d.flagMode
  else if 0x0100 ≤ o && o < 0x0200 then
    let n := (o - 0x0100) / 8
    putB 5 (d.sliceFenced.getLsbD n) ||| put 0 (tabGet 0 d.scratch512k n).toNat
  else if 0x0200 ≤ o && o < 0x0300 then portMapWord (tabGet none d.ports ((o - 0x0200) / 8))
  else if 0x0400 ≤ o && o < 0x0440 then cntAt d.cnt ((o - 0x0400) / 8)
  else 0

/-- Junctions and mesh links. -/
def Fabric.read (f : Fabric) (o : Nat) : Word :=
  if o < 0x140 then putB 3 (setHas f.altUse (o / 8)) ||| putB 0 (setHas f.fenced (o / 8))
  else if 0x200 ≤ o && o < 0x268 then
    let l := (o - 0x200) / 8
    put 32 (tabGet 0 f.retries l).toNat ||| putB 0 (setHas f.linkUp l)
  else 0

/-- The error registers of a stack. -/
def Stack.read (x : Stack) (o : Nat) : Word :=
  if o = 0x00 then x.ce
  else if o = 0x08 then x.ue
  else if o = 0x10 then putB 63 x.valid ||| put 0 x.lastUe.toNat
  else 0

/-- The translation registers of a partition. -/
def Part.readXlat (x : Part) (o : Nat) : Word :=
  if o = 0x000 then putB 0 x.inval
  else if o = 0x008 then putB 63 x.xlatFault.valid ||| put 60 x.xlatFault.cause.toNat ||| put 0 x.xlatFault.addr.toNat
  else 0

/-- The memory-controller and translation block. -/
def State.readMemory (s : State) (o : Nat) : Word :=
  if o < 0x500 then (s.stack (o / 0x40)).read (o % 0x40)
  else if 0x100000 ≤ o && o < 0x110000 then (s.part ((o - 0x100000) / 0x1000)).readXlat (o % 0x1000)
  else 0

/-! ## Reads: ports, Line Time, sync store (Tables 12.8 to 12.13, 13.4 to 13.7, 11.7 to 11.12) -/

/-- PORT_LANES.TX_LASER_OK. -/
def State.lasersOk (s : State) (n : Nat) : Nat := (if s.fibreLit n 0 then 0x0F else 0) + (if s.fibreLit n 1 then 0xF0 else 0)

/-- A port's registers. -/
def State.readPort (s : State) (n o : Nat) : Word :=
  let p := s.port n
  if o = 0x0000 then
    put 48 p.peerDev.toNat ||| put 43 p.peerPort.toNat ||| put 32 p.peerLevel.toNat ||| put 24 p.version.toNat |||
    put 18 p.width.toNat ||| put 12 p.role.toNat ||| put 0 p.state.code
  else if o = 0x0008 then put 48 p.peerDomain.toNat ||| put 0 (if p.role = 4 then p.delayNs.toNat else 0)
  else if o = 0x0018 then put 32 p.laneFailed.toNat ||| put 16 p.rxLock.toNat ||| put 0 (s.lasersOk n)
  else if o = 0x0020 then
    put 36 (laserInput n 1) ||| put 32 (laserInput n 0) ||| put 16 (s.laserPower (laserInput n 1)).toNat |||
    put 0 (s.laserPower (laserInput n 0)).toNat
  else if 0x0040 ≤ o && o < 0x0080 then cntAt p.cnt ((o - 0x0040) / 8)
  else 0

/-- A timetable entry's word (Table 13.5). -/
def TtEntry.read (x : TtEntry) (e o : Nat) : Word :=
  if o = 0x00 then x.time
  else if o = 0x08 then put 32 x.period.toNat ||| put 0 x.duration.toNat
  else if o = 0x10 then
    put 32 x.arg.toNat ||| put 16 x.partMask.toNat ||| put 8 x.action.toNat ||| putB 2 (isDomain e) ||| putB 0 x.armed
  else put 48 x.originDev.toNat ||| put 0 x.status.toNat

/-- A photo-finish entry's second word (Table 13.7). -/
def PfEntry.word (x : PfEntry) : Word :=
  putB 63 x.valid ||| putB 62 x.after ||| putB 61 x.deadline ||| put 48 x.entry.toNat ||| put 32 x.srcDev.toNat |||
  put 28 x.kind.toNat ||| put 0 x.offset.toNat

/-- Line Time and the timetable. -/
def State.readTime (s : State) (o : Nat) : Word :=
  let lt := s.lt
  if o = 0x0000 then lt.now
  else if o = 0x0008 then lt.latched.setWidth 64
  else if o = 0x0010 then put 48 lt.sourceDev.toNat ||| put 40 lt.hops.toNat ||| put 0 lt.state.code
  else if o = 0x0018 then
    put 48 lt.backupDev.toNat ||| put 32 lt.masterDev.toNat ||| put 16 lt.leadUs.toNat ||| put 0 lt.fibreMax.toNat
  else if o = 0x0020 then put 32 lt.hopsMax.toNat ||| put 0 lt.boundNs.toNat
  else if o = 0x0028 then put 32 s.roster.epoch.toNat ||| put 0 (s.roster.entries.length % 65536)
  else if o = 0x0038 then s.pfNext.setWidth 64
  else if 0x0040 ≤ o && o < 0x0068 then cntAt lt.cnt ((o - 0x0040) / 8)
  else if 0x1000 ≤ o && o < 0x3000 then (s.ttEntry ((o - 0x1000) / 0x20)).read ((o - 0x1000) / 0x20) (o % 0x20)
  else if 0x3000 ≤ o && o < 0x3400 then
    let x := tabGet PfEntry.zero s.pfLog ((o - 0x3000) / 0x10)
    if o % 0x10 = 0 then x.stamp else x.word
  else 0

/-- The sync state that the windows show: the bound context's, else the parked one's, else the frozen values, else none. -/
def Part.shownSync (x : Part) : Sync :=
  if x.bound.isSome then x.sync
  else match if x.parkedNow then x.parked else none with
    | some k => k.sync
    | none => if x.frozen then x.sync else Sync.zero

/-- The entries waiting at a barrier of the context that the windows show. -/
def Part.shownWaiters (x : Part) (n : Nat) : Nat :=
  if x.bound.isSome then x.barWaiters n
  else match if x.parkedNow then x.parked else none with
    | some k => k.waiters.countP fun w => match w.on with | .bar m _ => m == n | .baton _ _ => false
    | none => 0

/-- The control page of a partition. -/
def Part.readSyPage (x : Part) (o : Nat) : Word :=
  if o = 0x000 then
    put 48 x.lostB.toNat ||| put 32 x.lostA.toNat ||| put 16 (match x.parked with | some k => k.ctx.id.toNat | none => 0) |||
    put 0 x.context.toNat
  else if o = 0x008 then
    putB 4 x.lostBValid ||| putB 3 x.lostAValid ||| putB 2 x.frozen ||| putB 1 x.parkedNow ||| putB 0 x.bound.isSome
  else if 0x040 ≤ o && o < 0x088 then cntAt x.syCnt ((o - 0x040) / 8)
  else 0

/-- The barrier window of a partition. -/
def Part.readBars (x : Part) (o : Nat) : Word :=
  let n := o / 0x10
  let b := x.shownSync.bar n
  if o % 0x10 = 0 then b.lap.setWidth 64
  else put 48 (x.shownWaiters n) ||| put 32 b.next.toNat ||| put 16 b.arrived.toNat ||| put 0 b.count.toNat

/-- The sync store block. -/
def State.readSync (s : State) (o : Nat) : Word :=
  if o < 0x10000 then (s.part (o / 0x1000)).readSyPage (o % 0x1000)
  else if 0x20000 ≤ o && o < 0x60000 then (s.part ((o - 0x20000) / 0x4000)).readBars ((o - 0x20000) % 0x4000)
  else if 0x100000 ≤ o && o < 0x900000 then (s.part ((o - 0x100000) / 0x80000)).shownSync.baton ((o - 0x100000) % 0x80000 / 8)
  else 0

/-! ## Reads: securing, power, security, loader (Tables 14.8 to 14.11, 16.8, 16.9, 15.10 to 15.12) -/

/-- Word k of a set of physical cores. -/
def setWord (t : NatSet) (k : Nat) : Word :=
  (List.range 64).foldl (fun w i => if setHas t (64 * k + i) then w ||| put i 1 else w) 0

/-- The securing page of a partition. -/
def SecPart.read (x : SecPart) (o : Nat) : Word :=
  if o = 0x00 then put 48 x.twinShare.toNat ||| put 32 x.baseGib.toNat ||| put 0 x.sizeGib.toNat
  else if o = 0x08 then
    put 48 x.lossBaton.toNat ||| put 32 x.stepBaton.toNat ||| put 16 x.interval.toNat ||| putB 3 x.exact ||| putB 2 x.windowed |||
    putB 0 x.enable
  else if o = 0x10 then put 48 x.mapEntries.toNat ||| put 0 x.mapAddr.toNat
  else if o = 0x18 then put 48 x.lossWaitMs.toNat ||| put 0 x.lossAddr.toNat
  else if o = 0x28 then
    put 56 x.genStatus.toNat ||| put 48 x.restoreStatus.toNat ||| put 46 x.verify.toNat ||| putB 45 x.verifyReplay |||
    put 4 x.unitsLeft.toNat ||| put 0 x.phase.code
  else if o = 0x30 then x.commitStep
  else if o = 0x38 then x.commitGen
  else if o = 0x40 then x.replAStep
  else if o = 0x48 then x.replAGen
  else if o = 0x50 then x.replBStep
  else if o = 0x58 then x.replBGen
  else 0

/-- The securing and twin block. -/
def State.readTwin (s : State) (o : Nat) : Word :=
  let t := s.twin
  if o = 0x0000 then
    put 48 t.dev.toNat ||| putB 5 ((s.port 25).state == .up) ||| putB 4 ((s.port 24).state == .up) ||| put 0 t.state.code
  else if o = 0x0008 then put 48 t.threshold.toNat ||| put 8 t.evtVector.toNat
  else if o = 0x0010 then t.evtNext.setWidth 64
  else if 0x0040 ≤ o && o < 0x0080 then cntAt t.cnt ((o - 0x0040) / 8)
  else if 0x1000 ≤ o && o < 0x2000 then (s.part ((o - 0x1000) / 0x100)).sec.read (o % 0x100)
  else if 0x5000 ≤ o && o < 0x5028 then setWord s.fencedMap ((o - 0x5000) / 8)
  else if 0x5040 ≤ o && o < 0x5068 then setWord s.spareUse ((o - 0x5040) / 8)
  else if 0x8000 ≤ o && o < 0x8800 then
    let e := tabGet EvtEntry.zero t.log ((o - 0x8000) / 0x10)
    if o % 0x10 = 0 then e.stamp else e.word
  else 0

/-- The power, thermal and ageing block. -/
def Power.read (x : Power) (own : Word) (o : Nat) : Word :=
  if o = 0x0000 then
    put 56 x.lastStatus.toNat ||| put 48 x.w.toNat ||| putB 8 x.tripped ||| put 4 x.target.code ||| put 0 x.state.code
  else if o = 0x0008 then put 32 x.capW.toNat ||| put 0 x.ctrlTarget.toNat
  else if o = 0x0010 then put 48 x.peakW.toNat ||| put 32 x.avgW.toNat ||| put 16 x.in10mv.toNat
  else if o = 0x0018 then put 44 x.hotDie.toNat ||| put 32 x.tjMax.toNat
  else if o = 0x0020 then
    put 32 (x.hoursNow own).toNat ||| put 20 x.vcoreMv.toNat ||| putB 19 x.eom ||| put 17 x.cause.toNat ||| putB 16 x.planning |||
    put 0 x.slack.toNat
  else if 0x0040 ≤ o && o < 0x0068 then cntAt x.cnt ((o - 0x0040) / 8)
  else if 0x0100 ≤ o && o < 0x0140 then (tabGet 0 x.dieSlack ((o - 0x0100) / 8)).setWidth 64
  else 0

/-- LC_STATUS. -/
def Security.lcStatus (x : Security) : Word :=
  put 16 x.lastStatus.toNat ||| putB 15 (x.keyIn 3) ||| putB 14 (x.keyIn 2) ||| putB 13 (x.keyIn 1) ||| putB 12 (x.keyIn 0) |||
  putB 11 (x.keyIn 4) ||| put 4 x.diagLeft ||| put 0 x.lifecycle.code

/-- Eight bytes of a list, as a register shows them. -/
def wordOf (bs : List Byte) (i : Nat) : Word := BitVec.ofNat 64 (leNat ((bs.drop (8 * i)).take 8))

/-- The security and debug block. -/
def Security.read (x : Security) (o : Nat) : Word :=
  if o = 0x0000 then x.lcStatus
  else if o = 0x0010 then x.keySlot.setWidth 64
  else if 0x0100 ≤ o && o < 0x0160 then tabGet 0 x.keyData ((o - 0x0100) / 8)
  else if 0x0200 ≤ o && o < 0x0288 then
    let n := (o - 0x0200) / 8
    put 2 (tabGet 0 x.maxLevels n).toNat ||| put 0 (tabGet 0 x.levels n).toNat
  else if o = 0x0300 then put 8 x.reqScope.toNat ||| put 0 x.reqLevel.toNat
  else if o = 0x0310 then put 56 x.dbgStatus.toNat ||| put 0 x.dbgPhase.toNat
  else if 0x0320 ≤ o && o < 0x0340 then (x.chal >>> (64 * ((o - 0x0320) / 8))).setWidth 64
  else if 0x0340 ≤ o && o < 0x03A0 then tabGet 0 x.resp ((o - 0x0340) / 8)
  else if 0x0400 ≤ o && o < 0x0420 then tabGet 0 x.nonce ((o - 0x0400) / 8)
  else if o = 0x0420 then putB 1 x.attBusy
  else if 0x0500 ≤ o && o < 0x0600 then BitVec.ofNat 64 (memNat x.report (o - 0x0500) 8)
  else if 0x0600 ≤ o && o < 0x0660 then wordOf (sigBytes x.pub) ((o - 0x0600) / 8)
  else 0

/-- CL_STATUS. -/
def Loader.statusWord (l : Loader) : Word :=
  put 56 l.lastStatus.toNat ||| put 52 l.lastOp.toNat ||| put 50 l.appliedFrom.toNat ||| putB 49 l.bootFallback ||| put 0 l.state.toNat

/-- SLOT_GEN and VALID of a flash slot. -/
def FlashSlot.word (x : FlashSlot) : Word := if x.valid then putB 63 true ||| put 0 x.gen.toNat else 0

/-- The consist loader block. What flash holds shows once stage 4 has read it (Table 15.9, Table 15.12). -/
def State.readLoader (s : State) (o : Nat) : Word :=
  let l := s.loader
  if o = 0x0000 then l.statusWord
  else if o = 0x0010 then l.stageLen.setWidth 64
  else if o = 0x0018 then (if s.start.applied then l.slotA.word else 0)
  else if o = 0x0020 then (if s.start.applied then l.slotB.word else 0)
  else if o = 0x0028 then s.consist.gen
  else if o = 0x0030 then putB 63 l.cycleValid ||| put 8 l.cycleJunction.toNat ||| put 0 l.cycleDest.toNat
  else if o = 0x0038 then l.busyCnt
  else if 0x100000 ≤ o && o < 0x200000 then BitVec.ofNat 64 (memNat l.staging (o - 0x100000) 8)
  else 0

/-- What a whole register reads as (Table 1.9), a 64-bit access; an offset that is not a multiple of 8, or that no map defines, reads 0
(R8). -/
def State.bar0Read (s : State) (off : Nat) : Word :=
  if off % 8 != 0 then 0
  else if off < 0x00100000 then s.readIdentity off
  else if off < 0x01000000 then s.readSignalBox off
  else if off < 0x02200000 then s.readCore ((off - 0x01000000) / 0x10000) (off % 0x10000)
  else if off < 0x03000000 then 0
  else if off < 0x03800000 then (s.die ((off - 0x03000000) / 0x100000)).read (off % 0x100000)
  else if off < 0x04000000 then 0
  else if off < 0x05000000 then s.fabric.read (off - 0x04000000)
  else if off < 0x06000000 then s.readMemory (off - 0x05000000)
  else if off < 0x061C0000 then s.readPort ((off - 0x06000000) / 0x10000) (off % 0x10000)
  else if off < 0x07000000 then 0
  else if off < 0x08000000 then s.readTime (off - 0x07000000)
  else if off < 0x09000000 then s.readSync (off - 0x08000000)
  else if off < 0x0A000000 then s.readTwin (off - 0x09000000)
  else if off < 0x0B000000 then s.power.read s.lt.own (off - 0x0A000000)
  else if off < 0x0C000000 then s.security.read (off - 0x0B000000)
  else if off < 0x0D000000 then s.readLoader (off - 0x0C000000)
  else 0

/-- The half of a register that a 32-bit access addresses. -/
def halfOf (v : Word) (upper : Bool) : Word := (if upper then v >>> 32 else v) &&& 0xFFFFFFFF#64

/-- What a read of `size` bytes returns: a whole register, or either half; other sizes and alignments read 0 (R8). -/
def State.bar0Load (s : State) (off size : Nat) : Word :=
  if size = 8 then s.bar0Read off
  else if size = 4 && off % 4 = 0 then halfOf (s.bar0Read (off / 8 * 8)) (off % 8 = 4)
  else 0

/-- A read with what it does besides: one of LT_NOW latches LT_FRAC (R301). -/
def State.readRegister (s : State) (off size : Nat) : State × Word :=
  (if off = 0x07000000 && (size = 8 || size = 4) then s.ltNowRead else s, s.bar0Load off size)

/-! ## Counters cleared -/

/-- Does a write of the core's block have an effect (R30)? -/
def State.coreTakes (s : State) (c : Nat) : Bool := (s.core c).works && (s.core c).role != .disabled

/-- A change of a core by a write to its block. -/
def State.writeCoreBlock (s : State) (c : Nat) (f : Core → Core) : State := if s.coreTakes c then s.modCore c f else s

/-- CORE_CTRL.STALL_CLR. -/
def State.clearStalls (s : State) (c : Nat) : State := s.writeCoreBlock c fun k => { k with stall := [] }
/-- MX_CTRL.CNT_CLR. -/
def State.clearMx (s : State) (c : Nat) : State := s.writeCoreBlock c fun k => { k with mx := { k.mx with cnt := [] } }
/-- VX_CTRL.CNT_CLR. -/
def State.clearVx (s : State) (c : Nat) : State := s.writeCoreBlock c fun k => { k with vx := { k.vx with cnt := [] } }
/-- UP_CTRL.CNT_CLR. -/
def State.clearUp (s : State) (c : Nat) : State := s.writeCoreBlock c fun k => { k with up := { k.up with cnt := [] } }
/-- XB_CTRL.CNT_CLR. -/
def State.clearXb (s : State) (d : Nat) : State := s.modDie d fun x => { x with cnt := [] }
/-- SY_CTRL.CNT_CLR. -/
def State.clearSy (s : State) (p : Nat) : State := s.modPart p fun x => { x with syCnt := [] }
/-- PORT_CTRL.CNT_CLR. -/
def State.clearPort (s : State) (n : Nat) : State := s.modPort n fun x => { x with cnt := [] }

/-- CORE_STALL_CLR. -/
def execCoreStallClr (c : CoreId) (s : State) : Host.Outcome State Fault Refusal := .next (s.clearStalls c)
/-- MX_CNT_CLR. -/
def execMxCntClr (c : CoreId) (s : State) : Host.Outcome State Fault Refusal := .next (s.clearMx c)
/-- VX_CNT_CLR. -/
def execVxCntClr (c : CoreId) (s : State) : Host.Outcome State Fault Refusal := .next (s.clearVx c)
/-- UP_CNT_CLR. -/
def execUpCntClr (c : CoreId) (s : State) : Host.Outcome State Fault Refusal := .next (s.clearUp c)
/-- XB_CNT_CLR. -/
def execXbCntClr (d : DieId) (s : State) : Host.Outcome State Fault Refusal := .next (s.clearXb d.val)
/-- SY_CNT_CLR. -/
def execSyCntClr (p : PartId) (s : State) : Host.Outcome State Fault Refusal := .next (s.clearSy p.val)
/-- PORT_CNT_CLR. -/
def execPortCntClr (p : PortId) (s : State) : Host.Outcome State Fault Refusal := .next (s.clearPort p.val)

/-! ## Writes -/

/-- What a command of the register blocks answers, as a state. -/
def doneBy (f : State → Host.Outcome State Fault Refusal) (s : State) : State :=
  match f s with
  | .next t => t
  | _ => s

/-- Act when a bit of the written value is 1. -/
def onBit (a : Word) (i : Nat) (f : State → State) (s : State) : State := if a.getLsbD i then f s else s

/-- The value a register's RW fields take from a write, and the bits written as actions: a 32-bit write changes only its half. -/
def mergeWrite (old v : Word) (off size : Nat) : Option (Word × Word) :=
  let low := v &&& 0xFFFFFFFF#64
  if size = 8 && off % 8 = 0 then some (v, v)
  else if size = 4 && off % 8 = 0 then some ((old &&& 0xFFFFFFFF00000000#64) ||| low, low)
  else if size = 4 && off % 8 = 4 then some ((old &&& 0xFFFFFFFF#64) ||| (low <<< 32), low <<< 32)
  else none

/-- Bits [lo, lo + n) of a word, as a field of width w. -/
def fieldOf (w : Nat) (v : Word) (lo n : Nat) : BitVec w := BitVec.ofNat w (field v lo n)

/-- A write of the partition page (Tables 8.13, 8.15). -/
def State.writePart (s : State) (hp : HostPort) (p o : Nat) (m a : Word) : State :=
  let set (f : Part → Part) : State := if (s.part p).enable then s else s.modPart p f
  if o = 0x008 then set fun x => { x with ringBase := m &&& 0xFFFFFFFFFFFFF000#64 }
  else if o = 0x010 then set fun x => { x with cqBase := m &&& 0xFFFFFFFFFFFFF000#64 }
  else if o = 0x018 then set fun x => { x with mirrorAddr := m &&& 0xFFFFFFFFFFFFFFC0#64 }
  else if o = 0x020 then s.ringConfig p m
  else if o = 0x038 then
    s.partCtrl p hp fun s =>
      onBit a 3 (·.clearPart p)
        (onBit a 2 (·.resetNow p false) (onBit a 1 (·.preemptNow p)
          (onBit a 0 (fun s => s.modPart p fun x => { x with halted := false }) s)))
  else s

/-- A write of a core's block. -/
def State.writeCore (s : State) (c o : Nat) (a : Word) : State :=
  if o = 0x0008 then onBit a 0 (·.clearStalls c) s
  else if o = 0x0808 then onBit a 0 (·.clearMx c) s
  else if o = 0x1008 then onBit a 0 (·.clearVx c) s
  else if o = 0x1408 then onBit a 0 (·.clearUp c) s
  else s

/-- A write of a timetable entry: the fields of an armed one take nothing but CANCEL (R311). -/
def State.writeEntry (s : State) (e o : Nat) (m a : Word) : State :=
  let n : Fin 256 := ⟨e % 256, Nat.mod_lt e (by decide)⟩
  let armed := (s.ttEntry e).armed
  let set (f : TtEntry → TtEntry) : State := if armed then s else s.modTt e f
  if o = 0x00 then set fun x => { x with time := m }
  else if o = 0x08 then set fun x => { x with period := fieldOf 32 m 32 32, duration := fieldOf 32 m 0 32 }
  else if o = 0x10 then
    if armed then onBit a 1 (·.cancelEntry n) s
    else onBit a 0 (·.armEntry n) (set fun x =>
      { x with arg := fieldOf 32 m 32 32, partMask := fieldOf 16 m 16 16,
               action := if field m 8 4 ≤ 6 then fieldOf 4 m 8 4 else x.action })
  else s

/-- A write of the Line Time block. -/
def State.writeTime (s : State) (o : Nat) (m a : Word) : State :=
  if o = 0x0030 then onBit a 0 (doneBy execLtCntClr) s
  else if 0x1000 ≤ o && o < 0x3000 then s.writeEntry ((o - 0x1000) / 0x20) (o % 0x20) m a
  else s

/-- A write of a partition's securing page (Table 14.9). -/
def State.writeSec (s : State) (p o : Nat) (m a : Word) : State :=
  if o = 0x08 then s.modSec p fun x =>
    { x with lossBaton := fieldOf 16 m 48 16, stepBaton := fieldOf 16 m 32 16,
             interval := if field m 16 16 = 0 then x.interval else fieldOf 16 m 16 16, exact := m.getLsbD 3,
             windowed := m.getLsbD 2, enable := m.getLsbD 0 }
  else if o = 0x10 then s.modSec p fun x => { x with mapEntries := fieldOf 16 m 48 16, mapAddr := fieldOf 48 m 0 48 &&& 0xFFFFFFFFFFF0#48 }
  else if o = 0x18 then s.modSec p fun x =>
    { x with lossWaitMs := if field m 48 16 = 0 then x.lossWaitMs else fieldOf 16 m 48 16,
             lossAddr := fieldOf 48 m 0 48 &&& 0xFFFFFFFFFFFC#48 }
  else if o = 0x20 then
    onBit a 2 (·.beginRestore p true) (onBit a 1 (·.beginRestore p false) (onBit a 0 (·.abandonGen p Code.ownerLost) s))
  else s

/-- A write of the securing block. -/
def State.writeTwin (s : State) (o : Nat) (m a : Word) : State :=
  if o = 0x0008 then
    onBit a 0 (doneBy execSecCntClr) { s with twin := { s.twin with evtVector := fieldOf 8 m 8 8 } }
  else if 0x1000 ≤ o && o < 0x2000 then s.writeSec ((o - 0x1000) / 0x100) (o % 0x100) m a
  else s

/-- A write of the power block; `byI3c` says that the board made it. -/
def State.writePower (s : State) (o : Nat) (m a : Word) (byI3c : Bool) : State :=
  if o = 0x0008 then
    onBit a 4 (·.powerGo byI3c) (s.modPower fun x => { x with capW := clampCap (field m 32 12), ctrlTarget := fieldOf 4 m 0 4 })
  else if o = 0x0028 then onBit a 0 (doneBy execMarginPlanStart) (onBit a 1 (doneBy execPwrCntClr) s)
  else s

/-- Is the value of DBG_REQ.SCOPE not reserved? -/
def scopeOk (n : Nat) : Bool := decide (n ≤ 16) || n == 0xFF

/-- A write of the security block (Table 16.9). -/
def State.writeSecurity (s : State) (o : Nat) (m a : Word) : State :=
  if o = 0x0010 then
    onBit a 7 (doneBy execKeyRevoke) (onBit a 6 (doneBy execKeyWrite)
      (s.modSecurity fun x => { x with keySlot := if field m 0 3 ≤ 4 then fieldOf 3 m 0 3 else x.keySlot }))
  else if 0x0100 ≤ o && o < 0x0160 then s.modSecurity fun x => { x with keyData := tabPut x.keyData ((o - 0x0100) / 8) m }
  else if 0x0200 ≤ o && o < 0x0288 then s.writeLevel ((o - 0x0200) / 8) (fieldOf 2 m 0 2)
  else if o = 0x0300 then s.modSecurity fun x =>
    { x with reqScope := if scopeOk (field m 8 8) then fieldOf 8 m 8 8 else x.reqScope, reqLevel := fieldOf 4 m 0 4 }
  else if o = 0x0308 then onBit a 1 State.submit (onBit a 0 (doneBy execDbgChallenge) s)
  else if 0x0340 ≤ o && o < 0x03A0 then s.modSecurity fun x => { x with resp := tabPut x.resp ((o - 0x0340) / 8) m }
  else if 0x0400 ≤ o && o < 0x0420 then s.modSecurity fun x => { x with nonce := tabPut x.nonce ((o - 0x0400) / 8) m }
  else if o = 0x0420 then onBit a 0 (doneBy execAttGo) s
  else s

/-- A write of CL_CTRL: refused and counted while the loader is busy; of several requests the lowest bit's is taken. -/
def State.writeClCtrl (s : State) (a : Word) : State :=
  if s.loader.state != 0 then s.loaderRequest id
  else if a.getLsbD 0 then doneBy execClVerify s
  else if a.getLsbD 1 then doneBy execClApply s
  else if a.getLsbD 2 then doneBy execClPersist s
  else s

/-- A write of the loader block (Tables 15.11, R355). -/
def State.writeLoader (s : State) (o : Nat) (m a : Word) : State :=
  if o = 0x0008 then s.writeClCtrl a
  else if o = 0x0010 then s.modLoader fun l => { l with stageLen := fieldOf 21 m 0 21 }
  else if 0x100000 ≤ o && o < 0x200000 then
    s.loaderRequest fun s => s.modLoader fun l => { l with staging := memWrite l.staging (o - 0x100000) (leBytes 8 m.toNat) }
  else s

/-- A write of a port's block. -/
def State.writePort (s : State) (n o : Nat) (a : Word) : State :=
  if o = 0x0010 then onBit a 1 (·.clearPort n) (onBit a 0 (·.retrain n) s) else s

/-- A write of a whole or half register at a multiple of 8 (Table 1.9). -/
def State.writeReg (s : State) (hp : HostPort) (off : Nat) (m a : Word) : State :=
  if off = 0x00100000 then { s with bar4Base := fieldOf 48 m 0 48 &&& 0xFFFFC0000000#48 }
  else if 0x00110000 ≤ off && off < 0x00120000 then s.writePart hp ((off - 0x00110000) / 0x1000) (off % 0x1000) m a
  else if 0x01000000 ≤ off && off < 0x02200000 then s.writeCore ((off - 0x01000000) / 0x10000) (off % 0x10000) a
  else if 0x03000000 ≤ off && off < 0x03800000 then
    if off % 0x100000 = 0x0008 then onBit a 0 (·.clearXb ((off - 0x03000000) / 0x100000)) s else s
  else if 0x05100000 ≤ off && off < 0x05110000 then
    if off % 0x1000 = 0 then onBit a 0 (fun s => s.modPart ((off - 0x05100000) / 0x1000) fun x => { x with inval := true }) s else s
  else if 0x06000000 ≤ off && off < 0x061C0000 then s.writePort ((off - 0x06000000) / 0x10000) (off % 0x10000) a
  else if 0x07000000 ≤ off && off < 0x08000000 then s.writeTime (off - 0x07000000) m a
  else if 0x08000000 ≤ off && off < 0x08010000 then
    if off % 0x1000 = 0x010 then onBit a 0 (·.clearSy ((off - 0x08000000) / 0x1000)) s else s
  else if 0x09000000 ≤ off && off < 0x0A000000 then s.writeTwin (off - 0x09000000) m a
  else if 0x0A000000 ≤ off && off < 0x0B000000 then s.writePower (off - 0x0A000000) m a false
  else if 0x0B000000 ≤ off && off < 0x0C000000 then s.writeSecurity (off - 0x0B000000) m a
  else if 0x0C000000 ≤ off && off < 0x0D000000 then s.writeLoader (off - 0x0C000000) m a
  else s

/-- Is BAR0 there to be written: RESET_N is high, stage 1 has ended and the device is not Off? -/
def State.bar0Up (s : State) : Bool := !s.start.resetLow && s.start.fuses && s.power.state != .off

/-- A BAR0 write of 4 or 8 bytes, naturally aligned; any other has no effect (R8). -/
def State.bar0Write (s : State) (hp : HostPort) (off size : Nat) (v : Word) : State :=
  let reg := off / 8 * 8
  match mergeWrite (s.bar0Read reg) v off size with
  | some (m, a) => s.writeReg hp reg m a
  | none => s

/-- REGISTER_WRITE. -/
def execRegisterWrite (hp : HostPort) (off : BitVec 28) (size : Nat) (value : Word) (s : State) : Host.Outcome State Fault Refusal :=
  .next (if s.bar0Up then s.bar0Write hp off.toNat size value else s)

end Sys2Proof.Machine
end

