-- ==== Sys2Proof/Machine/Board.lean ====
section
/-!
DEFINITION. The board's side and the host ports' functions (R202, R205, R206, R385 to R388): management over I3C, the test port, PCIe
configuration requests and MSI-X vectors.
-/
namespace Sys2Proof.Machine

/-- A change of the board side. -/
def State.modBoard (s : State) (f : Board → Board) : State := { s with board := f s.board }

/-! ## Management over I3C (R385 to R387) -/

/-- PWR_STATUS and PWR_CTRL. -/
def pwrStatusOff : Nat := 0x0A000000
def pwrCtrlOff : Nat := 0x0A000008

/-- The registers that the bus may read. -/
def i3cReads (off : Nat) : Bool :=
  decide (off < 0x00100000) || (decide (0x0A000000 ≤ off) && decide (off < 0x0B000000)) || off == 0x0B000000 || off == 0x0C000000

/-- The registers that answer while the device is Off. -/
def answersOff (off : Nat) : Bool := decide (off < 0x00100000) || off == pwrStatusOff

/-- Does the device take private transfers: it answers, and has a dynamic address (legacy I2C transfers are not supported, R385)? -/
def State.i3cOpen (s : State) : Bool := s.board.mgmtReady && s.board.dynAddr.isSome

/-- I3C_READ_REQUEST: the next private read returns the register, or zeros; while Off only a few registers answer. -/
def execI3cReadRequest (off : BitVec 32) (s : State) : Host.Outcome State Fault Refusal :=
  let o := off.toNat
  .next (if !s.i3cOpen then s
    else if s.power.state = .off && !answersOff o then s.modBoard fun b => { b with i3cData := none }
    else s.modBoard fun b => { b with i3cData := some (if i3cReads o then s.bar0Read o else 0) })

/-- I3C_WRITE_REQUEST: a write of PWR_CTRL; every other has no effect. -/
def execI3cWriteRequest (off : BitVec 32) (value : Word) (s : State) : Host.Outcome State Fault Refusal :=
  .next (if s.i3cOpen && s.power.state != .off && off.toNat == pwrCtrlOff then s.writePower 0x0008 value value true else s)

/-- The static address (R385). -/
def Board.staticAddr (b : Board) : BitVec 7 := 0x58#7 + b.mgmtId.setWidth 7

/-- I3C_ADDRESS_ASSIGN: by SETDASA, sent to a static address, or by ENTDAA; an address assigned again replaces the old one. -/
def execI3cAddressAssign (setdasa : Option (BitVec 7)) (addr : BitVec 7) (s : State) : Host.Outcome State Fault Refusal :=
  .next (if s.board.mgmtReady && (setdasa.isNone || setdasa == some s.board.staticAddr) then s.modBoard fun b => { b with dynAddr := some addr } else s)

/-! ## The test port (R364, R388) -/

/-- An instruction of the test port, which answers while VAUX12 is present. -/
def State.jtag (s : State) (ir : BitVec 8) (f : Board → Board) : State :=
  if s.board.vaux12 then s.modBoard fun b => { f b with jtagIr := ir } else s

/-- Is the device scope at D3? -/
def State.scanOpen (s : State) : Bool := s.levelOf 16 == 3

/-- The boundary-scan instructions below D3: as BYPASS, whose one bit keeps the last of the bits shifted in. -/
def Board.bypassed (b : Board) (bits : BitVec 32) : Board := { b with bypassBit := bits.getLsbD 31 }

/-- Is EXTEST in force: selected, with the device scope at D3? -/
def State.extestOn (s : State) : Bool := s.board.vaux12 && s.board.jtagIr == 0x00#8 && s.scanOpen

/-- Is a copper signal, by its place in Table 17.2 after the supplies, one that the device drives: I3C_SDA, TDO, THERMTRIP_N, MGMT_READY,
DEVICE_ERR_N? -/
def driven (n : Nat) : Bool := n == 7 || (12 ≤ n && n ≤ 15)

/-- Cells are given in turn, each by a choice among those left. -/
def giveCells : List Nat → List Nat → List Nat
  | [], _ => []
  | k :: ks, left => let i := k % max left.length 1; left.getD i 0 :: giveCells ks (left.eraseIdx i)

/-- The cells of the 16 copper signals: each has its own (R388). -/
def signalCells : List Nat := giveCells ((List.range 16).map Config.scanCell) (List.range 32)

/-- The cell of a signal in the boundary-scan register. -/
def cellOf (n : Nat) : Nat := signalCells.getD n 0

/-- The level of a copper signal, where the state has it: RESET_N, PWRBRK_N, MGMT_ID0 and MGMT_ID1, the status lines; while EXTEST is in
force the cells drive the signals that the device drives. -/
def State.pin (s : State) (n : Nat) : Option Bool :=
  if s.extestOn && driven n then some (s.board.boundary.getLsbD (cellOf n))
  else match n with
    | 2 => some !s.start.resetLow
    | 3 => some !s.board.pwrbrkLow
    | 4 => some (s.board.mgmtId.getLsbD 0)
    | 5 => some (s.board.mgmtId.getLsbD 1)
    | 13 => some !s.board.thermtrip
    | 14 => some s.board.mgmtReady
    | 15 => some !s.board.deviceErr
    | _ => none

/-- What the boundary-scan register captures: each signal's level in its cell; a cell whose signal the state does not hold is free. -/
def State.captured (s : State) : BitVec 32 :=
  (List.range 32).foldl (fun v i =>
    let b := ((List.range 16).find? fun n => cellOf n == i).bind s.pin
    if b.getD ((Config.freeWord s.freeCtr).getLsbD i) then v ||| (1#32 <<< i) else v) 0#32

/-- A boundary-scan instruction: the signals are captured and the shifted bits are in the update cells; below D3 it acts as BYPASS. -/
def State.scan (s : State) (ir : BitVec 8) (bits : BitVec 32) : State :=
  (s.jtag ir fun b => if s.scanOpen then { b with boundary := bits, scanOut := s.captured } else b.bypassed bits).tick

/-- EXTEST: the boundary cells drive the pins. -/
def execExtest (bits : BitVec 32) (s : State) : Host.Outcome State Fault Refusal := .next (s.scan 0x00 bits)

/-- IDCODE (Table 17.6). -/
def State.idcode (s : State) : BitVec 32 := if s.fuses.gradeB then 0x07240BB7#32 else 0x07256BB7#32

/-- IDCODE: its 32 bits are in the data register. -/
def execIdcode (s : State) : Host.Outcome State Fault Refusal :=
  .next (s.jtag 0x01 fun b => { b with dbgData := s.idcode.setWidth 64 })

/-- SAMPLE/PRELOAD: the pins are sampled, and the update cells preloaded without driving them. -/
def execSamplePreload (bits : BitVec 32) (s : State) : Host.Outcome State Fault Refusal := .next (s.scan 0x02 bits)

/-- Is the code one of another instruction of Table 17.3? -/
def otherCode (code : BitVec 8) : Bool := code == 0x00#8 || code == 0x01#8 || code == 0x02#8 || code == 0x20#8

/-- BYPASS, by its code or by a reserved one: one bit. -/
def execBypass (code : BitVec 8) (tdi : Bool) (s : State) : Host.Outcome State Fault Refusal :=
  .next (if otherCode code then s else s.jtag code fun b => { b with bypassBit := tdi })

/-- The scope of a register: that of the core's partition for a core block, the device's for every other. -/
def State.scopeOf (s : State) (off : Nat) : Option Nat :=
  if 0x01000000 ≤ off && off < 0x02200000 then s.partOf ((off - 0x01000000) / 0x10000) else some 16

/-- Registers that hold what software has written and nothing else, and capability registers: no state, counter or status register
(Table 16.4; DEDUCED, log entry 38). -/
def settingOnly (off : Nat) : Bool :=
  decide (off < 0x00101000) ||
  (decide (0x00110000 ≤ off) && decide (off < 0x00120000) && decide (0x008 ≤ off % 0x1000) && decide (off % 0x1000 < 0x028)) ||
  (decide (0x07001000 ≤ off) && decide (off < 0x07003000) && decide (off % 0x20 < 0x10)) ||
  (decide (0x09001000 ≤ off) && decide (off < 0x09002000) && (decide (0x08 ≤ off % 0x100) && decide (off % 0x100 < 0x20))) ||
  off == 0x0A000008 || off == 0x0B000010 || (decide (0x0B000100 ≤ off) && decide (off < 0x0B000160)) || off == 0x0B000300 ||
  (decide (0x0B000340 ≤ off) && decide (off < 0x0B000420)) || off == 0x0C000010 ||
  (decide (0x0C100000 ≤ off) && decide (off < 0x0C200000))

/-- IDENT and LC_STATUS, which a probe may read at D0. -/
def openToProbe (off : Nat) : Bool := off == 0x00000000 || off == 0x0B000000

/-- May the probe read the register (Table 16.4)? -/
def State.probeReads (s : State) (off : Nat) : Bool :=
  openToProbe off || (!settingOnly off &&
    match s.scopeOf off with
    | some k => decide (1 ≤ (s.levelOf k).toNat)
    | none => false)

/-- May the probe write the register: the response to a challenge (R365)? -/
def probeWrites (off : Nat) : Bool := decide (0x0B000340 ≤ off) && decide (off < 0x0B0003A0)

/-- The trace that a probe may read: the items of partitions at D2 or above (Table 16.4). -/
def State.probeTrace (s : State) : List TraceItem :=
  let seen (k : Nat) : Bool := decide (2 ≤ (s.levelOf k).toNat)
  s.trace.filter fun x => match x with
    | .record p _ => seen p
    | .index c _ _ => match s.partOf c with | some p => seen p | none => false

/-- Word k of an item: of a record its 32 bytes, of a sample a free value (log entry 38). -/
def traceItemWord (x : TraceItem) (k : Nat) : Word :=
  match x with
  | .record _ r => BitVec.ofNat 64 (leNat ((r.bytes.drop (8 * k)).take 8))
  | .index c i n => Config.traceWord c i n k

/-- Is the place inside the trace, or of a core, or of granted bytes that a path reaches, of a partition at D3 (Table 16.4)? -/
def State.probeReaches (s : State) (x : Config.ProbePlace) : Bool :=
  let core (c : Nat) : Bool := decide (c < 288) && (match s.partOf c with | some p => s.levelOf p == 3 | none => false)
  match x with
  | .tile c t b => core c && decide (t < 64) && decide (b + 8 ≤ 16384)
  | .scale c t b => core c && decide (t < 64) && decide (b + 8 ≤ 512)
  | .acc c row col => core c && decide (row < 1024) && decide (col + 1 < 512)
  | .mem a => ((List.range 16).any fun p => s.levelOf p == 3 && (List.range 8).all fun i => s.granted p (a + i)) &&
      (piecesOf a 8).all fun q => s.reachesAddr (portJunction 26) q.1
  | .trace i k => decide (i < s.probeTrace.length) && decide (k < 4)

/-- The 8 bytes at a place. Memory is read through its slices (R236), a reduce cell as scratch (R240). -/
def State.probeLoad (s : State) (x : Config.ProbePlace) : State × Word :=
  match x with
  | .tile c t b => (s, BitVec.ofNat 64 (memNat ((s.core c).tile t).data b 8))
  | .scale c t b => (s, BitVec.ofNat 64 (memNat ((s.core c).tile t).scales b 8))
  | .acc c row col => (s, (s.core c).mx.accAt row (col + 1) ++ (s.core c).mx.accAt row col)
  | .mem a => (s.agentReads 0 (piecesOf a 8), BitVec.ofNat 64 (leNat (s.devBytes a 8)))
  | .trace i k => (s, (s.probeTrace[i]?.map fun x => traceItemWord x k).getD 0)

/-- The 8 bytes at a place are written; nothing of a fenced core is (R246), nor of the trace. -/
def State.probeStore (s : State) (x : Config.ProbePlace) (v : Word) : State :=
  match x with
  | .tile c t b => s.writeCoreBlock c fun k => k.writeTile t { k.tile t with data := memWrite (k.tile t).data b (leBytes 8 v.toNat) }
  | .scale c t b => s.writeCoreBlock c fun k => k.writeTile t { k.tile t with scales := memWrite (k.tile t).scales b (leBytes 8 v.toNat) }
  | .acc c row col => s.writeCoreBlock c fun k =>
      { k with mx := (k.mx.setAcc row col (v.setWidth 32)).setAcc row (col + 1) ((v >>> 32).setWidth 32) }
  | .mem a => s.devWriteAt (portJunction 26) (piecesOf a 8) (leBytes 8 v.toNat)
  | .trace .. => s

/-- What DBGACC reads: none where the level does not permit it. BAR0 answers once stage 1 has ended and not in Off, where the identity and
the lifecycle still answer. -/
def State.probeRead (s : State) (off : Nat) : State × Option Word :=
  if off < 0x10000000 then
    if s.probeReads off && (s.bar0Up || openToProbe off) then
      let (s, v) := s.readRegister off 8
      (s, some v)
    else (s, none)
  else match Config.probePlace off with
    | some x => if s.probeReaches x then ((s.probeLoad x).1, some (s.probeLoad x).2) else (s, none)
    | none => (s, none)

/-- What DBGACC writes: nothing where the level does not permit it. -/
def State.probeWrite (s : State) (off : Nat) (v : Word) : State :=
  if off < 0x10000000 then if probeWrites off && s.bar0Up then s.bar0Write 0 off 8 v else s
  else match Config.probePlace off with
    | some x => if s.probeReaches x then s.probeStore x v else s
    | none => s

/-- DBGACC: bit 103 says write, bits 102:64 are the offset, bits 63:0 the data. What a read that the level does not permit returns is
free. -/
def execDbgacc (w : BitVec 104) (s : State) : Host.Outcome State Fault Refusal :=
  let off := w.toNat / 2 ^ 64 % 2 ^ 39
  let s := s.jtag 0x20 id
  .next (if !s.board.vaux12 then s
    else if w.getLsbD 103 then s.probeWrite off (w.setWidth 64)
    else match s.probeRead off with
      | (s, some v) => s.modBoard fun b => { b with dbgData := v }
      | (s, none) => (s.modBoard fun b => { b with dbgData := Config.freeWord s.freeCtr }).tick)

/-! ## PCIe functions (R202, R205, R206) -/

/-- Is there a function: the PF, or a VF that is enabled? -/
def Pcie.hasFn (x : Pcie) (fn : Nat) : Bool := fn == 0 || (x.sriov && decide (fn ≤ x.numVFs))

/-- Device ID of a function (Table 8.9). -/
def State.pciId (s : State) (fn : Nat) : BitVec 16 :=
  if fn = 0 then (if s.fuses.gradeB then 0x7240#16 else 0x7256#16) else (if s.fuses.gradeB then 0x7241#16 else 0x7257#16)

/-- May a vector of a function be sent now? -/
def Pcie.open (x : Pcie) (fn v : Nat) : Bool :=
  setHas x.msixOn fn && !setHas x.maskAll fn && setHas x.unmasked (4096 * fn + v)

/-- The pending vectors of a function that may be sent are sent, lowest first. -/
def State.sendPending (s : State) (hp : HostPort) (fn : Nat) : State :=
  let x := s.pcie hp
  let vs := (List.range 256).filter fun v => setHas x.pending (4096 * fn + v) && x.open fn v
  vs.foldl (fun s v =>
    let s := s.modPcie hp fun x => { x with pending := setDel x.pending (4096 * fn + v) }
    { s with intrs := s.intrs ++ [⟨hp, fn, v⟩] }) s

/-- A member put into a set, or taken out. -/
def setTo (t : NatSet) (n : Nat) (b : Bool) : NatSet := if b then setAdd t n else setDel t n

/-- The state of every VF goes when SR-IOV is disabled. -/
def Pcie.dropVFs (x : Pcie) : Pcie :=
  { x with msixOn := x.msixOn.filter (· == 0), maskAll := x.maskAll.filter (· == 0), d3hot := x.d3hot.filter (· == 0),
           unmasked := x.unmasked.filter (· < 4096), pending := x.pending.filter (· < 4096) }

/-- SR-IOV is enabled or disabled; NumVFs changes while it is disabled. -/
def Pcie.setSriov (x : Pcie) (enable : Bool) (numVFs : Nat) : Pcie :=
  let x := if !x.sriov && numVFs ≤ 16 then { x with numVFs := numVFs } else x
  if enable then { x with sriov := true } else { x.dropVFs with sriov := false }

/-- What a configuration request does. -/
def State.configure (s : State) (hp : HostPort) (r : CfgReq) : State :=
  match r with
  | .readId _ | .other => s
  | .sriov enable numVFs => s.modPcie hp (·.setSriov enable numVFs)
  | .msix fn enable maskAll =>
    if (s.pcie hp).hasFn fn then
      (s.modPcie hp fun x => { x with msixOn := setTo x.msixOn fn enable, maskAll := setTo x.maskAll fn maskAll }).sendPending hp fn
    else s
  | .power fn d3hot =>
    if (s.pcie hp).hasFn fn then s.modPcie hp fun x => { x with d3hot := setTo x.d3hot fn d3hot } else s
  | .bar4Size n => if n ≤ 6 then s.modPcie hp fun x => { x with bar4Log2 := n } else s

/-- Index of a host port among the optical ports (Table 0.5). -/
def hostPortIndex (hp : HostPort) : Nat := 26 + hp.val

/-- CONFIGURATION_REQUEST: answered once the host port is UP and stages 4 and 5 have ended; before, the request is to be retried. -/
def execConfigurationRequest (hp : HostPort) (r : CfgReq) (s : State) : Host.Outcome State Fault Refusal :=
  .next (if s.start.applied && (s.port (hostPortIndex hp)).state == .up then s.configure hp r else s)

/-- MSIX_TABLE_WRITE: a vector is masked, or unmasked and sent when it is pending. -/
def execMsixTableWrite (hp : HostPort) (fn : Nat) (vector : Nat) (masked : Bool) (s : State) : Host.Outcome State Fault Refusal :=
  .next (if (s.pcie hp).hasFn fn && decide (vector < if fn = 0 then 256 else 112) then
    (s.modPcie hp fun x => { x with unmasked := setTo x.unmasked (4096 * fn + vector) (!masked) }).sendPending hp fn
  else s)

end Sys2Proof.Machine
end

