-- ==== Sys2Proof/Machine/Dispatch.lean ====
section
/-!
DEFINITION. One arm for each command: its meaning, called directly.
-/
namespace Sys2Proof.Machine

/-- The effect of a command on everything but the queue. -/
def exec (i : Instr) (s : State) : Host.Outcome State Fault Refusal :=
  match i with
  | .sqAdd c g d a b => Sys2Proof.Machine.execSqAdd c g d a b s
  | .sqSub c g d a b => Sys2Proof.Machine.execSqSub c g d a b s
  | .sqMul c g d a b => Sys2Proof.Machine.execSqMul c g d a b s
  | .sqMulhu c g d a b => Sys2Proof.Machine.execSqMulhu c g d a b s
  | .sqAnd c g d a b => Sys2Proof.Machine.execSqAnd c g d a b s
  | .sqOr c g d a b => Sys2Proof.Machine.execSqOr c g d a b s
  | .sqXor c g d a b => Sys2Proof.Machine.execSqXor c g d a b s
  | .sqShl c g d a b => Sys2Proof.Machine.execSqShl c g d a b s
  | .sqShr c g d a b => Sys2Proof.Machine.execSqShr c g d a b s
  | .sqSra c g d a b => Sys2Proof.Machine.execSqSra c g d a b s
  | .sqMin c g d a b => Sys2Proof.Machine.execSqMin c g d a b s
  | .sqMax c g d a b => Sys2Proof.Machine.execSqMax c g d a b s
  | .sqMinu c g d a b => Sys2Proof.Machine.execSqMinu c g d a b s
  | .sqMaxu c g d a b => Sys2Proof.Machine.execSqMaxu c g d a b s
  | .sqFadd c g d a b => Sys2Proof.Machine.execSqFadd c g d a b s
  | .sqFsub c g d a b => Sys2Proof.Machine.execSqFsub c g d a b s
  | .sqFmul c g d a b => Sys2Proof.Machine.execSqFmul c g d a b s
  | .sqI2f c g d a => Sys2Proof.Machine.execSqI2f c g d a s
  | .sqF2i c g d a => Sys2Proof.Machine.execSqF2i c g d a s
  | .sqAddi c g d a imm => Sys2Proof.Machine.execSqAddi c g d a imm s
  | .sqAndi c g d a imm => Sys2Proof.Machine.execSqAndi c g d a imm s
  | .sqOri c g d a imm => Sys2Proof.Machine.execSqOri c g d a imm s
  | .sqXori c g d a imm => Sys2Proof.Machine.execSqXori c g d a imm s
  | .sqShli c g d a imm => Sys2Proof.Machine.execSqShli c g d a imm s
  | .sqShri c g d a imm => Sys2Proof.Machine.execSqShri c g d a imm s
  | .sqSrai c g d a imm => Sys2Proof.Machine.execSqSrai c g d a imm s
  | .sqCeq c g pd a b => Sys2Proof.Machine.execSqCeq c g pd a b s
  | .sqCne c g pd a b => Sys2Proof.Machine.execSqCne c g pd a b s
  | .sqClt c g pd a b => Sys2Proof.Machine.execSqClt c g pd a b s
  | .sqCge c g pd a b => Sys2Proof.Machine.execSqCge c g pd a b s
  | .sqCltu c g pd a b => Sys2Proof.Machine.execSqCltu c g pd a b s
  | .sqCgeu c g pd a b => Sys2Proof.Machine.execSqCgeu c g pd a b s
  | .sqCflt c g pd a b => Sys2Proof.Machine.execSqCflt c g pd a b s
  | .sqCfle c g pd a b => Sys2Proof.Machine.execSqCfle c g pd a b s
  | .sqCfeq c g pd a b => Sys2Proof.Machine.execSqCfeq c g pd a b s
  | .sqPand c g pd pa pb => Sys2Proof.Machine.execSqPand c g pd pa pb s
  | .sqPor c g pd pa pb => Sys2Proof.Machine.execSqPor c g pd pa pb s
  | .sqPxor c g pd pa pb => Sys2Proof.Machine.execSqPxor c g pd pa pb s
  | .sqPnot c g pd pa => Sys2Proof.Machine.execSqPnot c g pd pa s
  | .sqBr c g off => Sys2Proof.Machine.execSqBr c g off s
  | .sqLoop c g sa off => Sys2Proof.Machine.execSqLoop c g sa off s
  | .sqEnd c g => Sys2Proof.Machine.execSqEnd c g s
  | .sqLd c g sr sa size signed off => Sys2Proof.Machine.execSqLd c g sr sa size signed off s
  | .sqSt c g sr sa size off => Sys2Proof.Machine.execSqSt c g sr sa size off s
  | .sqNop c g => Sys2Proof.Machine.execSqNop c g s
  | .sqFence c g => Sys2Proof.Machine.execSqFence c g s
  | .sqRdsys c g sd sel => Sys2Proof.Machine.execSqRdsys c g sd sel s
  | .tcfg c g first count rows rowLog2 format group => Sys2Proof.Machine.execTcfg c g first count rows rowLog2 format group s
  | .bankWakeComplete c bank => Sys2Proof.Machine.execBankWakeComplete c bank s
  | .tld c g t sbase sstride => Sys2Proof.Machine.execTld c g t sbase sstride s
  | .tst c g t sbase sstride => Sys2Proof.Machine.execTst c g t sbase sstride s
  | .tldX c g t sbase sstride tidx => Sys2Proof.Machine.execTldX c g t sbase sstride tidx s
  | .tstX c g t sbase sstride tidx => Sys2Proof.Machine.execTstX c g t sbase sstride tidx s
  | .engineStart c e ecc => Sys2Proof.Machine.execEngineStart c e ecc s
  | .engineInstructionComplete c e pos => Sys2Proof.Machine.execEngineInstructionComplete c e pos s
  | .mxMm c g a alen b base add tp half => Sys2Proof.Machine.execMxMm c g a alen b base add tp half s
  | .mxMmq c g qmask b add tp half q0 q1 q2 q3 => Sys2Proof.Machine.execMxMmq c g qmask b add tp half q0 q1 q2 q3 s
  | .mxEw c g x y base add half => Sys2Proof.Machine.execMxEw c g x y base add half s
  | .mxAccld c g t base col16 => Sys2Proof.Machine.execMxAccld c g t base col16 s
  | .mxLdb c g b tp split => Sys2Proof.Machine.execMxLdb c g b tp split s
  | .bLoadComplete c buf ecc => Sys2Proof.Machine.execBLoadComplete c buf ecc s
  | .aRowRead c q rivals ecc => Sys2Proof.Machine.execARowRead c q rivals ecc s
  | .aRowEnter c withheld asks => Sys2Proof.Machine.execARowEnter c withheld asks s
  | .accResultWrite c q rivals => Sys2Proof.Machine.execAccResultWrite c q rivals s
  | .mxSt c g saddr sstride base rows col16 cols16 fmt rnd xpose clear => Sys2Proof.Machine.execMxSt c g saddr sstride base rows col16 cols16 fmt rnd xpose clear s
  | .fusedStoreComplete c ecc => Sys2Proof.Machine.execFusedStoreComplete c ecc s
  | .mxRmode c g mode longSum => Sys2Proof.Machine.execMxRmode c g mode longSum s
  | .mxSeed c g sseed sstep => Sys2Proof.Machine.execMxSeed c g sseed sstep s
  | .vxAdd c g v => Sys2Proof.Machine.execVxAdd c g v s
  | .vxMul c g v => Sys2Proof.Machine.execVxMul c g v s
  | .vxFma c g v => Sys2Proof.Machine.execVxFma c g v s
  | .vxMax c g v => Sys2Proof.Machine.execVxMax c g v s
  | .vxMin c g v => Sys2Proof.Machine.execVxMin c g v s
  | .vxCvt c g v => Sys2Proof.Machine.execVxCvt c g v s
  | .vxAct c g d s1 rnd slot w0 w1 => Sys2Proof.Machine.execVxAct c g d s1 rnd slot w0 w1 s
  | .vxActd c g d s1 s2 rnd pair w0 w1 => Sys2Proof.Machine.execVxActd c g d s1 s2 rnd pair w0 w1 s
  | .vxFn c g f d s1 rnd w0 w1 => Sys2Proof.Machine.execVxFn c g f d s1 rnd w0 w1 s
  | .vxRand c g d rnd w0 w1 => Sys2Proof.Machine.execVxRand c g d rnd w0 w1 s
  | .vxTload c g saddr slot => Sys2Proof.Machine.execVxTload c g saddr slot s
  | .vxSeed c g sseed sstep => Sys2Proof.Machine.execVxSeed c g sseed sstep s
  | .vxNorm c g r => Sys2Proof.Machine.execVxNorm c g r s
  | .vxNormb c g r => Sys2Proof.Machine.execVxNormb c g r s
  | .vxSmax c g r => Sys2Proof.Machine.execVxSmax c g r s
  | .vxSmaxb c g r => Sys2Proof.Machine.execVxSmaxb c g r s
  | .tmDld c g d sa => Sys2Proof.Machine.execTmDld c g d sa s
  | .tmDst c g d sa => Sys2Proof.Machine.execTmDst c g d sa s
  | .tmDset c g d sv word => Sys2Proof.Machine.execTmDset c g d sv word s
  | .tmCopy c g dd ds xpose => Sys2Proof.Machine.execTmCopy c g dd ds xpose s
  | .tmGather c g dd ds di scnt => Sys2Proof.Machine.execTmGather c g dd ds di scnt s
  | .tmScatter c g dd ds di scnt => Sys2Proof.Machine.execTmScatter c g dd ds di scnt s
  | .tmRput c g ds sdev srd b sig sd => Sys2Proof.Machine.execTmRput c g ds sdev srd b sig sd s
  | .tmRget c g dd sdev srd b sig sd => Sys2Proof.Machine.execTmRget c g dd sdev srd b sig sd s
  | .tmIngest c g dd ds xfs sxf xf sd => Sys2Proof.Machine.execTmIngest c g dd ds xfs sxf xf sd s
  | .ingestReadCompletion c reply data => Sys2Proof.Machine.execIngestReadCompletion c reply data s
  | .ingestCompletionTimeout c => Sys2Proof.Machine.execIngestCompletionTimeout c s
  | .syBind c g b sv => Sys2Proof.Machine.execSyBind c g b sv s
  | .syAdd c g b sv sd => Sys2Proof.Machine.execSyAdd c g b sv sd s
  | .syWait c g b sv st sd => Sys2Proof.Machine.execSyWait c g b sv st sd s
  | .syRead c g b sd => Sys2Proof.Machine.execSyRead c g b sd s
  | .syBar c g bar slap st sd => Sys2Proof.Machine.execSyBar c g bar slap st sd s
  | .syBarcfg c g bar scount sd => Sys2Proof.Machine.execSyBarcfg c g bar scount sd s
  | .waitTimeout p k ecc => Sys2Proof.Machine.execWaitTimeout p k ecc s
  | .upSq c g stab scnt sd reduce scell => Sys2Proof.Machine.execUpSq c g stab scnt sd reduce scell s
  | .upStep c g stab scnt se sg2 srec sd => Sys2Proof.Machine.execUpStep c g stab scnt se sg2 srec sd s
  | .upSetstep c g stab scnt sv => Sys2Proof.Machine.execUpSetstep c g stab scnt sv s
  | .updateHoldRelease c => Sys2Proof.Machine.execUpdateHoldRelease c s
  | .platformWordArrival c n => Sys2Proof.Machine.execPlatformWordArrival c n s
  | .ringDb p hp v => Sys2Proof.Machine.execRingDb p hp v s
  | .cqDb p hp v => Sys2Proof.Machine.execCqDb p hp v s
  | .nop h => Sys2Proof.Machine.execNop h s
  | .bind h ctx root => Sys2Proof.Machine.execBind h ctx root s
  | .unbind h => Sys2Proof.Machine.execUnbind h s
  | .load h slot srcHost src code codeBytes image => Sys2Proof.Machine.execLoad h slot srcHost src code codeBytes image s
  | .translationComplete p => Sys2Proof.Machine.execTranslationComplete p s
  | .unload h slot => Sys2Proof.Machine.execUnload h slot s
  | .launch h slot det arg mask => Sys2Proof.Machine.execLaunch h slot det arg mask s
  | .launchDeferredStart p index => Sys2Proof.Machine.execLaunchDeferredStart p index s
  | .resume h => Sys2Proof.Machine.execResume h s
  | .abort h => Sys2Proof.Machine.execAbort h s
  | .preempt h => Sys2Proof.Machine.execPreempt h s
  | .saveComplete p => Sys2Proof.Machine.execSaveComplete p s
  | .restore h => Sys2Proof.Machine.execRestore h s
  | .reset h discardParked => Sys2Proof.Machine.execReset h discardParked s
  | .resetComplete p => Sys2Proof.Machine.execResetComplete p s
  | .copy h dir src dst bytes data => Sys2Proof.Machine.execCopy h dir src dst bytes data s
  | .copyComplete p => Sys2Proof.Machine.execCopyComplete p s
  | .signal h baton ctx value => Sys2Proof.Machine.execSignal h baton ctx value s
  | .wait h baton value timeout => Sys2Proof.Machine.execWait h baton value timeout s
  | .timestamp h => Sys2Proof.Machine.execTimestamp h s
  | .completionRecordWrite p => Sys2Proof.Machine.execCompletionRecordWrite p s
  | .eventRecordWrite p => Sys2Proof.Machine.execEventRecordWrite p s
  | .consumerMirrorWrite p => Sys2Proof.Machine.execConsumerMirrorWrite p s
  | .ringCfgWrite p value => Sys2Proof.Machine.execRingCfgWrite p value s
  | .partRestart p hp => Sys2Proof.Machine.execPartRestart p hp s
  | .preemptNow p hp => Sys2Proof.Machine.execPreemptNow p hp s
  | .resetNow p hp => Sys2Proof.Machine.execResetNow p hp s
  | .partCntClr p hp => Sys2Proof.Machine.execPartCntClr p hp s
  | .vfFunctionLevelReset p => Sys2Proof.Machine.execVfFunctionLevelReset p s
  | .bar4Write hp off data => Sys2Proof.Machine.execBar4Write hp off data s
  | .registerWrite hp off size value => Sys2Proof.Machine.execRegisterWrite hp off size value s
  | .coreStallClr c => Sys2Proof.Machine.execCoreStallClr c s
  | .mxCntClr c => Sys2Proof.Machine.execMxCntClr c s
  | .vxCntClr c => Sys2Proof.Machine.execVxCntClr c s
  | .upCntClr c => Sys2Proof.Machine.execUpCntClr c s
  | .xbCntClr d => Sys2Proof.Machine.execXbCntClr d s
  | .syCntClr p => Sys2Proof.Machine.execSyCntClr p s
  | .portCntClr p => Sys2Proof.Machine.execPortCntClr p s
  | .ltCntClr => Sys2Proof.Machine.execLtCntClr s
  | .secCntClr => Sys2Proof.Machine.execSecCntClr s
  | .pwrCntClr => Sys2Proof.Machine.execPwrCntClr s
  | .xlatInval p => Sys2Proof.Machine.execXlatInval p s
  | .xlatInvalDone p => Sys2Proof.Machine.execXlatInvalDone p s
  | .l1EvictionWriteback c line ecc => Sys2Proof.Machine.execL1EvictionWriteback c line ecc s
  | .sliceRead port addr cycle ecc => Sys2Proof.Machine.execSliceRead port addr cycle ecc s
  | .sliceWrite addr data => Sys2Proof.Machine.execSliceWrite addr data s
  | .reduceContribution src addr data => Sys2Proof.Machine.execReduceContribution src addr data s
  | .reduceRetry d k => Sys2Proof.Machine.execReduceRetry d k s
  | .flowHoldRelease k => Sys2Proof.Machine.execFlowHoldRelease k s
  | .patrolScrub stack addr ecc => Sys2Proof.Machine.execPatrolScrub stack addr ecc s
  | .selfTestRun k => Sys2Proof.Machine.execSelfTestRun k s
  | .selfTestComplete k pass => Sys2Proof.Machine.execSelfTestComplete k pass s
  | .dataFlitReceive p f => Sys2Proof.Machine.execDataFlitReceive p f s
  | .controlFlitReceive p ackSeq nak credits => Sys2Proof.Machine.execControlFlitReceive p ackSeq nak credits s
  | .trainingFlitReceive p t => Sys2Proof.Machine.execTrainingFlitReceive p t s
  | .replayTimeout p => Sys2Proof.Machine.execReplayTimeout p s
  | .linkRetrain p => Sys2Proof.Machine.execLinkRetrain p s
  | .retrainTimeout p => Sys2Proof.Machine.execRetrainTimeout p s
  | .portRetrain p => Sys2Proof.Machine.execPortRetrain p s
  | .laserInputLoss li power => Sys2Proof.Machine.execLaserInputLoss li power s
  | .capLevelUpdate p level => Sys2Proof.Machine.execCapLevelUpdate p level s
  | .write p r => Sys2Proof.Machine.execWrite p r s
  | .write64 p r => Sys2Proof.Machine.execWrite64 p r s
  | .read p r => Sys2Proof.Machine.execRead p r s
  | .readData p r => Sys2Proof.Machine.execReadData p r s
  | .inc p r => Sys2Proof.Machine.execInc p r s
  | .ack p r => Sys2Proof.Machine.execAck p r s
  | .nack p r => Sys2Proof.Machine.execNack p r s
  | .transferAckTimeout w => Sys2Proof.Machine.execTransferAckTimeout w s
  | .prelockTransferTimeout c e => Sys2Proof.Machine.execPrelockTransferTimeout c e s
  | .longLineRecordReceive p r remaining farDomain farDev => Sys2Proof.Machine.execLongLineRecordReceive p r remaining farDomain farDev s
  | .rosterReceive p r => Sys2Proof.Machine.execRosterReceive p r s
  | .rosterApply => Sys2Proof.Machine.execRosterApply s
  | .rosterGraceExpiry => Sys2Proof.Machine.execRosterGraceExpiry s
  | .beaconSend => Sys2Proof.Machine.execBeaconSend s
  | .beaconReceive p dev hops value after => Sys2Proof.Machine.execBeaconReceive p dev hops value after s
  | .lockAchieved => Sys2Proof.Machine.execLockAchieved s
  | .holdoverEntry => Sys2Proof.Machine.execHoldoverEntry s
  | .unlockTimeout => Sys2Proof.Machine.execUnlockTimeout s
  | .backupTakeover => Sys2Proof.Machine.execBackupTakeover s
  | .ltNowRead => Sys2Proof.Machine.execLtNowRead s
  | .timetableArm e => Sys2Proof.Machine.execTimetableArm e s
  | .timetableCancel e => Sys2Proof.Machine.execTimetableCancel e s
  | .timetableCopyReceive t => Sys2Proof.Machine.execTimetableCopyReceive t s
  | .timetableFire e => Sys2Proof.Machine.execTimetableFire e s
  | .powerStep e => Sys2Proof.Machine.execPowerStep e s
  | .secureWindowEnd e => Sys2Proof.Machine.execSecureWindowEnd e s
  | .generationStageAdvance p => Sys2Proof.Machine.execGenerationStageAdvance p s
  | .unitCopied p ecc => Sys2Proof.Machine.execUnitCopied p ecc s
  | .lossWaitTimeout p => Sys2Proof.Machine.execLossWaitTimeout p s
  | .generationCommit p => Sys2Proof.Machine.execGenerationCommit p s
  | .twinRecordReceive p r => Sys2Proof.Machine.execTwinRecordReceive p r s
  | .abandon p => Sys2Proof.Machine.execAbandon p s
  | .secRestore p => Sys2Proof.Machine.execSecRestore p s
  | .restoreOlder p => Sys2Proof.Machine.execRestoreOlder p s
  | .restoreComplete p => Sys2Proof.Machine.execRestoreComplete p s
  | .pairLostTimeout => Sys2Proof.Machine.execPairLostTimeout s
  | .clVerify => Sys2Proof.Machine.execClVerify s
  | .clApply => Sys2Proof.Machine.execClApply s
  | .applyComplete => Sys2Proof.Machine.execApplyComplete s
  | .clPersist => Sys2Proof.Machine.execClPersist s
  | .persistComplete readBackOk => Sys2Proof.Machine.execPersistComplete readBackOk s
  | .resetNAssert lowUs => Sys2Proof.Machine.execResetNAssert lowUs s
  | .resetNRise => Sys2Proof.Machine.execResetNRise s
  | .fusesLoaded => Sys2Proof.Machine.execFusesLoaded s
  | .nearMemoryZeroDone => Sys2Proof.Machine.execNearMemoryZeroDone s
  | .farMemoryZeroDone => Sys2Proof.Machine.execFarMemoryZeroDone s
  | .bootImageApply => Sys2Proof.Machine.execBootImageApply s
  | .marginPlanStart => Sys2Proof.Machine.execMarginPlanStart s
  | .ageHoursPlan => Sys2Proof.Machine.execAgeHoursPlan s
  | .marginPlanComplete table die mon worst => Sys2Proof.Machine.execMarginPlanComplete table die mon worst s
  | .pwrGo => Sys2Proof.Machine.execPwrGo s
  | .powerStepComplete => Sys2Proof.Machine.execPowerStepComplete s
  | .capUpdate avg1ms avg100ms inMv w => Sys2Proof.Machine.execCapUpdate avg1ms avg100ms inMv w s
  | .thermalWithholdStep die temp => Sys2Proof.Machine.execThermalWithholdStep die temp s
  | .thermalTrip die temp => Sys2Proof.Machine.execThermalTrip die temp s
  | .vin48Fail => Sys2Proof.Machine.execVin48Fail s
  | .refclkFail => Sys2Proof.Machine.execRefclkFail s
  | .vaux12Fail => Sys2Proof.Machine.execVaux12Fail s
  | .pwrbrkNChange low => Sys2Proof.Machine.execPwrbrkNChange low s
  | .i3cReadRequest off => Sys2Proof.Machine.execI3cReadRequest off s
  | .i3cWriteRequest off value => Sys2Proof.Machine.execI3cWriteRequest off value s
  | .i3cAddressAssign setdasa addr => Sys2Proof.Machine.execI3cAddressAssign setdasa addr s
  | .keyWrite => Sys2Proof.Machine.execKeyWrite s
  | .keyRevoke => Sys2Proof.Machine.execKeyRevoke s
  | .attGo => Sys2Proof.Machine.execAttGo s
  | .attestationComplete => Sys2Proof.Machine.execAttestationComplete s
  | .dbgLevelWrite scope level => Sys2Proof.Machine.execDbgLevelWrite scope level s
  | .dbgChallenge => Sys2Proof.Machine.execDbgChallenge s
  | .dbgSubmit => Sys2Proof.Machine.execDbgSubmit s
  | .lifecycleChange => Sys2Proof.Machine.execLifecycleChange s
  | .challengeExpiry => Sys2Proof.Machine.execChallengeExpiry s
  | .wipeComplete scope => Sys2Proof.Machine.execWipeComplete scope s
  | .debugHalt c => Sys2Proof.Machine.execDebugHalt c s
  | .debugSingleStep c op => Sys2Proof.Machine.execDebugSingleStep c op s
  | .debugResume c => Sys2Proof.Machine.execDebugResume c s
  | .extest bits => Sys2Proof.Machine.execExtest bits s
  | .idcode => Sys2Proof.Machine.execIdcode s
  | .samplePreload bits => Sys2Proof.Machine.execSamplePreload bits s
  | .dbgacc w => Sys2Proof.Machine.execDbgacc w s
  | .bypass code tdi => Sys2Proof.Machine.execBypass code tdi s
  | .sequencerInstructionComplete c => Sys2Proof.Machine.execSequencerInstructionComplete c s
  | .configurationRequest hp r => Sys2Proof.Machine.execConfigurationRequest hp r s
  | .msixTableWrite hp fn vector masked => Sys2Proof.Machine.execMsixTableWrite hp fn vector masked s
  | .laserInputReturn li power => Sys2Proof.Machine.execLaserInputReturn li power s
  | .peerPortDown p => Sys2Proof.Machine.execPeerPortDown p s
  | .rosterPublish r => Sys2Proof.Machine.execRosterPublish r s
  | .consistChecksComplete => Sys2Proof.Machine.execConsistChecksComplete s

end Sys2Proof.Machine
end

