-- ==== Sys2Proof/Machine/Step.lean ====
section
/-!
DEFINITION. One step of the block: the command at the front of the queue, run on the state with the queue's rest; an empty
queue is one nanosecond in which nothing is commanded.
-/
namespace Sys2Proof.Machine

/-- What happens when nothing is commanded: one nanosecond passes on Line Time and on the device's own count, each while it
runs (R303; DESIGN CHOICE, log entry 1). -/
def idle (s : State) : State := s.pass 1

/-- Take the command at the front of the queue and run it on the state with the queue's rest. -/
def step (s : State) : Host.Outcome State Fault Refusal :=
  match s.pending with
  | [] => .next (idle s)
  | c :: rest => exec c { s with pending := rest }

/-- `s` with the command that the word spells in front; no word spells one. -/
def State.withFetchWord (s : State) (nbits w : Nat) : State :=
  match Sys2Proof.decodeTableWord nbits w with
  | some i => { s with pending := i :: s.pending }
  | none => s

end Sys2Proof.Machine
end

