-- ==== Sys2Proof/Laws/Table.lean ====
section
/-!
SUPPORT. The laws of the list types that hold indexed state: a read after a write, and the canonical form of a memory, which
every memory operation keeps.
-/
namespace Sys2Proof.Machine

/-! ## Tables -/

theorem tabGet_tabPut {α : Type} (d : α) (t : Tab α) (n : Nat) (v : α) (m : Nat) :
    tabGet d (tabPut t n v) m = if n = m then v else tabGet d t m := by
  induction t with
  | nil => simp [tabPut, tabGet]
  | cons p t ih =>
    obtain ⟨k, w⟩ := p
    unfold tabPut
    split
    · rename_i h; subst h
      by_cases hm : k = m <;> simp [tabGet, hm]
    · split
      · simp [tabGet]
      · by_cases hm : n = m <;> by_cases hkm : k = m <;> simp_all [tabGet]

@[simp] theorem tabGet_tabPut_same {α : Type} (d : α) (t : Tab α) (n : Nat) (v : α) : tabGet d (tabPut t n v) n = v := by
  simp [tabGet_tabPut]

theorem tabGet_tabPut_other {α : Type} (d : α) (t : Tab α) {n m : Nat} (v : α) (h : n ≠ m) :
    tabGet d (tabPut t n v) m = tabGet d t m := by
  simp [tabGet_tabPut, h]

theorem tabGet_tabDel {α : Type} (d : α) (t : Tab α) (n m : Nat) :
    tabGet d (tabDel t n) m = if n = m then d else tabGet d t m := by
  induction t with
  | nil => simp [tabDel, tabGet]
  | cons p t ih =>
    obtain ⟨k, w⟩ := p
    rw [tabDel] at ih ⊢
    by_cases hk : k = n <;> by_cases hm : n = m <;> by_cases hkm : k = m <;> simp_all [tabGet]

theorem tabGet_tabSet {α : Type} [DecidableEq α] (d : α) (t : Tab α) (n : Nat) (v : α) (m : Nat) :
    tabGet d (tabSet d t n v) m = if n = m then v else tabGet d t m := by
  unfold tabSet
  split
  · rename_i h
    rw [tabGet_tabDel, h]
  · exact tabGet_tabPut d t n v m

/-! ## Memories -/

theorem memGet_memSet (m : Mem) (a b : Nat) (v : Byte) : memGet (memSet m a v) b = if a = b then v else memGet m b :=
  tabGet_tabSet memDefault m a v b

/-- A write of bytes leaves every address outside them as it was. -/
theorem memGet_memWrite_outside (bs : List Byte) (m : Mem) (a b : Nat) (h : b < a ∨ a + bs.length ≤ b) :
    memGet (memWrite m a bs) b = memGet m b := by
  induction bs generalizing m a with
  | nil => rfl
  | cons x bs ih =>
    simp only [List.length_cons] at h
    rw [memWrite, ih _ _ (by omega), memGet_memSet, if_neg (by omega)]

/-- A write of bytes stores each at its address. -/
theorem memGet_memWrite_inside (bs : List Byte) (m : Mem) (a i : Nat) (h : i < bs.length) :
    memGet (memWrite m a bs) (a + i) = bs[i] := by
  induction bs generalizing m a i with
  | nil => simp at h
  | cons x bs ih =>
    cases i with
    | zero =>
      rw [memWrite, memGet_memWrite_outside _ _ _ _ (by omega), memGet_memSet]
      simp
    | succ i =>
      have := ih (memSet m a x) (a + 1) i (by simpa using h)
      rw [memWrite, show a + (i + 1) = a + 1 + i by omega, this]
      simp

theorem memGet_memZero (m : Mem) (a n b : Nat) :
    memGet (memZero m a n) b = if a ≤ b ∧ b < a + n then 0 else memGet m b := by
  induction m with
  | nil => simp [memZero, memGet, tabGet, memDefault]
  | cons p m ih =>
    obtain ⟨k, w⟩ := p
    simp only [memGet, memZero, memDefault] at ih ⊢
    by_cases hin : k < a ∨ a + n ≤ k <;> by_cases hk : k = b <;> by_cases hb : a ≤ b ∧ b < a + n <;>
      simp_all [tabGet] <;> omega

/-! ## The canonical form -/

/-- A memory whose addresses rise from above `lo` also rises from any lower bound. -/
theorem memWfFrom_mono {lo lo' : Nat} (h : lo' ≤ lo) {m : Mem} (w : memWfFrom lo m = true) : memWfFrom lo' m = true := by
  cases m with
  | nil => rfl
  | cons p m =>
    obtain ⟨a, v⟩ := p
    simp only [memWfFrom, Bool.and_eq_true, decide_eq_true_eq] at w ⊢
    exact ⟨⟨by omega, w.1.2⟩, w.2⟩

theorem memWfFrom_put {lo n : Nat} {v : Byte} (hn : lo ≤ n) (hv : v ≠ memDefault) {m : Mem} (w : memWfFrom lo m = true) :
    memWfFrom lo (tabPut m n v) = true := by
  induction m generalizing lo with
  | nil => simp [tabPut, memWfFrom, hn, hv]
  | cons p m ih =>
    obtain ⟨k, x⟩ := p
    simp only [memWfFrom, Bool.and_eq_true, decide_eq_true_eq, bne_iff_ne, ne_eq] at w
    obtain ⟨⟨hk, hx⟩, hm⟩ := w
    unfold tabPut
    split
    · rename_i h; subst h
      simp [memWfFrom, hn, hv, hm]
    · split
      · rename_i h1 h2
        simp [memWfFrom, hn, hv, hx, hm]
        omega
      · rename_i h1 h2
        simp [memWfFrom, hk, hx, ih (by omega) hm]

theorem memWfFrom_filter (f : Nat × Byte → Bool) {lo : Nat} {m : Mem} (w : memWfFrom lo m = true) :
    memWfFrom lo (m.filter f) = true := by
  induction m generalizing lo with
  | nil => rfl
  | cons p m ih =>
    obtain ⟨k, x⟩ := p
    simp only [memWfFrom, Bool.and_eq_true, decide_eq_true_eq, bne_iff_ne, ne_eq] at w
    obtain ⟨⟨hk, hx⟩, hm⟩ := w
    rw [List.filter_cons]
    split
    · simp [memWfFrom, hk, hx, ih hm]
    · exact memWfFrom_mono (by omega) (ih hm)

/-- The empty memory is canonical. -/
@[simp] theorem memory_wf_nil : Memory.wf [] = true := rfl

/-- Writing one byte keeps the canonical form. -/
theorem memory_wf_memSet {m : Mem} (w : Memory.wf m = true) (a : Nat) (v : Byte) : Memory.wf (memSet m a v) = true := by
  unfold memSet tabSet
  split
  · exact memWfFrom_filter _ w
  · rename_i h
    exact memWfFrom_put (Nat.zero_le a) h w

/-- Writing bytes keeps the canonical form. -/
theorem memory_wf_memWrite (bs : List Byte) {m : Mem} (w : Memory.wf m = true) (a : Nat) :
    Memory.wf (memWrite m a bs) = true := by
  induction bs generalizing m a with
  | nil => exact w
  | cons b bs ih => exact ih (memory_wf_memSet w a b) (a + 1)

/-- Zeroing a range keeps the canonical form. -/
theorem memory_wf_memZero {m : Mem} (w : Memory.wf m = true) (a n : Nat) : Memory.wf (memZero m a n) = true :=
  memWfFrom_filter _ w

end Sys2Proof.Machine
end

