-- ==== Sys2Proof/Laws/State.lean ====
section
/-!
SUPPORT. What each named update of the state leaves unchanged, field by field, and what a read after an update gives.
-/
namespace Sys2Proof.Machine

/-! ## A read after an update -/

theorem State.core_setCore (s : State) (c : Nat) (k : Core) (d : Nat) :
    (s.setCore c k).core d = if c = d then k else s.core d := tabGet_tabPut Core.reset s.cores c k d

@[simp] theorem State.core_setCore_same (s : State) (c : Nat) (k : Core) : (s.setCore c k).core c = k := by
  simp [State.core_setCore]

theorem State.core_setCore_other (s : State) {c d : Nat} (k : Core) (h : c ≠ d) : (s.setCore c k).core d = s.core d := by
  simp [State.core_setCore, h]

theorem State.core_modCore (s : State) (c : Nat) (f : Core → Core) (d : Nat) :
    (s.modCore c f).core d = if c = d then f (s.core c) else s.core d := State.core_setCore s c _ d

@[simp] theorem State.core_modCore_same (s : State) (c : Nat) (f : Core → Core) : (s.modCore c f).core c = f (s.core c) := by
  simp [State.core_modCore]

theorem State.core_modCore_other (s : State) {c d : Nat} (f : Core → Core) (h : c ≠ d) :
    (s.modCore c f).core d = s.core d := by
  simp [State.core_modCore, h]

theorem State.part_setPart (s : State) (p : Nat) (x : Part) (q : Nat) :
    (s.setPart p x).part q = if p = q then x else s.part q := tabGet_tabPut Part.reset s.parts p x q

theorem State.part_modPart (s : State) (p : Nat) (f : Part → Part) (q : Nat) :
    (s.modPart p f).part q = if p = q then f (s.part p) else s.part q := State.part_setPart s p _ q

@[simp] theorem State.part_modPart_same (s : State) (p : Nat) (f : Part → Part) : (s.modPart p f).part p = f (s.part p) := by
  simp [State.part_modPart]

theorem State.part_modPart_other (s : State) {p q : Nat} (f : Part → Part) (h : p ≠ q) :
    (s.modPart p f).part q = s.part q := by
  simp [State.part_modPart, h]

theorem State.die_modDie (s : State) (d : Nat) (f : Die → Die) (e : Nat) :
    (s.modDie d f).die e = if d = e then f (s.die d) else s.die e := tabGet_tabPut Die.reset s.dies d _ e

theorem State.port_modPort (s : State) (p : Nat) (f : Port → Port) (q : Nat) :
    (s.modPort p f).port q = if p = q then f (s.port p) else s.port q := tabGet_tabPut Port.reset s.ports p _ q

theorem State.stack_modStack (s : State) (n : Nat) (f : Stack → Stack) (m : Nat) :
    (s.modStack n f).stack m = if n = m then f (s.stack n) else s.stack m := tabGet_tabPut Stack.reset s.memStacks n _ m

theorem State.ttEntry_modTt (s : State) (e : Nat) (f : TtEntry → TtEntry) (d : Nat) :
    (s.modTt e f).ttEntry d = if e = d then f (s.ttEntry e) else s.ttEntry d := tabGet_tabPut TtEntry.reset s.tt e _ d

/-! ## setCore -/

@[simp] theorem State.setCore_fuses (s : State) (c : Nat) (k : Core) : (s.setCore c k).fuses = s.fuses := rfl
@[simp] theorem State.setCore_start (s : State) (c : Nat) (k : Core) : (s.setCore c k).start = s.start := rfl
@[simp] theorem State.setCore_parts (s : State) (c : Nat) (k : Core) : (s.setCore c k).parts = s.parts := rfl
@[simp] theorem State.setCore_dies (s : State) (c : Nat) (k : Core) : (s.setCore c k).dies = s.dies := rfl
@[simp] theorem State.setCore_mem (s : State) (c : Nat) (k : Core) : (s.setCore c k).mem = s.mem := rfl
@[simp] theorem State.setCore_poison (s : State) (c : Nat) (k : Core) : (s.setCore c k).poison = s.poison := rfl
@[simp] theorem State.setCore_memStacks (s : State) (c : Nat) (k : Core) : (s.setCore c k).memStacks = s.memStacks := rfl
@[simp] theorem State.setCore_fabric (s : State) (c : Nat) (k : Core) : (s.setCore c k).fabric = s.fabric := rfl
@[simp] theorem State.setCore_holds (s : State) (c : Nat) (k : Core) : (s.setCore c k).holds = s.holds := rfl
@[simp] theorem State.setCore_ports (s : State) (c : Nat) (k : Core) : (s.setCore c k).ports = s.ports := rfl
@[simp] theorem State.setCore_inFlows (s : State) (c : Nat) (k : Core) : (s.setCore c k).inFlows = s.inFlows := rfl
@[simp] theorem State.setCore_outFlows (s : State) (c : Nat) (k : Core) : (s.setCore c k).outFlows = s.outFlows := rfl
@[simp] theorem State.setCore_loopback (s : State) (c : Nat) (k : Core) : (s.setCore c k).loopback = s.loopback := rfl
@[simp] theorem State.setCore_consist (s : State) (c : Nat) (k : Core) : (s.setCore c k).consist = s.consist := rfl
@[simp] theorem State.setCore_loader (s : State) (c : Nat) (k : Core) : (s.setCore c k).loader = s.loader := rfl
@[simp] theorem State.setCore_lt (s : State) (c : Nat) (k : Core) : (s.setCore c k).lt = s.lt := rfl
@[simp] theorem State.setCore_tt (s : State) (c : Nat) (k : Core) : (s.setCore c k).tt = s.tt := rfl
@[simp] theorem State.setCore_windows (s : State) (c : Nat) (k : Core) : (s.setCore c k).windows = s.windows := rfl
@[simp] theorem State.setCore_pfLog (s : State) (c : Nat) (k : Core) : (s.setCore c k).pfLog = s.pfLog := rfl
@[simp] theorem State.setCore_pfNext (s : State) (c : Nat) (k : Core) : (s.setCore c k).pfNext = s.pfNext := rfl
@[simp] theorem State.setCore_roster (s : State) (c : Nat) (k : Core) : (s.setCore c k).roster = s.roster := rfl
@[simp] theorem State.setCore_prevRoster (s : State) (c : Nat) (k : Core) : (s.setCore c k).prevRoster = s.prevRoster := rfl
@[simp] theorem State.setCore_rosters (s : State) (c : Nat) (k : Core) : (s.setCore c k).rosters = s.rosters := rfl
@[simp] theorem State.setCore_lastEffective (s : State) (c : Nat) (k : Core) : (s.setCore c k).lastEffective = s.lastEffective := rfl
@[simp] theorem State.setCore_twin (s : State) (c : Nat) (k : Core) : (s.setCore c k).twin = s.twin := rfl
@[simp] theorem State.setCore_fencedMap (s : State) (c : Nat) (k : Core) : (s.setCore c k).fencedMap = s.fencedMap := rfl
@[simp] theorem State.setCore_spareUse (s : State) (c : Nat) (k : Core) : (s.setCore c k).spareUse = s.spareUse := rfl
@[simp] theorem State.setCore_security (s : State) (c : Nat) (k : Core) : (s.setCore c k).security = s.security := rfl
@[simp] theorem State.setCore_power (s : State) (c : Nat) (k : Core) : (s.setCore c k).power = s.power := rfl
@[simp] theorem State.setCore_board (s : State) (c : Nat) (k : Core) : (s.setCore c k).board = s.board := rfl
@[simp] theorem State.setCore_pcie0 (s : State) (c : Nat) (k : Core) : (s.setCore c k).pcie0 = s.pcie0 := rfl
@[simp] theorem State.setCore_pcie1 (s : State) (c : Nat) (k : Core) : (s.setCore c k).pcie1 = s.pcie1 := rfl
@[simp] theorem State.setCore_bar4Base (s : State) (c : Nat) (k : Core) : (s.setCore c k).bar4Base = s.bar4Base := rfl
@[simp] theorem State.setCore_intrs (s : State) (c : Nat) (k : Core) : (s.setCore c k).intrs = s.intrs := rfl
@[simp] theorem State.setCore_freeCtr (s : State) (c : Nat) (k : Core) : (s.setCore c k).freeCtr = s.freeCtr := rfl
@[simp] theorem State.setCore_pending (s : State) (c : Nat) (k : Core) : (s.setCore c k).pending = s.pending := rfl
@[simp] theorem State.setCore_sealed (s : State) (c : Nat) (k : Core) : (s.setCore c k).sealed = s.sealed := rfl
@[simp] theorem State.setCore_trace (s : State) (c : Nat) (k : Core) : (s.setCore c k).trace = s.trace := rfl
@[simp] theorem State.setCore_hostOut0 (s : State) (c : Nat) (k : Core) : (s.setCore c k).hostOut0 = s.hostOut0 := rfl
@[simp] theorem State.setCore_hostOut1 (s : State) (c : Nat) (k : Core) : (s.setCore c k).hostOut1 = s.hostOut1 := rfl
@[simp] theorem State.setCore_part (s : State) (c : Nat) (k : Core) (j : Nat) : (s.setCore c k).part j = s.part j := rfl
@[simp] theorem State.setCore_die (s : State) (c : Nat) (k : Core) (j : Nat) : (s.setCore c k).die j = s.die j := rfl
@[simp] theorem State.setCore_port (s : State) (c : Nat) (k : Core) (j : Nat) : (s.setCore c k).port j = s.port j := rfl
@[simp] theorem State.setCore_ttEntry (s : State) (c : Nat) (k : Core) (j : Nat) : (s.setCore c k).ttEntry j = s.ttEntry j := rfl
@[simp] theorem State.setCore_stack (s : State) (c : Nat) (k : Core) (j : Nat) : (s.setCore c k).stack j = s.stack j := rfl

/-! ## modCore -/

@[simp] theorem State.modCore_fuses (s : State) (c : Nat) (f : Core → Core) : (s.modCore c f).fuses = s.fuses := rfl
@[simp] theorem State.modCore_start (s : State) (c : Nat) (f : Core → Core) : (s.modCore c f).start = s.start := rfl
@[simp] theorem State.modCore_parts (s : State) (c : Nat) (f : Core → Core) : (s.modCore c f).parts = s.parts := rfl
@[simp] theorem State.modCore_dies (s : State) (c : Nat) (f : Core → Core) : (s.modCore c f).dies = s.dies := rfl
@[simp] theorem State.modCore_mem (s : State) (c : Nat) (f : Core → Core) : (s.modCore c f).mem = s.mem := rfl
@[simp] theorem State.modCore_poison (s : State) (c : Nat) (f : Core → Core) : (s.modCore c f).poison = s.poison := rfl
@[simp] theorem State.modCore_memStacks (s : State) (c : Nat) (f : Core → Core) : (s.modCore c f).memStacks = s.memStacks := rfl
@[simp] theorem State.modCore_fabric (s : State) (c : Nat) (f : Core → Core) : (s.modCore c f).fabric = s.fabric := rfl
@[simp] theorem State.modCore_holds (s : State) (c : Nat) (f : Core → Core) : (s.modCore c f).holds = s.holds := rfl
@[simp] theorem State.modCore_ports (s : State) (c : Nat) (f : Core → Core) : (s.modCore c f).ports = s.ports := rfl
@[simp] theorem State.modCore_inFlows (s : State) (c : Nat) (f : Core → Core) : (s.modCore c f).inFlows = s.inFlows := rfl
@[simp] theorem State.modCore_outFlows (s : State) (c : Nat) (f : Core → Core) : (s.modCore c f).outFlows = s.outFlows := rfl
@[simp] theorem State.modCore_loopback (s : State) (c : Nat) (f : Core → Core) : (s.modCore c f).loopback = s.loopback := rfl
@[simp] theorem State.modCore_consist (s : State) (c : Nat) (f : Core → Core) : (s.modCore c f).consist = s.consist := rfl
@[simp] theorem State.modCore_loader (s : State) (c : Nat) (f : Core → Core) : (s.modCore c f).loader = s.loader := rfl
@[simp] theorem State.modCore_lt (s : State) (c : Nat) (f : Core → Core) : (s.modCore c f).lt = s.lt := rfl
@[simp] theorem State.modCore_tt (s : State) (c : Nat) (f : Core → Core) : (s.modCore c f).tt = s.tt := rfl
@[simp] theorem State.modCore_windows (s : State) (c : Nat) (f : Core → Core) : (s.modCore c f).windows = s.windows := rfl
@[simp] theorem State.modCore_pfLog (s : State) (c : Nat) (f : Core → Core) : (s.modCore c f).pfLog = s.pfLog := rfl
@[simp] theorem State.modCore_pfNext (s : State) (c : Nat) (f : Core → Core) : (s.modCore c f).pfNext = s.pfNext := rfl
@[simp] theorem State.modCore_roster (s : State) (c : Nat) (f : Core → Core) : (s.modCore c f).roster = s.roster := rfl
@[simp] theorem State.modCore_prevRoster (s : State) (c : Nat) (f : Core → Core) : (s.modCore c f).prevRoster = s.prevRoster := rfl
@[simp] theorem State.modCore_rosters (s : State) (c : Nat) (f : Core → Core) : (s.modCore c f).rosters = s.rosters := rfl
@[simp] theorem State.modCore_lastEffective (s : State) (c : Nat) (f : Core → Core) : (s.modCore c f).lastEffective = s.lastEffective := rfl
@[simp] theorem State.modCore_twin (s : State) (c : Nat) (f : Core → Core) : (s.modCore c f).twin = s.twin := rfl
@[simp] theorem State.modCore_fencedMap (s : State) (c : Nat) (f : Core → Core) : (s.modCore c f).fencedMap = s.fencedMap := rfl
@[simp] theorem State.modCore_spareUse (s : State) (c : Nat) (f : Core → Core) : (s.modCore c f).spareUse = s.spareUse := rfl
@[simp] theorem State.modCore_security (s : State) (c : Nat) (f : Core → Core) : (s.modCore c f).security = s.security := rfl
@[simp] theorem State.modCore_power (s : State) (c : Nat) (f : Core → Core) : (s.modCore c f).power = s.power := rfl
@[simp] theorem State.modCore_board (s : State) (c : Nat) (f : Core → Core) : (s.modCore c f).board = s.board := rfl
@[simp] theorem State.modCore_pcie0 (s : State) (c : Nat) (f : Core → Core) : (s.modCore c f).pcie0 = s.pcie0 := rfl
@[simp] theorem State.modCore_pcie1 (s : State) (c : Nat) (f : Core → Core) : (s.modCore c f).pcie1 = s.pcie1 := rfl
@[simp] theorem State.modCore_bar4Base (s : State) (c : Nat) (f : Core → Core) : (s.modCore c f).bar4Base = s.bar4Base := rfl
@[simp] theorem State.modCore_intrs (s : State) (c : Nat) (f : Core → Core) : (s.modCore c f).intrs = s.intrs := rfl
@[simp] theorem State.modCore_freeCtr (s : State) (c : Nat) (f : Core → Core) : (s.modCore c f).freeCtr = s.freeCtr := rfl
@[simp] theorem State.modCore_pending (s : State) (c : Nat) (f : Core → Core) : (s.modCore c f).pending = s.pending := rfl
@[simp] theorem State.modCore_sealed (s : State) (c : Nat) (f : Core → Core) : (s.modCore c f).sealed = s.sealed := rfl
@[simp] theorem State.modCore_trace (s : State) (c : Nat) (f : Core → Core) : (s.modCore c f).trace = s.trace := rfl
@[simp] theorem State.modCore_hostOut0 (s : State) (c : Nat) (f : Core → Core) : (s.modCore c f).hostOut0 = s.hostOut0 := rfl
@[simp] theorem State.modCore_hostOut1 (s : State) (c : Nat) (f : Core → Core) : (s.modCore c f).hostOut1 = s.hostOut1 := rfl
@[simp] theorem State.modCore_part (s : State) (c : Nat) (f : Core → Core) (j : Nat) : (s.modCore c f).part j = s.part j := rfl
@[simp] theorem State.modCore_die (s : State) (c : Nat) (f : Core → Core) (j : Nat) : (s.modCore c f).die j = s.die j := rfl
@[simp] theorem State.modCore_port (s : State) (c : Nat) (f : Core → Core) (j : Nat) : (s.modCore c f).port j = s.port j := rfl
@[simp] theorem State.modCore_ttEntry (s : State) (c : Nat) (f : Core → Core) (j : Nat) : (s.modCore c f).ttEntry j = s.ttEntry j := rfl
@[simp] theorem State.modCore_stack (s : State) (c : Nat) (f : Core → Core) (j : Nat) : (s.modCore c f).stack j = s.stack j := rfl

/-! ## setPart -/

@[simp] theorem State.setPart_fuses (s : State) (p : Nat) (x : Part) : (s.setPart p x).fuses = s.fuses := rfl
@[simp] theorem State.setPart_start (s : State) (p : Nat) (x : Part) : (s.setPart p x).start = s.start := rfl
@[simp] theorem State.setPart_cores (s : State) (p : Nat) (x : Part) : (s.setPart p x).cores = s.cores := rfl
@[simp] theorem State.setPart_dies (s : State) (p : Nat) (x : Part) : (s.setPart p x).dies = s.dies := rfl
@[simp] theorem State.setPart_mem (s : State) (p : Nat) (x : Part) : (s.setPart p x).mem = s.mem := rfl
@[simp] theorem State.setPart_poison (s : State) (p : Nat) (x : Part) : (s.setPart p x).poison = s.poison := rfl
@[simp] theorem State.setPart_memStacks (s : State) (p : Nat) (x : Part) : (s.setPart p x).memStacks = s.memStacks := rfl
@[simp] theorem State.setPart_fabric (s : State) (p : Nat) (x : Part) : (s.setPart p x).fabric = s.fabric := rfl
@[simp] theorem State.setPart_holds (s : State) (p : Nat) (x : Part) : (s.setPart p x).holds = s.holds := rfl
@[simp] theorem State.setPart_ports (s : State) (p : Nat) (x : Part) : (s.setPart p x).ports = s.ports := rfl
@[simp] theorem State.setPart_inFlows (s : State) (p : Nat) (x : Part) : (s.setPart p x).inFlows = s.inFlows := rfl
@[simp] theorem State.setPart_outFlows (s : State) (p : Nat) (x : Part) : (s.setPart p x).outFlows = s.outFlows := rfl
@[simp] theorem State.setPart_loopback (s : State) (p : Nat) (x : Part) : (s.setPart p x).loopback = s.loopback := rfl
@[simp] theorem State.setPart_consist (s : State) (p : Nat) (x : Part) : (s.setPart p x).consist = s.consist := rfl
@[simp] theorem State.setPart_loader (s : State) (p : Nat) (x : Part) : (s.setPart p x).loader = s.loader := rfl
@[simp] theorem State.setPart_lt (s : State) (p : Nat) (x : Part) : (s.setPart p x).lt = s.lt := rfl
@[simp] theorem State.setPart_tt (s : State) (p : Nat) (x : Part) : (s.setPart p x).tt = s.tt := rfl
@[simp] theorem State.setPart_windows (s : State) (p : Nat) (x : Part) : (s.setPart p x).windows = s.windows := rfl
@[simp] theorem State.setPart_pfLog (s : State) (p : Nat) (x : Part) : (s.setPart p x).pfLog = s.pfLog := rfl
@[simp] theorem State.setPart_pfNext (s : State) (p : Nat) (x : Part) : (s.setPart p x).pfNext = s.pfNext := rfl
@[simp] theorem State.setPart_roster (s : State) (p : Nat) (x : Part) : (s.setPart p x).roster = s.roster := rfl
@[simp] theorem State.setPart_prevRoster (s : State) (p : Nat) (x : Part) : (s.setPart p x).prevRoster = s.prevRoster := rfl
@[simp] theorem State.setPart_rosters (s : State) (p : Nat) (x : Part) : (s.setPart p x).rosters = s.rosters := rfl
@[simp] theorem State.setPart_lastEffective (s : State) (p : Nat) (x : Part) : (s.setPart p x).lastEffective = s.lastEffective := rfl
@[simp] theorem State.setPart_twin (s : State) (p : Nat) (x : Part) : (s.setPart p x).twin = s.twin := rfl
@[simp] theorem State.setPart_fencedMap (s : State) (p : Nat) (x : Part) : (s.setPart p x).fencedMap = s.fencedMap := rfl
@[simp] theorem State.setPart_spareUse (s : State) (p : Nat) (x : Part) : (s.setPart p x).spareUse = s.spareUse := rfl
@[simp] theorem State.setPart_security (s : State) (p : Nat) (x : Part) : (s.setPart p x).security = s.security := rfl
@[simp] theorem State.setPart_power (s : State) (p : Nat) (x : Part) : (s.setPart p x).power = s.power := rfl
@[simp] theorem State.setPart_board (s : State) (p : Nat) (x : Part) : (s.setPart p x).board = s.board := rfl
@[simp] theorem State.setPart_pcie0 (s : State) (p : Nat) (x : Part) : (s.setPart p x).pcie0 = s.pcie0 := rfl
@[simp] theorem State.setPart_pcie1 (s : State) (p : Nat) (x : Part) : (s.setPart p x).pcie1 = s.pcie1 := rfl
@[simp] theorem State.setPart_bar4Base (s : State) (p : Nat) (x : Part) : (s.setPart p x).bar4Base = s.bar4Base := rfl
@[simp] theorem State.setPart_intrs (s : State) (p : Nat) (x : Part) : (s.setPart p x).intrs = s.intrs := rfl
@[simp] theorem State.setPart_freeCtr (s : State) (p : Nat) (x : Part) : (s.setPart p x).freeCtr = s.freeCtr := rfl
@[simp] theorem State.setPart_pending (s : State) (p : Nat) (x : Part) : (s.setPart p x).pending = s.pending := rfl
@[simp] theorem State.setPart_sealed (s : State) (p : Nat) (x : Part) : (s.setPart p x).sealed = s.sealed := rfl
@[simp] theorem State.setPart_trace (s : State) (p : Nat) (x : Part) : (s.setPart p x).trace = s.trace := rfl
@[simp] theorem State.setPart_hostOut0 (s : State) (p : Nat) (x : Part) : (s.setPart p x).hostOut0 = s.hostOut0 := rfl
@[simp] theorem State.setPart_hostOut1 (s : State) (p : Nat) (x : Part) : (s.setPart p x).hostOut1 = s.hostOut1 := rfl
@[simp] theorem State.setPart_core (s : State) (p : Nat) (x : Part) (j : Nat) : (s.setPart p x).core j = s.core j := rfl
@[simp] theorem State.setPart_die (s : State) (p : Nat) (x : Part) (j : Nat) : (s.setPart p x).die j = s.die j := rfl
@[simp] theorem State.setPart_port (s : State) (p : Nat) (x : Part) (j : Nat) : (s.setPart p x).port j = s.port j := rfl
@[simp] theorem State.setPart_ttEntry (s : State) (p : Nat) (x : Part) (j : Nat) : (s.setPart p x).ttEntry j = s.ttEntry j := rfl
@[simp] theorem State.setPart_stack (s : State) (p : Nat) (x : Part) (j : Nat) : (s.setPart p x).stack j = s.stack j := rfl

/-! ## modPart -/

@[simp] theorem State.modPart_fuses (s : State) (p : Nat) (f : Part → Part) : (s.modPart p f).fuses = s.fuses := rfl
@[simp] theorem State.modPart_start (s : State) (p : Nat) (f : Part → Part) : (s.modPart p f).start = s.start := rfl
@[simp] theorem State.modPart_cores (s : State) (p : Nat) (f : Part → Part) : (s.modPart p f).cores = s.cores := rfl
@[simp] theorem State.modPart_dies (s : State) (p : Nat) (f : Part → Part) : (s.modPart p f).dies = s.dies := rfl
@[simp] theorem State.modPart_mem (s : State) (p : Nat) (f : Part → Part) : (s.modPart p f).mem = s.mem := rfl
@[simp] theorem State.modPart_poison (s : State) (p : Nat) (f : Part → Part) : (s.modPart p f).poison = s.poison := rfl
@[simp] theorem State.modPart_memStacks (s : State) (p : Nat) (f : Part → Part) : (s.modPart p f).memStacks = s.memStacks := rfl
@[simp] theorem State.modPart_fabric (s : State) (p : Nat) (f : Part → Part) : (s.modPart p f).fabric = s.fabric := rfl
@[simp] theorem State.modPart_holds (s : State) (p : Nat) (f : Part → Part) : (s.modPart p f).holds = s.holds := rfl
@[simp] theorem State.modPart_ports (s : State) (p : Nat) (f : Part → Part) : (s.modPart p f).ports = s.ports := rfl
@[simp] theorem State.modPart_inFlows (s : State) (p : Nat) (f : Part → Part) : (s.modPart p f).inFlows = s.inFlows := rfl
@[simp] theorem State.modPart_outFlows (s : State) (p : Nat) (f : Part → Part) : (s.modPart p f).outFlows = s.outFlows := rfl
@[simp] theorem State.modPart_loopback (s : State) (p : Nat) (f : Part → Part) : (s.modPart p f).loopback = s.loopback := rfl
@[simp] theorem State.modPart_consist (s : State) (p : Nat) (f : Part → Part) : (s.modPart p f).consist = s.consist := rfl
@[simp] theorem State.modPart_loader (s : State) (p : Nat) (f : Part → Part) : (s.modPart p f).loader = s.loader := rfl
@[simp] theorem State.modPart_lt (s : State) (p : Nat) (f : Part → Part) : (s.modPart p f).lt = s.lt := rfl
@[simp] theorem State.modPart_tt (s : State) (p : Nat) (f : Part → Part) : (s.modPart p f).tt = s.tt := rfl
@[simp] theorem State.modPart_windows (s : State) (p : Nat) (f : Part → Part) : (s.modPart p f).windows = s.windows := rfl
@[simp] theorem State.modPart_pfLog (s : State) (p : Nat) (f : Part → Part) : (s.modPart p f).pfLog = s.pfLog := rfl
@[simp] theorem State.modPart_pfNext (s : State) (p : Nat) (f : Part → Part) : (s.modPart p f).pfNext = s.pfNext := rfl
@[simp] theorem State.modPart_roster (s : State) (p : Nat) (f : Part → Part) : (s.modPart p f).roster = s.roster := rfl
@[simp] theorem State.modPart_prevRoster (s : State) (p : Nat) (f : Part → Part) : (s.modPart p f).prevRoster = s.prevRoster := rfl
@[simp] theorem State.modPart_rosters (s : State) (p : Nat) (f : Part → Part) : (s.modPart p f).rosters = s.rosters := rfl
@[simp] theorem State.modPart_lastEffective (s : State) (p : Nat) (f : Part → Part) : (s.modPart p f).lastEffective = s.lastEffective := rfl
@[simp] theorem State.modPart_twin (s : State) (p : Nat) (f : Part → Part) : (s.modPart p f).twin = s.twin := rfl
@[simp] theorem State.modPart_fencedMap (s : State) (p : Nat) (f : Part → Part) : (s.modPart p f).fencedMap = s.fencedMap := rfl
@[simp] theorem State.modPart_spareUse (s : State) (p : Nat) (f : Part → Part) : (s.modPart p f).spareUse = s.spareUse := rfl
@[simp] theorem State.modPart_security (s : State) (p : Nat) (f : Part → Part) : (s.modPart p f).security = s.security := rfl
@[simp] theorem State.modPart_power (s : State) (p : Nat) (f : Part → Part) : (s.modPart p f).power = s.power := rfl
@[simp] theorem State.modPart_board (s : State) (p : Nat) (f : Part → Part) : (s.modPart p f).board = s.board := rfl
@[simp] theorem State.modPart_pcie0 (s : State) (p : Nat) (f : Part → Part) : (s.modPart p f).pcie0 = s.pcie0 := rfl
@[simp] theorem State.modPart_pcie1 (s : State) (p : Nat) (f : Part → Part) : (s.modPart p f).pcie1 = s.pcie1 := rfl
@[simp] theorem State.modPart_bar4Base (s : State) (p : Nat) (f : Part → Part) : (s.modPart p f).bar4Base = s.bar4Base := rfl
@[simp] theorem State.modPart_intrs (s : State) (p : Nat) (f : Part → Part) : (s.modPart p f).intrs = s.intrs := rfl
@[simp] theorem State.modPart_freeCtr (s : State) (p : Nat) (f : Part → Part) : (s.modPart p f).freeCtr = s.freeCtr := rfl
@[simp] theorem State.modPart_pending (s : State) (p : Nat) (f : Part → Part) : (s.modPart p f).pending = s.pending := rfl
@[simp] theorem State.modPart_sealed (s : State) (p : Nat) (f : Part → Part) : (s.modPart p f).sealed = s.sealed := rfl
@[simp] theorem State.modPart_trace (s : State) (p : Nat) (f : Part → Part) : (s.modPart p f).trace = s.trace := rfl
@[simp] theorem State.modPart_hostOut0 (s : State) (p : Nat) (f : Part → Part) : (s.modPart p f).hostOut0 = s.hostOut0 := rfl
@[simp] theorem State.modPart_hostOut1 (s : State) (p : Nat) (f : Part → Part) : (s.modPart p f).hostOut1 = s.hostOut1 := rfl
@[simp] theorem State.modPart_core (s : State) (p : Nat) (f : Part → Part) (j : Nat) : (s.modPart p f).core j = s.core j := rfl
@[simp] theorem State.modPart_die (s : State) (p : Nat) (f : Part → Part) (j : Nat) : (s.modPart p f).die j = s.die j := rfl
@[simp] theorem State.modPart_port (s : State) (p : Nat) (f : Part → Part) (j : Nat) : (s.modPart p f).port j = s.port j := rfl
@[simp] theorem State.modPart_ttEntry (s : State) (p : Nat) (f : Part → Part) (j : Nat) : (s.modPart p f).ttEntry j = s.ttEntry j := rfl
@[simp] theorem State.modPart_stack (s : State) (p : Nat) (f : Part → Part) (j : Nat) : (s.modPart p f).stack j = s.stack j := rfl

/-! ## modDie -/

@[simp] theorem State.modDie_fuses (s : State) (d : Nat) (f : Die → Die) : (s.modDie d f).fuses = s.fuses := rfl
@[simp] theorem State.modDie_start (s : State) (d : Nat) (f : Die → Die) : (s.modDie d f).start = s.start := rfl
@[simp] theorem State.modDie_cores (s : State) (d : Nat) (f : Die → Die) : (s.modDie d f).cores = s.cores := rfl
@[simp] theorem State.modDie_parts (s : State) (d : Nat) (f : Die → Die) : (s.modDie d f).parts = s.parts := rfl
@[simp] theorem State.modDie_mem (s : State) (d : Nat) (f : Die → Die) : (s.modDie d f).mem = s.mem := rfl
@[simp] theorem State.modDie_poison (s : State) (d : Nat) (f : Die → Die) : (s.modDie d f).poison = s.poison := rfl
@[simp] theorem State.modDie_memStacks (s : State) (d : Nat) (f : Die → Die) : (s.modDie d f).memStacks = s.memStacks := rfl
@[simp] theorem State.modDie_fabric (s : State) (d : Nat) (f : Die → Die) : (s.modDie d f).fabric = s.fabric := rfl
@[simp] theorem State.modDie_holds (s : State) (d : Nat) (f : Die → Die) : (s.modDie d f).holds = s.holds := rfl
@[simp] theorem State.modDie_ports (s : State) (d : Nat) (f : Die → Die) : (s.modDie d f).ports = s.ports := rfl
@[simp] theorem State.modDie_inFlows (s : State) (d : Nat) (f : Die → Die) : (s.modDie d f).inFlows = s.inFlows := rfl
@[simp] theorem State.modDie_outFlows (s : State) (d : Nat) (f : Die → Die) : (s.modDie d f).outFlows = s.outFlows := rfl
@[simp] theorem State.modDie_loopback (s : State) (d : Nat) (f : Die → Die) : (s.modDie d f).loopback = s.loopback := rfl
@[simp] theorem State.modDie_consist (s : State) (d : Nat) (f : Die → Die) : (s.modDie d f).consist = s.consist := rfl
@[simp] theorem State.modDie_loader (s : State) (d : Nat) (f : Die → Die) : (s.modDie d f).loader = s.loader := rfl
@[simp] theorem State.modDie_lt (s : State) (d : Nat) (f : Die → Die) : (s.modDie d f).lt = s.lt := rfl
@[simp] theorem State.modDie_tt (s : State) (d : Nat) (f : Die → Die) : (s.modDie d f).tt = s.tt := rfl
@[simp] theorem State.modDie_windows (s : State) (d : Nat) (f : Die → Die) : (s.modDie d f).windows = s.windows := rfl
@[simp] theorem State.modDie_pfLog (s : State) (d : Nat) (f : Die → Die) : (s.modDie d f).pfLog = s.pfLog := rfl
@[simp] theorem State.modDie_pfNext (s : State) (d : Nat) (f : Die → Die) : (s.modDie d f).pfNext = s.pfNext := rfl
@[simp] theorem State.modDie_roster (s : State) (d : Nat) (f : Die → Die) : (s.modDie d f).roster = s.roster := rfl
@[simp] theorem State.modDie_prevRoster (s : State) (d : Nat) (f : Die → Die) : (s.modDie d f).prevRoster = s.prevRoster := rfl
@[simp] theorem State.modDie_rosters (s : State) (d : Nat) (f : Die → Die) : (s.modDie d f).rosters = s.rosters := rfl
@[simp] theorem State.modDie_lastEffective (s : State) (d : Nat) (f : Die → Die) : (s.modDie d f).lastEffective = s.lastEffective := rfl
@[simp] theorem State.modDie_twin (s : State) (d : Nat) (f : Die → Die) : (s.modDie d f).twin = s.twin := rfl
@[simp] theorem State.modDie_fencedMap (s : State) (d : Nat) (f : Die → Die) : (s.modDie d f).fencedMap = s.fencedMap := rfl
@[simp] theorem State.modDie_spareUse (s : State) (d : Nat) (f : Die → Die) : (s.modDie d f).spareUse = s.spareUse := rfl
@[simp] theorem State.modDie_security (s : State) (d : Nat) (f : Die → Die) : (s.modDie d f).security = s.security := rfl
@[simp] theorem State.modDie_power (s : State) (d : Nat) (f : Die → Die) : (s.modDie d f).power = s.power := rfl
@[simp] theorem State.modDie_board (s : State) (d : Nat) (f : Die → Die) : (s.modDie d f).board = s.board := rfl
@[simp] theorem State.modDie_pcie0 (s : State) (d : Nat) (f : Die → Die) : (s.modDie d f).pcie0 = s.pcie0 := rfl
@[simp] theorem State.modDie_pcie1 (s : State) (d : Nat) (f : Die → Die) : (s.modDie d f).pcie1 = s.pcie1 := rfl
@[simp] theorem State.modDie_bar4Base (s : State) (d : Nat) (f : Die → Die) : (s.modDie d f).bar4Base = s.bar4Base := rfl
@[simp] theorem State.modDie_intrs (s : State) (d : Nat) (f : Die → Die) : (s.modDie d f).intrs = s.intrs := rfl
@[simp] theorem State.modDie_freeCtr (s : State) (d : Nat) (f : Die → Die) : (s.modDie d f).freeCtr = s.freeCtr := rfl
@[simp] theorem State.modDie_pending (s : State) (d : Nat) (f : Die → Die) : (s.modDie d f).pending = s.pending := rfl
@[simp] theorem State.modDie_sealed (s : State) (d : Nat) (f : Die → Die) : (s.modDie d f).sealed = s.sealed := rfl
@[simp] theorem State.modDie_trace (s : State) (d : Nat) (f : Die → Die) : (s.modDie d f).trace = s.trace := rfl
@[simp] theorem State.modDie_hostOut0 (s : State) (d : Nat) (f : Die → Die) : (s.modDie d f).hostOut0 = s.hostOut0 := rfl
@[simp] theorem State.modDie_hostOut1 (s : State) (d : Nat) (f : Die → Die) : (s.modDie d f).hostOut1 = s.hostOut1 := rfl
@[simp] theorem State.modDie_core (s : State) (d : Nat) (f : Die → Die) (j : Nat) : (s.modDie d f).core j = s.core j := rfl
@[simp] theorem State.modDie_part (s : State) (d : Nat) (f : Die → Die) (j : Nat) : (s.modDie d f).part j = s.part j := rfl
@[simp] theorem State.modDie_port (s : State) (d : Nat) (f : Die → Die) (j : Nat) : (s.modDie d f).port j = s.port j := rfl
@[simp] theorem State.modDie_ttEntry (s : State) (d : Nat) (f : Die → Die) (j : Nat) : (s.modDie d f).ttEntry j = s.ttEntry j := rfl
@[simp] theorem State.modDie_stack (s : State) (d : Nat) (f : Die → Die) (j : Nat) : (s.modDie d f).stack j = s.stack j := rfl

/-! ## modPort -/

@[simp] theorem State.modPort_fuses (s : State) (p : Nat) (f : Port → Port) : (s.modPort p f).fuses = s.fuses := rfl
@[simp] theorem State.modPort_start (s : State) (p : Nat) (f : Port → Port) : (s.modPort p f).start = s.start := rfl
@[simp] theorem State.modPort_cores (s : State) (p : Nat) (f : Port → Port) : (s.modPort p f).cores = s.cores := rfl
@[simp] theorem State.modPort_parts (s : State) (p : Nat) (f : Port → Port) : (s.modPort p f).parts = s.parts := rfl
@[simp] theorem State.modPort_dies (s : State) (p : Nat) (f : Port → Port) : (s.modPort p f).dies = s.dies := rfl
@[simp] theorem State.modPort_mem (s : State) (p : Nat) (f : Port → Port) : (s.modPort p f).mem = s.mem := rfl
@[simp] theorem State.modPort_poison (s : State) (p : Nat) (f : Port → Port) : (s.modPort p f).poison = s.poison := rfl
@[simp] theorem State.modPort_memStacks (s : State) (p : Nat) (f : Port → Port) : (s.modPort p f).memStacks = s.memStacks := rfl
@[simp] theorem State.modPort_fabric (s : State) (p : Nat) (f : Port → Port) : (s.modPort p f).fabric = s.fabric := rfl
@[simp] theorem State.modPort_holds (s : State) (p : Nat) (f : Port → Port) : (s.modPort p f).holds = s.holds := rfl
@[simp] theorem State.modPort_inFlows (s : State) (p : Nat) (f : Port → Port) : (s.modPort p f).inFlows = s.inFlows := rfl
@[simp] theorem State.modPort_outFlows (s : State) (p : Nat) (f : Port → Port) : (s.modPort p f).outFlows = s.outFlows := rfl
@[simp] theorem State.modPort_loopback (s : State) (p : Nat) (f : Port → Port) : (s.modPort p f).loopback = s.loopback := rfl
@[simp] theorem State.modPort_consist (s : State) (p : Nat) (f : Port → Port) : (s.modPort p f).consist = s.consist := rfl
@[simp] theorem State.modPort_loader (s : State) (p : Nat) (f : Port → Port) : (s.modPort p f).loader = s.loader := rfl
@[simp] theorem State.modPort_lt (s : State) (p : Nat) (f : Port → Port) : (s.modPort p f).lt = s.lt := rfl
@[simp] theorem State.modPort_tt (s : State) (p : Nat) (f : Port → Port) : (s.modPort p f).tt = s.tt := rfl
@[simp] theorem State.modPort_windows (s : State) (p : Nat) (f : Port → Port) : (s.modPort p f).windows = s.windows := rfl
@[simp] theorem State.modPort_pfLog (s : State) (p : Nat) (f : Port → Port) : (s.modPort p f).pfLog = s.pfLog := rfl
@[simp] theorem State.modPort_pfNext (s : State) (p : Nat) (f : Port → Port) : (s.modPort p f).pfNext = s.pfNext := rfl
@[simp] theorem State.modPort_roster (s : State) (p : Nat) (f : Port → Port) : (s.modPort p f).roster = s.roster := rfl
@[simp] theorem State.modPort_prevRoster (s : State) (p : Nat) (f : Port → Port) : (s.modPort p f).prevRoster = s.prevRoster := rfl
@[simp] theorem State.modPort_rosters (s : State) (p : Nat) (f : Port → Port) : (s.modPort p f).rosters = s.rosters := rfl
@[simp] theorem State.modPort_lastEffective (s : State) (p : Nat) (f : Port → Port) : (s.modPort p f).lastEffective = s.lastEffective := rfl
@[simp] theorem State.modPort_twin (s : State) (p : Nat) (f : Port → Port) : (s.modPort p f).twin = s.twin := rfl
@[simp] theorem State.modPort_fencedMap (s : State) (p : Nat) (f : Port → Port) : (s.modPort p f).fencedMap = s.fencedMap := rfl
@[simp] theorem State.modPort_spareUse (s : State) (p : Nat) (f : Port → Port) : (s.modPort p f).spareUse = s.spareUse := rfl
@[simp] theorem State.modPort_security (s : State) (p : Nat) (f : Port → Port) : (s.modPort p f).security = s.security := rfl
@[simp] theorem State.modPort_power (s : State) (p : Nat) (f : Port → Port) : (s.modPort p f).power = s.power := rfl
@[simp] theorem State.modPort_board (s : State) (p : Nat) (f : Port → Port) : (s.modPort p f).board = s.board := rfl
@[simp] theorem State.modPort_pcie0 (s : State) (p : Nat) (f : Port → Port) : (s.modPort p f).pcie0 = s.pcie0 := rfl
@[simp] theorem State.modPort_pcie1 (s : State) (p : Nat) (f : Port → Port) : (s.modPort p f).pcie1 = s.pcie1 := rfl
@[simp] theorem State.modPort_bar4Base (s : State) (p : Nat) (f : Port → Port) : (s.modPort p f).bar4Base = s.bar4Base := rfl
@[simp] theorem State.modPort_intrs (s : State) (p : Nat) (f : Port → Port) : (s.modPort p f).intrs = s.intrs := rfl
@[simp] theorem State.modPort_freeCtr (s : State) (p : Nat) (f : Port → Port) : (s.modPort p f).freeCtr = s.freeCtr := rfl
@[simp] theorem State.modPort_pending (s : State) (p : Nat) (f : Port → Port) : (s.modPort p f).pending = s.pending := rfl
@[simp] theorem State.modPort_sealed (s : State) (p : Nat) (f : Port → Port) : (s.modPort p f).sealed = s.sealed := rfl
@[simp] theorem State.modPort_trace (s : State) (p : Nat) (f : Port → Port) : (s.modPort p f).trace = s.trace := rfl
@[simp] theorem State.modPort_hostOut0 (s : State) (p : Nat) (f : Port → Port) : (s.modPort p f).hostOut0 = s.hostOut0 := rfl
@[simp] theorem State.modPort_hostOut1 (s : State) (p : Nat) (f : Port → Port) : (s.modPort p f).hostOut1 = s.hostOut1 := rfl
@[simp] theorem State.modPort_core (s : State) (p : Nat) (f : Port → Port) (j : Nat) : (s.modPort p f).core j = s.core j := rfl
@[simp] theorem State.modPort_part (s : State) (p : Nat) (f : Port → Port) (j : Nat) : (s.modPort p f).part j = s.part j := rfl
@[simp] theorem State.modPort_die (s : State) (p : Nat) (f : Port → Port) (j : Nat) : (s.modPort p f).die j = s.die j := rfl
@[simp] theorem State.modPort_ttEntry (s : State) (p : Nat) (f : Port → Port) (j : Nat) : (s.modPort p f).ttEntry j = s.ttEntry j := rfl
@[simp] theorem State.modPort_stack (s : State) (p : Nat) (f : Port → Port) (j : Nat) : (s.modPort p f).stack j = s.stack j := rfl

/-! ## modStack -/

@[simp] theorem State.modStack_fuses (s : State) (n : Nat) (f : Stack → Stack) : (s.modStack n f).fuses = s.fuses := rfl
@[simp] theorem State.modStack_start (s : State) (n : Nat) (f : Stack → Stack) : (s.modStack n f).start = s.start := rfl
@[simp] theorem State.modStack_cores (s : State) (n : Nat) (f : Stack → Stack) : (s.modStack n f).cores = s.cores := rfl
@[simp] theorem State.modStack_parts (s : State) (n : Nat) (f : Stack → Stack) : (s.modStack n f).parts = s.parts := rfl
@[simp] theorem State.modStack_dies (s : State) (n : Nat) (f : Stack → Stack) : (s.modStack n f).dies = s.dies := rfl
@[simp] theorem State.modStack_mem (s : State) (n : Nat) (f : Stack → Stack) : (s.modStack n f).mem = s.mem := rfl
@[simp] theorem State.modStack_poison (s : State) (n : Nat) (f : Stack → Stack) : (s.modStack n f).poison = s.poison := rfl
@[simp] theorem State.modStack_fabric (s : State) (n : Nat) (f : Stack → Stack) : (s.modStack n f).fabric = s.fabric := rfl
@[simp] theorem State.modStack_holds (s : State) (n : Nat) (f : Stack → Stack) : (s.modStack n f).holds = s.holds := rfl
@[simp] theorem State.modStack_ports (s : State) (n : Nat) (f : Stack → Stack) : (s.modStack n f).ports = s.ports := rfl
@[simp] theorem State.modStack_inFlows (s : State) (n : Nat) (f : Stack → Stack) : (s.modStack n f).inFlows = s.inFlows := rfl
@[simp] theorem State.modStack_outFlows (s : State) (n : Nat) (f : Stack → Stack) : (s.modStack n f).outFlows = s.outFlows := rfl
@[simp] theorem State.modStack_loopback (s : State) (n : Nat) (f : Stack → Stack) : (s.modStack n f).loopback = s.loopback := rfl
@[simp] theorem State.modStack_consist (s : State) (n : Nat) (f : Stack → Stack) : (s.modStack n f).consist = s.consist := rfl
@[simp] theorem State.modStack_loader (s : State) (n : Nat) (f : Stack → Stack) : (s.modStack n f).loader = s.loader := rfl
@[simp] theorem State.modStack_lt (s : State) (n : Nat) (f : Stack → Stack) : (s.modStack n f).lt = s.lt := rfl
@[simp] theorem State.modStack_tt (s : State) (n : Nat) (f : Stack → Stack) : (s.modStack n f).tt = s.tt := rfl
@[simp] theorem State.modStack_windows (s : State) (n : Nat) (f : Stack → Stack) : (s.modStack n f).windows = s.windows := rfl
@[simp] theorem State.modStack_pfLog (s : State) (n : Nat) (f : Stack → Stack) : (s.modStack n f).pfLog = s.pfLog := rfl
@[simp] theorem State.modStack_pfNext (s : State) (n : Nat) (f : Stack → Stack) : (s.modStack n f).pfNext = s.pfNext := rfl
@[simp] theorem State.modStack_roster (s : State) (n : Nat) (f : Stack → Stack) : (s.modStack n f).roster = s.roster := rfl
@[simp] theorem State.modStack_prevRoster (s : State) (n : Nat) (f : Stack → Stack) : (s.modStack n f).prevRoster = s.prevRoster := rfl
@[simp] theorem State.modStack_rosters (s : State) (n : Nat) (f : Stack → Stack) : (s.modStack n f).rosters = s.rosters := rfl
@[simp] theorem State.modStack_lastEffective (s : State) (n : Nat) (f : Stack → Stack) : (s.modStack n f).lastEffective = s.lastEffective := rfl
@[simp] theorem State.modStack_twin (s : State) (n : Nat) (f : Stack → Stack) : (s.modStack n f).twin = s.twin := rfl
@[simp] theorem State.modStack_fencedMap (s : State) (n : Nat) (f : Stack → Stack) : (s.modStack n f).fencedMap = s.fencedMap := rfl
@[simp] theorem State.modStack_spareUse (s : State) (n : Nat) (f : Stack → Stack) : (s.modStack n f).spareUse = s.spareUse := rfl
@[simp] theorem State.modStack_security (s : State) (n : Nat) (f : Stack → Stack) : (s.modStack n f).security = s.security := rfl
@[simp] theorem State.modStack_power (s : State) (n : Nat) (f : Stack → Stack) : (s.modStack n f).power = s.power := rfl
@[simp] theorem State.modStack_board (s : State) (n : Nat) (f : Stack → Stack) : (s.modStack n f).board = s.board := rfl
@[simp] theorem State.modStack_pcie0 (s : State) (n : Nat) (f : Stack → Stack) : (s.modStack n f).pcie0 = s.pcie0 := rfl
@[simp] theorem State.modStack_pcie1 (s : State) (n : Nat) (f : Stack → Stack) : (s.modStack n f).pcie1 = s.pcie1 := rfl
@[simp] theorem State.modStack_bar4Base (s : State) (n : Nat) (f : Stack → Stack) : (s.modStack n f).bar4Base = s.bar4Base := rfl
@[simp] theorem State.modStack_intrs (s : State) (n : Nat) (f : Stack → Stack) : (s.modStack n f).intrs = s.intrs := rfl
@[simp] theorem State.modStack_freeCtr (s : State) (n : Nat) (f : Stack → Stack) : (s.modStack n f).freeCtr = s.freeCtr := rfl
@[simp] theorem State.modStack_pending (s : State) (n : Nat) (f : Stack → Stack) : (s.modStack n f).pending = s.pending := rfl
@[simp] theorem State.modStack_sealed (s : State) (n : Nat) (f : Stack → Stack) : (s.modStack n f).sealed = s.sealed := rfl
@[simp] theorem State.modStack_trace (s : State) (n : Nat) (f : Stack → Stack) : (s.modStack n f).trace = s.trace := rfl
@[simp] theorem State.modStack_hostOut0 (s : State) (n : Nat) (f : Stack → Stack) : (s.modStack n f).hostOut0 = s.hostOut0 := rfl
@[simp] theorem State.modStack_hostOut1 (s : State) (n : Nat) (f : Stack → Stack) : (s.modStack n f).hostOut1 = s.hostOut1 := rfl
@[simp] theorem State.modStack_core (s : State) (n : Nat) (f : Stack → Stack) (j : Nat) : (s.modStack n f).core j = s.core j := rfl
@[simp] theorem State.modStack_part (s : State) (n : Nat) (f : Stack → Stack) (j : Nat) : (s.modStack n f).part j = s.part j := rfl
@[simp] theorem State.modStack_die (s : State) (n : Nat) (f : Stack → Stack) (j : Nat) : (s.modStack n f).die j = s.die j := rfl
@[simp] theorem State.modStack_port (s : State) (n : Nat) (f : Stack → Stack) (j : Nat) : (s.modStack n f).port j = s.port j := rfl
@[simp] theorem State.modStack_ttEntry (s : State) (n : Nat) (f : Stack → Stack) (j : Nat) : (s.modStack n f).ttEntry j = s.ttEntry j := rfl

/-! ## modTt -/

@[simp] theorem State.modTt_fuses (s : State) (e : Nat) (f : TtEntry → TtEntry) : (s.modTt e f).fuses = s.fuses := rfl
@[simp] theorem State.modTt_start (s : State) (e : Nat) (f : TtEntry → TtEntry) : (s.modTt e f).start = s.start := rfl
@[simp] theorem State.modTt_cores (s : State) (e : Nat) (f : TtEntry → TtEntry) : (s.modTt e f).cores = s.cores := rfl
@[simp] theorem State.modTt_parts (s : State) (e : Nat) (f : TtEntry → TtEntry) : (s.modTt e f).parts = s.parts := rfl
@[simp] theorem State.modTt_dies (s : State) (e : Nat) (f : TtEntry → TtEntry) : (s.modTt e f).dies = s.dies := rfl
@[simp] theorem State.modTt_mem (s : State) (e : Nat) (f : TtEntry → TtEntry) : (s.modTt e f).mem = s.mem := rfl
@[simp] theorem State.modTt_poison (s : State) (e : Nat) (f : TtEntry → TtEntry) : (s.modTt e f).poison = s.poison := rfl
@[simp] theorem State.modTt_memStacks (s : State) (e : Nat) (f : TtEntry → TtEntry) : (s.modTt e f).memStacks = s.memStacks := rfl
@[simp] theorem State.modTt_fabric (s : State) (e : Nat) (f : TtEntry → TtEntry) : (s.modTt e f).fabric = s.fabric := rfl
@[simp] theorem State.modTt_holds (s : State) (e : Nat) (f : TtEntry → TtEntry) : (s.modTt e f).holds = s.holds := rfl
@[simp] theorem State.modTt_ports (s : State) (e : Nat) (f : TtEntry → TtEntry) : (s.modTt e f).ports = s.ports := rfl
@[simp] theorem State.modTt_inFlows (s : State) (e : Nat) (f : TtEntry → TtEntry) : (s.modTt e f).inFlows = s.inFlows := rfl
@[simp] theorem State.modTt_outFlows (s : State) (e : Nat) (f : TtEntry → TtEntry) : (s.modTt e f).outFlows = s.outFlows := rfl
@[simp] theorem State.modTt_loopback (s : State) (e : Nat) (f : TtEntry → TtEntry) : (s.modTt e f).loopback = s.loopback := rfl
@[simp] theorem State.modTt_consist (s : State) (e : Nat) (f : TtEntry → TtEntry) : (s.modTt e f).consist = s.consist := rfl
@[simp] theorem State.modTt_loader (s : State) (e : Nat) (f : TtEntry → TtEntry) : (s.modTt e f).loader = s.loader := rfl
@[simp] theorem State.modTt_lt (s : State) (e : Nat) (f : TtEntry → TtEntry) : (s.modTt e f).lt = s.lt := rfl
@[simp] theorem State.modTt_windows (s : State) (e : Nat) (f : TtEntry → TtEntry) : (s.modTt e f).windows = s.windows := rfl
@[simp] theorem State.modTt_pfLog (s : State) (e : Nat) (f : TtEntry → TtEntry) : (s.modTt e f).pfLog = s.pfLog := rfl
@[simp] theorem State.modTt_pfNext (s : State) (e : Nat) (f : TtEntry → TtEntry) : (s.modTt e f).pfNext = s.pfNext := rfl
@[simp] theorem State.modTt_roster (s : State) (e : Nat) (f : TtEntry → TtEntry) : (s.modTt e f).roster = s.roster := rfl
@[simp] theorem State.modTt_prevRoster (s : State) (e : Nat) (f : TtEntry → TtEntry) : (s.modTt e f).prevRoster = s.prevRoster := rfl
@[simp] theorem State.modTt_rosters (s : State) (e : Nat) (f : TtEntry → TtEntry) : (s.modTt e f).rosters = s.rosters := rfl
@[simp] theorem State.modTt_lastEffective (s : State) (e : Nat) (f : TtEntry → TtEntry) : (s.modTt e f).lastEffective = s.lastEffective := rfl
@[simp] theorem State.modTt_twin (s : State) (e : Nat) (f : TtEntry → TtEntry) : (s.modTt e f).twin = s.twin := rfl
@[simp] theorem State.modTt_fencedMap (s : State) (e : Nat) (f : TtEntry → TtEntry) : (s.modTt e f).fencedMap = s.fencedMap := rfl
@[simp] theorem State.modTt_spareUse (s : State) (e : Nat) (f : TtEntry → TtEntry) : (s.modTt e f).spareUse = s.spareUse := rfl
@[simp] theorem State.modTt_security (s : State) (e : Nat) (f : TtEntry → TtEntry) : (s.modTt e f).security = s.security := rfl
@[simp] theorem State.modTt_power (s : State) (e : Nat) (f : TtEntry → TtEntry) : (s.modTt e f).power = s.power := rfl
@[simp] theorem State.modTt_board (s : State) (e : Nat) (f : TtEntry → TtEntry) : (s.modTt e f).board = s.board := rfl
@[simp] theorem State.modTt_pcie0 (s : State) (e : Nat) (f : TtEntry → TtEntry) : (s.modTt e f).pcie0 = s.pcie0 := rfl
@[simp] theorem State.modTt_pcie1 (s : State) (e : Nat) (f : TtEntry → TtEntry) : (s.modTt e f).pcie1 = s.pcie1 := rfl
@[simp] theorem State.modTt_bar4Base (s : State) (e : Nat) (f : TtEntry → TtEntry) : (s.modTt e f).bar4Base = s.bar4Base := rfl
@[simp] theorem State.modTt_intrs (s : State) (e : Nat) (f : TtEntry → TtEntry) : (s.modTt e f).intrs = s.intrs := rfl
@[simp] theorem State.modTt_freeCtr (s : State) (e : Nat) (f : TtEntry → TtEntry) : (s.modTt e f).freeCtr = s.freeCtr := rfl
@[simp] theorem State.modTt_pending (s : State) (e : Nat) (f : TtEntry → TtEntry) : (s.modTt e f).pending = s.pending := rfl
@[simp] theorem State.modTt_sealed (s : State) (e : Nat) (f : TtEntry → TtEntry) : (s.modTt e f).sealed = s.sealed := rfl
@[simp] theorem State.modTt_trace (s : State) (e : Nat) (f : TtEntry → TtEntry) : (s.modTt e f).trace = s.trace := rfl
@[simp] theorem State.modTt_hostOut0 (s : State) (e : Nat) (f : TtEntry → TtEntry) : (s.modTt e f).hostOut0 = s.hostOut0 := rfl
@[simp] theorem State.modTt_hostOut1 (s : State) (e : Nat) (f : TtEntry → TtEntry) : (s.modTt e f).hostOut1 = s.hostOut1 := rfl
@[simp] theorem State.modTt_core (s : State) (e : Nat) (f : TtEntry → TtEntry) (j : Nat) : (s.modTt e f).core j = s.core j := rfl
@[simp] theorem State.modTt_part (s : State) (e : Nat) (f : TtEntry → TtEntry) (j : Nat) : (s.modTt e f).part j = s.part j := rfl
@[simp] theorem State.modTt_die (s : State) (e : Nat) (f : TtEntry → TtEntry) (j : Nat) : (s.modTt e f).die j = s.die j := rfl
@[simp] theorem State.modTt_port (s : State) (e : Nat) (f : TtEntry → TtEntry) (j : Nat) : (s.modTt e f).port j = s.port j := rfl
@[simp] theorem State.modTt_stack (s : State) (e : Nat) (f : TtEntry → TtEntry) (j : Nat) : (s.modTt e f).stack j = s.stack j := rfl

/-! ## bumpTwin -/

@[simp] theorem State.bumpTwin_fuses (s : State) (i : Nat) : (s.bumpTwin i).fuses = s.fuses := rfl
@[simp] theorem State.bumpTwin_start (s : State) (i : Nat) : (s.bumpTwin i).start = s.start := rfl
@[simp] theorem State.bumpTwin_cores (s : State) (i : Nat) : (s.bumpTwin i).cores = s.cores := rfl
@[simp] theorem State.bumpTwin_parts (s : State) (i : Nat) : (s.bumpTwin i).parts = s.parts := rfl
@[simp] theorem State.bumpTwin_dies (s : State) (i : Nat) : (s.bumpTwin i).dies = s.dies := rfl
@[simp] theorem State.bumpTwin_mem (s : State) (i : Nat) : (s.bumpTwin i).mem = s.mem := rfl
@[simp] theorem State.bumpTwin_poison (s : State) (i : Nat) : (s.bumpTwin i).poison = s.poison := rfl
@[simp] theorem State.bumpTwin_memStacks (s : State) (i : Nat) : (s.bumpTwin i).memStacks = s.memStacks := rfl
@[simp] theorem State.bumpTwin_fabric (s : State) (i : Nat) : (s.bumpTwin i).fabric = s.fabric := rfl
@[simp] theorem State.bumpTwin_holds (s : State) (i : Nat) : (s.bumpTwin i).holds = s.holds := rfl
@[simp] theorem State.bumpTwin_ports (s : State) (i : Nat) : (s.bumpTwin i).ports = s.ports := rfl
@[simp] theorem State.bumpTwin_inFlows (s : State) (i : Nat) : (s.bumpTwin i).inFlows = s.inFlows := rfl
@[simp] theorem State.bumpTwin_outFlows (s : State) (i : Nat) : (s.bumpTwin i).outFlows = s.outFlows := rfl
@[simp] theorem State.bumpTwin_loopback (s : State) (i : Nat) : (s.bumpTwin i).loopback = s.loopback := rfl
@[simp] theorem State.bumpTwin_consist (s : State) (i : Nat) : (s.bumpTwin i).consist = s.consist := rfl
@[simp] theorem State.bumpTwin_loader (s : State) (i : Nat) : (s.bumpTwin i).loader = s.loader := rfl
@[simp] theorem State.bumpTwin_lt (s : State) (i : Nat) : (s.bumpTwin i).lt = s.lt := rfl
@[simp] theorem State.bumpTwin_tt (s : State) (i : Nat) : (s.bumpTwin i).tt = s.tt := rfl
@[simp] theorem State.bumpTwin_windows (s : State) (i : Nat) : (s.bumpTwin i).windows = s.windows := rfl
@[simp] theorem State.bumpTwin_pfLog (s : State) (i : Nat) : (s.bumpTwin i).pfLog = s.pfLog := rfl
@[simp] theorem State.bumpTwin_pfNext (s : State) (i : Nat) : (s.bumpTwin i).pfNext = s.pfNext := rfl
@[simp] theorem State.bumpTwin_roster (s : State) (i : Nat) : (s.bumpTwin i).roster = s.roster := rfl
@[simp] theorem State.bumpTwin_prevRoster (s : State) (i : Nat) : (s.bumpTwin i).prevRoster = s.prevRoster := rfl
@[simp] theorem State.bumpTwin_rosters (s : State) (i : Nat) : (s.bumpTwin i).rosters = s.rosters := rfl
@[simp] theorem State.bumpTwin_lastEffective (s : State) (i : Nat) : (s.bumpTwin i).lastEffective = s.lastEffective := rfl
@[simp] theorem State.bumpTwin_fencedMap (s : State) (i : Nat) : (s.bumpTwin i).fencedMap = s.fencedMap := rfl
@[simp] theorem State.bumpTwin_spareUse (s : State) (i : Nat) : (s.bumpTwin i).spareUse = s.spareUse := rfl
@[simp] theorem State.bumpTwin_security (s : State) (i : Nat) : (s.bumpTwin i).security = s.security := rfl
@[simp] theorem State.bumpTwin_power (s : State) (i : Nat) : (s.bumpTwin i).power = s.power := rfl
@[simp] theorem State.bumpTwin_board (s : State) (i : Nat) : (s.bumpTwin i).board = s.board := rfl
@[simp] theorem State.bumpTwin_pcie0 (s : State) (i : Nat) : (s.bumpTwin i).pcie0 = s.pcie0 := rfl
@[simp] theorem State.bumpTwin_pcie1 (s : State) (i : Nat) : (s.bumpTwin i).pcie1 = s.pcie1 := rfl
@[simp] theorem State.bumpTwin_bar4Base (s : State) (i : Nat) : (s.bumpTwin i).bar4Base = s.bar4Base := rfl
@[simp] theorem State.bumpTwin_intrs (s : State) (i : Nat) : (s.bumpTwin i).intrs = s.intrs := rfl
@[simp] theorem State.bumpTwin_freeCtr (s : State) (i : Nat) : (s.bumpTwin i).freeCtr = s.freeCtr := rfl
@[simp] theorem State.bumpTwin_pending (s : State) (i : Nat) : (s.bumpTwin i).pending = s.pending := rfl
@[simp] theorem State.bumpTwin_sealed (s : State) (i : Nat) : (s.bumpTwin i).sealed = s.sealed := rfl
@[simp] theorem State.bumpTwin_trace (s : State) (i : Nat) : (s.bumpTwin i).trace = s.trace := rfl
@[simp] theorem State.bumpTwin_hostOut0 (s : State) (i : Nat) : (s.bumpTwin i).hostOut0 = s.hostOut0 := rfl
@[simp] theorem State.bumpTwin_hostOut1 (s : State) (i : Nat) : (s.bumpTwin i).hostOut1 = s.hostOut1 := rfl
@[simp] theorem State.bumpTwin_core (s : State) (i : Nat) (j : Nat) : (s.bumpTwin i).core j = s.core j := rfl
@[simp] theorem State.bumpTwin_part (s : State) (i : Nat) (j : Nat) : (s.bumpTwin i).part j = s.part j := rfl
@[simp] theorem State.bumpTwin_die (s : State) (i : Nat) (j : Nat) : (s.bumpTwin i).die j = s.die j := rfl
@[simp] theorem State.bumpTwin_port (s : State) (i : Nat) (j : Nat) : (s.bumpTwin i).port j = s.port j := rfl
@[simp] theorem State.bumpTwin_ttEntry (s : State) (i : Nat) (j : Nat) : (s.bumpTwin i).ttEntry j = s.ttEntry j := rfl
@[simp] theorem State.bumpTwin_stack (s : State) (i : Nat) (j : Nat) : (s.bumpTwin i).stack j = s.stack j := rfl

/-! ## bumpLt -/

@[simp] theorem State.bumpLt_fuses (s : State) (i : Nat) : (s.bumpLt i).fuses = s.fuses := rfl
@[simp] theorem State.bumpLt_start (s : State) (i : Nat) : (s.bumpLt i).start = s.start := rfl
@[simp] theorem State.bumpLt_cores (s : State) (i : Nat) : (s.bumpLt i).cores = s.cores := rfl
@[simp] theorem State.bumpLt_parts (s : State) (i : Nat) : (s.bumpLt i).parts = s.parts := rfl
@[simp] theorem State.bumpLt_dies (s : State) (i : Nat) : (s.bumpLt i).dies = s.dies := rfl
@[simp] theorem State.bumpLt_mem (s : State) (i : Nat) : (s.bumpLt i).mem = s.mem := rfl
@[simp] theorem State.bumpLt_poison (s : State) (i : Nat) : (s.bumpLt i).poison = s.poison := rfl
@[simp] theorem State.bumpLt_memStacks (s : State) (i : Nat) : (s.bumpLt i).memStacks = s.memStacks := rfl
@[simp] theorem State.bumpLt_fabric (s : State) (i : Nat) : (s.bumpLt i).fabric = s.fabric := rfl
@[simp] theorem State.bumpLt_holds (s : State) (i : Nat) : (s.bumpLt i).holds = s.holds := rfl
@[simp] theorem State.bumpLt_ports (s : State) (i : Nat) : (s.bumpLt i).ports = s.ports := rfl
@[simp] theorem State.bumpLt_inFlows (s : State) (i : Nat) : (s.bumpLt i).inFlows = s.inFlows := rfl
@[simp] theorem State.bumpLt_outFlows (s : State) (i : Nat) : (s.bumpLt i).outFlows = s.outFlows := rfl
@[simp] theorem State.bumpLt_loopback (s : State) (i : Nat) : (s.bumpLt i).loopback = s.loopback := rfl
@[simp] theorem State.bumpLt_consist (s : State) (i : Nat) : (s.bumpLt i).consist = s.consist := rfl
@[simp] theorem State.bumpLt_loader (s : State) (i : Nat) : (s.bumpLt i).loader = s.loader := rfl
@[simp] theorem State.bumpLt_tt (s : State) (i : Nat) : (s.bumpLt i).tt = s.tt := rfl
@[simp] theorem State.bumpLt_windows (s : State) (i : Nat) : (s.bumpLt i).windows = s.windows := rfl
@[simp] theorem State.bumpLt_pfLog (s : State) (i : Nat) : (s.bumpLt i).pfLog = s.pfLog := rfl
@[simp] theorem State.bumpLt_pfNext (s : State) (i : Nat) : (s.bumpLt i).pfNext = s.pfNext := rfl
@[simp] theorem State.bumpLt_roster (s : State) (i : Nat) : (s.bumpLt i).roster = s.roster := rfl
@[simp] theorem State.bumpLt_prevRoster (s : State) (i : Nat) : (s.bumpLt i).prevRoster = s.prevRoster := rfl
@[simp] theorem State.bumpLt_rosters (s : State) (i : Nat) : (s.bumpLt i).rosters = s.rosters := rfl
@[simp] theorem State.bumpLt_lastEffective (s : State) (i : Nat) : (s.bumpLt i).lastEffective = s.lastEffective := rfl
@[simp] theorem State.bumpLt_twin (s : State) (i : Nat) : (s.bumpLt i).twin = s.twin := rfl
@[simp] theorem State.bumpLt_fencedMap (s : State) (i : Nat) : (s.bumpLt i).fencedMap = s.fencedMap := rfl
@[simp] theorem State.bumpLt_spareUse (s : State) (i : Nat) : (s.bumpLt i).spareUse = s.spareUse := rfl
@[simp] theorem State.bumpLt_security (s : State) (i : Nat) : (s.bumpLt i).security = s.security := rfl
@[simp] theorem State.bumpLt_power (s : State) (i : Nat) : (s.bumpLt i).power = s.power := rfl
@[simp] theorem State.bumpLt_board (s : State) (i : Nat) : (s.bumpLt i).board = s.board := rfl
@[simp] theorem State.bumpLt_pcie0 (s : State) (i : Nat) : (s.bumpLt i).pcie0 = s.pcie0 := rfl
@[simp] theorem State.bumpLt_pcie1 (s : State) (i : Nat) : (s.bumpLt i).pcie1 = s.pcie1 := rfl
@[simp] theorem State.bumpLt_bar4Base (s : State) (i : Nat) : (s.bumpLt i).bar4Base = s.bar4Base := rfl
@[simp] theorem State.bumpLt_intrs (s : State) (i : Nat) : (s.bumpLt i).intrs = s.intrs := rfl
@[simp] theorem State.bumpLt_freeCtr (s : State) (i : Nat) : (s.bumpLt i).freeCtr = s.freeCtr := rfl
@[simp] theorem State.bumpLt_pending (s : State) (i : Nat) : (s.bumpLt i).pending = s.pending := rfl
@[simp] theorem State.bumpLt_sealed (s : State) (i : Nat) : (s.bumpLt i).sealed = s.sealed := rfl
@[simp] theorem State.bumpLt_trace (s : State) (i : Nat) : (s.bumpLt i).trace = s.trace := rfl
@[simp] theorem State.bumpLt_hostOut0 (s : State) (i : Nat) : (s.bumpLt i).hostOut0 = s.hostOut0 := rfl
@[simp] theorem State.bumpLt_hostOut1 (s : State) (i : Nat) : (s.bumpLt i).hostOut1 = s.hostOut1 := rfl
@[simp] theorem State.bumpLt_core (s : State) (i : Nat) (j : Nat) : (s.bumpLt i).core j = s.core j := rfl
@[simp] theorem State.bumpLt_part (s : State) (i : Nat) (j : Nat) : (s.bumpLt i).part j = s.part j := rfl
@[simp] theorem State.bumpLt_die (s : State) (i : Nat) (j : Nat) : (s.bumpLt i).die j = s.die j := rfl
@[simp] theorem State.bumpLt_port (s : State) (i : Nat) (j : Nat) : (s.bumpLt i).port j = s.port j := rfl
@[simp] theorem State.bumpLt_ttEntry (s : State) (i : Nat) (j : Nat) : (s.bumpLt i).ttEntry j = s.ttEntry j := rfl
@[simp] theorem State.bumpLt_stack (s : State) (i : Nat) (j : Nat) : (s.bumpLt i).stack j = s.stack j := rfl

/-! ## bumpPwr -/

@[simp] theorem State.bumpPwr_fuses (s : State) (i : Nat) : (s.bumpPwr i).fuses = s.fuses := rfl
@[simp] theorem State.bumpPwr_start (s : State) (i : Nat) : (s.bumpPwr i).start = s.start := rfl
@[simp] theorem State.bumpPwr_cores (s : State) (i : Nat) : (s.bumpPwr i).cores = s.cores := rfl
@[simp] theorem State.bumpPwr_parts (s : State) (i : Nat) : (s.bumpPwr i).parts = s.parts := rfl
@[simp] theorem State.bumpPwr_dies (s : State) (i : Nat) : (s.bumpPwr i).dies = s.dies := rfl
@[simp] theorem State.bumpPwr_mem (s : State) (i : Nat) : (s.bumpPwr i).mem = s.mem := rfl
@[simp] theorem State.bumpPwr_poison (s : State) (i : Nat) : (s.bumpPwr i).poison = s.poison := rfl
@[simp] theorem State.bumpPwr_memStacks (s : State) (i : Nat) : (s.bumpPwr i).memStacks = s.memStacks := rfl
@[simp] theorem State.bumpPwr_fabric (s : State) (i : Nat) : (s.bumpPwr i).fabric = s.fabric := rfl
@[simp] theorem State.bumpPwr_holds (s : State) (i : Nat) : (s.bumpPwr i).holds = s.holds := rfl
@[simp] theorem State.bumpPwr_ports (s : State) (i : Nat) : (s.bumpPwr i).ports = s.ports := rfl
@[simp] theorem State.bumpPwr_inFlows (s : State) (i : Nat) : (s.bumpPwr i).inFlows = s.inFlows := rfl
@[simp] theorem State.bumpPwr_outFlows (s : State) (i : Nat) : (s.bumpPwr i).outFlows = s.outFlows := rfl
@[simp] theorem State.bumpPwr_loopback (s : State) (i : Nat) : (s.bumpPwr i).loopback = s.loopback := rfl
@[simp] theorem State.bumpPwr_consist (s : State) (i : Nat) : (s.bumpPwr i).consist = s.consist := rfl
@[simp] theorem State.bumpPwr_loader (s : State) (i : Nat) : (s.bumpPwr i).loader = s.loader := rfl
@[simp] theorem State.bumpPwr_lt (s : State) (i : Nat) : (s.bumpPwr i).lt = s.lt := rfl
@[simp] theorem State.bumpPwr_tt (s : State) (i : Nat) : (s.bumpPwr i).tt = s.tt := rfl
@[simp] theorem State.bumpPwr_windows (s : State) (i : Nat) : (s.bumpPwr i).windows = s.windows := rfl
@[simp] theorem State.bumpPwr_pfLog (s : State) (i : Nat) : (s.bumpPwr i).pfLog = s.pfLog := rfl
@[simp] theorem State.bumpPwr_pfNext (s : State) (i : Nat) : (s.bumpPwr i).pfNext = s.pfNext := rfl
@[simp] theorem State.bumpPwr_roster (s : State) (i : Nat) : (s.bumpPwr i).roster = s.roster := rfl
@[simp] theorem State.bumpPwr_prevRoster (s : State) (i : Nat) : (s.bumpPwr i).prevRoster = s.prevRoster := rfl
@[simp] theorem State.bumpPwr_rosters (s : State) (i : Nat) : (s.bumpPwr i).rosters = s.rosters := rfl
@[simp] theorem State.bumpPwr_lastEffective (s : State) (i : Nat) : (s.bumpPwr i).lastEffective = s.lastEffective := rfl
@[simp] theorem State.bumpPwr_twin (s : State) (i : Nat) : (s.bumpPwr i).twin = s.twin := rfl
@[simp] theorem State.bumpPwr_fencedMap (s : State) (i : Nat) : (s.bumpPwr i).fencedMap = s.fencedMap := rfl
@[simp] theorem State.bumpPwr_spareUse (s : State) (i : Nat) : (s.bumpPwr i).spareUse = s.spareUse := rfl
@[simp] theorem State.bumpPwr_security (s : State) (i : Nat) : (s.bumpPwr i).security = s.security := rfl
@[simp] theorem State.bumpPwr_board (s : State) (i : Nat) : (s.bumpPwr i).board = s.board := rfl
@[simp] theorem State.bumpPwr_pcie0 (s : State) (i : Nat) : (s.bumpPwr i).pcie0 = s.pcie0 := rfl
@[simp] theorem State.bumpPwr_pcie1 (s : State) (i : Nat) : (s.bumpPwr i).pcie1 = s.pcie1 := rfl
@[simp] theorem State.bumpPwr_bar4Base (s : State) (i : Nat) : (s.bumpPwr i).bar4Base = s.bar4Base := rfl
@[simp] theorem State.bumpPwr_intrs (s : State) (i : Nat) : (s.bumpPwr i).intrs = s.intrs := rfl
@[simp] theorem State.bumpPwr_freeCtr (s : State) (i : Nat) : (s.bumpPwr i).freeCtr = s.freeCtr := rfl
@[simp] theorem State.bumpPwr_pending (s : State) (i : Nat) : (s.bumpPwr i).pending = s.pending := rfl
@[simp] theorem State.bumpPwr_sealed (s : State) (i : Nat) : (s.bumpPwr i).sealed = s.sealed := rfl
@[simp] theorem State.bumpPwr_trace (s : State) (i : Nat) : (s.bumpPwr i).trace = s.trace := rfl
@[simp] theorem State.bumpPwr_hostOut0 (s : State) (i : Nat) : (s.bumpPwr i).hostOut0 = s.hostOut0 := rfl
@[simp] theorem State.bumpPwr_hostOut1 (s : State) (i : Nat) : (s.bumpPwr i).hostOut1 = s.hostOut1 := rfl
@[simp] theorem State.bumpPwr_core (s : State) (i : Nat) (j : Nat) : (s.bumpPwr i).core j = s.core j := rfl
@[simp] theorem State.bumpPwr_part (s : State) (i : Nat) (j : Nat) : (s.bumpPwr i).part j = s.part j := rfl
@[simp] theorem State.bumpPwr_die (s : State) (i : Nat) (j : Nat) : (s.bumpPwr i).die j = s.die j := rfl
@[simp] theorem State.bumpPwr_port (s : State) (i : Nat) (j : Nat) : (s.bumpPwr i).port j = s.port j := rfl
@[simp] theorem State.bumpPwr_ttEntry (s : State) (i : Nat) (j : Nat) : (s.bumpPwr i).ttEntry j = s.ttEntry j := rfl
@[simp] theorem State.bumpPwr_stack (s : State) (i : Nat) (j : Nat) : (s.bumpPwr i).stack j = s.stack j := rfl

/-! ## tick -/

@[simp] theorem State.tick_fuses (s : State) : (s.tick).fuses = s.fuses := rfl
@[simp] theorem State.tick_start (s : State) : (s.tick).start = s.start := rfl
@[simp] theorem State.tick_cores (s : State) : (s.tick).cores = s.cores := rfl
@[simp] theorem State.tick_parts (s : State) : (s.tick).parts = s.parts := rfl
@[simp] theorem State.tick_dies (s : State) : (s.tick).dies = s.dies := rfl
@[simp] theorem State.tick_mem (s : State) : (s.tick).mem = s.mem := rfl
@[simp] theorem State.tick_poison (s : State) : (s.tick).poison = s.poison := rfl
@[simp] theorem State.tick_memStacks (s : State) : (s.tick).memStacks = s.memStacks := rfl
@[simp] theorem State.tick_fabric (s : State) : (s.tick).fabric = s.fabric := rfl
@[simp] theorem State.tick_holds (s : State) : (s.tick).holds = s.holds := rfl
@[simp] theorem State.tick_ports (s : State) : (s.tick).ports = s.ports := rfl
@[simp] theorem State.tick_inFlows (s : State) : (s.tick).inFlows = s.inFlows := rfl
@[simp] theorem State.tick_outFlows (s : State) : (s.tick).outFlows = s.outFlows := rfl
@[simp] theorem State.tick_loopback (s : State) : (s.tick).loopback = s.loopback := rfl
@[simp] theorem State.tick_consist (s : State) : (s.tick).consist = s.consist := rfl
@[simp] theorem State.tick_loader (s : State) : (s.tick).loader = s.loader := rfl
@[simp] theorem State.tick_lt (s : State) : (s.tick).lt = s.lt := rfl
@[simp] theorem State.tick_tt (s : State) : (s.tick).tt = s.tt := rfl
@[simp] theorem State.tick_windows (s : State) : (s.tick).windows = s.windows := rfl
@[simp] theorem State.tick_pfLog (s : State) : (s.tick).pfLog = s.pfLog := rfl
@[simp] theorem State.tick_pfNext (s : State) : (s.tick).pfNext = s.pfNext := rfl
@[simp] theorem State.tick_roster (s : State) : (s.tick).roster = s.roster := rfl
@[simp] theorem State.tick_prevRoster (s : State) : (s.tick).prevRoster = s.prevRoster := rfl
@[simp] theorem State.tick_rosters (s : State) : (s.tick).rosters = s.rosters := rfl
@[simp] theorem State.tick_lastEffective (s : State) : (s.tick).lastEffective = s.lastEffective := rfl
@[simp] theorem State.tick_twin (s : State) : (s.tick).twin = s.twin := rfl
@[simp] theorem State.tick_fencedMap (s : State) : (s.tick).fencedMap = s.fencedMap := rfl
@[simp] theorem State.tick_spareUse (s : State) : (s.tick).spareUse = s.spareUse := rfl
@[simp] theorem State.tick_security (s : State) : (s.tick).security = s.security := rfl
@[simp] theorem State.tick_power (s : State) : (s.tick).power = s.power := rfl
@[simp] theorem State.tick_board (s : State) : (s.tick).board = s.board := rfl
@[simp] theorem State.tick_pcie0 (s : State) : (s.tick).pcie0 = s.pcie0 := rfl
@[simp] theorem State.tick_pcie1 (s : State) : (s.tick).pcie1 = s.pcie1 := rfl
@[simp] theorem State.tick_bar4Base (s : State) : (s.tick).bar4Base = s.bar4Base := rfl
@[simp] theorem State.tick_intrs (s : State) : (s.tick).intrs = s.intrs := rfl
@[simp] theorem State.tick_pending (s : State) : (s.tick).pending = s.pending := rfl
@[simp] theorem State.tick_sealed (s : State) : (s.tick).sealed = s.sealed := rfl
@[simp] theorem State.tick_trace (s : State) : (s.tick).trace = s.trace := rfl
@[simp] theorem State.tick_hostOut0 (s : State) : (s.tick).hostOut0 = s.hostOut0 := rfl
@[simp] theorem State.tick_hostOut1 (s : State) : (s.tick).hostOut1 = s.hostOut1 := rfl
@[simp] theorem State.tick_core (s : State) (j : Nat) : (s.tick).core j = s.core j := rfl
@[simp] theorem State.tick_part (s : State) (j : Nat) : (s.tick).part j = s.part j := rfl
@[simp] theorem State.tick_die (s : State) (j : Nat) : (s.tick).die j = s.die j := rfl
@[simp] theorem State.tick_port (s : State) (j : Nat) : (s.tick).port j = s.port j := rfl
@[simp] theorem State.tick_ttEntry (s : State) (j : Nat) : (s.tick).ttEntry j = s.ttEntry j := rfl
@[simp] theorem State.tick_stack (s : State) (j : Nat) : (s.tick).stack j = s.stack j := rfl

/-! ## ticks -/

@[simp] theorem State.ticks_fuses (s : State) (n : Nat) : (s.ticks n).fuses = s.fuses := rfl
@[simp] theorem State.ticks_start (s : State) (n : Nat) : (s.ticks n).start = s.start := rfl
@[simp] theorem State.ticks_cores (s : State) (n : Nat) : (s.ticks n).cores = s.cores := rfl
@[simp] theorem State.ticks_parts (s : State) (n : Nat) : (s.ticks n).parts = s.parts := rfl
@[simp] theorem State.ticks_dies (s : State) (n : Nat) : (s.ticks n).dies = s.dies := rfl
@[simp] theorem State.ticks_mem (s : State) (n : Nat) : (s.ticks n).mem = s.mem := rfl
@[simp] theorem State.ticks_poison (s : State) (n : Nat) : (s.ticks n).poison = s.poison := rfl
@[simp] theorem State.ticks_memStacks (s : State) (n : Nat) : (s.ticks n).memStacks = s.memStacks := rfl
@[simp] theorem State.ticks_fabric (s : State) (n : Nat) : (s.ticks n).fabric = s.fabric := rfl
@[simp] theorem State.ticks_holds (s : State) (n : Nat) : (s.ticks n).holds = s.holds := rfl
@[simp] theorem State.ticks_ports (s : State) (n : Nat) : (s.ticks n).ports = s.ports := rfl
@[simp] theorem State.ticks_inFlows (s : State) (n : Nat) : (s.ticks n).inFlows = s.inFlows := rfl
@[simp] theorem State.ticks_outFlows (s : State) (n : Nat) : (s.ticks n).outFlows = s.outFlows := rfl
@[simp] theorem State.ticks_loopback (s : State) (n : Nat) : (s.ticks n).loopback = s.loopback := rfl
@[simp] theorem State.ticks_consist (s : State) (n : Nat) : (s.ticks n).consist = s.consist := rfl
@[simp] theorem State.ticks_loader (s : State) (n : Nat) : (s.ticks n).loader = s.loader := rfl
@[simp] theorem State.ticks_lt (s : State) (n : Nat) : (s.ticks n).lt = s.lt := rfl
@[simp] theorem State.ticks_tt (s : State) (n : Nat) : (s.ticks n).tt = s.tt := rfl
@[simp] theorem State.ticks_windows (s : State) (n : Nat) : (s.ticks n).windows = s.windows := rfl
@[simp] theorem State.ticks_pfLog (s : State) (n : Nat) : (s.ticks n).pfLog = s.pfLog := rfl
@[simp] theorem State.ticks_pfNext (s : State) (n : Nat) : (s.ticks n).pfNext = s.pfNext := rfl
@[simp] theorem State.ticks_roster (s : State) (n : Nat) : (s.ticks n).roster = s.roster := rfl
@[simp] theorem State.ticks_prevRoster (s : State) (n : Nat) : (s.ticks n).prevRoster = s.prevRoster := rfl
@[simp] theorem State.ticks_rosters (s : State) (n : Nat) : (s.ticks n).rosters = s.rosters := rfl
@[simp] theorem State.ticks_lastEffective (s : State) (n : Nat) : (s.ticks n).lastEffective = s.lastEffective := rfl
@[simp] theorem State.ticks_twin (s : State) (n : Nat) : (s.ticks n).twin = s.twin := rfl
@[simp] theorem State.ticks_fencedMap (s : State) (n : Nat) : (s.ticks n).fencedMap = s.fencedMap := rfl
@[simp] theorem State.ticks_spareUse (s : State) (n : Nat) : (s.ticks n).spareUse = s.spareUse := rfl
@[simp] theorem State.ticks_security (s : State) (n : Nat) : (s.ticks n).security = s.security := rfl
@[simp] theorem State.ticks_power (s : State) (n : Nat) : (s.ticks n).power = s.power := rfl
@[simp] theorem State.ticks_board (s : State) (n : Nat) : (s.ticks n).board = s.board := rfl
@[simp] theorem State.ticks_pcie0 (s : State) (n : Nat) : (s.ticks n).pcie0 = s.pcie0 := rfl
@[simp] theorem State.ticks_pcie1 (s : State) (n : Nat) : (s.ticks n).pcie1 = s.pcie1 := rfl
@[simp] theorem State.ticks_bar4Base (s : State) (n : Nat) : (s.ticks n).bar4Base = s.bar4Base := rfl
@[simp] theorem State.ticks_intrs (s : State) (n : Nat) : (s.ticks n).intrs = s.intrs := rfl
@[simp] theorem State.ticks_pending (s : State) (n : Nat) : (s.ticks n).pending = s.pending := rfl
@[simp] theorem State.ticks_sealed (s : State) (n : Nat) : (s.ticks n).sealed = s.sealed := rfl
@[simp] theorem State.ticks_trace (s : State) (n : Nat) : (s.ticks n).trace = s.trace := rfl
@[simp] theorem State.ticks_hostOut0 (s : State) (n : Nat) : (s.ticks n).hostOut0 = s.hostOut0 := rfl
@[simp] theorem State.ticks_hostOut1 (s : State) (n : Nat) : (s.ticks n).hostOut1 = s.hostOut1 := rfl
@[simp] theorem State.ticks_core (s : State) (n : Nat) (j : Nat) : (s.ticks n).core j = s.core j := rfl
@[simp] theorem State.ticks_part (s : State) (n : Nat) (j : Nat) : (s.ticks n).part j = s.part j := rfl
@[simp] theorem State.ticks_die (s : State) (n : Nat) (j : Nat) : (s.ticks n).die j = s.die j := rfl
@[simp] theorem State.ticks_port (s : State) (n : Nat) (j : Nat) : (s.ticks n).port j = s.port j := rfl
@[simp] theorem State.ticks_ttEntry (s : State) (n : Nat) (j : Nat) : (s.ticks n).ttEntry j = s.ttEntry j := rfl
@[simp] theorem State.ticks_stack (s : State) (n : Nat) (j : Nat) : (s.ticks n).stack j = s.stack j := rfl

end Sys2Proof.Machine
end

