-- ==== Sys2Proof/Safety.lean ====
section
/-!
DEFINITION. The terms the statements use: when a core's sequencer issues an instruction, when an engine starts or completes one,
and what it means that a step goes on.
-/
namespace Sys2Proof

/-- The header and the opcode of a command of a ring (Table 8.3). -/
def Instr.command : Instr → Option (CmdHdr × BitVec 8)
  | .nop h => some (h, 0x00)
  | .bind h _ _ => some (h, 0x01)
  | .unbind h => some (h, 0x02)
  | .load h _ _ _ _ _ _ => some (h, 0x03)
  | .unload h _ => some (h, 0x04)
  | .launch h _ _ _ _ => some (h, 0x05)
  | .resume h => some (h, 0x06)
  | .abort h => some (h, 0x07)
  | .preempt h => some (h, 0x08)
  | .restore h => some (h, 0x09)
  | .reset h _ => some (h, 0x0A)
  | .copy h _ _ _ _ _ => some (h, 0x0B)
  | .signal h _ _ _ => some (h, 0x0C)
  | .wait h _ _ _ => some (h, 0x0D)
  | .timestamp h => some (h, 0x0E)
  | _ => none

/-- Does the payload of a ring's command hold only values that Table 8.3 and R191 allow? -/
def Instr.payloadOk : Instr → Bool
  | .load _ slot _ _ code _ _ => decide (slot.toNat < 64) && decide (code.toNat % 4096 = 0)
  | .unload _ slot => decide (slot.toNat < 64)
  | .launch _ slot _ arg mask => decide (slot.toNat < 64) && mask != 0 && decide (arg.toNat % 64 = 0)
  | .copy _ dir _ _ bytes _ => decide (dir.toNat < 3) && bytes != 0 && decide (bytes.toNat ≤ 2 ^ 40)
  | _ => true

end Sys2Proof

namespace Sys2Proof.Machine

/-- The command has the state `t` as its outcome. -/
abbrev Gives (i : Instr) (s t : State) : Prop := exec i s = .next t

/-- The core's sequencer stands before the instruction: it is well-formed and at the head of the platform queue with index `n`,
the core runs a kernel that nothing stops, and no instruction executes in the sequencer (R33, R34, R53, R55). -/
abbrev AtHead (s : State) (c : CoreId) (i : GOp) (n : Nat) : Prop :=
  i.op.wf = true ∧ (s.core c).issuing = true ∧ (s.core c).seqBusy = false ∧ (s.core c).platform.head? = some ⟨n, i⟩

/-- The core's sequencer issues the instruction, and it executes: its guard value is 1 and no cause of Table 2.3 holds it
(R33, R40, R154). -/
abbrev Issues (s : State) (c : CoreId) (i : GOp) (n : Nat) : Prop :=
  AtHead s c i n ∧ (s.core c).guard i.g = true ∧ (s.core c).heldBy i.op = none

/-- The engine of the core may start the entry now (R34, R38). -/
abbrev Starts (s : State) (c : CoreId) (g : Engine) (e : Entry) : Prop := (s.core c).startable g = some e

/-- The ring of the header's partition takes the command (R192), its header is well-formed (R190), and the device is in Run, which it
does not leave (R368). -/
abbrev Accepts (s : State) (h : CmdHdr) (opcode : BitVec 8) : Prop :=
  s.ringReady h opcode = true ∧ h.reserved = false ∧ h.badOp = none ∧ h.flags.toNat < 16 ∧ s.power.state = .run ∧
  s.power.target = .run

/-- A command of the ring has started: the consumer has advanced, and CMD_CNT counts it. -/
def State.taken (s : State) (p : Nat) : State :=
  s.modPart p fun x => { x with consumer := x.consumer + 1, cnt := tabPut x.cnt 0 (tabGet 0 x.cnt 0 + 1) }

/-- The completion record of a command falls due; when the ring is full the wait for a slot begins (R189, R201). -/
def State.owes (s : State) (h : CmdHdr) (opcode : BitVec 8) (index : BitVec 32) (status : Code) (info : Word) : State :=
  s.modPart h.part.val fun x =>
    Part.trackFull { x with due := x.due ++ [⟨false, ⟨h.tag, opcode, status, index, info, s.lt.now, false⟩, h.flags, h.vector⟩] } s.lt.own

/-- The W entries of Table 8.4 that hang on the state alone. -/
def wrongIn (opcode : BitVec 8) : PState → Bool
  | .idle => opcode ∈ [0x02#8, 0x03, 0x04, 0x05, 0x06, 0x07, 0x08, 0x0B, 0x0D]
  | .ready => opcode ∈ [0x01#8, 0x06, 0x07, 0x09]
  | .running => opcode ∈ [0x01#8, 0x02, 0x06, 0x09]
  | .faulted => opcode ∈ [0x01#8, 0x02, 0x05, 0x09]
  | _ => false

/-- Every memory of the state is in canonical form. -/
def State.memoriesWf (s : State) : Bool := Memory.wf s.mem && Memory.wf s.hostOut0 && Memory.wf s.hostOut1 && Memory.wf s.loader.staging

end Sys2Proof.Machine
end

