-- ==== Sys2Proof/Certificates/Slice0/Obligations.lean ====
section
/-!
DEFINITION. The statements about the device, in the order of OBLIGATIONS.json.
-/
open Sys2Proof Sys2Proof.Machine

/-- A step takes the command at the front of the queue and runs it on the state with the queue's rest. -/
def Obligations.StepRunsFront : Prop :=
  ∀ (c : Instr) (rest : List Instr) (s : State), step { s with pending := c :: rest } = exec c { s with pending := rest }

/-- With nothing commanded a step is one nanosecond on Line Time and on the own count, each while it runs, and nothing else (the
model's choice, log entry 1). Line Time does not run while SEEKING, and a device that is ahead of its source holds it still for the
nanoseconds it is ahead; one that slews forward gains a nanosecond at each 10,000 of its own count: R303 only bounds the rate, at 100 ns
per ms, and how the model slews within it is its own choice (DESIGN CHOICE, log entry 27). -/
def Obligations.EmptyQueueIdles : Prop :=
  ∀ s : State, s.pending = [] → ∃ t, step s = .next t ∧ { t with lt := s.lt } = s ∧
    { t.lt with now := s.lt.now, hold := s.lt.hold, slew := s.lt.slew, own := s.lt.own } = s.lt ∧
    t.lt.own = (if s.lt.ownRuns then s.lt.own + 1 else s.lt.own) ∧
    (s.lt.state = .seeking → t.lt.now = s.lt.now ∧ t.lt.hold = s.lt.hold ∧ t.lt.slew = s.lt.slew) ∧
    (s.lt.state ≠ .seeking → s.lt.hold ≠ 0 → t.lt.now = s.lt.now ∧ t.lt.hold = s.lt.hold - 1 ∧ t.lt.slew = s.lt.slew) ∧
    (s.lt.state ≠ .seeking → s.lt.hold = 0 → t.lt.hold = 0 ∧
      if s.lt.slew ≠ 0 ∧ (s.lt.own.toNat + 1) % 10000 = 0 then t.lt.now = s.lt.now + 2 ∧ t.lt.slew = s.lt.slew - 1
      else t.lt.now = s.lt.now + 1 ∧ t.lt.slew = s.lt.slew)

/-- s0 reads 0 and p0 reads 1, and a write to either is discarded; any other register reads what was written last (R150). -/
def Obligations.HardwiredRegisters : Prop :=
  ∀ (k : Core) (r q : SReg) (v : Word) (x y : PReg) (b : Bool),
    k.reg 0 = 0 ∧ k.pred 0 = true ∧ k.setReg 0 v = k ∧ k.setPred 0 b = k ∧
    (k.setReg r v).reg q = (if q = 0 then 0 else if q = r then v else k.reg q) ∧
    (k.setPred x b).pred y = (if y = 0 then true else if y = x then b else k.pred y)

/-- The two-source scalar instructions: one issue cycle, the head leaves the platform queue, SD holds the result, and nothing else
changes (R157, R154). The one-source and the immediate scalar instructions, in the same way (R156, R157). -/
def Obligations.ScalarResults : Prop :=
  (∀ (s : State) (c : CoreId) (g : Guard) (d a b : SReg) (n : Nat),
    let k := s.core c
    let x := k.reg a
    let y := k.reg b
    let f (w : Word) : F32 := w.setWidth 32
    let does (v : Word) : State := s.setCore c ({ k with cycles := k.cycles + 1, platform := k.platform.drop 1 }.setReg d v)
    (Issues s c ⟨g, .alu .add d a b⟩ n → Gives (.sqAdd c g d a b) s (does (x + y))) ∧
    (Issues s c ⟨g, .alu .sub d a b⟩ n → Gives (.sqSub c g d a b) s (does (x - y))) ∧
    (Issues s c ⟨g, .alu .mul d a b⟩ n → Gives (.sqMul c g d a b) s (does (x * y))) ∧
    (Issues s c ⟨g, .alu .mulhu d a b⟩ n →
      Gives (.sqMulhu c g d a b) s (does (((x.setWidth 128 * y.setWidth 128) >>> 64).setWidth 64))) ∧
    (Issues s c ⟨g, .alu .and d a b⟩ n → Gives (.sqAnd c g d a b) s (does (x &&& y))) ∧
    (Issues s c ⟨g, .alu .or d a b⟩ n → Gives (.sqOr c g d a b) s (does (x ||| y))) ∧
    (Issues s c ⟨g, .alu .xor d a b⟩ n → Gives (.sqXor c g d a b) s (does (x ^^^ y))) ∧
    (Issues s c ⟨g, .alu .shl d a b⟩ n → Gives (.sqShl c g d a b) s (does (x <<< (y.setWidth 6).toNat))) ∧
    (Issues s c ⟨g, .alu .shr d a b⟩ n → Gives (.sqShr c g d a b) s (does (x >>> (y.setWidth 6).toNat))) ∧
    (Issues s c ⟨g, .alu .sra d a b⟩ n → Gives (.sqSra c g d a b) s (does (x.sshiftRight (y.setWidth 6).toNat))) ∧
    (Issues s c ⟨g, .alu .min d a b⟩ n → Gives (.sqMin c g d a b) s (does (if x.toInt < y.toInt then x else y))) ∧
    (Issues s c ⟨g, .alu .max d a b⟩ n → Gives (.sqMax c g d a b) s (does (if x.toInt < y.toInt then y else x))) ∧
    (Issues s c ⟨g, .alu .minu d a b⟩ n → Gives (.sqMinu c g d a b) s (does (if x.toNat < y.toNat then x else y))) ∧
    (Issues s c ⟨g, .alu .maxu d a b⟩ n → Gives (.sqMaxu c g d a b) s (does (if x.toNat < y.toNat then y else x))) ∧
    (Issues s c ⟨g, .alu .fadd d a b⟩ n → Gives (.sqFadd c g d a b) s (does ((fAdd (f x) (f y)).setWidth 64))) ∧
    (Issues s c ⟨g, .alu .fsub d a b⟩ n → Gives (.sqFsub c g d a b) s (does ((fSub (f x) (f y)).setWidth 64))) ∧
    (Issues s c ⟨g, .alu .fmul d a b⟩ n → Gives (.sqFmul c g d a b) s (does ((fMul (f x) (f y)).setWidth 64)))) ∧
  (∀ (s : State) (c : CoreId) (g : Guard) (d a : SReg) (imm : Word) (n : Nat),
    let k := s.core c
    let x := k.reg a
    let does (v : Word) : State := s.setCore c ({ k with cycles := k.cycles + 1, platform := k.platform.drop 1 }.setReg d v)
    (Issues s c ⟨g, .conv .i2f d a⟩ n → Gives (.sqI2f c g d a) s (does ((i2f x).setWidth 64))) ∧
    (Issues s c ⟨g, .conv .f2i d a⟩ n → Gives (.sqF2i c g d a) s (does (f2i (x.setWidth 32)))) ∧
    (Issues s c ⟨g, .immOp .addi d a imm⟩ n → Gives (.sqAddi c g d a imm) s (does (x + imm))) ∧
    (Issues s c ⟨g, .immOp .andi d a imm⟩ n → Gives (.sqAndi c g d a imm) s (does (x &&& imm))) ∧
    (Issues s c ⟨g, .immOp .ori d a imm⟩ n → Gives (.sqOri c g d a imm) s (does (x ||| imm))) ∧
    (Issues s c ⟨g, .immOp .xori d a imm⟩ n → Gives (.sqXori c g d a imm) s (does (x ^^^ imm))) ∧
    (Issues s c ⟨g, .immOp .shli d a imm⟩ n → Gives (.sqShli c g d a imm) s (does (x <<< (imm.setWidth 6).toNat))) ∧
    (Issues s c ⟨g, .immOp .shri d a imm⟩ n → Gives (.sqShri c g d a imm) s (does (x >>> (imm.setWidth 6).toNat))) ∧
    (Issues s c ⟨g, .immOp .srai d a imm⟩ n → Gives (.sqSrai c g d a imm) s (does (x.sshiftRight (imm.setWidth 6).toNat))))

/-- The comparisons write 1 or 0 to PD, and the predicate operations their result; nothing else changes (R156, R157). -/
def Obligations.PredicateResults : Prop :=
  ∀ (s : State) (c : CoreId) (g : Guard) (pd pa pb : PReg) (a : SReg) (b : CmpSrc) (n : Nat),
    let k := s.core c
    let x := k.reg a
    let y : Word := match b with | .reg r => k.reg r | .imm v => v.signExtend 64
    let u := k.pred pa
    let v := k.pred pb
    let fx := f32Num (x.setWidth 32)
    let fy := f32Num (y.setWidth 32)
    let does (r : Bool) : State := s.setCore c ({ k with cycles := k.cycles + 1, platform := k.platform.drop 1 }.setPred pd r)
    (Issues s c ⟨g, .cmp .eq pd a b⟩ n → Gives (.sqCeq c g pd a b) s (does (decide (x = y)))) ∧
    (Issues s c ⟨g, .cmp .ne pd a b⟩ n → Gives (.sqCne c g pd a b) s (does (decide (x ≠ y)))) ∧
    (Issues s c ⟨g, .cmp .lt pd a b⟩ n → Gives (.sqClt c g pd a b) s (does (decide (x.toInt < y.toInt)))) ∧
    (Issues s c ⟨g, .cmp .ge pd a b⟩ n → Gives (.sqCge c g pd a b) s (does (decide (y.toInt ≤ x.toInt)))) ∧
    (Issues s c ⟨g, .cmp .ltu pd a b⟩ n → Gives (.sqCltu c g pd a b) s (does (decide (x.toNat < y.toNat)))) ∧
    (Issues s c ⟨g, .cmp .geu pd a b⟩ n → Gives (.sqCgeu c g pd a b) s (does (decide (y.toNat ≤ x.toNat)))) ∧
    (Issues s c ⟨g, .cmp .flt pd a b⟩ n → Gives (.sqCflt c g pd a b) s (does (numLt fx fy))) ∧
    (Issues s c ⟨g, .cmp .fle pd a b⟩ n → Gives (.sqCfle c g pd a b) s (does (numLt fx fy || numEq fx fy))) ∧
    (Issues s c ⟨g, .cmp .feq pd a b⟩ n → Gives (.sqCfeq c g pd a b) s (does (numEq fx fy))) ∧
    (Issues s c ⟨g, .pred .and pd pa pb⟩ n → Gives (.sqPand c g pd pa pb) s (does (u && v))) ∧
    (Issues s c ⟨g, .pred .or pd pa pb⟩ n → Gives (.sqPor c g pd pa pb) s (does (u || v))) ∧
    (Issues s c ⟨g, .pred .xor pd pa pb⟩ n → Gives (.sqPxor c g pd pa pb) s (does (u ^^ v))) ∧
    (Issues s c ⟨g, .pred .not pd pa 0⟩ n → Gives (.sqPnot c g pd pa) s (does (!u)))

/-- sq.br goes to its own index plus OFF, and does nothing at a guard value of 0; sq.loop subtracts 1 from SA and branches when the
result is not 0; after a branch the platform queue is empty until the target's words arrive (R158, R204). sq.nop only takes its cycle. sq.fence issues once every
earlier instruction has completed, and L1 is written back and invalidated; sq.end does the same, ends the kernel on the core, and
RUN becomes idle (R39, R158, R237). The lines that the flush writes back are in `State.flush`, which is the same for both, and what
the kernel's end completes is in `State.kernelEnds`; both statements show the core itself. -/
def Obligations.ControlFlow : Prop :=
  (∀ (s : State) (c : CoreId) (g : Guard) (sa : SReg) (off : BitVec 32) (n : Nat),
    let k := s.core c
    let k1 : Core := { k with cycles := k.cycles + 1, platform := k.platform.drop 1 }
    let goes (k : Core) : Core :=
      { k with platform := [], kernel := k.kernel.map fun r => { r with fetch := ((n : Int) + off.toInt).toNat } }
    (Issues s c ⟨g, .br off⟩ n → Gives (.sqBr c g off) s (s.setCore c (goes k1))) ∧
    (AtHead s c ⟨g, .br off⟩ n → k.pred g.pred = g.neg → Gives (.sqBr c g off) s (s.setCore c k1)) ∧
    (Issues s c ⟨g, .loop sa off⟩ n →
      Gives (.sqLoop c g sa off) s
        (s.setCore c (if k.reg sa = 1 then k1.setReg sa 0 else goes (k1.setReg sa (k.reg sa - 1))))) ∧
    (Issues s c ⟨g, .nopK⟩ n → Gives (.sqNop c g) s (s.setCore c k1))) ∧
  (∀ (s : State) (c : CoreId) (g : Guard) (n : Nat),
    let k := s.core c
    let k1 : Core := { k with cycles := k.cycles + 1, platform := k.platform.drop 1 }
    (Issues s c ⟨g, .fence⟩ n → k.entries = [] ∧ ∃ t, Gives (.sqFence c g) s t ∧
      t = (s.setCore c { k1 with seqBusy := true }).flush c ∧ (t.core c).l1 = L1.empty ∧ (t.core c).seqBusy = true ∧
      (t.core c).scalars = k.scalars ∧ (t.core c).preds = k.preds ∧ (t.core c).tiles = k.tiles ∧ t.lt = s.lt) ∧
    (Issues s c ⟨g, .endK⟩ n → k.works = true → k.entries = [] ∧ ∃ t, Gives (.sqEnd c g) s t ∧
      t = ((s.setCore c k1).flush c).kernelEnds c ∧ (t.core c).run = .idle ∧ (t.core c).kernel = none ∧ (t.core c).platform = [] ∧ (t.core c).l1 = L1.empty ∧
      (t.core c).scalars = k.scalars ∧ (t.core c).tiles = k.tiles ∧ t.lt = s.lt))

/-- sq.rdsys writes the value of Table 7.5 for each selector. Selector 7, the cycles since launch, is at least the cycles the model
counted (its surplus is a free value, log entry 2), and no selector but 7 changes anything besides SD (R160). -/
def Obligations.SystemValues : Prop :=
  ∀ (s : State) (c : CoreId) (g : Guard) (sd : SReg) (sel : BitVec 8) (n : Nat),
    let k := s.core c
    let k1 : Core := { k with cycles := k.cycles + 1, platform := k.platform.drop 1 }
    let does (v : Word) : State := s.setCore c (k1.setReg sd v)
    let gives (t : State) : Prop := Issues s c ⟨g, .rdsys sd sel⟩ n → Gives (.sqRdsys c g sd sel) s t
    (∀ r : KernelRef, k.kernel = some r →
      (sel = 1 → gives (does (BitVec.ofNat 64 r.rank))) ∧ (sel = 2 → gives (does (BitVec.ofNat 64 r.size))) ∧
      (sel = 6 → gives (does r.arg))) ∧
    (∀ l : BitVec 8, k.logical = some l → sel = 0 → gives (does (l.setWidth 64))) ∧
    (∀ p : Nat, s.partOf c = some p → sel = 3 → gives (does (BitVec.ofNat 64 p))) ∧
    (sel = 4 → gives (does (s.devId.setWidth 64))) ∧
    (sel = 5 → gives (does (s.consist.domainId.setWidth 64))) ∧
    (sel = 7 → ∃ m : Nat, gives ((s.setCore c
      { (k1.setReg sd (k.cycles + BitVec.ofNat 64 m)) with cycles := k.cycles + BitVec.ofNat 64 m + 1 }).tick)) ∧
    (sel = 8 → gives (does s.lt.now)) ∧
    (sel = 9 → gives (does (s.power.mhz.setWidth 64))) ∧
    (sel = 10 → gives (does s.capUnit))

/-- sq.ld writes the bytes at (SA + OFF) modulo 2⁴⁸, lowest first, zero-extended, or sign-extended when SIGNED is 1; sq.st stores
the low SIZE bytes of SR there; both then execute in the sequencer until they complete, and a fault leaves them at the head of the
platform queue (R34, R159, R175). The access through L1 is `State.load` and `State.store`. -/
def Obligations.ScalarMemory : Prop :=
  ∀ (s t : State) (c : CoreId) (g : Guard) (sr sa : SReg) (size : BitVec 2) (signed : Bool) (off : BitVec 32) (n : Nat),
    let k := s.core c
    let a := (k.reg sa + off.signExtend 64).toNat % 2 ^ 48
    let bytes := 2 ^ size.toNat
    (∀ bs, Issues s c ⟨g, .ld sr sa size signed off⟩ n → s.load c a bytes = (t, .ok bs) →
      Gives (.sqLd c g sr sa size signed off) s (t.modCore c fun k =>
        { k with cycles := k.cycles + 1, platform := k.platform.drop 1, seqBusy := true }.setReg sr
          (if signed && decide (2 ^ (8 * bytes - 1) ≤ leNat bs) then BitVec.ofInt 64 ((leNat bs : Int) - 2 ^ (8 * bytes))
           else BitVec.ofNat 64 (leNat bs)))) ∧
    (∀ st b, Issues s c ⟨g, .ld sr sa size signed off⟩ n → s.load c a bytes = (t, .fail st b) →
      Gives (.sqLd c g sr sa size signed off) s (t.seqFaults c 0 st n (some b))) ∧
    (Issues s c ⟨g, .st sr sa size off⟩ n → s.store c a (leBytes bytes (k.reg sr).toNat) = (t, .ok ()) →
      Gives (.sqSt c g sr sa size off) s (t.modCore c fun k =>
        { k with cycles := k.cycles + 1, platform := k.platform.drop 1, seqBusy := true })) ∧
    (∀ st b, Issues s c ⟨g, .st sr sa size off⟩ n → s.store c a (leBytes bytes (k.reg sr).toNat) = (t, .fail st b) →
      Gives (.sqSt c g sr sa size off) s (t.seqFaults c 0 st n (some b)))

/-- At a guard value of 0 every kernel instruction takes one issue cycle and has no effect (R154). The guard value is predicate GP,
inverted when GN is 1. While a core runs no kernel, or a fault, a halt or an abort has stopped its issue, no kernel instruction has
any effect (R53, R55, R197). A command whose event cannot happen, or has no place, in the state changes nothing (log entry 8). -/
def Obligations.GuardedAndStopped : Prop :=
  (∀ (s : State) (i : Instr) (c : CoreId) (x : GOp) (n : Nat), i.issued = some (c, x) → AtHead s c x n →
    (s.core c).pred x.g.pred = x.g.neg →
    Gives i s (s.setCore c { s.core c with cycles := (s.core c).cycles + 1, platform := (s.core c).platform.drop 1 })) ∧
  (∀ (s : State) (i : Instr) (c : CoreId) (x : GOp), i.issued = some (c, x) → x.op.wf = true →
    ((s.core c).run ≠ .running ∨ (s.core c).halted = true ∨ (s.core c).aborting = true ∨ (s.core c).kernel = none) → Gives i s s)

/-- A kernel instruction that a cause of Table 2.3 holds stays at the head, and exactly one stall counter grows by 1: SCALAR_HOLD
(4) first, for a pending scalar; then TCFG_HOLD (5), FENCE_HOLD (6) or the full queue of its engine (0 to 3); PLATFORM_EMPTY (7)
when the platform queue is empty, and 8 while an instruction executes in the sequencer (R35, R37, R39, R40, R47). -/
def Obligations.HeldCycles : Prop :=
  ∀ (s : State) (i : Instr) (c : CoreId) (x : GOp) (n : Nat), i.issued = some (c, x) → x.op.wf = true →
    let k := s.core c
    let stalls (m : Nat) : State := s.setCore c { k with cycles := k.cycles + 1, stall := tabPut k.stall m (tabGet 0 k.stall m + 1) }
    (k.issuing = true → k.seqBusy = true → Gives i s (stalls 8)) ∧
    (k.issuing = true → k.seqBusy = false → k.platform = [] → Gives i s (stalls 7)) ∧
    (AtHead s c x n → k.guard x.g = true →
      (∀ r : SReg, (r ∈ scalarsRead x.op ∨ scalarWritten x.op = some r) → r.toNat ∈ k.pendS → Gives i s (stalls 4)) ∧
      ((∀ r : SReg, (r ∈ scalarsRead x.op ∨ scalarWritten x.op = some r) → r.toNat ∉ k.pendS) →
        (∀ e : Engine, engineOf x.op = some e → 16 ≤ (k.queue e).length →
          Gives i s (stalls (match e with | .mx => 0 | .vx => 1 | .tm => 2 | .sy => 3))) ∧
        (∀ first count rows rowLog2 format group, x.op = .tcfg first count rows rowLog2 format group →
          (k.tcfgWait ≠ none ∨ k.runBusy first.toNat count.toNat = true) → Gives i s (stalls 5)) ∧
        ((x.op = .fence ∨ x.op = .endK) → k.entries ≠ [] → Gives i s (stalls 6))))

/-- A kernel instruction with a field value that Table 7.14 rejects is no instruction of any translated kernel (R152, R178). That the model
stops on it by name, goes on with every other command and refuses none is the model's choice (DESIGN CHOICE, log entry 8): no rule says
what a block does with a command that cannot come. -/
def Obligations.OnlyIllFormedStops : Prop :=
  ∀ (i : Instr) (s : State), (i.wf = true → ∃ t, Gives i s t) ∧ (∀ r, exec i s ≠ .refused r) ∧
    (∀ c x, i.issued = some (c, x) → x.op.wf = false → exec i s = .fault .illFormed)

/-- An engine instruction issues: it takes the tail of its engine's queue with the scalars it names as they are at issue, the scalar
it writes is pending until it completes, and no other queue, register or tile changes (R34 to R37). The instructions: tld, tst,
tld.x, tst.x; mx.mm, mx.mmq, mx.ew, mx.accld, mx.ldb, mx.st, mx.rmode, mx.seed; vx.add, vx.mul, vx.fma, vx.max, vx.min, vx.cvt,
vx.act, vx.actd, vx.fn, vx.rand, vx.tload, vx.seed, vx.norm, vx.normb, vx.smax, vx.smaxb; tm.dld, tm.dst, tm.dset, tm.copy,
tm.gather, tm.scatter, tm.rput, tm.rget, tm.ingest; sy.bind, sy.add, sy.wait, sy.read, sy.bar, sy.barcfg; up.sq, up.step,
up.setstep. tm.ingest: unless R176 faults it, which AbsentTransform states. tm.ingest with XFS = 1 on a device without the transform
unit reads SXF at issue; if bits 8:0 are not 0 it faults with ABSENT_ENGINE, with no effect: it stays at the head of the platform
queue and enters no engine queue (R176). -/
def Obligations.EngineInstructionsIssue : Prop :=
  (∀ (s : State) (i : Instr) (c : CoreId) (x : GOp) (e : Engine) (n : Nat), i.issued = some (c, x) → engineOf x.op = some e →
    Issues s c x n →
    (∀ dd ds sxf xf sd, x.op = .ingest dd ds true sxf xf sd → s.fuses.gradeB = false ∨ (((s.core c).reg sxf).setWidth 9 : BitVec 9) = 0) →
    let k := s.core c
    ∃ t, Gives i s t ∧ { t with cores := s.cores } = s ∧ (∀ d : Nat, d ≠ c.val → t.core d = s.core d) ∧
      (t.core c).queue e = k.queue e ++
        [⟨k.seqNo, n, x.op, (scalarsRead x.op).map k.reg, false, false, false, none, 0, opDraws x.op, none⟩] ∧
      (∀ f : Engine, f ≠ e → (t.core c).queue f = k.queue f) ∧
      (∀ r : SReg, r ≠ 0 → (r.toNat ∈ (t.core c).pendS ↔ r.toNat ∈ k.pendS ∨ scalarWritten x.op = some r)) ∧
      (t.core c).cycles = k.cycles + 1 ∧ (t.core c).platform = k.platform.drop 1 ∧ (t.core c).seqNo = k.seqNo + 1 ∧
      { t.core c with
        cycles := k.cycles, platform := k.platform, seqNo := k.seqNo, pendS := k.pendS,
        mxq := k.mxq, vxq := k.vxq, tmq := k.tmq, syq := k.syq } = k) ∧
  (∀ (s : State) (c : CoreId) (g : Guard) (dd ds : DReg) (sxf : SReg) (sd : SReg) (n : Nat),
    let k := s.core c
    Issues s c ⟨g, .ingest dd ds true sxf 0 sd⟩ n → s.fuses.gradeB = true → k.fault.valid = false →
    (k.reg sxf).toNat % 512 ≠ 0 →
    ∃ t, Gives (.tmIngest c g dd ds true sxf 0 sd) s t ∧ (t.core c).run = .faulted ∧
      (t.core c).fault = ⟨true, false, false, 3, 0, 0, 2, BitVec.ofNat 32 n, 0⟩ ∧
      (t.core c).platform = k.platform ∧ (t.core c).tmq = k.tmq ∧ (t.core c).scalars = k.scalars ∧ t.mem = s.mem ∧
      (∀ p, s.partOf c = some p → (s.part p).state = .running → (t.part p).state = .faulted))

/-- A consistent tcfg whose banks are awake gives every register of the run its configuration and leaves the data and the scales of
every register; a register outside the run keeps its format, rows and row length (R44, R46). A consistent tcfg that gives a register
of a gated bank a FORMAT other than NONE wakes the banks it needs and waits; when the last of them is awake, every byte of their
registers reads zero, and the tcfg takes effect (R57). Here one bank wakes, for a run within it. A scalar access or a fence that
executes in the sequencer completes, and the sequencer may issue again (R34). -/
def Obligations.SequencerEvents : Prop :=
  (∀ (s : State) (c : CoreId) (g : Guard) (first : TReg) (count : BitVec 7) (rows : BitVec 11) (rowLog2 format : BitVec 4)
    (group : Bool) (n : Nat),
    let k := s.core c
    Issues s c ⟨g, .tcfg first count rows rowLog2 format group⟩ n →
    tcfgConsistent first.toNat count.toNat rows.toNat rowLog2.toNat format group = true →
    (format = 0 ∨ ∀ b : Nat, b < 8 → (∃ r, first.toNat ≤ r ∧ r < first.toNat + count.toNat ∧ r / 8 = b) → k.powered.getLsbD b = true) →
    ∃ t, Gives (.tcfg c g first count rows rowLog2 format group) s t ∧ { t with cores := s.cores } = s ∧
      (∀ d : Nat, d ≠ c.val → t.core d = s.core d) ∧ (t.core c).platform = k.platform.drop 1 ∧
      (t.core c).scalars = k.scalars ∧ (t.core c).preds = k.preds ∧ (t.core c).mxq = k.mxq ∧ (t.core c).tmq = k.tmq ∧
      ∀ r : Nat, r < 64 →
        ((t.core c).tile r).data = (k.tile r).data ∧ ((t.core c).tile r).scales = (k.tile r).scales ∧
        (first.toNat ≤ r ∧ r < first.toNat + count.toNat →
          ((t.core c).tile r).cfg = if format = 0 then TileCfg.none else ⟨group, format, rowLog2, rows⟩) ∧
        (r < first.toNat ∨ first.toNat + count.toNat ≤ r →
          { ((t.core c).tile r).cfg with group := (k.tile r).cfg.group } = (k.tile r).cfg)) ∧
  (∀ (s : State) (c : CoreId) (g : Guard) (first : TReg) (count : BitVec 7) (rows : BitVec 11) (rowLog2 format : BitVec 4)
    (group : Bool) (n : Nat) (b : Fin 8),
    let k := s.core c
    let op := Op.tcfg first count rows rowLog2 format group
    tcfgConsistent first.toNat count.toNat rows.toNat rowLog2.toNat format group = true → format ≠ 0 →
    first.toNat / 8 = b.val → (first.toNat + count.toNat - 1) / 8 = b.val →
    (Issues s c ⟨g, op⟩ n → k.powered.getLsbD b = false →
      Gives (.tcfg c g first count rows rowLog2 format group) s (s.setCore c
        { k with cycles := k.cycles + 1, stall := tabPut k.stall 5 (tabGet 0 k.stall 5 + 1),
                 waking := k.waking ||| (1#8 <<< b.val), tcfgWait := some ⟨n, op⟩ })) ∧
    (k.works = true → k.aborting = false → k.tcfgWait = some ⟨n, op⟩ → k.waking = 1#8 <<< b.val →
      ∃ t, Gives (.bankWakeComplete c b) s t ∧ (t.core c).waking = 0 ∧ (t.core c).powered.getLsbD b = true ∧
        (t.core c).tcfgWait = none ∧ (t.core c).platform = k.platform.drop 1 ∧
        (∀ r : Nat, r / 8 = b.val → ((t.core c).tile r).data = [] ∧ ((t.core c).tile r).scales = []) ∧
        ∀ r : Nat, first.toNat ≤ r → r < first.toNat + count.toNat →
          ((t.core c).tile r).cfg = ⟨group, format, rowLog2, rows⟩)) ∧
  (∀ (s : State) (c : CoreId), (s.core c).works = true → (s.core c).seqBusy = true → (s.core c).aborting = false →
    Gives (.sequencerInstructionComplete c) s (s.setCore c { s.core c with seqBusy := false }))

/-- The instructions that only write registers take effect when their engine starts them: mx.rmode sets the mode and the clamped
threshold (R99), mx.seed and vx.seed set SEED and STEP, vx.seed sets DRAW to 0 (R79, R118), tm.dset replaces one word of a
descriptor (R215), sy.bind sets a handle (R251). tm.dld gives the descriptor the 64 bytes at its address, lowest first; tm.dst stores
them; a tld of one row gives the register the row's bytes, and for F4 its scales, and leaves its other bytes (R49, R215). An access that
faults faults the instruction with its address (R51, R53). A tld or tld.x of a configured register is done when each of its rows has been
loaded, at BASE + row × stride or BASE + idx[row] × stride (R48, R162); a tst or tst.x whose rows translate is done, and its rows reach L1 at
its completion point (R50). vx.tload keeps the 6,208 bytes that it has read when they meet the rules of an image (R121). tm.copy moves every
element of the destination's bounds, tm.gather and tm.scatter as many blocks as their count says; destination bytes that are source bytes take
free values (R168 to R170, R216, R218); an element within both bounds is read and stored, one outside the source's takes the fill value, one
outside the destination's is dropped and counted (R212, R213). tm.rput and tm.rget issue what they ask of a device of the roster, and wait
(R221); tm.ingest asks its host for the elements, at most 4,096 bytes, and waits at most 50 ms (R223, R226). An error found in what the
instruction reads in an SRAM starts the test of the SRAM's unit; one that cannot be corrected leaves a word of what it reads without content,
and nothing that it does not read changes so (DEDUCED and DESIGN CHOICE, log entries 14, 17); an instruction that a check refuses reads nothing
(R45). That a source element is read, and may fault, although its destination index is outside the bounds is a DESIGN CHOICE (log entry 22:
R212 does not say). -/
def Obligations.EngineStarts : Prop :=
  (∀ (s : State) (c : CoreId) (g : Engine) (e : Entry), Starts s c g e →
    let k := s.core c
    (Gives (.engineStart c g .clean) s (s.entryShape c g e) → ∀ ecc : Ecc, Gives (.engineStart c g ecc) s (s.entryShape c g e)) ∧
    ∀ ecc : Ecc, ecc ≠ .clean → ¬ Gives (.engineStart c g .clean) s (s.entryShape c g e) →
      let u := s.spoilRead c e.op ecc
      (∀ t, Gives (.engineStart c g .clean) u t →
        Gives (.engineStart c g ecc) s (t.startTest (s.readUnit c e.op) (decide (ecc = .uncorrectable)))) ∧
      Starts u c g e ∧ u.mem = s.mem ∧ u.parts = s.parts ∧ (u.core c).scalars = k.scalars ∧ (u.core c).descs = k.descs ∧
      (u.core c).l1.data = k.l1.data ∧ (ecc = .corrected → u.cores = s.cores) ∧
      (∀ r : Nat, Res.tile r ∉ resRead e.op → (u.core c).tile r = k.tile r) ∧
      (∀ r i : Nat, (k.tile r).cfg.rows.toNat * (k.tile r).cfg.rowBytes ≤ i →
        memGet ((u.core c).tile r).data i = memGet (k.tile r).data i) ∧
      ((∀ b : Nat, Res.acc b ∉ resRead e.op) → (u.core c).mx.acc = k.mx.acc)) ∧
  (∀ (s : State) (c : CoreId) (e : Entry),
    let k := s.core c
    (∀ mode ls, e.op = .rmode mode ls → Starts s c .mx e → Gives (.engineStart c .mx .clean) s ((s.setCore c
      { k with mx := { k.mx with lsMode := mode, longSum := BitVec.ofNat 17 (min 65536 (max 256 ls.toNat)) } }).entryDone c .mx e none)) ∧
    (∀ a b, e.op = .mseed a b → Starts s c .mx e → Gives (.engineStart c .mx .clean) s ((s.setCore c
      { k with mx := { k.mx with seed := e.args.getD 0 0, step := e.args.getD 1 0 } }).entryDone c .mx e none)) ∧
    (∀ a b, e.op = .vseed a b → Starts s c .vx e → Gives (.engineStart c .vx .clean) s ((s.setCore c
      { k with vx := { k.vx with seed := e.args.getD 0 0, step := e.args.getD 1 0, draw := 0 } }).entryDone c .vx e none)) ∧
    (∀ d v w, e.op = .dset d v w → Starts s c .tm e → ∃ x : BitVec 512,
      Gives (.engineStart c .tm .clean) s ((s.setCore c (k.setDesc d x)).entryDone c .tm e none) ∧
      ∀ i : Nat, i < 512 → x.getLsbD i = if i / 64 = w.toNat then (e.args.getD 0 0).getLsbD (i % 64) else (k.desc d).getLsbD i) ∧
    (∀ b v, e.op = .sbind b v → Starts s c .sy e → Gives (.engineStart c .sy .clean) s ((s.setCore c
      { k with handles := tabPut k.handles b.toNat (some (e.args.getD 0 0)) }).entryDone c .sy e none))) ∧
  (∀ (s u : State) (c : CoreId) (e : Entry),
    let k := s.core c
    let a := (e.args.getD 0 0).toNat % 2 ^ 48
    (∀ d sa bs, e.op = .dld d sa → Starts s c .tm e → s.load c a 64 = (u, .ok bs) →
      Gives (.engineStart c .tm .clean) s ((u.modCore c (·.setDesc d (BitVec.ofNat 512 (leNat bs)))).entryDone c .tm e none)) ∧
    (∀ d sa st b, e.op = .dld d sa → Starts s c .tm e → s.load c a 64 = (u, .fail st b) →
      Gives (.engineStart c .tm .clean) s (u.entryFaults c .tm e st none (some b))) ∧
    (∀ d sa, e.op = .dst d sa → Starts s c .tm e → s.store c a (leBytes 64 (k.desc d).toNat) = (u, .ok ()) →
      Gives (.engineStart c .tm .clean) s (u.entryDone c .tm e none)) ∧
    (∀ (t : TReg) (x y : SReg) (bs : List Byte), e.op = .tld t x y → Starts s c .tm e →
      (k.tile t.toNat).cfg.format ≠ 0 → (k.tile t.toNat).cfg.rows = 1 →
      (s.modCore c fun k => { k with mx := k.mx.touch t.toNat }).load c a
        ((k.tile t.toNat).cfg.rowBytes + (k.tile t.toNat).cfg.scaleBytes) = (u, .ok bs) →
      bs.length = (k.tile t.toNat).cfg.rowBytes + (k.tile t.toNat).cfg.scaleBytes →
      ∃ v : State, Gives (.engineStart c .tm .clean) s (v.entryDone c .tm e none) ∧ v.mem = u.mem ∧
        ((v.core c).tile t.toNat).cfg = (k.tile t.toNat).cfg ∧
        (∀ i : Nat, i < (k.tile t.toNat).cfg.rowBytes → memGet ((v.core c).tile t.toNat).data i = bs.getD i 0) ∧
        (∀ i : Nat, (k.tile t.toNat).cfg.rowBytes ≤ i →
          memGet ((v.core c).tile t.toNat).data i = memGet (k.tile t.toNat).data i) ∧
        ((k.tile t.toNat).cfg.format = 1 → ∀ i : Nat, i < (k.tile t.toNat).cfg.rowBytes / 32 →
          memGet ((v.core c).tile t.toNat).scales i = bs.getD ((k.tile t.toNat).cfg.rowBytes + i) 0) ∧
        ((k.tile t.toNat).cfg.format ≠ 1 → ((v.core c).tile t.toNat).scales = (k.tile t.toNat).scales) ∧
        (∀ q : Nat, q ≠ t.toNat → (v.core c).tile q = k.tile q)) ∧
    (∀ t : TReg, tldReg e.op = some t → Starts s c .tm e → transferShape (k.tile t.toNat) (indexOf k e.op) = true →
      (s.modCore c fun k => { k with mx := k.mx.touch t.toNat }).tldRows c t.toNat
        (rowAddr (e.args.getD 0 0) (e.args.getD 1 0) (indexOf k e.op)) (List.range (k.tile t.toNat).cfg.rows.toNat) = (u, none) →
      Gives (.engineStart c .tm .clean) s (u.entryDone c .tm e none)) ∧
    (∀ (t i : TReg) (x y : SReg) (bs : List Byte), e.op = .tldx t x y i → Starts s c .tm e →
      (k.tile t.toNat).cfg.format ≠ 0 → (k.tile t.toNat).cfg.rows = 1 → (k.tile i.toNat).cfg.format = 6 →
      1 ≤ (k.tile i.toNat).cfg.rows.toNat → 2 ≤ (k.tile i.toNat).cfg.rowLog2.toNat →
      (s.modCore c fun k => { k with mx := k.mx.touch t.toNat }).load c
        (((e.args.getD 0 0).toNat + memNat (k.tile i.toNat).data 0 4 * (e.args.getD 1 0).toNat) % 2 ^ 48)
        ((k.tile t.toNat).cfg.rowBytes + (k.tile t.toNat).cfg.scaleBytes) = (u, .ok bs) →
      bs.length = (k.tile t.toNat).cfg.rowBytes + (k.tile t.toNat).cfg.scaleBytes →
      ∃ v : State, Gives (.engineStart c .tm .clean) s (v.entryDone c .tm e none) ∧ v.mem = u.mem ∧
        (∀ j : Nat, j < (k.tile t.toNat).cfg.rowBytes → memGet ((v.core c).tile t.toNat).data j = bs.getD j 0) ∧
        (∀ q : Nat, q ≠ t.toNat → (v.core c).tile q = k.tile q)) ∧
    (∀ t : TReg, tstReg e.op = some t → Starts s c .tm e → transferShape (k.tile t.toNat) (indexOf k e.op) = true →
      s.tstFault c (k.tile t.toNat) (rowAddr (e.args.getD 0 0) (e.args.getD 1 0) (indexOf k e.op))
        (List.range (k.tile t.toNat).cfg.rows.toNat) = (u, none) →
      Gives (.engineStart c .tm .clean) s (u.entryDone c .tm e none)) ∧
    (∀ sa slot bs, e.op = .tload sa slot → Starts s c .vx e → s.load c a 6208 = (u, .ok bs) →
      imageOk (memWrite [] 0 bs) = true →
      Gives (.engineStart c .vx .clean) s ((u.modCore c fun k => { k with vx :=
        { k.vx with slots := tabPut k.vx.slots slot.toNat none
                    loading := tabPut k.vx.loading slot.toNat (some ⟨BitVec.ofNat 48 a, memWrite [] 0 bs⟩) } }).entryDone c .vx e none))) ∧
  (∀ (s u : State) (c : CoreId) (e : Entry) (m : Moved),
    let k := s.core c
    let d (x : DReg) : Desc := descOf (k.desc x)
    let ended := ((u.undefOverlap c m).modCore c fun k => k.modEntry .tm e.seq fun x => { x with drops := m.drops }).entryDone c .tm e none
    (∀ dd ds xp, e.op = .copy dd ds xp → Starts s c .tm e →
      s.moveElems c (d ds) (d dd) (d dd).width
        (fun n => (if xp then swapIndex ((d dd).index n) else (d dd).index n, (d dd).index n))
        (List.range (min (d dd).count (2 ^ 32))) Moved.none = (u, m, none) →
      Gives (.engineStart c .tm .clean) s ended) ∧
    (∀ dd ds di sn, (e.op = .gather dd ds di sn ∨ e.op = .scatter dd ds di sn) → Starts s c .tm e →
      s.moveBlocks c (d ds) (d dd) (d di) (e.op == .gather dd ds di sn)
        (List.range (min (e.args.getD 0 0).toNat (2 ^ 32))) (2 ^ 32) Moved.none = (u, m, none) →
      Gives (.engineStart c .tm .clean) s ended) ∧
    (∀ (src dst : Desc) (w : Nat) (i j : Index) (bs : List Byte),
      (dst.inside j = false → src.inside i = false → s.moveElem c src dst w (i, j) m = (s, { m with drops := m.drops + 1 }, none)) ∧
      (dst.inside j = false → src.inside i = true → s.load c (src.addr i) w = (u, .ok bs) →
        s.moveElem c src dst w (i, j) m = (u, { m with drops := m.drops + 1, reads := m.reads ++ [(src.addr i, w)] }, none)) ∧
      (dst.inside j = true → src.inside i = false → s.store c (dst.addr j) (leBytes w src.fill) = (u, .ok ()) →
        s.moveElem c src dst w (i, j) m = (u, { m with writes := m.writes ++ [(dst.addr j, w)] }, none)) ∧
      (dst.inside j = true → src.inside i = true → s.load c (src.addr i) w = (u, .ok bs) →
        ∀ v, u.store c (dst.addr j) bs = (v, .ok ()) →
        s.moveElem c src dst w (i, j) m =
          (v, { m with reads := m.reads ++ [(src.addr i, w)], writes := m.writes ++ [(dst.addr j, w)] }, none)))) ∧
  (∀ (s : State) (c : CoreId) (e : Entry) (x : DReg) (b : BReg) (sa sb sd : SReg) (sig : Bool),
    let k := s.core c
    let dev : BitVec 16 := (e.args.getD 0 0).setWidth 16
    s.preLock = false → s.inRoster dev s.lineTime = true → s.inRoster s.devId s.lineTime = true →
    (sig = true → ∃ g, s.signalOf c b dev = some g) → Starts s c .tm e →
    (e.op = .rput x sa sb b sig sd → ∃ t y, Gives (.engineStart c .tm .clean) s t ∧ (t.core c).xferTm = some y ∧
      y.kind = .rputRead ∧ y.dst = dev ∧ y.part.val = (e.args.getD 0 0).toNat / 2 ^ 16 % 2 ^ 4 ∧
      y.remote.toNat = (e.args.getD 1 0).toNat % 2 ^ 48 ∧ y.sig = sig ∧ y.acked = 0 ∧ (t.core c).tiles = k.tiles ∧
      (t.core c).tmq = (k.modEntry .tm e.seq fun z => { z with started := true }).tmq) ∧
    (e.op = .rget x sa sb b sig sd → (descOf (k.desc x)).width ≠ 8 → ∃ t y, Gives (.engineStart c .tm .clean) s t ∧ (t.core c).xferTm = some y ∧
      y.kind = .rget ∧ y.dst = dev ∧ y.part.val = (e.args.getD 0 0).toNat / 2 ^ 16 % 2 ^ 4 ∧
      y.remote.toNat = (e.args.getD 1 0).toNat % 2 ^ 48 ∧ y.sig = sig ∧ y.acked = 0 ∧ y.desc = k.desc x ∧
      y.total = min (descOf (k.desc x)).count (2 ^ 32) ∧ (t.core c).tiles = k.tiles ∧
      (t.core c).tmq = (k.modEntry .tm e.seq fun z => { z with started := true }).tmq)) ∧
  (∀ (s : State) (c : CoreId) (e : Entry) (dd ds : DReg) (xfs : Bool) (sx : SReg) (xf : BitVec 9) (sd : SReg),
    let k := s.core c
    let code : BitVec 9 := if xfs then (e.args.getD 0 0).setWidth 9 else xf
    let src := descOf (k.desc ds)
    let dst := descOf (k.desc dd)
    e.op = .ingest dd ds xfs sx xf sd → Starts s c .tm e → codeReserved code = false → 0 < dst.count →
    src.inside (ingestIndex src code (dst.index 0)) = true →
    ∃ t y, Gives (.engineStart c .tm .clean) s t ∧ (t.core c).xferTm = some y ∧ y.kind = .ingest ∧ y.code = code ∧ y.next = 0 ∧
      y.total = min dst.count (2 ^ 32) ∧ y.hostAddr = src.addr (ingestIndex src code (dst.index 0)) ∧ 0 < y.hostLen ∧ y.hostLen ≤ 4096 ∧
      y.deadline = s.lt.own + 50000000 ∧ t.mem = s.mem ∧ (t.core c).tiles = k.tiles ∧
      (t.core c).tmq = (k.modEntry .tm e.seq fun z => { z with started := true }).tmq)

/-- A fault of a core: RUN becomes faulted; the record keeps the first fault; a RUNNING partition enters FAULTED, and its event
record falls due with the command index 0xFFFF_FFFF and the core and instruction in INFO, unless the rings are disabled or 256
events wait already (R53, R183, R189, R196, R199). -/
def Obligations.FaultRecorded : Prop :=
  ∀ (s : State) (c : CoreId) (engine : BitVec 3) (status : BitVec 8) (index : Nat) (row : Option (TReg × Nat)) (addr : Option Nat),
    let t := s.fault c engine status index row addr
    let k := s.core c
    (t.core c).run = .faulted ∧ t.mem = s.mem ∧ (t.core c).scalars = k.scalars ∧ (t.core c).tiles = k.tiles ∧
    (t.core c).platform = k.platform ∧ (k.fault.valid = true → t = s.setCore c { k with run := .faulted }) ∧
    (k.fault.valid = false →
      (t.core c).fault.valid = true ∧ (t.core c).fault.status = status ∧ (t.core c).fault.engine = engine ∧
      (t.core c).fault.index = BitVec.ofNat 32 index ∧
      (∀ r j, row = some (r, j) → (t.core c).fault.rowValid = true ∧ (t.core c).fault.tile = r ∧
        (t.core c).fault.row = BitVec.ofNat 10 j) ∧
      (∀ a, addr = some a → (t.core c).fault.addrValid = true ∧ (t.core c).fault.addr = BitVec.ofNat 48 a) ∧
      (∀ p, s.partOf c = some p →
        ((s.part p).state = .running → (t.part p).state = .faulted) ∧
        ((s.part p).state = .running → (s.part p).enable = true → (s.part p).waitingEvents < 256 → index < 2 ^ 32 →
          ∃ d, (t.part p).due = (s.part p).due ++ [d] ∧ d.isEvent = true ∧ d.rec_.opcode = 0xFF ∧ d.rec_.status = status ∧
            d.rec_.index = 0xFFFFFFFF ∧ d.rec_.info.toNat = c.val + 2 ^ 16 * index ∧ d.rec_.lineTime = s.lt.now)))

/-- An element-wise instruction whose destination is an accumulator window gives each element the exact result of its sources,
rounded once, from the values before any result is written; no other accumulator, no term count and no tile changes (R112, R113,
R116). For any destination, each result of vx.add to vx.cvt is rounded once to FP32, or to W16 where PACKED; vx.act evaluates its table, vx.actd
multiplies g by the derivative slot's table, vx.fn evaluates its fixed function, and vx.rand gives r × 2⁻²⁴; a destination that is not FP32
then takes the FP32 results converted to its format, each with its own rounding (R106, R113, R116, R117, R124, R126, R127); vx.act,
vx.actd and vx.fn count a lookup for each element (Table 5.12). vx.norm, vx.normb, vx.smax and vx.smaxb of a legal shape read their streams
and store the rows that the formulas of R130 and R131 give from the exact values (R128, R133). Each of these instructions is then done.
The model's own choices here: vx.cvt from U32 passes through FP32 (DEDUCED, log entry 26), the number that a row instruction's draws are
keyed by (DESIGN CHOICE, log entry 26), and the 320-bit evaluation of vx.fn (DEDUCED, log entry 6). -/
def Obligations.ElementWise : Prop :=
  (∀ (s : State) (c : CoreId) (e : Entry) (f : VecFn) (v : VecOps), e.op = .vec f v → Starts s c .vx e → v.d = .win0 →
    (s.core c).vecShape v.w0 v.w1 .win0 (v.sources f) (f == .cvt) v.packed = true →
    let k := s.core c
    let cols := 16 * v.w0.cols16.toNat
    let el (x : VSel) (r i : Nat) : Machine.Num := k.selElem e v.w0 v.w1 x r i
    ∃ m : Tab F32, Gives (.engineStart c .vx .clean) s ((s.setCore c { k with mx := { k.mx with acc := m } }).entryDone c .vx e none) ∧
      (∀ r i : Nat, r < v.w0.rows.toNat → i < cols →
        tabGet 0 m (512 * (v.w0.base.toNat + r) + (16 * v.w0.col16.toNat + i)) =
          roundF32 (if v.rnd then .stoch (k.vxRand 2 (k.drawOf e) r i) else .nearest)
            (match f with
             | .add => Machine.Num.sum [el v.s1 r i, el v.s2 r i]
             | .mul => Machine.Num.mul (el v.s1 r i) (el v.s2 r i)
             | .fma => Machine.Num.sum [Machine.Num.mul (el v.s1 r i) (el v.s2 r i), el v.s3 r i]
             | .max => numMax (el v.s1 r i) (el v.s2 r i)
             | .min => numMin (el v.s1 r i) (el v.s2 r i)
             | .cvt => el v.s1 r i)) ∧
      (∀ n : Nat, (n / 512 < v.w0.base.toNat ∨ v.w0.base.toNat + v.w0.rows.toNat ≤ n / 512 ∨ n % 512 < 16 * v.w0.col16.toNat ∨
          16 * v.w0.col16.toNat + cols ≤ n % 512) → tabGet 0 m n = tabGet 0 k.mx.acc n)) ∧
  (∀ (s : State) (c : CoreId) (e : Entry) (d s1 s2 : VSel) (rnd : Bool) (w0 w1 : Window) (n m : Nat), Starts s c .vx e →
    let k := s.core c
    let el (x : VSel) (r i : Nat) : Machine.Num := k.selElem e w0 w1 x r i
    let draws (r i : Nat) : Rnd := if rnd then .stoch (k.vxRand 2 (k.drawOf e) r i) else .nearest
    let grid (res : Nat → Nat → F32 × Rnd) : Core := k.putRows w0 w1 d ((List.range n).map fun r => (List.range m).map fun i => res r i)
    let looked (k : Core) : Core := { k with vx := { k.vx with cnt := bump k.vx.cnt 3 (n * m) } }
    k.selDims w0 w1 d = some (n, m) →
    (∀ f v, e.op = .vec f v → v.d = d → v.w0 = w0 → v.w1 = w1 → v.rnd = rnd → v.packed = false →
      k.vecShape w0 w1 d (v.sources f) (f == .cvt) false = true →
      let exact (r i : Nat) : Machine.Num := vecExact f (el v.s1 r i) (el v.s2 r i) (el v.s3 r i)
      Gives (.engineStart c .vx .clean) s ((s.setCore c (grid fun r i =>
        if k.selFormat d = 5 then (roundF32 (draws r i) (exact r i), .nearest) else (rn (exact r i), draws r i))).entryDone c .vx e none)) ∧
    (∀ f v t, e.op = .vec f v → v.d = .tile t → d = .tile t → v.w0 = w0 → v.w1 = w1 → v.rnd = rnd → v.packed = true →
      k.vecShape w0 w1 d (v.sources f) (f == .cvt) true = true →
      Gives (.engineStart c .vx .clean) s ((s.setCore c (((List.range n).zip ((List.range n).map fun r => packCodes 4 ((List.range m).map fun i =>
        w16Code (draws r i) (vecExact f (el v.s1 r i) (el v.s2 r i) (el v.s3 r i))))).foldl
          (fun x p => x.putTileRow t.toNat p.1 p.2 []) k)).entryDone c .vx e none)) ∧
    (∀ slot T, e.op = .act d s1 rnd slot w0 w1 → k.vecShape w0 w1 d [s1] false false = true → k.vx.table slot.toNat = some T →
      Gives (.engineStart c .vx .clean) s ((s.setCore c (looked (grid fun r i => (T.eval (el s1 r i), draws r i)))).entryDone c .vx e none)) ∧
    (∀ (pair : BitVec 4) T, e.op = .actd d s1 s2 rnd pair w0 w1 → k.vecShape w0 w1 d [s1, s2] false false = true →
      k.vx.table (2 * pair.toNat + 1) = some T →
      Gives (.engineStart c .vx .clean) s ((s.setCore c (looked (grid fun r i =>
        (rn (Machine.Num.mul (el s1 r i) (f32Num (T.eval (el s2 r i)))), draws r i)))).entryDone c .vx e none)) ∧
    (∀ f, e.op = .fn f d s1 rnd w0 w1 → k.vecShape w0 w1 d [s1] false false = true →
      Gives (.engineStart c .vx .clean) s ((s.setCore c (looked (grid fun r i => (match f with
        | .exp => fExp (el s1 r i) | .exp2 => fExp2 (el s1 r i) | .log2 => fLog2 (el s1 r i) | .rsqrt => fRsqrt (el s1 r i)
        | .recip => fRecip (el s1 r i), draws r i)))).entryDone c .vx e none)) ∧
    (∀ u, e.op = .rand d u w0 w1 → k.vecShape w0 w1 d [] false false = true →
      Gives (.engineStart c .vx .clean) s ((s.setCore c (grid fun r i =>
        (rn (.fin ⟨false, k.vxRand 3 (k.drawOf e) r i, -24⟩), .nearest))).entryDone c .vx e none))) ∧
  (∀ (s u v : State) (c : CoreId) (e : Entry) (f : RowFn) (r : RowOps) (vs : List (List Machine.Num)), e.op = .row f r →
    Starts s c .vx e → rowShape e f r = true →
    s.streams c (rowN e) ((rowStreams e f r).1 ++ (rowStreams e f r).2) = (u, .ok vs) →
    u.storeRows c ((rowResults e f r vs).1.map fun o => (o.1, (u.core c).rowOut e r o.2)) = (v, none) →
    Gives (.engineStart c .vx .clean) s ((v.modCore c fun k =>
      { k with vx := { k.vx with cnt := bump k.vx.cnt 3 (rowResults e f r vs).2 } }).entryDone c .vx e none))

/-- A step of mx.mm, of quarter q of an mx.mmq or of an mx.ew writes its results into the accumulators: row base + r for row r of the A run
(of X), where step i is row i, or in F4 rows 2i and 2i + 1, the last of an odd count alone (R62); in all 512 columns, in the 128 of the
quarter, or, in W16, in the half that the instruction names (R63, R71). A result is the dot product of the 128 elements of the A row with a
column of B, or the product of the two elements of an mx.ew (R59, R65, R70, R73), and replaces the accumulator or is added to it with the
rounding that the term count after it gives (R60, R76, R77). The term counts of those rows in the quarters that the columns meet become
128 (1 for an mx.ew), or grow by that and saturate (R76). No other accumulator and no other term count changes, and nothing else of the
core. It holds in each of the three format classes F8 (0), F4 (1) and W16 (2) of Table 3.2. -/
def Obligations.DotProducts : Prop :=
  ∀ (k : Core) (b : TReg) (add tp half : Bool) (i : Nat),
    let gives (op : Op) (q base total lo w one : Nat) (x : Nat → Nat → F32) : Prop :=
      let m := (k.writeStep op q i).mx
      let first := if k.opClass op = 1 then 2 * i else i
      let last := if k.opClass op = 1 ∧ 2 * i + 1 < total then first + 1 else first
      let terms (row p : Nat) : Nat := if add then min ((k.mx.termsAt row p).toNat + one) 0xFFFFF else one
      let rnd (row n : Nat) : Rnd :=
        let t := terms row (n / 128)
        if k.mx.stochastic (BitVec.ofNat 20 t) then .stoch (rng k.mx.seed k.mx.step 0 k.key row n t) else .nearest
      (∀ row n : Nat, n < 512 → m.accAt row n =
        if base + first ≤ row ∧ row ≤ base + last ∧ lo ≤ n ∧ n < lo + w then
          (if add then accAdd (rnd row n) (k.mx.accAt row n) (x (row - base) (n - lo)) else x (row - base) (n - lo))
        else k.mx.accAt row n) ∧
      (∀ row p : Nat, p < 4 → (m.termsAt row p).toNat =
        if base + first ≤ row ∧ row ≤ base + last ∧ lo < 128 * p + 128 ∧ 128 * p < lo + w then terms row p
        else (k.mx.termsAt row p).toNat) ∧
      k.writeStep op q i = { k with mx := { k.mx with acc := m.acc, terms := m.terms } }
    (∀ (a : TReg) (alen : BitVec 3) (base : BitVec 10),
      let op : Op := .mm a alen b base add tp half
      let c := k.opClass op
      gives op 0 base.toNat (k.runRows a alen) (if c = 2 then 256 * half.toNat else 0) (if c = 2 then 256 else 512) 128 fun r n =>
        dot ((List.range 128).map fun j => (k.aElem a r j, k.bElem b c tp none j n))) ∧
    (∀ (q0 q1 q2 q3 : QRun) (mask : BitVec 4) (q : Nat), q < 4 →
      let op : Op := .mmq mask b add tp half q0 q1 q2 q3
      let c := k.opClass op
      let r : QRun := if q = 0 then q0 else if q = 1 then q1 else if q = 2 then q2 else q3
      gives op q r.base.toNat (k.runRows r.a r.alen) (if c = 2 then 128 * q + 64 * half.toNat else 128 * q) (if c = 2 then 64 else 128) 128
        fun i n => dot ((List.range 128).map fun j => (k.aElem r.a i j, k.bElem b c tp (some q) j n))) ∧
    (∀ (x y : TReg) (base : BitVec 10),
      let op : Op := .ew x y base add half
      let c := k.opClass op
      gives op 0 base.toNat (k.tile x.toNat).cfg.rows.toNat (if c = 2 then 256 * half.toNat else 0) (if c = 2 then 256 else 512) 1 fun r n =>
        dot [((k.tile x.toNat).elem r n, (k.tile y.toNat).elem r n)])

/-- The array's events. An mx.mm, mx.mmq, mx.ew or mx.accld of a legal shape starts and feeds its rows; an mx.mm or mx.mmq takes the
buffer that holds its group, or that is being loaded with it, or begins its own load into the buffer that the most recent one did not use, and waits
while another group is being loaded (R67, R81); an mx.ldb whose group is there is done, and begins its load otherwise (R68); an mx.st whose
rows are all stored through L1 runs to its completion (R85, R87). A result that is due reaches the accumulators as the operands give
it when the cycle moves and the sub-banks' ports are won, and not otherwise (R60, R80, R83). A B load that completes makes its tag valid (R66)
and the mx.ldb that wait for it done. The A feeder reads the next row of an mx.accld when no
rival wins the port (R78, R80). A cycle of an array without an instruction counts IDLE in each quarter; a row of an mx.mm that was read
at least four cycles before, and whose B is loaded, enters, and each quarter counts ACTIVE; while cycles are withheld no row enters and
each quarter counts CAP (R81, R83, R84). The due result of an mx.accld reaches the accumulators, exactly as the register holds it (R78).
A fused store that has no CLEAR is done with its last row (R87, R88). An error found in the row that the feeder reads or in the group that
is loaded starts the test of the core's SRAM bank, one in the accumulators that of the core; one that cannot be corrected changes at most 8
bytes of one register of the group, or two accumulators, whose rows a fused store stores as they then are (DEDUCED, log entry 14; DESIGN
CHOICE, log entry 17: Table 7.12 gives these instructions no POISON, and R248 does not say what such a word holds). That a cycle is the results,
then the rows that enter, then the feeder's reads is DEDUCED, and that LAST_BUF is set by mx.mm and mx.mmq alone and left by mx.ew and mx.accld a
DESIGN CHOICE (log entry 11: R68 speaks of "the most recent array instruction"). -/
def Obligations.ArrayEvents : Prop :=
  ∀ (s : State) (c : CoreId) (q : Fin 4) (b : Fin 2), (s.core c).works = true →
    let k := s.core c
    ((k.mx.buf b).loading = true → k.mx.jobs = [] →
      ∃ t, Gives (.bLoadComplete c b .clean) s t ∧ ((t.core c).mx.buf b).valid = true ∧ ((t.core c).mx.buf b).loading = false ∧
        ((t.core c).mx.buf b).first = (k.mx.buf b).first ∧ (t.core c).mx.acc = k.mx.acc ∧ (t.core c).tiles = k.tiles ∧
        (∀ (e : Entry) (r : TReg) (tp split : Bool), e ∈ k.mxq → e.op = .ldb r tp split → e.started = true →
          (k.mx.buf b).tagged r tp split = true → { e with done := true } ∈ (t.core c).mxq) ∧
        Gives (.bLoadComplete c b .corrected) s (t.startTest (.coreBank c) false)) ∧
    ((k.mx.buf b).loading = true → k.mx.jobs = [] → ∃ (u : State) (r lo : Nat),
      Gives (.bLoadComplete c b .uncorrectable) s (u.startTest (.coreBank c) true) ∧
      (k.mx.buf b).first.toNat ≤ r ∧ r < (k.mx.buf b).first.toNat + 4 ∧ (∀ q : Nat, q ≠ r → (u.core c).tile q = k.tile q) ∧
      ((u.core c).tile r).cfg = (k.tile r).cfg ∧ ((u.core c).tile r).scales = (k.tile r).scales ∧
      (∀ i : Nat, (i < lo ∨ lo + 8 ≤ i) → memGet ((u.core c).tile r).data i = memGet (k.tile r).data i) ∧
      (u.core c).mx.acc = k.mx.acc ∧ ((u.core c).mx.buf b).valid = true) ∧
    (∀ e, Starts s c .mx e →
      let began (k : Core) (buf : Option (Fin 2)) (rows : Tab QJob) : State := (s.setCore c { k with mx :=
        { k.mx with jobs := k.mx.jobs ++ [⟨e.seq, e.op, k.mx.clk, buf, rows⟩] } }).entryRuns c .mx e
      (∀ x y base add half, e.op = .ew x y base add half → k.arrayShape e.op = true →
        Gives (.engineStart c .mx .clean) s (began k none [(0, { QJob.none with rows := stepsOf (k.opClass e.op == 1) (k.tile x.toNat).cfg.rows.toNat })])) ∧
      (∀ r base col, e.op = .accld r base col → k.arrayShape e.op = true →
        Gives (.engineStart c .mx .clean) s (began k none [(0, { QJob.none with rows := (k.tile r.toNat).cfg.rows.toNat })])) ∧
      (∀ r tp split, bOf e.op = some (r, tp, split) → k.arrayShape e.op = true →
        let own := otherBuf k.mx.lastBuf
        (∀ x, (k.mx.match_ r tp split = some x ∨ (k.mx.match_ r tp split = none ∧ k.mx.loadOf r tp split = some x)) →
          Gives (.engineStart c .mx .clean) s (began { k with mx := { k.mx with lastBuf := x } } (some x) (k.jobQuarters e.op))) ∧
        (k.mx.match_ r tp split = none → k.mx.loadOf r tp split = none → k.mx.isLoading = false →
          Gives (.engineStart c .mx .clean) s (began { k with mx :=
            { k.mx.setBuf own ⟨false, true, tp, split, r, (k.tile r.toNat).cfg.format, true⟩ with
              cnt := bump k.mx.cnt 6 1, lastBuf := own } } (some own) (k.jobQuarters e.op))) ∧
        (k.mx.match_ r tp split = none → k.mx.loadOf r tp split = none → k.mx.isLoading = true →
          Gives (.engineStart c .mx .clean) s (began k none (k.jobQuarters e.op)))) ∧
      (∀ r tp split, e.op = .ldb r tp split → k.arrayShape e.op = true →
        ((k.mx.match_ r tp split).isSome = true → Gives (.engineStart c .mx .clean) s (s.entryDone c .mx e none)) ∧
        (k.mx.match_ r tp split = none → (k.mx.loadOf r tp split).isSome = true →
          Gives (.engineStart c .mx .clean) s (s.entryRuns c .mx e)) ∧
        (k.mx.match_ r tp split = none → k.mx.loadOf r tp split = none →
          Gives (.engineStart c .mx .clean) s ((s.setCore c { k with mx :=
            { k.mx.setBuf (otherBuf k.mx.lastBuf) ⟨false, true, tp, split, r, (k.tile r.toNat).cfg.format, false⟩ with
              cnt := bump k.mx.cnt 7 1 } }).entryRuns c .mx e))) ∧
      (∀ (x y : SReg) (base : BitVec 10) (rows : BitVec 11) (col : BitVec 5) (cols : BitVec 6) (fmt : BitVec 4) (rnd xp clr : Bool)
          (u : State), e.op = .mst x y base rows col cols fmt rnd xp clr →
        mstShape base.toNat rows.toNat col.toNat cols.toNat fmt xp = true →
        s.mstRows c (fun i => ((e.args.getD 0 0).toNat + i * (e.args.getD 1 0).toNat) % 2 ^ 48)
          (k.mstRow base.toNat rows.toNat (16 * col.toNat) (16 * cols.toNat) fmt rnd xp)
          (List.range (if xp then 16 * cols.toNat else rows.toNat)) = (u, none) →
        Gives (.engineStart c .mx .clean) s (u.entryRuns c .mx e))) ∧
    (∀ (j : ArrayJob) (rivals : List Requester), k.mx.writing = some j → (j.at q.val).written < (j.at q.val).rows →
      k.resultDue j q.val = true →
      (∀ i : Nat, i < 4 → isSplit j.op = false ∨ i = q.val → k.moves i (k.category i false) = true) →
      let bound := k.bound j q.val
      let z := bound.foldl (fun z p => z.settle j rivals p) k
      let asked := z.mx.requestAll (jobKey j q.val) (fun port => z.others port rivals) (z.resultPorts j q.val)
      ∃ t, Gives (.accResultWrite c q rivals) s t ∧ (t.core c).tiles = k.tiles ∧
        (asked.2 = true → bound.any asked.1.refused = false → (t.core c).mx.acc = (Core.writeStep { z with mx := asked.1 } j.op q.val (j.at q.val).written).mx.acc ∧
          (t.core c).mx.terms = (Core.writeStep { z with mx := asked.1 } j.op q.val (j.at q.val).written).mx.terms) ∧
        (asked.2 = false ∨ bound.any asked.1.refused = true → (t.core c).mx.acc = k.mx.acc ∧ (t.core c).mx.terms = k.mx.terms)) ∧
    (∀ (n rows start : Nat) (r : TReg) (base : BitVec 10) (col : BitVec 5), 0 < rows → start < k.mx.clk →
      (tabGet (0, 16) k.mx.grants (r.toNat / 8)).1 ≠ k.mx.clk → (∀ i : Nat, tabGet 0 k.mx.runs i = 0) →
      k.mx.jobs = [⟨n, .accld r base col, start, none, [(0, { QJob.none with rows := rows })]⟩] →
      ∃ t, Gives (.aRowRead c q [] .clean) s t ∧ (t.core c).mx.jobs = [⟨n, .accld r base col, start, none,
        [(0, { QJob.none with rows := rows, reads := [(k.mx.clk, k.mx.clk)], lastAsk := some k.mx.clk })]⟩] ∧
        Gives (.aRowRead c q [] .corrected) s (t.startTest (.coreBank c) false) ∧
        ∃ (u : State) (lo : Nat), Gives (.aRowRead c q [] .uncorrectable) s (u.startTest (.coreBank c) true) ∧
          (u.core c).mx = (t.core c).mx ∧ (∀ p : Nat, p ≠ r.toNat → (u.core c).tile p = k.tile p) ∧
          (∀ i : Nat, (i < lo ∨ lo + 8 ≤ i) → memGet ((u.core c).tile r.toNat).data i = memGet (k.tile r.toNat).data i)) ∧
    (∀ withheld asks, k.mx.jobs = [] → ∃ t, Gives (.aRowEnter c withheld asks) s t ∧ (t.core c).mx.clk = k.mx.clk + 1 ∧
      tabGet 0 (t.core c).mx.cnt 1 = tabGet 0 k.mx.cnt 1 + 4 ∧ (∀ i : Nat, i ≠ 1 → tabGet 0 (t.core c).mx.cnt i = tabGet 0 k.mx.cnt i) ∧
      (t.core c).mx.acc = k.mx.acc) ∧
    (∀ (n start : Nat) (a : TReg) (alen : BitVec 3) (r : TReg) (base : BitVec 10) (add tp half : Bool) (p : QJob),
      let job (p : QJob) : ArrayJob := ⟨n, .mm a alen r base add tp half, start, some b, [(0, p)]⟩
      k.mx.jobs = [job p] → p.accRefused = false →
      (p.enteredAt = [] → 0 < p.rows → (k.mx.buf b).loading = false →
        (∃ u f, p.reads.head? = some (u, f) ∧ u + 4 ≤ k.mx.clk + 1) →
        ∀ asks, ∃ t, Gives (.aRowEnter c false asks) s t ∧ (t.core c).mx.clk = k.mx.clk + 1 ∧
          (t.core c).mx.jobs = [job { p with enteredAt := [tabGet 0 k.mx.unfrozen 4] }] ∧
          tabGet 0 (t.core c).mx.cnt 0 = tabGet 0 k.mx.cnt 0 + 4 ∧
          (∀ i : Nat, i ≠ 0 → tabGet 0 (t.core c).mx.cnt i = tabGet 0 k.mx.cnt i) ∧ (t.core c).mx.acc = k.mx.acc) ∧
      ((s.power.withhold ≠ 0 ∨ s.power.thermalW ≠ 0) → k.mx.wrote = false →
        ∀ asks, ∃ t, Gives (.aRowEnter c true asks) s t ∧ (t.core c).mx.jobs = [job p] ∧
          tabGet 0 (t.core c).mx.cnt 2 = tabGet 0 k.mx.cnt 2 + 4 ∧
          (∀ i : Nat, i ≠ 2 → tabGet 0 (t.core c).mx.cnt i = tabGet 0 k.mx.cnt i) ∧ (t.core c).mx.acc = k.mx.acc)) ∧
    (∀ (n start clk f : Nat) (r : TReg) (base : BitVec 10) (col : BitVec 5),
      (∀ port : Nat, (tabGet (0, 16) k.mx.grants port).1 ≠ k.mx.clk) → (∀ i : Nat, tabGet 0 k.mx.runs i = 0) →
      k.mx.jobs = [⟨n, .accld r base col, start, none, [(0, { QJob.none with rows := 1, reads := [(clk, f)] })]⟩] →
      ∃ t, Gives (.accResultWrite c q []) s t ∧ (t.core c).mx.jobs = [] ∧
        ((t.core c).mx.acc = (k.accRow (base.toNat + 0) (16 * col.toNat)
          ((List.range (k.tile r.toNat).cfg.rowElems).map fun j => BitVec.ofNat 32 (codeAt (k.tile r.toNat).data 5 (0 * (k.tile r.toNat).cfg.rowBytes) j))
          false 1).mx.acc)) ∧
    (∀ (e : Entry) (x y : SReg) (base : BitVec 10) (rows : BitVec 11) (col : BitVec 5) (cols : BitVec 6) (fmt : BitVec 4)
      (rnd xp : Bool), k.mxq = [e] → e.op = .mst x y base rows col cols fmt rnd xp false → e.started = true → e.done = false →
      e.faulted = false →
      let t := s.setCore c { k with mxq := [{ e with done := true }] }
      Gives (.fusedStoreComplete c .clean) s t ∧ Gives (.fusedStoreComplete c .corrected) s (t.startTest (.core c) false) ∧
      Gives (.fusedStoreComplete c .uncorrectable) s ((match s.mstSpoiled c e with
        | (u, none) => u.modCore c fun k => k.storeComplete
        | (u, some (i, st, a)) => u.entryFaults c .mx e st (some (0, i)) (some a)).startTest (.core c) true))

/-- An instruction that is done leaves its queue; SD receives its result and is no longer pending (R35, R37); the entries behind it
keep their places: said for an instruction of the MX, TM and SY engines that counts no draw and no dropped write, stores no tile and has sent no
message which a flag-mode die still holds. One of the vector engine counts its draw (R118), and the table of a vx.tload becomes valid
(R121). The rows of a tst or tst.x are stored through L1, each its data and, for F4, its scales (R49, R50). The update instructions run
when the engine starts them: up.sq gives SD the rounded sum of the squares, and sends it to its cell where it reduces (R137, R138);
up.step takes each shard by the first row of Table 6.4 that applies, and gives SD the number that were not updated (R140 to R145); up.setstep writes the step numbers
(R147); each is then done, unless a write holds or faults. A sy.add of a flag-mode die reaches the sync store when its completion is commanded (R243,
log entry 13). When a replica unit has been copied, the update instruction that its write held goes on at the shard it had reached; the hold counts
at least one cycle, a number the spec does not give (log entry 2; R148, R326). Without a held instruction nothing happens.
A command whose event cannot happen, or has no place, in the state changes nothing (log entry 8). -/
def Obligations.EngineCompletes : Prop :=
  (∀ (s : State) (c : CoreId) (g : Engine) (e : Entry) (pos : Nat), g ≠ .vx → (s.core c).works = true → (s.core c).aborting = false →
    ((s.core c).queue g)[pos]? = some e → e.done = true → e.faulted = false → e.draws = false → e.drops = 0 → tstReg e.op = none →
    s.syncOf c = none →
    let k := s.core c
    ∃ k' : Core, Gives (.engineInstructionComplete c g pos) s (s.setCore c k') ∧
      k'.queue g = (k.queue g).take pos ++ (k.queue g).drop (pos + 1) ∧
      (∀ f : Engine, f ≠ g → k'.queue f = k.queue f) ∧ k'.mx = k.mx ∧ k'.tiles = k.tiles ∧ k'.descs = k.descs ∧
      (e.result = none → k'.scalars = k.scalars ∧ k'.pendS = k.pendS) ∧
      (∀ d v, e.result = some (d, v) → k'.reg d = (if d = 0 then 0 else v) ∧ d.toNat ∉ k'.pendS ∧
        (∀ r : SReg, r ≠ d → k'.reg r = k.reg r) ∧ ∀ r : Nat, r ≠ d.toNat → (r ∈ k'.pendS ↔ r ∈ k.pendS))) ∧
  (∀ (s : State) (c : CoreId) (e : Entry) (pos : Nat), (s.core c).works = true → (s.core c).aborting = false →
    (s.core c).vxq[pos]? = some e → e.done = true → e.faulted = false → e.drops = 0 → tstReg e.op = none →
    let k := s.core c
    ∃ t, Gives (.engineInstructionComplete c .vx pos) s t ∧ t.mem = s.mem ∧
      (t.core c).vxq = k.vxq.take pos ++ k.vxq.drop (pos + 1) ∧ (t.core c).mx = k.mx ∧ (t.core c).tiles = k.tiles ∧
      (t.core c).vx.draw = (if e.draws then k.vx.draw + 1 else k.vx.draw) ∧
      (∀ sa slot, e.op = .tload sa slot → tabGet none (t.core c).vx.slots slot.toNat = tabGet none k.vx.loading slot.toNat) ∧
      (∀ d v, e.result = some (d, v) → (t.core c).reg d = (if d = 0 then 0 else v) ∧ d.toNat ∉ (t.core c).pendS)) ∧
  (∀ (s u : State) (c : CoreId) (e : Entry) (t : TReg) (pos : Nat), (s.core c).works = true → (s.core c).aborting = false →
    (s.core c).tmq[pos]? = some e → e.done = true → e.faulted = false → tstReg e.op = some t →
    let k := s.core c
    s.tstRows c (k.tile t.toNat) (rowAddr (e.args.getD 0 0) (e.args.getD 1 0) (indexOf k e.op))
      (List.range (k.tile t.toNat).cfg.rows.toNat) = (u, none) →
    Gives (.engineInstructionComplete c .tm pos) s (u.completeAt c .tm pos e) ∧
    (∀ x : State, (k.tile t.toNat).cfg.rows = 1 →
      s.store c (rowAddr (e.args.getD 0 0) (e.args.getD 1 0) (indexOf k e.op) 0)
        (memRead (k.tile t.toNat).data 0 (k.tile t.toNat).cfg.rowBytes ++ memRead (k.tile t.toNat).scales 0 (k.tile t.toNat).cfg.scaleBytes) =
        (x, .ok ()) → u = x)) ∧
  (∀ (s u : State) (c : CoreId) (e : Entry), Starts s c .vx e →
    let n := (e.args.getD 1 0).toNat % 2 ^ 32
    let shards := (List.range n).filter fun j => decide (0 ≤ j)
    (∀ st sn sc sd acc, e.op = .upsq st sn sd false sc →
      (s.modUp c fun x => { x with run := 1 }).sqShards c (e.args.getD 0 0) (List.range n) (.fin ⟨false, 0, 0⟩) = (u, .ok acc) →
      Gives (.engineStart c .vx .clean) s
        ((u.modUp c fun x => { x with sq := rn acc }).entryDone c .vx e (some (sd, (rn acc).setWidth 64)))) ∧
    (∀ st sn sc sd acc v ds, e.op = .upsq st sn sd true sc →
      (s.modUp c fun x => { x with run := 1 }).cellTarget c ((e.args.getD 2 0).toNat % 2 ^ 48) = (v, .ok ds) →
      v.sqShards c (e.args.getD 0 0) (List.range n) (.fin ⟨false, 0, 0⟩) = (u, .ok acc) →
      Gives (.engineStart c .vx .clean) s
        (((u.sendNorm c ds (rn acc)).modUp c fun x => { x with sq := rn acc }).entryDone c .vx e (some (sd, (rn acc).setWidth 64)))) ∧
    (∀ a b d f g sd v bs r, e.op = .upstep a b d f g sd →
      (s.modUp c fun x => { x with run := 2, hold := false }).load c ((e.args.getD 4 0).toNat % 2 ^ 48 / 64 * 64) 64 = (v, .ok bs) →
      v.upShards c (e.args.getD 0 0) (upParOf (e.args.getD 2 0) ((e.args.getD 3 0).setWidth 32) bs) shards 0 = (u, .ok, r) →
      Gives (.engineStart c .vx .clean) s ((u.modUp c fun x => { x with notOk := BitVec.ofNat 32 r.count }).entryDone c .vx e
        (some (sd, BitVec.ofNat 64 r.count)))) ∧
    (∀ (p : UpPar) (h : Shard),
      let status (code : BitVec 8) : Nat × List Byte := ((h.at_ + 44) % 2 ^ 48, [code])
      let updated := h.step = p.next ∧ h.cursor = 0 ∧ (h.status = 0 ∨ h.status = Code.frozenSkipped)
      (h.formatsOk = false → s.upWrite c [status Code.tileShape] = (u, .ok) → s.upShard c p h = (u, .ok, true)) ∧
      (h.formatsOk = true → updated → s.upShard c p h = (s.upCount c 3 1, .ok, false)) ∧
      (h.formatsOk = true → ¬ updated → h.step ≠ p.e → s.upWrite c [status Code.stepMismatch] = (u, .ok) →
        s.upShard c p h = (u.upCount c 1 1, .ok, true)) ∧
      (h.formatsOk = true → ¬ updated → h.step = p.e → p.c = none → s.upWrite c [status Code.poison] = (u, .ok) →
        s.upShard c p h = (u.upCount c 4 1, .ok, true))) ∧
    (∀ a b d i, e.op = .upsetstep a b d →
      (s.modUp c fun x => { x with run := 3, hold := false }).setShards c (e.args.getD 0 0) (e.args.getD 2 0) shards = (u, .ok, i) →
      Gives (.engineStart c .vx .clean) s (u.entryDone c .vx e none))) ∧
  (∀ (s : State) (c : CoreId) (e : Entry) (b : BReg) (v sd : SReg) (p n : Nat), (s.core c).works = true → (s.core c).aborting = false →
    (s.core c).syq = [e] → e.op = .sadd b v sd → e.drops = 0 → e.draws = false → e.faulted = false → e.done = false →
    (s.die (dieOf c)).sync = [⟨p, false, n, 0, [(c.val, e.args.getD 0 0, none)]⟩] →
    let x := s.part p
    x.waiters = [] → n ≠ x.sec.stepBaton.toNat → n ≠ x.sec.lossBaton.toNat →
    ∃ t, Gives (.engineInstructionComplete c .sy 0) s t ∧ (t.core c).syq = [] ∧ (t.die (dieOf c)).sync = [] ∧
      ((t.part p).sync.baton n).toNat = min (2 ^ 63 - 1) ((x.sync.baton n).toNat + (e.args.getD 0 0).toNat) ∧
      (t.core c).reg sd = 0 ∧ sd.toNat ∉ (t.core c).pendS ∧ t.mem = s.mem) ∧
  (∀ (s : State) (c : CoreId) (e : Entry) (r : UpResume), (s.core c).works = true →
    (((s.core c).up.hold = false ∨ ∀ d ∈ (s.core c).vxq, d.resume = none) → Gives (.updateHoldRelease c) s s) ∧
    ((s.core c).vxq = [e] → e.resume = some r → (s.core c).up.hold = true → e.done = false → e.faulted = false →
      (∀ a b d, e.op = .upsetstep a b d → ∃ m : Nat, 0 < m ∧
        Gives (.updateHoldRelease c) s ((s.upCount c 5 m).tick.runSetstep c e r)) ∧
      (∀ a b d f g sd, e.op = .upstep a b d f g sd → ∃ m : Nat, 0 < m ∧
        Gives (.updateHoldRelease c) s ((s.upCount c 5 m).tick.runUpstep c e sd r)) ∧
      (∀ a b d, e.op = .upsetstep a b d → (e.args.getD 1 0).toNat % 2 ^ 32 ≤ r.shard → r.places = [] →
        ∃ t, Gives (.updateHoldRelease c) s t ∧ (t.core c).up.hold = false ∧ t.mem = s.mem ∧
          (t.core c).vxq = [{ e with started := true, done := true, result := none, resume := none }])))

/-- The sync instructions start. sy.add on a bound local handle adds to its baton, saturating at 2⁶³ − 1, and leaves the other
batons; sy.read reads it; sy.wait is done with OK at once when the baton has reached the value, and waits otherwise, with a deadline
when the timeout is not 0 and does not pass the end of the count. An unbound handle gives WRONG_STATE, and so does a remote one for sy.wait and sy.read (for sy.read with
bit 63 set), and no baton changes; a remote one for sy.add starts the remote increment that it names, which waits for its answer
(R254). sy.barcfg sets an idle barrier's COUNT and starts at lap 0 (R252 to R256, R258, R262). The model's readings among these: a timeout
past the end of the count has no deadline (DEDUCED, log entry 25); on a flag-mode die the increment of a local handle waits in the
crossbar, to be combined (R243), until a completion is commanded (DEDUCED, log entry 13); a request that no path takes to the sync store
ends with FENCED, and changes nothing (DEDUCED, log entry 12). -/
def Obligations.SyncStarts : Prop :=
  ∀ (s : State) (c : CoreId) (e : Entry), Starts s c .sy e → (s.core c).syq = [e] →
    let k := s.core c
    let p := (s.partOf c).getD 0
    let x := s.part p
    let ends (t : State) (v : Word) (sd : SReg) : Prop :=
      (t.core c).syq = [{ e with started := true, done := true, result := some (sd, v) }]
    let there := s.syncReaches c p = true
    (s.syncReaches c p = false →
      (∀ b v sd h, e.op = .sadd b v sd → k.handle b = some h → h.getLsbD 36 = false →
        ∃ t, Gives (.engineStart c .sy .clean) s t ∧ ends t 0x0C sd ∧ t.parts = s.parts) ∧
      (∀ b sd h, e.op = .sread b sd → k.handle b = some h → h.getLsbD 36 = false →
        ∃ t, Gives (.engineStart c .sy .clean) s t ∧ ends t 0x800000000000000C sd ∧ t.parts = s.parts) ∧
      (∀ b v st sd h, e.op = .swait b v st sd → k.handle b = some h → h.getLsbD 36 = false →
        ∃ t, Gives (.engineStart c .sy .clean) s t ∧ ends t 0x0C sd ∧ t.parts = s.parts) ∧
      (∀ n v sd, e.op = .sbarcfg n v sd → ∃ t, Gives (.engineStart c .sy .clean) s t ∧ ends t 0x0C sd ∧ t.parts = s.parts) ∧
      (∀ n l st sd, e.op = .sbar n l st sd → ∃ t, Gives (.engineStart c .sy .clean) s t ∧ ends t 0x0C sd ∧ t.parts = s.parts)) ∧
    (∀ b v sd h, e.op = .sadd b v sd → k.handle b = some h → h.getLsbD 36 = false → there → (s.die (dieOf c)).flagMode = true →
      (s.die (dieOf c)).sync = [] →
      ∃ t, Gives (.engineStart c .sy .clean) s t ∧ (t.core c).syq = [{ e with started := true }] ∧ t.parts = s.parts ∧ t.mem = s.mem ∧
        (t.die (dieOf c)).sync = [⟨p, false, h.toNat % 65536, 0, [(c.val, e.args.getD 0 0, none)]⟩]) ∧
    (∀ b v sd h, e.op = .sadd b v sd → k.handle b = some h → h.getLsbD 36 = false → there → (s.die (dieOf c)).flagMode = false → x.waiters = [] →
      (h.setWidth 16 : BitVec 16) ≠ x.sec.stepBaton → (h.setWidth 16 : BitVec 16) ≠ x.sec.lossBaton →
      ∃ t, Gives (.engineStart c .sy .clean) s t ∧ ends t 0 sd ∧
        ((t.part p).sync.baton (h.toNat % 65536)).toNat =
          min (2 ^ 63 - 1) ((x.sync.baton (h.toNat % 65536)).toNat + (e.args.getD 0 0).toNat) ∧
        (∀ n : Nat, n ≠ h.toNat % 65536 → (t.part p).sync.baton n = x.sync.baton n) ∧ (t.part p).sync.bars = x.sync.bars ∧
        t.mem = s.mem) ∧
    (∀ b v sd, e.op = .sadd b v sd → k.handle b = none → ∃ t, Gives (.engineStart c .sy .clean) s t ∧ ends t 1 sd ∧ t.parts = s.parts) ∧
    (∀ b v sd h, e.op = .sadd b v sd → k.handle b = some h → h.getLsbD 36 = true →
      ∃ t y, Gives (.engineStart c .sy .clean) s t ∧ (t.core c).syq = [{ e with started := true }] ∧ t.parts = s.parts ∧ t.mem = s.mem ∧
        (t.core c).xferSy = some y ∧ y.kind = .inc ∧ y.baton.toNat = h.toNat % 2 ^ 16 ∧ y.part.val = h.toNat / 2 ^ 16 % 2 ^ 4 ∧
        y.dst.toNat = h.toNat / 2 ^ 20 % 2 ^ 16 ∧ y.context.toNat = h.toNat / 2 ^ 37 % 2 ^ 16) ∧
    (∀ b sd h, e.op = .sread b sd → k.handle b = some h → h.getLsbD 36 = true →
      ∃ t, Gives (.engineStart c .sy .clean) s t ∧ ends t 0x8000000000000001 sd ∧ t.parts = s.parts) ∧
    (∀ b v st sd, e.op = .swait b v st sd → (k.handle b = none ∨ ∃ h, k.handle b = some h ∧ h.getLsbD 36 = true) →
      ∃ t, Gives (.engineStart c .sy .clean) s t ∧ ends t 1 sd ∧ t.parts = s.parts) ∧
    (∀ b sd h, e.op = .sread b sd → k.handle b = some h → h.getLsbD 36 = false → there →
      ∃ t, Gives (.engineStart c .sy .clean) s t ∧ ends t (x.sync.baton (h.toNat % 65536)) sd ∧ t.parts = s.parts) ∧
    (∀ b sd, e.op = .sread b sd → k.handle b = none →
      ∃ t, Gives (.engineStart c .sy .clean) s t ∧ ends t 0x8000000000000001 sd ∧ t.parts = s.parts) ∧
    (∀ b v st sd h, e.op = .swait b v st sd → k.handle b = some h → h.getLsbD 36 = false → there →
      ((e.args.getD 0 0).toNat ≤ (x.sync.baton (h.toNat % 65536)).toNat →
        ∃ t, Gives (.engineStart c .sy .clean) s t ∧ ends t 0 sd ∧ (t.part p).sync = x.sync ∧ (t.part p).waiters = x.waiters) ∧
      ((x.sync.baton (h.toNat % 65536)).toNat < (e.args.getD 0 0).toNat → s.lt.state ≠ .seeking →
        ∃ t, Gives (.engineStart c .sy .clean) s t ∧ (t.core c).syq = [{ e with started := true }] ∧ (t.part p).sync = x.sync ∧
          (t.part p).waiters = x.waiters ++ [⟨.core c, .baton (h.toNat % 65536) (e.args.getD 0 0),
            if e.args.getD 1 0 = 0 ∨ 2 ^ 64 ≤ s.lt.now.toNat + (e.args.getD 1 0).toNat then none else some ⟨s.lt.now + e.args.getD 1 0, false⟩⟩])) ∧
    (∀ n v sd, e.op = .sbarcfg n v sd → there → (x.sync.bar n.toNat).arrived = 0 → (x.sync.bar n.toNat).next = 0 → x.waiters = [] →
      ∃ t, Gives (.engineStart c .sy .clean) s t ∧ ends t 0 sd ∧
        (t.part p).sync.bar n.toNat = ⟨(e.args.getD 0 0).setWidth 16, 0, 0, 0⟩ ∧ (t.part p).sync.batons = x.sync.batons)

/-- An entry at a barrier (Table 11.4): an arrival on the current lap waits and is counted; one on the next lap waits while NEXT is
below COUNT; a wait-only entry on a lap that has completed passes; anything else is misuse; a disabled barrier refuses with
WRONG_STATE (R250, R263). The last arrival of a lap completes it: LAP grows by 1, ARRIVED takes the arrivals of the next lap, NEXT
is 0, and the core's sy.bar is done with OK (R264). Here the only entry of a barrier of COUNT 1, with no timeout, on a die that is not in flag mode. A wait whose
deadline arrives ends with TIMEOUT: the waiter leaves the list, TIMEOUT_CNT counts it, and the core's instruction is done with the
status (R256, Table 11.10). An error found in the sync store with it starts the test of the I/O die that holds the store: Table 14.5 names
no unit for it, and this is the model's reading (DEDUCED, log entry 14). -/
def Obligations.BarriersAndTimeouts : Prop :=
  (∀ (b : Barrier) (lap : BitVec 63) (waitOnly : Bool),
    (b.count = 0 → b.enter lap waitOnly = (.refuse Code.wrongState, b)) ∧
    (b.count ≠ 0 →
      (waitOnly = false → lap = b.lap → b.enter lap waitOnly = (.waits lap, { b with arrived := b.arrived + 1 })) ∧
      (waitOnly = false → lap = b.lap + 1 → b.next.toNat < b.count.toNat →
        b.enter lap waitOnly = (.waits lap, { b with next := b.next + 1 })) ∧
      (waitOnly = false → lap = b.lap + 1 → b.count.toNat ≤ b.next.toNat →
        b.enter lap waitOnly = (.refuse Code.barrierMisuse, b)) ∧
      (waitOnly = true → (lap = b.lap ∨ lap = b.lap + 1) → b.enter lap waitOnly = (.waits lap, b)) ∧
      (waitOnly = true → lap = b.lap - 1 → b.enter lap waitOnly = (.passes, b)) ∧
      (lap ≠ b.lap → lap ≠ b.lap + 1 → lap ≠ b.lap - 1 → b.enter lap waitOnly = (.refuse Code.barrierMisuse, b)) ∧
      (waitOnly = false → lap = b.lap - 1 → b.enter lap waitOnly = (.refuse Code.barrierMisuse, b)))) ∧
  (∀ (s : State) (c : CoreId) (e : Entry) (n : BitVec 10) (l st sd : SReg), Starts s c .sy e → (s.core c).syq = [e] →
    e.op = .sbar n l st sd →
    let p := (s.partOf c).getD 0
    let x := s.part p
    s.syncReaches c p = true → (s.die (dieOf c)).flagMode = false → x.waiters = [] → (x.sync.bar n.toNat).count = 1 → (x.sync.bar n.toNat).arrived = 0 → (x.sync.bar n.toNat).next = 0 →
    e.args.getD 0 0 = ((x.sync.bar n.toNat).lap).setWidth 64 → e.args.getD 1 0 = 0 →
    ∃ t, Gives (.engineStart c .sy .clean) s t ∧
      (t.part p).sync.bar n.toNat = ⟨1, (x.sync.bar n.toNat).lap + 1, 0, 0⟩ ∧ (t.part p).waiters = [] ∧
      (t.core c).syq = [{ e with started := true, done := true, result := some (sd, 0) }] ∧ t.mem = s.mem) ∧
  (∀ (s : State) (p : PartId) (n : Nat) (w : Waiter) (d : Deadline) (c : CoreId) (e : Entry), (s.part p).waiters[n]? = some w →
    w.deadline = some d → w.who = .core c → (s.core c).syq = [e] → (∃ b v st sd, e.op = .swait b v st sd) →
    (s.core c).works = true → s.comes d = true →
    (∀ ecc : Ecc, ecc ≠ .clean → exec (.waitTimeout p n ecc) s =
      exec (.waitTimeout p n .clean) (s.startTest (.ioDie ⟨p.val % 2, Nat.mod_lt _ (by decide)⟩) (ecc == .uncorrectable))) ∧
    ∃ t, Gives (.waitTimeout p n .clean) s t ∧ (t.part p).waiters = (s.part p).waiters.filter (· != w) ∧
      (t.part p).sync = (s.part p).sync ∧ tabGet 0 (t.part p).syCnt 4 = tabGet 0 (s.part p).syCnt 4 + 1 ∧ t.reached d = true ∧
      (∃ sd, (t.core c).syq = [{ e with done := true, result := some (sd, 0x10) }]) ∧ t.mem = s.mem)

/-- A RING_DB write with value V is checked against the producer P and the consumer C: when (V − P) or (V − C) exceeds the ring size
it is an overrun, discarded and counted, and it halts a ring that is not halted, with QUEUE_OVERRUN and HALT_INDEX P; otherwise the
producer is V, on a halted ring too, where nothing starts until RESTART has cleared the halt. A producer chosen by the mirror, which
is never ahead of the consumer, is no overrun (R187, R203). On the port that does not own the partition, or with the rings disabled,
the write is dropped and counted (R183, R205). -/
def Obligations.RingDoorbell : Prop :=
  ∀ (s : State) (p : PartId) (hp : HostPort) (v : BitVec 32),
    let x := s.part p
    let overrun := 2 ^ x.sizeLog2.toNat < (v - x.producer).toNat ∨ 2 ^ x.sizeLog2.toNat < (v - x.consumer).toNat
    (s.doorbellTaken p hp = true → ¬ overrun → Gives (.ringDb p hp v) s (s.setPart p { x with producer := v })) ∧
    (s.doorbellTaken p hp = true → ¬ overrun → x.halted = true →
      let u := s.setPart p { x with producer := v }
      (∀ h op, h.part = p → u.ringReady h op = false) ∧
      Gives (.partRestart p hp) u (s.setPart p { x with producer := v, halted := false })) ∧
    ((x.consumer - x.mirror).toNat ≤ (x.producer - x.mirror).toNat → (x.producer - x.mirror).toNat ≤ (v - x.mirror).toNat →
      (v - x.mirror).toNat ≤ 2 ^ x.sizeLog2.toNat → ¬ overrun) ∧
    (s.doorbellTaken p hp = true → overrun → x.halted = false → Gives (.ringDb p hp v) s (s.setPart p
      { x with cnt := tabPut x.cnt 2 (tabGet 0 x.cnt 2 + 1), halted := true, haltStatus := 0x05, haltIndex := x.producer })) ∧
    (s.doorbellTaken p hp = true → overrun → x.halted = true → Gives (.ringDb p hp v) s (s.setPart p
      { x with cnt := tabPut x.cnt 2 (tabGet 0 x.cnt 2 + 1) })) ∧
    ((x.state = .absent ∨ x.enable = false ∨ x.host ≠ hp) →
      Gives (.ringDb p hp v) s (s.setPart p { x with cnt := tabPut x.cnt 4 (tabGet 0 x.cnt 4 + 1) }))

/-- A CQ_DB write with value V is accepted when (CQ_PRODUCER − V) mod 2³² does not exceed the completion-ring size; any other value
is discarded and counted in OVERRUN_CNT, and halts nothing (R188). With the slots that it frees, a command that waited for one completes
now: its record carries the Line Time of this moment (R189, R201; DEDUCED, log entry 16); when no command waits any longer, CQ_FULL_CNT has grown
by the whole microseconds of the wait, on the own count (R189; DEDUCED, log entry 16). -/
def Obligations.CompletionDoorbell : Prop :=
  ∀ (s : State) (p : PartId) (hp : HostPort) (v : BitVec 32), s.doorbellTaken p hp = true →
    let x := s.part p
    let room (c : BitVec 32) : Nat := 2 ^ x.cqLog2.toNat - (x.cqProducer - c).toNat
    ((x.cqProducer - v).toNat ≤ 2 ^ x.cqLog2.toNat → ∃ y : Part, Gives (.cqDb p hp v) s (s.setPart p y) ∧
      { y with cqConsumer := x.cqConsumer, due := x.due, fullSince := x.fullSince, cnt := x.cnt } = x ∧ y.cqConsumer = v ∧
      y.due.length = x.due.length ∧
      (∀ (i : Nat) (d : Due), x.due[i]? = some d → y.due[i]? = some { d with rec_ := { d.rec_ with
        lineTime := if d.isEvent = false ∧ room x.cqConsumer ≤ i ∧ i < room v then s.lt.now else d.rec_.lineTime } }) ∧
      (∀ t : Word, x.fullSince = some t → (∀ d ∈ x.due.drop (room v), d.isEvent = true) →
        y.fullSince = none ∧ y.cnt = tabPut x.cnt 3 (tabGet 0 x.cnt 3 + BitVec.ofNat 64 ((s.lt.own - t).toNat / 1000)))) ∧
    (2 ^ x.cqLog2.toNat < (x.cqProducer - v).toNat →
      Gives (.cqDb p hp v) s (s.setPart p { x with cnt := tabPut x.cnt 2 (tabGet 0 x.cnt 2 + 1) }))

/-- A ring that is not ready starts nothing. A command with a reserved bit in its header completes with TRANSLATE_ERROR, and one in
a state in which Table 8.4 has W with WRONG_STATE, counted; its record falls due whatever its flags, and it has no other effect
(R190, R192, R195, R201). So does a reserved opcode, and a record of 64 bytes of which a byte that Tables 8.2 and 8.3 leave out is not 0
(R190). INFO is a free value where Table 8.3 gives none (log entry 2).
A command whose event cannot happen, or has no place, in the state changes nothing (log entry 8). -/
def Obligations.RefusedCommands : Prop :=
  (∀ (s : State) (p : PartId) (bs host : List Byte),
    let h := headerOf p bs
    let op : BitVec 8 := bs.getD 0 0
    (0x0F ≤ op.toNat ∨ recordReserved bs = true) → s.ringReady h op = true →
      ∃ info, Gives (commandOf p bs host) s ((s.taken p).tick.owes h op (s.part p).consumer 0x09 info)) ∧
  (∀ bs : List Byte, (∃ o : Nat, (5 ≤ o ∧ o < 8 ∨ 56 ≤ o ∧ o < 64) ∧ bs.getD o 0 ≠ 0) → recordReserved bs = true) ∧
  ∀ (s : State) (i : Instr) (h : CmdHdr) (op : BitVec 8), i.command = some (h, op) → h.badOp = none →
    let p := h.part.val
    let j := (s.part p).consumer
    (s.ringReady h op = false → Gives i s s) ∧
    (s.ringReady h op = true → (h.reserved = true ∨ 16 ≤ h.flags.toNat) →
      ∃ info, Gives i s ((s.taken p).tick.owes h op j 0x09 info)) ∧
    (Accepts s h op → i.payloadOk = false → ∃ info, Gives i s ((s.taken p).tick.owes h op j 0x09 info)) ∧
    (Accepts s h op → i.payloadOk = true → wrongIn op (s.part p).state = true →
      ∃ info, Gives i s (((s.taken p).modPart p fun x =>
        { x with cnt := tabPut x.cnt 1 (tabGet 0 x.cnt 1 + 1) }).tick.owes h op j 0x01 info))

/-- NOP and TIMESTAMP complete with OK, TIMESTAMP with the Line Time in INFO; without COMPLETE there is no record, and without
INTERRUPT no interrupt (R193, R201, Table 8.3). A command in progress that completes leaves the commands in progress. With OK and
without COMPLETE it writes no record, and sends its interrupt only with INTERRUPT; otherwise its record falls due with its tag,
opcode, status, index, INFO and the Line Time (R193, R201, R202). With the rings disabled meanwhile there is none, so that the next
completion ring starts empty (R183). -/
def Obligations.CommandsComplete : Prop :=
  (∀ (s : State) (h : CmdHdr),
    let t := s.taken h.part
    let j := (s.part h.part).consumer
    (Accepts s h 0x00 → h.flags.getLsbD 1 = true → Gives (.nop h) s (t.owes h 0x00 j 0x00 0)) ∧
    (Accepts s h 0x00 → h.flags.getLsbD 1 = false → h.flags.getLsbD 2 = false → Gives (.nop h) s t) ∧
    (Accepts s h 0x0E → h.flags.getLsbD 1 = true → Gives (.timestamp h) s (t.owes h 0x0E j 0x00 s.lt.now)) ∧
    (Accepts s h 0x0E → h.flags.getLsbD 1 = false → h.flags.getLsbD 2 = false → Gives (.timestamp h) s t)) ∧
  (∀ (s : State) (p : Nat) (k : Cmd) (status : Code) (info : Word), (s.part p).cmds.find? (fun m => m.seq == k.seq) = some k →
    let u := s.modPart p fun x => { x with cmds := x.cmds.filter fun m => m.seq != k.seq }
    ((status ≠ 0 ∨ k.flags.getLsbD 1 = true) → (s.part p).enable = false → s.complete p k.seq status info = u) ∧
    ((status ≠ 0 ∨ k.flags.getLsbD 1 = true) → (s.part p).enable = true → s.complete p k.seq status info = u.modPart p fun x => Part.trackFull
      { x with due := x.due ++ [⟨false, ⟨k.tag, k.opcode, status, k.index, info, s.lt.now, false⟩, k.flags, k.vector⟩] } s.lt.own) ∧
    (k.flags.getLsbD 1 = false → k.flags.getLsbD 2 = false → s.complete p k.seq 0 info = u) ∧
    (k.flags.getLsbD 1 = false → k.flags.getLsbD 2 = true → s.complete p k.seq 0 info = u.partInterrupt p k.vector.toNat))

/-- BIND makes an IDLE partition READY with the context bound, every slot unloaded, its sync state at zero and no cached
translation, of a parked context neither; UNBIND makes a READY one IDLE, with no context and no slot (Table 8.4, R197, R234, R250). That a
host WAIT goes on at UNBIND is the model's choice (DESIGN CHOICE, log entry 17). The spare cores that a context boundary maps are left to
R337. -/
def Obligations.BindAndUnbind : Prop :=
  ∀ (s : State) (h : CmdHdr) (ctx : BitVec 16) (root : Word),
    let p := h.part.val
    let x := s.part p
    (Accepts s h 0x01 → x.state = .idle →
      ∃ t, Gives (.bind h ctx root) s t ∧ (t.part p).state = .ready ∧ (t.part p).bound = some ⟨ctx, root⟩ ∧ (t.part p).slots = [] ∧
        (t.part p).sync = Sync.zero ∧ (t.part p).tlb = [] ∧ (t.part p).frozen = false ∧ (t.part p).consumer = x.consumer + 1 ∧
        (t.part p).parked = x.parked.map (fun k => { k with tlb := [] }) ∧ t.mem = s.mem ∧
        ∀ q : Nat, q ≠ p → (t.part q).state = (s.part q).state) ∧
    (Accepts s h 0x02 → x.state = .ready → x.sec.gen = none →
      ∃ t, Gives (.unbind h) s t ∧ (t.part p).state = .idle ∧ (t.part p).bound = none ∧ (t.part p).slots = [] ∧ (t.part p).tlb = [] ∧
        (t.part p).consumer = x.consumer + 1 ∧ (t.part p).parked = x.parked.map (fun k => { k with tlb := [] }) ∧
        (t.part p).waiters = x.waiters ∧ t.mem = s.mem ∧ t.cores = s.cores)

/-- LOAD from host memory unloads its slot and is in progress; UNLOAD unloads it and completes. A LOAD whose CODE_BYTES is less than
16 × WORD_COUNT + 4,096 completes with TRANSLATE_ERROR and index 0xFFFF_FFFF, and one whose image the translator rejects with its
status and index, and each leaves the slot unloaded; a translated one loads the slot with the kernel's instructions and uses at most 16 × WORD_COUNT + 4,096 bytes of
its code area (R191, R193, R197): at least one (DEDUCED, log entry 15: a loaded kernel has code), a number of them, and contents, that are free
values (log entry 2). -/
def Obligations.LoadAndUnload : Prop :=
  ∀ (s : State) (h : CmdHdr) (slot : BitVec 8) (src code : Word) (codeBytes : BitVec 32) (image : List Byte),
    let p := h.part.val
    let x := s.part p
    let room := 16 * imageNat image 12 4 + 4096
    let empty (t : State) : State := t.modPart p fun x => { x with slots := tabPut x.slots slot.toNat none }
    let idle := (x.state = .ready ∨ x.state = .running ∨ x.state = .faulted) ∧ slot.toNat < 64 ∧ x.slotUsed slot.toNat = false
    (Accepts s h 0x03 → idle → code.toNat % 4096 = 0 → Gives (.load h slot true src code codeBytes image) s
      ((empty (s.taken p)).modPart p fun x => { x with cmds := x.cmds ++
        [⟨(s.part p).consumer, 0x03, h.flags, h.tag, h.vector, .load slot.toNat code codeBytes.toNat image, x.nextCmd⟩], nextCmd := x.nextCmd + 1 })) ∧
    (Accepts s h 0x04 → idle → h.flags.getLsbD 1 = true → Gives (.unload h slot) s
      ((empty (s.taken p)).owes h 0x04 (s.part p).consumer 0x00 0)) ∧
    (∀ k : Cmd, x.cmds = [k] → k.kind = .load slot.toNat code codeBytes.toNat image →
      (codeBytes.toNat < room → Gives (.translationComplete h.part) s ((empty s).complete p k.seq 0x09 0xFFFFFFFF)) ∧
      (∀ status idx, room ≤ codeBytes.toNat → s.translate image = .error (status, idx) →
        Gives (.translationComplete h.part) s ((empty s).complete p k.seq status (idx.setWidth 64))) ∧
      (∀ ops n u, room ≤ codeBytes.toNat → s.translate image = .ok ops → n = codeUsed (imageNat image 12 4) →
        (s.ticks (n + 1)).ctxWrite p (code.toNat % 2 ^ 48) (s.freeBytes n) false = (u, .ok ()) →
        1 ≤ n ∧ n ≤ room ∧ ∃ info : Word, info.toNat / 2 ^ 32 = n % 2 ^ 32 ∧ Gives (.translationComplete h.part) s
          ((u.modPart p fun x => { x with slots := tabPut x.slots slot.toNat (some ⟨ops, code, n, imageArgBytes image⟩) }).complete
            p k.seq 0x00 info)))

/-- LAUNCH whose cores are idle starts them: each core of CORE_MASK runs the slot's kernel from index 0, ranked in ascending logical
number, with s1 the argument, s2 its rank, s3 the number of cores and s4 its logical number, every other scalar and every predicate
but p0 at 0, every descriptor 0, every handle unbound, every tile register at NONE and every bank gated, and every accumulator and
term count 0; the partition is RUNNING and the LAUNCH in progress (R58, R79, R151, R193, R204). -/
def Obligations.LaunchStarts : Prop :=
  ∀ (s : State) (h : CmdHdr) (slot : BitVec 8) (det : Bool) (arg : Word) (mask : BitVec 256),
    let p := h.part.val
    let x := s.part p
    let i : Instr := .launch h slot det arg mask
    Accepts s h 0x05 → i.payloadOk = true → (x.state = .ready ∨ x.state = .running) → (tabGet none x.slots slot.toNat).isSome = true →
    (∀ n : Nat, mask.getLsbD n = true → s.insidePart p n = true ∧ ∃ c : Nat, s.physical n = some c ∧ (s.core c).works = true ∧
      (s.core c).kernel = none) →
    (∀ m ∈ x.cmds, ∀ l, m.kind = .launch l → l.started = true) →
    ∃ t, Gives i s t ∧ (t.part p).state = .running ∧ t.mem = s.mem ∧
      (t.part p).cmds = x.cmds ++ [⟨x.consumer, 0x05, h.flags, h.tag, h.vector,
        .launch ⟨slot.toNat, det, arg, maskCores mask, maskCores mask, true, 0⟩, x.nextCmd⟩] ∧
      (∀ r n c : Nat, (maskCores mask)[r]? = some n → s.physical n = some c →
        (t.core c).run = .running ∧ (t.core c).kernel = some ⟨x.nextCmd, slot.toNat, r, (maskCores mask).length, arg, det, 0⟩ ∧
        (t.core c).reg 1 = arg ∧ (t.core c).reg 2 = BitVec.ofNat 64 r ∧ (t.core c).reg 3 = BitVec.ofNat 64 (maskCores mask).length ∧
        (t.core c).reg 4 = BitVec.ofNat 64 n ∧ (∀ q : SReg, 4 < q.toNat → (t.core c).reg q = 0) ∧
        (∀ q : PReg, q ≠ 0 → (t.core c).pred q = false) ∧ (∀ d : DReg, (t.core c).desc d = 0) ∧
        (∀ b : BReg, (t.core c).handle b = none) ∧ (∀ q : Nat, ((t.core c).tile q).cfg = TileCfg.none) ∧
        (t.core c).mx.acc = [] ∧ (t.core c).mx.terms = [] ∧
        (t.core c).powered = 0 ∧ (t.core c).platform = [] ∧ (t.core c).fault = FaultRec.none) ∧
      (∀ c : Nat, (∀ n : Nat, mask.getLsbD n = true → s.physical n ≠ some c) → t.core c = s.core c)

/-- A pending LAUNCH starts once its cores are idle (R193); the instructions of a running kernel arrive in order, whole, while the queue has
room for their native words, of which it never holds more than 512 (R33, R204, Table 1.4); how many an instruction takes, at least one, is a
free value (log entry 2). -/
def Obligations.DeferredStartAndWords : Prop :=
  ∀ (s : State) (p : PartId) (c : CoreId) (k : Cmd) (l : LaunchInfo),
    ((s.part p).cmds = [k] → k.kind = .launch l → l.started = false → (s.part p).state = .running →
      (∀ n ∈ l.cores, ∃ d : Nat, s.physical n = some d ∧ (s.core d).works = true ∧ (s.core d).kernel = none) →
      Gives (.launchDeferredStart p k.index) s ((s.setPart p { s.part p with
        cmds := [{ k with kind := .launch { l with started := true } }] }).startCores k.seq l)) ∧
    (∀ (r : KernelRef) (x : KSlot) (n : Nat), (s.core c).works = true → (s.core c).kernel = some r → s.partN c = p.val →
      tabGet none (s.part p).slots r.slot = some x → (s.core c).platform = [] →
      (((List.range n).map fun j => opWords (r.fetch + j)).sum ≤ 512) → r.fetch + n ≤ x.ops.length →
      ∃ t, Gives (.platformWordArrival c n) s t ∧ { t with cores := s.cores } = s ∧
        (t.core c).platform.length = n ∧ (t.core c).kernel = some { r with fetch := r.fetch + n } ∧
        ∀ j : Nat, j < n → (t.core c).platform[j]? = (x.ops[r.fetch + j]?).map fun o => ⟨r.fetch + j, o⟩) ∧
    (∀ n : Nat, (s.core c).nativeWords ≤ 512 → ∃ t, Gives (.platformWordArrival c n) s t ∧ (t.core c).nativeWords ≤ 512 ∧
      { t with cores := s.cores } = s ∧ (s.core c).platform <+: (t.core c).platform)

/-- RESUME of a FAULTED partition in which no core test runs: every faulted core runs again, but for one that a probe has halted, which stays
halted (DESIGN CHOICE, log entry 38); its fault record is no longer valid, and INFO is their number (R54, R200). PREEMPT makes the partition QUIESCING and stops the issue of its cores (R55, R197); the sync traffic of
its flag-mode dies reaches the sync store before the copy (DEDUCED, log entry 13). RESET of a
partition with a context makes it RESETTING: the sync state freezes, the context is the lost one, its cores stop (R197, R267). ABORT of a
partition none of whose cores runs a kernel makes it READY and
completes with INFO 0; with kernels running, each core stops issuing and is QUIESCING until its executing instructions have ended
(R197, R200). By Table 8.6 a LAUNCH in progress ends with OWNER_LOST at ABORT and at RESET, with the Line Time in INFO; a WAIT goes on at
ABORT, and ends with OWNER_LOST at RESET, with its baton's value (R197, R267, Table 8.3); that at RESET the record of the WAIT is due before that
of the LAUNCH, and that the partition is READY from the start of an ABORT, are the model's choices (log entry 18). No load and no copy is in
progress here. -/
def Obligations.ResumePreemptResetAbort : Prop :=
  (∀ (s : State) (h : CmdHdr),
    let p := h.part.val
    let x := s.part p
    (Accepts s h 0x06 → x.state = .faulted → s.coreTestRuns p = false → h.flags.getLsbD 1 = true →
      ∃ t, Gives (.resume h) s t ∧ (t.part p).state = .running ∧
        (∀ c : Nat, c ∈ s.faultedCores p → (t.core c).fault.valid = false ∧
          (t.core c).run = if (s.core c).halted then .debugHalt else .running) ∧
        (∀ c : Nat, c ∉ s.faultedCores p → t.core c = s.core c) ∧
        (t.part p).due = x.due ++ [⟨false, ⟨h.tag, 0x06, 0, x.consumer, BitVec.ofNat 64 (s.faultedCores p).length, s.lt.now, false⟩,
          h.flags, h.vector⟩] ∧ t.mem = s.mem) ∧
    (Accepts s h 0x08 → x.canPreempt = true →
      ∃ t u, Gives (.preempt h) s u ∧ u = t.syncArrives p ∧ ((∀ d : Nat, (s.die d).syncFor p = []) → u = t) ∧ (t.part p).state = .quiescing ∧
        (t.part p).cmds = x.cmds ++ [⟨x.consumer, 0x08, h.flags, h.tag, h.vector, .preempt, x.nextCmd⟩] ∧
        (∀ c : Nat, c ∈ s.coresOf p → (s.core c).works = true → (s.core c).kernel.isSome = true →
          (t.core c).halted = true ∧ (t.core c).run = .quiescing ∧ (t.core c).issuing = false)) ∧
    (∀ ctx : Ctx, Accepts s h 0x0A → (x.state = .ready ∨ x.state = .running ∨ x.state = .faulted) → x.bound = some ctx →
      x.cmds = [] → x.waiters = [] → x.sec.gen = none → (∀ d : Nat, (s.die d).syncFor p = []) →
      ∃ t, Gives (.reset h false) s t ∧ (t.part p).state = .resetting ∧ (t.part p).frozen = true ∧ (t.part p).lostA = ctx.id ∧
        (t.part p).lostAValid = true ∧ (t.part p).parked = x.parked ∧
        (t.part p).cmds = [⟨x.consumer, 0x0A, h.flags, h.tag, h.vector, .reset false, x.nextCmd⟩] ∧
        (∀ c : Nat, c ∈ s.coresOf p → (s.core c).kernel.isSome = true → (t.core c).halted = true ∧ (t.core c).issuing = false) ∧
        t.mem = s.mem)) ∧
  (∀ (s : State) (h : CmdHdr) (k w : Cmd) (l : LaunchInfo) (b : BitVec 16) (v : Word) (stop : Option Deadline),
    let p := h.part.val
    let x := s.part p
    let lost (m : Cmd) (info : Word) : Due := ⟨false, ⟨m.tag, m.opcode, 0x06, m.index, info, s.lt.now, false⟩, m.flags, m.vector⟩
    x.cmds = [k, w] → k.seq ≠ w.seq → k.kind = .launch l → w.kind = .wait b v → x.waiters = [⟨.host w.seq, .baton b.toNat v, stop⟩] →
    (∀ d : Nat, (s.die d).syncFor p = []) →
    (Accepts s h 0x07 → (x.state = .running ∨ x.state = .faulted) →
      ∃ t more, Gives (.abort h) s t ∧ (t.part p).state = .ready ∧ (t.part p).due = x.due ++ lost k s.lt.now :: more ∧
        (t.part p).launches = [] ∧ w ∈ (t.part p).cmds ∧ (t.part p).waiters = x.waiters ∧
        ∀ c : Nat, c ∈ s.coresOf p → (s.core c).kernel.isSome = true → (t.core c).issuing = false) ∧
    (∀ ctx : Ctx, Accepts s h 0x0A → (x.state = .running ∨ x.state = .faulted) → x.bound = some ctx → x.sec.gen = none →
      ∃ t, Gives (.reset h false) s t ∧ (t.part p).state = .resetting ∧ (t.part p).frozen = true ∧ (t.part p).waiters = [] ∧
        (t.part p).due = x.due ++ [lost w (x.sync.baton b.toNat), lost k s.lt.now] ∧
        (t.part p).cmds = [⟨x.consumer, 0x0A, h.flags, h.tag, h.vector, .reset false, x.nextCmd⟩] ∧
        ∀ c : Nat, c ∈ s.coresOf p → (s.core c).kernel.isSome = true → (t.core c).halted = true ∧ (t.core c).issuing = false)) ∧
  (∀ (s : State) (h : CmdHdr),
    let p := h.part.val
    let x := s.part p
    let running (c : Nat) : Prop := c ∈ s.coresOf p ∧ (s.core c).kernel.isSome = true
    Accepts s h 0x07 → (x.state = .running ∨ x.state = .faulted) → x.cmds = [] → x.waiters = [] → (∀ d : Nat, (s.die d).syncFor p = []) →
    ((∀ c, ¬ running c) → h.flags.getLsbD 1 = true → ∃ t, Gives (.abort h) s t ∧ t =
      ((s.taken p).modPart p fun y => { y with state := .ready }).owes h 0x07 x.consumer 0 0) ∧
    ((∃ c, running c) → (∀ c, running c → (s.core c).executing = true) →
      ∃ t, Gives (.abort h) s t ∧ (t.part p).state = .ready ∧ t.mem = s.mem ∧
        (∀ c : Nat, running c → (t.core c).run = .quiescing ∧ (t.core c).aborting = true ∧ (t.core c).issuing = false ∧
          (t.core c).tmq = (s.core c).tmq) ∧
        (∀ c : Nat, ¬ running c → t.core c = s.core c)))

/-- A save that has nothing left to execute parks the context with its state, cores, slots and sync image: the partition is IDLE and
PARKED, with no bound context, and its cores are saved; the state recorded is FAULTED when a core holds a fault, and READY here,
with no launch in progress, and each core wait names its core by its logical number (R56, R196, R266). The sidings then hold the image,
sealed under the partition's key (R362; log entry 36), and INFO is its bytes (R56, R266). RESTORE brings the parked context back: the partition enters the state recorded, with
the context's slots and sync image bound, its core as it was saved, with the registers of a bank that was gated at zero, and nothing is parked (Table 8.4, R196, R197). Here no core is
fenced, L1 holds no line, and one core is restored. A reset whose cores execute nothing more completes: the cores are idle with no
kernel, their L1 is discarded without a write-back, and the partition is IDLE with no context and no slot (R196, R197). -/
def Obligations.SavesAndResetsEnd : Prop :=
  (∀ (s : State) (h : CmdHdr), (∀ c : Nat, (s.core c).works = true) →
    let p := h.part.val
    let x := s.part p
    (∀ (ctx : Ctx) (k : Cmd), x.state = .quiescing → x.enable = true → x.bound = some ctx → x.cmds = [k] → k.kind = .preempt →
      (∀ c : Nat, c ∈ s.coresOf p → (s.core c).quiet = true ∧ (s.core c).l1 = L1.empty) →
      (∀ c : Nat, c ∈ s.coresOf p → (s.core c).logical.isSome = true) →
      (∀ c d : Nat, c ∈ s.coresOf p → d ∈ s.coresOf p → (s.core c).logical = (s.core d).logical → c = d) →
      ∃ t y, Gives (.saveComplete h.part) s t ∧ (t.part p).state = .idle ∧ (t.part p).bound = none ∧ (t.part p).slots = [] ∧
        (t.part p).cmds = [] ∧ (t.part p).parkedKey = x.key ∧ (t.part p).key = none ∧ t.mem = s.mem ∧
        (t.part p).parked = some y ∧ y.ctx = ctx ∧ y.sync = x.sync ∧ y.slots = x.slots ∧ y.waiters = x.waiters.filterMap s.waiterOut ∧ y.cmds = [] ∧
        (∀ key, x.key = some key → ∃ m, tabGet none t.sealed p = some (key, m)) ∧
        (k.flags.getLsbD 1 = true → (t.part p).due = x.due ++ [⟨false, ⟨k.tag, k.opcode, 0, k.index,
          BitVec.ofNat 64 ((s.coresOf p).length * (3136 * 1024) + 528 * 1024), s.lt.now, false⟩, k.flags, k.vector⟩]) ∧
        ((∃ c : Nat, c ∈ s.coresOf p ∧ (s.core c).fault.valid = true) → y.state = .faulted) ∧
        ((∀ c : Nat, c ∈ s.coresOf p → (s.core c).fault.valid = false) → y.state = .ready) ∧
        ∀ c : Nat, c ∈ s.coresOf p → tabGet Core.reset y.cores (s.core c).lg = s.core c ∧ (t.core c).run = .saved ∧
          (t.core c).kernel = none) ∧
    (∀ (y : Parked) (n c : Nat) (k : Core), Accepts s h 0x09 → x.state = .idle → x.parked = some y → x.parkedKey.isSome = true →
      y.cores = [(n, k)] → s.physical n = some c → k.vx.slots = [] → y.waiters = [] →
      ∃ t, Gives (.restore h) s t ∧ (t.part p).state = y.state ∧ (t.part p).bound = some y.ctx ∧ (t.part p).slots = y.slots ∧
        (t.part p).sync = y.sync ∧ (t.part p).frozen = false ∧ (t.part p).parked = none ∧ (t.part p).key = x.parkedKey ∧
        (t.part p).cmds = x.cmds ++ y.cmds ∧ t.mem = s.mem ∧ (t.core c).scalars = k.scalars ∧ (t.core c).preds = k.preds ∧
        (∀ r : Nat, k.powered.getLsbD (r / 8) = true → (t.core c).tile r = k.tile r) ∧
        (∀ r : Nat, k.powered.getLsbD (r / 8) = false → ((t.core c).tile r).data = [] ∧ ((t.core c).tile r).scales = []) ∧
        (t.core c).descs = k.descs ∧ (t.core c).handles = k.handles ∧ (t.core c).mx.acc = k.mx.acc ∧
        (t.core c).mx.terms = k.mx.terms ∧ (t.core c).kernel = k.kernel ∧ (t.core c).fault = k.fault ∧
        (t.core c).logical = (s.core c).logical)) ∧
  (∀ (s : State) (p : PartId), (s.part p).wiping = false → (s.part p).state = .resetting →
    (∀ c : Nat, c ∈ s.coresOf p → (s.core c).executing = false) →
    ∃ t, Gives (.resetComplete p) s t ∧ (t.part p).state = .idle ∧ (t.part p).bound = none ∧ (t.part p).slots = [] ∧
      (t.part p).key = none ∧ (t.part p).sync = (s.part p).sync ∧ t.mem = s.mem ∧
      ∀ c : Nat, c ∈ s.coresOf p → (s.core c).works = true → (t.core c).run = .idle ∧ (t.core c).kernel = none ∧
        (t.core c).l1 = L1.empty ∧ (t.core c).scalars = (s.core c).scalars)

/-- COPY starts; a COPY from the host of at most 32 bytes within one granule is complete when they are written, in the context of
the partition, and INFO is their number (R193, Table 8.3). SIGNAL increments a baton of the bound context, saturating, and reports
it; WAIT completes at once when the baton has reached VALUE, and waits otherwise (R195, R252, R261). -/
def Obligations.CopySignalWait : Prop :=
  ∀ (s : State) (h : CmdHdr),
    let p := h.part.val
    let x := s.part p
    let j := x.consumer
    let bound := x.state = .ready ∨ x.state = .running ∨ x.state = .faulted
    (∀ dir src dst bytes data, Accepts s h 0x0B → bound → Instr.payloadOk (.copy h dir src dst bytes data) = true →
      Gives (.copy h dir src dst bytes data) s ((s.taken p).modPart p fun y => { y with
        cmds := y.cmds ++ [⟨j, 0x0B, h.flags, h.tag, h.vector, .copy dir.toNat src dst bytes.toNat data, y.nextCmd⟩], nextCmd := y.nextCmd + 1 })) ∧
    (∀ (k : Cmd) (src dst : Word) (data : List Byte) (u : State), x.cmds = [k] → k.kind = .copy 0 src dst data.length data →
      data ≠ [] → dst.toNat % 32 + data.length ≤ 32 → dst.toNat < 2 ^ 48 →
      s.ctxWrite p dst.toNat data false = (u, .ok ()) →
      Gives (.copyComplete h.part) s (u.complete p k.seq 0 (BitVec.ofNat 64 data.length))) ∧
    (∀ (baton : BitVec 16) (b : Ctx) (v : Word), Accepts s h 0x0C → bound → x.bound = some b → x.waiters = [] →
      baton ≠ x.sec.stepBaton → baton ≠ x.sec.lossBaton → h.flags.getLsbD 1 = true →
      ∃ t, Gives (.signal h baton b.id v) s t ∧
        ((t.part p).sync.baton baton.toNat).toNat = min (2 ^ 63 - 1) ((x.sync.baton baton.toNat).toNat + v.toNat) ∧
        (∀ n : Nat, n ≠ baton.toNat → (t.part p).sync.baton n = x.sync.baton n) ∧ t.mem = s.mem ∧
        (t.part p).due = x.due ++ [⟨false, ⟨h.tag, 0x0C, 0, j, (t.part p).sync.baton baton.toNat, s.lt.now, false⟩, h.flags, h.vector⟩]) ∧
    (∀ (baton : BitVec 16) (v timeout : Word), Accepts s h 0x0D → bound →
      (v.toNat ≤ (x.sync.baton baton.toNat).toNat → h.flags.getLsbD 1 = true →
        Gives (.wait h baton v timeout) s ((s.taken p).owes h 0x0D j 0 (x.sync.baton baton.toNat))) ∧
      ((x.sync.baton baton.toNat).toNat < v.toNat → timeout = 0 →
        Gives (.wait h baton v timeout) s ((s.taken p).modPart p fun y =>
          { y with cmds := y.cmds ++ [⟨j, 0x0D, h.flags, h.tag, h.vector, .wait baton v, y.nextCmd⟩]
                   nextCmd := y.nextCmd + 1
                   waiters := y.waiters ++ [⟨.host y.nextCmd, .baton baton.toNat v, none⟩] })))

/-- The record at the head of those due is written to the slot of CQ_PRODUCER when the slot is free, in the memory of the host whose port
owns the partition: 32 bytes, with PHASE 1 on the first pass and inverted on each later one; then its interrupt is sent to the
partition, that of an event record always, on EVENT_VECTOR, that of a command when INTERRUPT is 1, on its VECTOR (R199, R202), and a failed command with HALT halts a ring that is not
halted (R189, R201 to R203, Table 8.7). The consumer mirror is the consumer, as 8 bytes (R185). Nothing else of host memory changes.
An interrupt is dropped while MSI-X is disabled, pending while its vector or its function is masked, and sent otherwise, on its
vector modulo the function's table size; a partition's goes to its VF when SR-IOV is enabled and the VF exists, and to the PF
otherwise (R202, R205). R202 leaves masking and pending to PCIe: what the model does with a masked, a pending and a disabled vector, and
with one above the table, is taken from PCIe (PRESUMED, log entry 19). -/
def Obligations.RecordsAndInterrupts : Prop :=
  (∀ (s : State) (p : PartId) (d : Due) (rest : List Due) (event : Bool),
    let x := s.part p
    let a := x.cqBase.toNat + 32 * (x.cqProducer.toNat % 2 ^ x.cqLog2.toNat)
    let own (u : State) := if x.host = 0 then u.hostOut0 else u.hostOut1
    let other (u : State) := if x.host = 0 then u.hostOut1 else u.hostOut0
    (x.due = d :: rest → d.isEvent = event → x.enable = true → (x.cqProducer - x.cqConsumer).toNat < 2 ^ x.cqLog2.toNat →
      ∃ t, (event = false → Gives (.completionRecordWrite p) s t) ∧ (event = true → Gives (.eventRecordWrite p) s t) ∧
        (t.part p).due = rest ∧ (t.part p).cqProducer = x.cqProducer + 1 ∧ t.mem = s.mem ∧
        (∀ i : Nat, i < 32 → (memGet (own t) (a + i)).toNat =
          (if i < 2 then d.rec_.tag.toNat / 256 ^ i
           else if i = 2 then d.rec_.opcode.toNat
           else if i = 3 then d.rec_.status.toNat
           else if i < 8 then d.rec_.index.toNat / 256 ^ (i - 4)
           else if i < 16 then d.rec_.info.toNat / 256 ^ (i - 8)
           else if i < 24 then d.rec_.lineTime.toNat / 256 ^ (i - 16)
           else if i = 28 then 1 - x.cqProducer.toNat / 2 ^ x.cqLog2.toNat % 2
           else 0) % 256) ∧
        (∀ b : Nat, b < a ∨ a + 32 ≤ b → memGet (own t) b = memGet (own s) b) ∧ other t = other s ∧
        (let u := if event = true ∨ d.flags.getLsbD 2 = true then s.partInterrupt p d.vector.toNat else s
         t.intrs = u.intrs ∧ t.pcie0 = u.pcie0 ∧ t.pcie1 = u.pcie1) ∧
        (event = false → d.flags.getLsbD 0 = true → d.rec_.status ≠ 0 → x.halted = false →
          (t.part p).halted = true ∧ (t.part p).haltStatus = d.rec_.status ∧ (t.part p).haltIndex = d.rec_.index) ∧
        ((event = true ∨ d.flags.getLsbD 0 = false ∨ d.rec_.status = 0 ∨ x.halted = true) →
          (t.part p).halted = x.halted ∧ (t.part p).haltStatus = x.haltStatus ∧ (t.part p).haltIndex = x.haltIndex)) ∧
    (x.enable = true → ∃ t, Gives (.consumerMirrorWrite p) s t ∧ (t.part p).mirror = x.consumer ∧
      (∀ i : Nat, i < 8 → (memGet (own t) (x.mirrorAddr.toNat + i)).toNat = x.consumer.toNat / 256 ^ i % 256) ∧
      (∀ b : Nat, b < x.mirrorAddr.toNat ∨ x.mirrorAddr.toNat + 8 ≤ b → memGet (own t) b = memGet (own s) b) ∧ other t = other s ∧
      t.intrs = s.intrs)) ∧
  (∀ (s : State) (p : Nat) (status : Code) (index : BitVec 32) (info : Word), (s.part p).state ≠ .absent → (s.part p).enable = true →
    (s.part p).waitingEvents < 256 → ∃ d, ((s.eventDue p status index info).part p).due = (s.part p).due ++ [d] ∧ d.isEvent = true ∧
      d.vector = (s.part p).eventVector ∧ d.rec_.opcode = 0xFF ∧ d.rec_.status = status ∧ d.rec_.index = index ∧ d.rec_.info = info) ∧
  (∀ (s : State) (p fn vector : Nat),
    let hp := (s.part p).host
    let x := s.pcie hp
    let v (n : Nat) : Nat := vector % (if n = 0 then 256 else 112)
    (s.partInterrupt p vector = s.interrupt hp (if x.sriov = true ∧ p < x.numVFs then p + 1 else 0) vector) ∧
    (setHas x.msixOn fn = false → s.interrupt hp fn vector = s) ∧
    (setHas x.msixOn fn = true → (setHas x.maskAll fn = true ∨ setHas x.unmasked (4096 * fn + v fn) = false) →
      (s.interrupt hp fn vector).intrs = s.intrs ∧
      setHas ((s.interrupt hp fn vector).pcie hp).pending (4096 * fn + v fn) = true) ∧
    (setHas x.msixOn fn = true → setHas x.maskAll fn = false → setHas x.unmasked (4096 * fn + v fn) = true →
      s.interrupt hp fn vector = { s with intrs := s.intrs ++ [⟨hp, fn, v fn⟩] }))

/-- RING_CFG: while the rings are disabled a write sets the fields and, with ENABLE, enables them with every index 0; a rise on a
partition that is absent keeps ENABLE 0. ENABLE falls only in IDLE with no command in progress; the waiting event records are then
discarded and counted (R183, R184, Table 8.13). PART_CTRL on the owning port: RESTART clears the ring's halt (R203); CNT_CLR clears
the counters; PREEMPT_NOW and RESET_NOW act at once as PREEMPT and RESET, and one that Table 8.4 would refuse has no effect and is
counted (R198). On the other port each write is dropped and counted (R205). A function-level reset of a VF that exists acts as RESET_NOW and
disables the rings (R198). The model's own among these: ENABLE of an absent partition stays 0, and a size outside 6 to 16 leaves the field
(DEDUCED, log entry 17); a halt ends with ENABLE, and RESET_NOW has DISCARD_PARKED 0 (DESIGN CHOICE, log entry 17); the function-level reset
clears the function's MSI-X state (PRESUMED, log entry 19).
A command whose event cannot happen, or has no place, in the state changes nothing (log entry 8). -/
def Obligations.PartitionPage : Prop :=
  (∀ (s : State) (p : PartId) (v : Word),
    let x := s.part p
    let size (old : BitVec 5) (n : Nat) : BitVec 5 := if 6 ≤ n ∧ n ≤ 16 then BitVec.ofNat 5 n else old
    let y : Part := { x with eventVector := BitVec.ofNat 8 (field v 24 8), cqLog2 := size x.cqLog2 (field v 16 5),
                             sizeLog2 := size x.sizeLog2 (field v 8 5) }
    (x.enable = false → v.getLsbD 0 = true → s.isAbsent p = false → Gives (.ringCfgWrite p v) s (s.setPart p
      { y with enable := true, producer := 0, consumer := 0, cqProducer := 0, cqConsumer := 0, due := [], fullSince := none })) ∧
    (x.enable = false → (v.getLsbD 0 = false ∨ s.isAbsent p = true) → Gives (.ringCfgWrite p v) s (s.setPart p y)) ∧
    (x.enable = true → v.getLsbD 0 = false → x.state = .idle → x.cmds = [] → (∀ d ∈ x.due, d.isEvent = true) → x.fullSince = none →
      Gives (.ringCfgWrite p v) s (s.setPart p { x with enable := false, due := [], halted := false,
                                                        cnt := tabPut x.cnt 5 (tabGet 0 x.cnt 5 + BitVec.ofNat 64 x.due.length) })) ∧
    (x.enable = true → (v.getLsbD 0 = true ∨ x.state ≠ .idle ∨ x.cmds ≠ [] ∨ ∃ d ∈ x.due, d.isEvent = false) → Gives (.ringCfgWrite p v) s s)) ∧
  (∀ (s : State) (p : PartId) (hp : HostPort),
    let x := s.part p
    let counted (n : Nat) : State := s.setPart p { x with cnt := tabPut x.cnt n (tabGet 0 x.cnt n + 1) }
    (x.host = hp →
      Gives (.partRestart p hp) s (s.setPart p { x with halted := false }) ∧
      Gives (.partCntClr p hp) s (s.setPart p { x with cnt := [], fullSince := x.fullSince.map fun _ => s.lt.own }) ∧
      (s.isAbsent p = false → x.canPreempt = true → Gives (.preemptNow p hp) s (s.beginSave p)) ∧
      (s.isAbsent p = false → x.bound.isSome = true → x.state.isBound = true →
        Gives (.resetNow p hp) s (s.beginReset p false)) ∧
      ((s.isAbsent p = true ∨ x.canPreempt = false) → Gives (.preemptNow p hp) s (counted 1)) ∧
      ((s.isAbsent p = true ∨ x.state = .quiescing ∨ x.state = .resetting) → Gives (.resetNow p hp) s (counted 1))) ∧
    (x.host ≠ hp → Gives (.partRestart p hp) s (counted 4) ∧ Gives (.partCntClr p hp) s (counted 4) ∧
      Gives (.preemptNow p hp) s (counted 4) ∧ Gives (.resetNow p hp) s (counted 4)) ∧
    (((s.pcie x.host).sriov = false ∨ (s.pcie x.host).numVFs < p.val + 1) → Gives (.vfFunctionLevelReset p) s s) ∧
    ((s.pcie x.host).sriov = true → p.val + 1 ≤ (s.pcie x.host).numVFs → ∃ t, Gives (.vfFunctionLevelReset p) s t ∧ (t.part p).enable = false ∧ (t.part p).due = [] ∧ t.mem = (s.resetNow p false).mem ∧
      (t.part p).state = ((s.resetNow p false).part p).state ∧ setHas (t.pcie x.host).msixOn (p.val + 1) = false))

/-- A translation whose walk gives a page with the permission, within the partition's grants and populated, is the page's base plus
the offset, and the page is cached. Otherwise XLAT_FAULT records the first cause that holds, in the order of Table 10.11, and the
context address: of a page, the permission (0x1), then the grants (0x2), then that it is not populated (0x4); of a table entry, the
grants (0x3), then populated (0x4), then poison (0x5), then that it is not valid (0x0) (R232 to R234). A level-1 entry with LEAF maps
1 GiB (R232). XLAT_CTRL.INVAL written with 1 reads 1 until every cached translation of the partition is gone, those of a parked context
among them (R234). -/
def Obligations.Translation : Prop :=
  ∀ (s : State) (p : PartId) (a : Nat) (write : Bool), a < 2 ^ 48 →
    let x := s.part p
    let faults (n : Nat) : Prop := (s.xlat p a write).2 = none ∧
      ((s.xlat p a write).1.part p).xlatFault = ⟨true, BitVec.ofNat 3 n, BitVec.ofNat 48 a⟩ ∧
      (s.xlat p a write).1.mem = s.mem ∧ (s.xlat p a write).1.cores = s.cores
    (∀ t : Tlb, s.lookup p a = .ok t →
      let permitted := (if write then t.write else t.read) = true
      let d := t.base + a % 2 ^ t.log2
      (permitted → s.granted p d = true → s.populated d = true →
        s.xlat p a write = ((s.walkReads p a).modPart p fun x => { x with tlb := tabPut x.tlb (a / 2 ^ 21) t }, some d)) ∧
      (¬ permitted → faults 1) ∧
      (permitted → s.granted p d = false → faults 2) ∧
      (permitted → s.granted p d = true → s.populated d = false → faults 4)) ∧
    (∀ n : Nat, s.lookup p a = .error n → faults n) ∧
    (∀ root : Nat,
      let e := root % 2 ^ 48 / 4096 * 4096 + 8 * (a / 2 ^ 30)
      let v := memNat s.mem (alias_ e) 8
      (s.granted p e = false → s.walk p root a = .error 3) ∧
      (s.granted p e = true → s.populated e = false → s.walk p root a = .error 4) ∧
      (s.granted p e = true → s.populated e = true → s.poisoned e = true → s.walk p root a = .error 5) ∧
      (s.granted p e = true → s.populated e = true → s.poisoned e = false →
        (v % 2 = 0 → s.walk p root a = .error 0) ∧
        (v % 4 = 3 → s.walk p root a = .ok ⟨v % 2 ^ 48 / 2 ^ 30 * 2 ^ 30, 30, v / 4 % 2 == 1, v / 8 % 2 == 1⟩))) ∧
    (∀ b : Ctx, x.bound = some b → x.tlb = [] → s.lookup p a = s.walk p b.root.toNat a) ∧
    Gives (.xlatInval p) s (s.setPart p { x with inval := true }) ∧
    (x.inval = true → Gives (.xlatInvalDone p) s (s.setPart p
      { x with inval := false, tlb := [], parked := x.parked.map fun k => { k with tlb := [] } }))

/-- A write to near memory stores its bytes and no others: a SLICE_WRITE at device addresses, and a BAR4 write within the window, at
the addresses that the window shows (R205, R228, R236, Table 8.11). No fenced row is written here (R335), and a path is
left to each slice (R247). An eviction writes back
exactly the bytes that the core wrote in the line, and the line leaves L1 (R237); an error found in it starts the test of the core's
SRAM bank, and one that cannot be corrected leaves each granule written poisoned and recorded as an error of its stack (R248, R334; DEDUCED,
log entry 14: R248 counts the errors of a stack by address and does not name an evicted line's). A granule whose bytes were poisoned in L1 is
poisoned in memory once they are written (R249).
A command whose event cannot happen, or has no place, in the state changes nothing (log entry 8). -/
def Obligations.MemoryWrites : Prop :=
  (∀ (s : State) (a off : Nat) (hp : HostPort) (data : List Byte), a + data.length ≤ 0x12000000000 →
    (∀ b : Nat, a ≤ b → b < a + data.length → s.rowFenced b = false) →
    let stores (t : State) : Prop := t.cores = s.cores ∧ t.parts = s.parts ∧
      (∀ i : Nat, i < data.length → memGet t.mem (a + i) = data.getD i 0) ∧
      (∀ b : Nat, b < a ∨ a + data.length ≤ b → memGet t.mem b = memGet s.mem b)
    (∃ t, Gives (.sliceWrite (BitVec.ofNat 48 a) data) s t ∧ stores t) ∧
    (off + data.length ≤ s.bar4Size hp → s.bar4Base.toNat / s.bar4Size hp * s.bar4Size hp + off = a →
      (∀ b : Nat, a ≤ b → b < a + data.length → s.reachesAddr (portJunction (26 + hp.val)) b = true) →
      ∃ t, Gives (.bar4Write hp off data) s t ∧ stores t) ∧
    (s.bar4Size hp < off + data.length → Gives (.bar4Write hp off data) s s)) ∧
  (∀ (s : State) (c : CoreId) (line : Nat), (s.core c).works = true → line ∈ (s.core c).l1.lines → 128 * line + 128 ≤ 0x12000000000 →
    (∀ b : Nat, b / 128 = line → s.rowFenced b = false) → s.coreReaches c (128 * line) = true →
    let l := (s.core c).l1
    (∀ ecc : Ecc, ecc ≠ .clean → ∃ t, Gives (.l1EvictionWriteback c line ecc) s t ∧ line ∉ (t.core c).l1.lines ∧
      (∃ u ∈ t.twin.tests, u.unit = .coreBank c) ∧
      (ecc = .uncorrectable → ∀ b ∈ l.dirty, b / 128 = line → t.poisoned b = true ∧ ∀ n, stackOf (b / 32 * 32) = some n → (t.stack n).valid = true)) ∧
    ∃ t, Gives (.l1EvictionWriteback c line .clean) s t ∧
      (∀ b : Nat, memGet t.mem b = if b / 128 = line ∧ b ∈ l.dirty then memGet l.data b else memGet s.mem b) ∧
      (∀ b ∈ l.dirty, b / 128 = line → setHas l.poison (b / 32) = true → t.poisoned b = true) ∧
      line ∉ (t.core c).l1.lines ∧ (∀ b : Nat, b ∈ (t.core c).l1.dirty ↔ b ∈ l.dirty ∧ b / 128 ≠ line) ∧
      (t.core c).scalars = (s.core c).scalars ∧ (t.core c).tiles = (s.core c).tiles)

/-- A read at a slice joins the group of its line within 8 slice cycles of the group's first read, when its port has not read the
line, and is counted as merged; a read that joins none is served, and its line is then the group's: a cached line counts a hit, any
other a miss and is cached (R238, Table 10.8). The addresses are near memory's, with no error detected. -/
def Obligations.SliceReads : Prop :=
  ∀ (s : State) (port : Fin 32) (addr : BitVec 48) (cycle : Nat), addr.toNat < 0x12000000000 →
    let a := addr.toNat
    let d := a / 0x2400000000
    let line := a / 128
    let x := s.die d
    let cnt (t : State) (i : Nat) : Word := tabGet 0 (t.die d).cnt i
    (∀ g : ReadGroup, x.groups = [g] → g.line = line → g.cycle ≤ cycle → cycle ≤ g.cycle + 8 → port.val ∉ g.ports →
      ∃ t, Gives (.sliceRead (some port) addr cycle .clean) s t ∧ (t.die d).groups = [{ g with ports := g.ports ++ [port.val] }] ∧
        cnt t 2 = cnt s 2 + 1 ∧ cnt t 0 = cnt s 0 ∧ cnt t 1 = cnt s 1 ∧ t.mem = s.mem) ∧
    (x.groups = [] → s.cacheLines d (a % 0x2400000000 / 256 % 32) ≠ 0 → line ∈ x.cached →
      ∃ t, Gives (.sliceRead (some port) addr cycle .clean) s t ∧
        (t.die d).groups = [⟨line, [port.val], cycle, memRead s.mem (128 * line) 128⟩] ∧
        cnt t 0 = cnt s 0 + 1 ∧ cnt t 1 = cnt s 1 ∧ cnt t 2 = cnt s 2 ∧ t.mem = s.mem) ∧
    (x.groups = [] → s.cacheLines d (a % 0x2400000000 / 256 % 32) ≠ 0 → line ∉ x.cached →
      ∃ t, Gives (.sliceRead (some port) addr cycle .clean) s t ∧ line ∈ (t.die d).cached ∧
        cnt t 1 = cnt s 1 + 1 ∧ cnt t 0 = cnt s 0 ∧ cnt t 2 = cnt s 2 ∧ t.mem = s.mem)

/-- An unranked contribution through the reduce window makes its cell the FP32 sum of what it holds and the value, rounded to
nearest, and is counted; no other byte changes (R240). A contribution that was refused is applied when its turn has come: the cell's
turn advances, and it is refused no longer; one out of turn is held while the die's reorder store has room, and is counted; one whose
launch has ended, or whose round a save ended, is discarded and counted, also when it was still on its way (R241, R242). -/
def Obligations.ReduceCells : Prop :=
  ∀ (s : State) (x : Nat) (v : F32), x < 2 ^ 30 → x % 4 = 0 → s.scratchHas x = true →
    let d := x / 2 ^ 27 % 8
    let a := 0x30000000000 + x
    let sum : F32 := accAdd .nearest (BitVec.ofNat 32 (memNat s.mem a 4)) v
    let cnt (t : State) (i : Nat) : Word := tabGet 0 (t.die d).cnt i
    let applied (t : State) : Prop := memNat t.mem a 4 = sum.toNat ∧ cnt t 3 = cnt s 3 + 1 ∧
      (∀ b : Nat, b < a ∨ a + 4 ≤ b → memGet t.mem b = memGet s.mem b)
    (∀ (p : PartId) (seq rank port saves : Nat) (origin : Word), (s.die d).flagMode = false → s.sliceFenced a = false →
      (saves ≠ s.launchSaves ⟨p, seq⟩ ∨ s.launchLive ⟨p, seq⟩ = false) →
      ∃ t, Gives (.reduceContribution (.ranked p seq rank origin port saves) (BitVec.ofNat 48 (0x38000000000 + x)) (leBytes 4 v.toNat)) s t ∧
        cnt t 7 = cnt s 7 + 1 ∧ t.mem = s.mem ∧ (t.die d).held = (s.die d).held) ∧
    ((s.die d).flagMode = false → s.sliceFenced a = false →
      ∃ t, Gives (.reduceContribution .unranked (BitVec.ofNat 48 (0x38000000000 + x)) (leBytes 4 v.toNat)) s t ∧ applied t) ∧
    (∀ (k : Contribution) (e : DieId), e.val = d → (s.die d).refused = [k] → k.cell = x → k.value = v → k.poison = false →
      s.sliceFenced a = false → (s.die d).held = [] →
      (k.dead = false → s.launchLive k.launch = true → (tabGet Cell.free (s.die d).cells x).inTurn k.launch k.rank = true →
        ∃ t, Gives (.reduceRetry e 0) s t ∧ applied t ∧ (t.die d).refused = [] ∧
          tabGet Cell.free (t.die d).cells x =
            (if (k.rank + 1) % max k.size 1 = 0 then ⟨0, none⟩ else ⟨(k.rank + 1) % max k.size 1, some k.launch⟩)) ∧
      (k.dead = false → s.launchLive k.launch = true → (tabGet Cell.free (s.die d).cells x).inTurn k.launch k.rank = false →
        ∃ t, Gives (.reduceRetry e 0) s t ∧ (t.die d).refused = [] ∧ (t.die d).held = [k] ∧ cnt t 6 = cnt s 6 + 1 ∧ t.mem = s.mem) ∧
      ((k.dead = true ∨ s.launchLive k.launch = false) →
        ∃ t, Gives (.reduceRetry e 0) s t ∧ (t.die d).refused = [] ∧ cnt t 7 = cnt s 7 + 1 ∧ t.mem = s.mem))

/-- The patrol scrub of a stack: a corrected error counts in CE; an error that cannot be corrected counts in UE, its address is
kept, and the granule is poisoned until it is written whole; each starts the targeted self-test of its row (R248, R334). A clean
read does nothing. A pending self-test of a memory row after an uncorrectable error runs at once; when it passes, the error is
logged as transient and nothing is fenced; when it fails, the row is fenced and the event is logged (R334, R335, Table 14.7).
A command whose event cannot happen, or has no place, in the state changes nothing (log entry 8). -/
def Obligations.ErrorsAndSelfTests : Prop :=
  (∀ (s : State) (stack : Fin 20) (addr : BitVec 48), stackOf addr.toNat = some stack.val →
    let x := s.stack stack
    let unit := rowOf stack addr.toNat
    Gives (.patrolScrub stack addr .clean) s s ∧
    (∃ t, Gives (.patrolScrub stack addr .corrected) s t ∧ (t.stack stack).ce = x.ce + 1 ∧ (t.stack stack).ue = x.ue ∧
      t.poison = s.poison ∧ t.mem = s.mem ∧ (∃ e ∈ t.twin.tests, e.unit = unit)) ∧
    (∃ t, Gives (.patrolScrub stack addr .uncorrectable) s t ∧ (t.stack stack).ue = x.ue + 1 ∧ (t.stack stack).ce = x.ce ∧
      (t.stack stack).valid = true ∧ (t.stack stack).lastUe.toNat = addr.toNat / 32 * 32 ∧ t.poisoned addr.toNat = true ∧
      t.mem = s.mem ∧ (∃ e ∈ t.twin.tests, e.unit = unit))) ∧
  (∀ (s : State) (n : Fin 20) (row : BitVec 23),
    let u : TestUnit := .memRow n row
    let newest (t : State) : EvtEntry := tabGet EvtEntry.zero t.twin.log s.twin.evtNext.toNat
    (s.twin.tests = [⟨u, true, false⟩] →
      ∃ t, Gives (.selfTestRun 0) s t ∧ t = { s with twin := { s.twin with tests := [⟨u, true, true⟩] } }) ∧
    (s.twin.tests = [⟨u, true, true⟩] →
      (∃ t, Gives (.selfTestComplete 0 true) s t ∧ t.twin.tests = [] ∧ (newest t).kind = 1 ∧ (newest t).status = 0 ∧
        (newest t).stamp = s.lt.now ∧ t.memStacks = s.memStacks ∧ t.mem = s.mem) ∧
      (∃ t, Gives (.selfTestComplete 0 false) s t ∧ t.twin.tests = [] ∧ (newest t).kind = 2 ∧ (newest t).status = 0x0C ∧
        (newest t).info.toNat = 3 * 2 ^ 28 + n.val * 2 ^ 23 + row.toNat ∧ row.toNat ∈ (t.stack n).fencedRows ∧ t.mem = s.mem)))

/-- A data flit on a FABRIC port that is UP: with a CRC error it is discarded and counted; one out of sequence is not delivered, and the sequence
number expected stays; the one expected is accepted, and its record is delivered when it is for this device and not at its deadline, and discarded and counted when
it is (R276, R281). Nothing waits at the port here, and the acknowledgement names no flit it holds. A control flit on a port that is
UP, with no remote transfer under way that its credits would let go on: the flits up to the acknowledged one leave the replay buffer and its
credits come back; a replay time-out comes 10 µs after the
unacknowledged flit sent longest ago was sent, sends again every flit sent as long ago, counts them in REPLAY_CNT and FLIT_TX_CNT, and they stay
in the buffer; the first of the buffer, which was then sent 8 times without progress, takes the port to retraining instead (R275 to R277; what
counts as one of the 8 is the model's choice, log entry 23); a port whose buffer is empty has none (log entry 8). Nothing waits at the port here. A message of one flit that is put on a port with a credit and room in its
replay buffer goes out at once, a beacon with the instant of its transmission, and stays in the buffer until it is acknowledged; one put on a
port that is not UP waits (R275, R276, R302). That a message of this device has source port 28, and that a resent beacon carries the instant of
its resending, are the model's readings (DESIGN CHOICE and DEDUCED, log entry 23). -/
def Obligations.Flits : Prop :=
  (∀ (s : State) (p : PortId) (f : Flit) (r : Record),
    let x := s.port p
    let cnt (t : State) (i : Nat) : Word := tabGet 0 (t.port p).cnt i
    x.state = .up → x.role = 1 → x.waiting = [] → x.replay = [] →
    (f.crcOk = false → ∃ t, Gives (.dataFlitReceive p f) s t ∧ (t.port p).discarding = true ∧ cnt t 2 = cnt s 2 + 1 ∧
      (t.port p).rxSeq = x.rxSeq ∧ (t.port p).delivered = x.delivered) ∧
    (f.crcOk = true → f.seq ≠ x.rxSeq → ∃ t, Gives (.dataFlitReceive p f) s t ∧ (t.port p).delivered = x.delivered ∧
      (t.port p).rxSeq = x.rxSeq) ∧
    (f.crcOk = true → f.seq = x.rxSeq → f.records = [r] → r.dstDev = s.devId → s.lt.now.toNat < r.deadline.toNat →
      ∃ t, Gives (.dataFlitReceive p f) s t ∧ (t.port p).delivered = x.delivered ++ [r] ∧ cnt t 1 = cnt s 1 + 1 ∧
        (t.port p).rxSeq = (x.rxSeq + 1) &&& 0xFFF ∧ t.mem = s.mem ∧ t.cores = s.cores) ∧
    (f.crcOk = true → f.seq = x.rxSeq → f.records = [r] → r.deadline.toNat ≤ s.lt.now.toNat →
      ∃ t, Gives (.dataFlitReceive p f) s t ∧ (t.port p).delivered = x.delivered ∧ cnt t 6 = cnt s 6 + 1 ∧
        (t.port p).rxSeq = (x.rxSeq + 1) &&& 0xFFF)) ∧
  (∀ (s : State) (p : PortId),
    let x := s.port p
    x.state = .up → x.waiting = [] → (∀ c : Nat, (s.core c).remoteNow = none) →
    (∀ (before after : List TxFlit) (f : TxFlit) (credits : List Nat), x.replay = before ++ f :: after → (∀ g ∈ before, g.seq ≠ f.seq) →
      ∃ t, Gives (.controlFlitReceive p f.seq none credits) s t ∧ (t.port p).replay = after ∧ (t.port p).resends = 0 ∧
        (∀ v : Nat, v < 8 → tabGet 0 (t.port p).spent v = tabGet 0 x.spent v - credits.getD v 0) ∧
        { t with ports := s.ports, freeCtr := s.freeCtr } = s) ∧
    (x.replay = [] → Gives (.replayTimeout p) s s) ∧
    (∀ g ∈ x.replay, (∀ f ∈ x.replay, g.sent.toNat ≤ f.sent.toNat) → ∃ u t : State, Gives (.replayTimeout p) s t ∧
      { u with lt := s.lt } = s ∧ (g.sent + 10000).toNat ≤ u.lt.own.toNat ∧
      let late (f : TxFlit) : Bool := decide (10000 ≤ (u.lt.own - f.sent).toNat)
      let headLate : Bool := match x.replay with | f :: _ => late f | [] => false
      (7 ≤ x.resends → headLate = true → t = u.retrain p) ∧
      ((x.resends < 7 ∨ headLate = false) → { t with ports := u.ports } = u ∧
        (t.port p).resends = x.resends + headLate.toNat ∧
        (t.port p).replay = x.replay.map (fun f => if late f then { f with sent := u.lt.own, ends := f.ends.map (Msg.sentAt u.lt.now) } else f) ∧
        tabGet 0 (t.port p).cnt 3 = tabGet 0 x.cnt 3 + BitVec.ofNat 64 (x.replay.countP late) ∧
        tabGet 0 (t.port p).cnt 0 = tabGet 0 x.cnt 0 + BitVec.ofNat 64 (x.replay.countP late)))) ∧
  (∀ (s : State) (n : Nat) (vc : Fin 8) (origin : Word) (m : Msg), (s.port n).waiting = [] →
    let x := s.port n
    ((x.state = .up → x.replay.length < x.replaySize → tabGet 0 x.spent vc.val < x.credits → x.flitsOf m = 1 →
      s.putMsg n vc origin m = s.modPort n fun x =>
        { x with replay := x.replay ++ [⟨vc, x.txSeq, s.lt.own, [m.sentAt s.lt.now]⟩], txSeq := x.nextSeq x.txSeq,
                 spent := tabPut x.spent vc.val (tabGet 0 x.spent vc.val + 1), cnt := tabPut x.cnt 0 (tabGet 0 x.cnt 0 + 1) }) ∧
     (x.state ≠ .up → s.putMsg n vc origin m = s.modPort n fun x =>
      { x with waiting := [⟨vc, m, origin, x.flitsOf m, false, m.sourceDev s.devId, 28⟩] })))

/-- A training record on a FABRIC port that is in use: from the peer that its place in the torus expects the port comes up at the
narrower width, with the highest Relay Link version both sides hold; from any other it is MISWIRED; a retraining that does not
complete leaves it DOWN. PORT_CTRL.RETRAIN, LINK_RETRAIN and the peer's going down (R269, R270, R274, R277, R282, R293); a port of a
dimension of extent 1, or at a fenced junction, does not retrain (R247, R285). No record waits at the port here, nor at one that is not UP. A laser input that falls below 13.0 dBm on its weakest wavelength takes DOWN each port that is UP and whose
fibres are then both dark; an input that returns is recorded, and its ports take it at their next training (R273). CAP_LEVEL_UPDATE
records the peer's level (R284). A command whose event cannot happen, or has no place, in the state changes nothing (log entry 8). -/
def Obligations.PortStates : Prop :=
  (∀ (s : State) (p : PortId) (t : Training),
    let x := s.port p
    p.val < 24 → x.role = 1 → x.waiting = [] → (∀ n : Nat, n < 28 → (s.port n).state ≠ .up → (s.port n).waiting = []) →
    ((x.state = .down ∨ x.state = .training) → s.portIdle p = false → setHas s.fabric.fenced (portJunction p) = false →
      (s.peerAccepted p t = true → 0 < s.ownWidth p → 0 < t.width.toNat → t.rlMin.toNat ≤ 0x11 → 0x10 ≤ t.rlMax.toNat →
        t.rlMin.toNat ≤ t.rlMax.toNat →
        ∃ u, Gives (.trainingFlitReceive p t) s u ∧ (u.port p).state = .up ∧ (u.port p).peerDev = t.dev ∧
          (u.port p).peerPort = t.port ∧ (u.port p).peerLevel = t.level ∧ (u.port p).peerDomain = t.domain ∧
          (u.port p).version.toNat = min 0x11 t.rlMax.toNat ∧ (u.port p).width.toNat = min (s.ownWidth p) (min t.width.toNat 2) ∧
          { u with ports := s.ports } = s) ∧
      (s.peerAccepted p t = false → ∃ u, Gives (.trainingFlitReceive p t) s u ∧ (u.port p).state = .miswired ∧
        (u.port p).width = 0 ∧ { u with ports := s.ports } = s)) ∧
    (x.state = .training → ∃ u, Gives (.retrainTimeout p) s u ∧ ((u.port p).state = .down ∨ (u.port p).state = .selfTest) ∧
      (u.port p).replay = [] ∧ ∀ l : Fin 8, x.laneFailed.getLsbD l = false → ∃ e ∈ u.twin.tests, e.unit = .lane p l) ∧
    (s.portIdle p = false → setHas s.fabric.fenced (portJunction p) = false →
      (x.state = .up → ∃ u, Gives (.linkRetrain p) s u ∧ (u.port p).state = .training ∧ (u.port p).replay = x.replay ∧
        tabGet 0 (u.port p).cnt 4 = tabGet 0 x.cnt 4 + 1) ∧
      (x.state ≠ .off → ∃ u, Gives (.portRetrain p) s u ∧ (u.port p).state = .training ∧ (u.port p).replay = x.replay)) ∧
    ((s.portIdle p = true ∨ setHas s.fabric.fenced (portJunction p) = true) → Gives (.portRetrain p) s s) ∧
    (x.state ≠ .off → ∃ u, Gives (.peerPortDown p) s u ∧ (u.port p).state = .down ∧ (u.port p).replay = [])) ∧
  (∀ (s : State) (li : Fin 8) (power : BitVec 16) (p : PortId) (level : BitVec 8),
    (1300 ≤ power.toInt → Gives (.laserInputLoss li power) s
      { s with board := { s.board with laserPower := tabPut s.board.laserPower li.val power } }) ∧
    (power.toInt < 1300 → (∀ n : Nat, n < 28 → (s.port n).state = .up → n = p.val ∧ (s.port n).waiting = []) → p.val < 24 →
      (s.port p).state = .up → (laserInput p 0 = li.val ∨ laserInput p 1 = li.val) →
      (∀ i : Nat, i < 2 → laserInput p i ≠ li.val → tabGet 0 s.board.laserPower (laserInput p i) = 0) →
      ∃ t, Gives (.laserInputLoss li power) s t ∧ (t.port p).state = .down ∧ (t.port p).replay = [] ∧
        tabGet 0 t.board.laserPower li = power) ∧
    Gives (.laserInputReturn li power) s { s with board := { s.board with laserPower := tabPut s.board.laserPower li.val power } } ∧
    ((s.port p).state = .up → (s.port p).role ≠ 3 → ∃ t, Gives (.capLevelUpdate p level) s t ∧ (t.port p).peerLevel = level ∧
      { t with ports := s.ports } = s))

/-- A request record that is next on its port leaves it and acts at its target: in flow order, a WRITE or WRITE64 that is not
refused is answered with ACK once its elements are written, a READ with the data, an INC with ACK once it is applied; a refused one
is answered with NACK and the status; a record after a gap is answered with TIMEOUT, and one of a transfer that has ended is not
answered (R221, R222, R258, R281, Table 9.4). An INC of a sy.add follows Table 11.3; the signal of a transfer likewise, but that it has
WRONG_STATE for OWNER_LOST and for a parked context (R258). A record of this device to itself that is past its deadline when it comes is
discarded: nothing is written and nothing answered, but for what the photo-finish log keeps of its arrival (R281, R309). -/
def Obligations.RequestsServed : Prop :=
  (∀ (s : State) (p : PortId) (r : Record) (rest : List Record), s.loopback = r :: rest → (s.port p).delivered.head? ≠ some r →
    r.deadline.toNat ≤ s.lt.now.toNat → ∀ i : Instr, ((r.type = .write ∧ i = .write p r) ∨ (r.type = .write64 ∧ i = .write64 p r) ∨
        (r.type = .read ∧ i = .read p r) ∨ (r.type = .inc ∧ i = .inc p r)) →
      ∃ t, Gives i s t ∧ t.loopback = rest ∧
        { t with loopback := s.loopback, pfLog := s.pfLog, pfNext := s.pfNext, lt := s.lt } = s ∧
        { t.lt with cnt := s.lt.cnt } = s.lt) ∧
  ∀ (s : State) (p : PortId) (r : Record) (rest : List Record), (s.port p).delivered = r :: rest → (s.port p).role ≠ 4 →
    let u := s.modPort p fun x => { x with delivered := rest }
    let j := portJunction p
    let serves (i : Instr) (t : State) : Prop := Gives i s t
    (∀ i : Instr, ((r.type = .write ∧ i = .write p r) ∨ (r.type = .write64 ∧ i = .write64 p r)) →
      (flowOrder (s.inFlow r) r = .accept → u.transferRefused r j = none → ∀ v, u.serveWrite r = (v, none) →
        serves i (v.serveEnds r j .ack 0 [] none)) ∧
      (flowOrder (s.inFlow r) r = .accept → u.transferRefused r j = none → ∀ v c, u.serveWrite r = (v, some c) →
        serves i (v.serveEnds r j .nack c [] none)) ∧
      (flowOrder (s.inFlow r) r = .accept → ∀ c, u.transferRefused r j = some c → serves i (u.serveEnds r j .nack c [] none))) ∧
    (∀ i : Instr, ((r.type = .write ∧ i = .write p r) ∨ (r.type = .write64 ∧ i = .write64 p r) ∨ (r.type = .read ∧ i = .read p r) ∨
        (r.type = .inc ∧ i = .inc p r)) →
      (flowOrder (s.inFlow r) r = .gap → serves i (u.serveEnds r j .nack Code.timeout [] none)) ∧
      (flowOrder (s.inFlow r) r = .drop → serves i (u.setInFlow r (nextFlow (u.inFlow r) r true none)))) ∧
    (r.type = .read → flowOrder (s.inFlow r) r = .accept →
      (u.transferRefused r j = none → ∀ v bs w, u.serveRead r = (v, .ok bs, w) →
        serves (.read p r) (v.serveEnds r j .readData 0 bs w)) ∧
      (u.transferRefused r j = none → ∀ v c w, u.serveRead r = (v, .error c, w) →
        serves (.read p r) (v.serveEnds r j .nack c [] none)) ∧
      (∀ c, u.transferRefused r j = some c → serves (.read p r) (u.serveEnds r j .nack c [] none))) ∧
    (r.type = .inc → flowOrder (s.inFlow r) r = .accept → ∀ v c,
      (if r.engineSy then u.remoteInc r.srcDev r.srcPart r.dstPart r.context (u.originOf r) (r.remote.toNat % 65536)
        (BitVec.ofNat 64 (leNat (r.data.take 8))) else u.signalInc r (BitVec.ofNat 64 (leNat (r.data.take 8)))) = (v, c) →
      serves (.inc p r) (if c = 0 then v.serveEnds r j .ack 0 [] none else v.serveEnds r j .nack c [] none)) ∧
    (∀ v : Word, u.transferDenied r = false →
      let x := u.part r.dstPart.val
      (x.state = .resetting ∨ x.lost r.context = true ∨ x.parkedIs r.context = true) → u.signalInc r v = (u, 0x01))

/-- A remote increment at its target, in the order of Table 11.3: a device that the roster does not hold at the origin stamp, or
that the policy does not grant, gets SECURITY_DENIED; a partition that is RESETTING, or a context that is lost, OWNER_LOST; the
bound context is incremented, the parked one in its copy; anything else is WRONG_STATE. No other baton changes (R258, R266, R291,
R346). -/
def Obligations.RemoteIncrements : Prop :=
  ∀ (s : State) (dev : BitVec 16) (src p : PartId) (ctx : BitVec 16) (stamp : Word) (n : Nat) (v : Word),
    let x := s.part p
    let out := s.remoteInc dev src p ctx stamp n v
    let allowed := s.inRoster dev stamp = true ∧ s.policyGrants dev src p = true
    let lost := (x.lostAValid = true ∧ x.lostA = ctx) ∨ (x.lostBValid = true ∧ x.lostB = ctx)
    (¬ allowed → out.2 = 0x0F ∧ (out.1.part p).sync = x.sync) ∧
    (allowed → (x.state = .resetting ∨ lost) → out.2 = 0x06 ∧ (out.1.part p).sync = x.sync) ∧
    (allowed → x.state ≠ .resetting → ¬ lost → s.partHeld p = false →
      (∀ b : Ctx, x.bound = some b → b.id = ctx → x.waiters = [] → n ≠ x.sec.stepBaton.toNat → n ≠ x.sec.lossBaton.toNat →
        out.2 = 0 ∧ ((out.1.part p).sync.baton n).toNat = min (2 ^ 63 - 1) ((x.sync.baton n).toNat + v.toNat) ∧
        ∀ m : Nat, m ≠ n → (out.1.part p).sync.baton m = x.sync.baton m) ∧
      (∀ y : Parked, x.boundIs ctx = false → x.parked = some y → y.ctx.id = ctx →
        out.2 = 0 ∧ (out.1.part p).sync = x.sync ∧
        ∃ z, (out.1.part p).parked = some z ∧ (z.sync.baton n).toNat = min (2 ^ 63 - 1) ((y.sync.baton n).toNat + v.toNat)) ∧
      (x.boundIs ctx = false → x.parkedIs ctx = false → out = (s, 0x01)))

/-- An answer that is next on its port leaves it and reaches the engine that waits for its transfer: an ACK ends the increment of a
sy.add with OK, a NACK with its status; for a remote transfer a NACK writes its status, READ_DATA with poison ends an rput with
POISON, and an ACK of elements counts them; one that comes from another device than the transfer goes to, or that names another transfer,
is discarded and changes nothing, and so is an ACK or READ_DATA that comes later than its record's DEADLINE + 1 µs (R221, R253, R258, R281). A
record of a transfer takes DEADLINE = Line Time at its own issue + LIFETIME; none is issued while the answer to an earlier one is missing past its
DEADLINE + 1 µs, or while the transport buffers hold as many as they can, whose number is a free value (log entry 2); they take one when none of
the flow waits (R276, R281). A transfer whose ACK is missing at the deadline of its last
record plus 1 µs ends with TIMEOUT; before the first lock it ends when LIFETIME has passed on the own count (R281, R305). An ingest
whose PCIe read fails or is poisoned ends with POISON, and one whose read does not complete within 50 ms with TIMEOUT; one that
completes is moved by `State.ingestData`, and the data of the last element is stored and ends the ingest with OK (R226, Table 9.5). -/
def Obligations.AnswersAndTimeouts : Prop :=
  (∀ (s : State) (p : PortId) (r : Record) (rest : List Record) (c : CoreId) (e : Entry) (x : Xfer),
    (s.port p).delivered = r :: rest → (s.port p).role ≠ 4 → s.physical r.srcCore.toNat = some c.val → x.xferNo = r.xfer →
    x.dst = r.srcDev → x.onOwn = false → e.started = true → e.done = false → (s.core c).works = true →
    let k := s.core c
    (r.engineSy = true → k.syq = [e] → k.xferSy = some x → (∃ b v sd, e.op = .sadd b v sd) →
      (r.type = .ack → x.late s.lt.now = false → ∃ t, Gives (.ack p r) s t ∧ (t.port p).delivered = rest ∧ (t.core c).xferSy = none ∧
        ∃ sd, scalarWritten e.op = some sd ∧ (t.core c).syq = [{ e with done := true, result := some (sd, 0) }]) ∧
      (r.type = .nack → ∃ t, Gives (.nack p r) s t ∧ (t.port p).delivered = rest ∧ (t.core c).xferSy = none ∧
        ∃ sd, scalarWritten e.op = some sd ∧
          (t.core c).syq = [{ e with done := true, result := some (sd, r.status.setWidth 64) }])) ∧
    (r.engineSy = false → k.tmq = [e] → k.xferTm = some x → e.faulted = false → (∃ d dev rd b sig sd, e.op = .rput d dev rd b sig sd) →
      (r.type = .nack → transferStatus r.status = true →
        ∃ t, Gives (.nack p r) s t ∧ (t.port p).delivered = rest ∧ (t.core c).xferTm = none ∧
        ∃ sd, scalarWritten e.op = some sd ∧
          (t.core c).tmq = [{ e with done := true, result := some (sd, r.status.setWidth 64), resume := none }]) ∧
      (r.type = .readData → x.late s.lt.now = false → x.kind = .rputRead → r.poison = true → ∃ t, Gives (.readData p r) s t ∧ (t.core c).xferTm = none ∧
        ∃ sd, scalarWritten e.op = some sd ∧
          (t.core c).tmq = [{ e with done := true, result := some (sd, 0x0D), resume := none }]) ∧
      (r.type = .ack → x.late s.lt.now = false → r.count ≠ 0 → x.acked + r.count.toNat < x.total → x.total ≤ x.next → x.kind = .rput →
        (x.sig = true → x.sigSent = true) → ∃ t, Gives (.ack p r) s t ∧
        (t.core c).xferTm = some { x with acked := x.acked + r.count.toNat, sent := x.sent.drop 1 } ∧ (t.core c).tmq = [e]))) ∧
  (∀ (s : State) (c n : Nat) (d : DReg) (x : Xfer) (r : Record),
    (x.late s.lt.now = true → s.issueMore c d n x = (s, x, none)) ∧
    (s.hasRoom (x.record .read (s.core c).lg s.devId (s.srcPart c) false) = false → s.issueMore c d n x = (s, x, none)) ∧
    (s.unsent r = 0 → s.hasRoom r = true) ∧ (s.hasRoom r = false → Config.transportRecords ≤ s.unsent r) ∧
    (s.issueFor x r).2 = { x with deadline := s.lt.now + BitVec.ofNat 64 (s.lifetime r.dstDev)
                                  sent := x.sent ++ [s.lt.now + BitVec.ofNat 64 (s.lifetime r.dstDev)] }) ∧
  (∀ (s : State) (p : PortId) (r : Record) (rest : List Record) (c : CoreId), (s.port p).delivered = r :: rest → (s.port p).role ≠ 4 →
    s.physical r.srcCore.toNat = some c.val →
    (∀ x, (if r.engineSy then (s.core c).xferSy else (s.core c).xferTm) = some x →
      x.dst ≠ r.srcDev ∨ x.xferNo ≠ r.xfer ∨ (r.type ≠ .nack ∧ x.late s.lt.now = true)) →
    ∀ i : Instr, ((r.type = .ack ∧ i = .ack p r) ∨ (r.type = .nack ∧ i = .nack p r) ∨ (r.type = .readData ∧ i = .readData p r)) →
      Gives i s (s.modPort p fun q => { q with delivered := rest })) ∧
  (∀ (s : State) (c : CoreId) (e : Entry) (x : Xfer) (data : List Byte), e.started = true → e.done = false → e.faulted = false →
    (s.core c).works = true →
    let k := s.core c
    let ends (t : State) (v : Word) : Prop := (t.core c).xferTm = none ∧ ∃ sd, scalarWritten e.op = some sd ∧
      (t.core c).tmq = [{ e with done := true, result := some (sd, v), resume := none }] ∧ t.mem = s.mem
    (k.tmq = [e] → k.xferTm = some x → (∃ d dev rd b sig sd, e.op = .rput d dev rd b sig sd) →
      (x.onOwn = false → x.sent = [] → Gives (.transferAckTimeout (.engine c .tm)) s s) ∧
      (x.onOwn = false → x.sent ≠ [] → s.comes ⟨x.deadline + 1000, false⟩ = true → ∃ t, Gives (.transferAckTimeout (.engine c .tm)) s t ∧ ends t 0x10 ∧
        (x.deadline + 1000).toNat ≤ t.lt.now.toNat) ∧
      (x.onOwn = true → ∃ t, Gives (.prelockTransferTimeout c .tm) s t ∧ ends t 0x10 ∧ x.deadline.toNat ≤ t.lt.own.toNat)) ∧
    (∀ dd ds xfs sxf xf sd, k.tmq = [e] → k.xferTm = some x → x.kind = .ingest → e.op = .ingest dd ds xfs sxf xf sd → x.hostLen ≠ 0 →
      let src := descOf (k.desc ds)
      let dst := descOf (k.desc dd)
      (∃ t, Gives (.ingestReadCompletion c .failed data) s t ∧ ends t 0x0D) ∧
      (∃ t, Gives (.ingestReadCompletion c .poisoned data) s t ∧ ends t 0x0D) ∧
      (∃ t, Gives (.ingestCompletionTimeout c) s t ∧ ends t 0x10 ∧ x.deadline.toNat ≤ t.lt.own.toNat) ∧
      Gives (.ingestReadCompletion c .ok data) s (s.ingestData c e dd ds sd x data) ∧
      (∀ u, x.next + 1 = x.total → x.buf = [] → x.hostLen = dst.width → data.length = dst.width →
        src.inside (ingestIndex src x.code (dst.index x.next)) = true → s.store c (dst.addr (dst.index x.next)) data = (u, .ok ()) →
        ∃ t, Gives (.ingestReadCompletion c .ok data) s t ∧ t.mem = u.mem ∧ (t.core c).l1 = (u.core c).l1 ∧
          (t.core c).xferTm = none ∧ ∃ sd, scalarWritten e.op = some sd ∧
            (t.core c).tmq = [{ e with done := true, result := some (sd, 0), resume := none }])))

/-- A record of a long line at the far gateway: one whose remaining time, which is negative past its deadline, is not more than the link's
delay is discarded; one from a device of the line table goes on with its line ID as its source, the far device as its destination
and the deadline that remains, here to this device; one from any other device is refused, a request with SECURITY_DENIED (R295 to R297). A flow that waits to move goes out on its new port once its old port holds none of its
records (R287). A roster takes effect no earlier than 10 ms after the one before it; the master publishes it as the others receive
it, and either passes it on to its other neighbours; when it is applied, the one before it is kept for records stamped before, for 8 ms (R289 to R291). The pair of twins follows it;
here this device has no twin port. A line is this gateway's own when it names this device and the port; the arrival of a record is compared with
the deadline that the gateway gives it (R296, R309). That the remaining time is signed, that an answer from a device that the line table lacks is
dropped without a NACK, and that a roster goes out on every FABRIC port that is UP but the one it came on, are the model's readings (DEDUCED, log
entry 24). A command whose event cannot happen, or has no place, in the state changes nothing (log entry 8). -/
def Obligations.LinesHoldsRosters : Prop :=
  (∀ (s : State) (p : PortId) (r : Record) (rest : List Record) (remaining : Word) (far dev : BitVec 16),
    let u := s.modPort p fun x => { x with delivered := rest }
    let delay : Word := (s.port p).delayNs.setWidth 64
    let line := s.consist.lines.find? fun l => l.farDomain == far && l.farDev == r.srcDev && l.gatewayDev == s.devId && l.port.toNat == p.val
    let src := match line with | some l => l.lineId | none => r.srcDev
    let v := u.photoRecord { r with srcDev := src, dstDev := dev, deadline := s.lt.now + remaining - delay }
    ((s.port p).delivered = r :: rest → (s.port p).role = 4 →
      (remaining.toInt ≤ delay.toInt → Gives (.longLineRecordReceive p r remaining far dev) s v) ∧
      (delay.toInt < remaining.toInt →
        (dev.getLsbD 15 = false → dev = s.devId → ∀ l : Line, line = some l →
          Gives (.longLineRecordReceive p r remaining far dev) s { v with
            loopback := s.loopback ++ [{ r with srcDev := l.lineId, dstDev := dev, deadline := s.lt.now + remaining - delay }] }) ∧
        ((dev.getLsbD 15 = true ∨ line = none) →
          Gives (.longLineRecordReceive p r remaining far dev) s
            (if isAnswer r.type then v else v.putOnPort p 2 (v.answer { r with dstDev := dev } .nack 0x0F []))))) ∧
    (∀ h : FlowHold, s.holds = [h] →
      ((s.port h.oldPort).holds h.isFor = true → Gives (.flowHoldRelease 0) s s) ∧
      ((s.port h.oldPort).holds h.isFor = false → h.records = [] → Gives (.flowHoldRelease 0) s { s with holds := [] }))) ∧
  (∀ (s : State) (p : PortId) (r : Roster),
    (s.rosters = [] → s.roster.epoch ≠ r.epoch → ∀ e, s.lastEffective = some e →
      let eff := if r.effective.toNat < (e + 10000000).toNat then e + 10000000 else r.effective
      let takes (t : State) (from_ : Nat) : Prop :=
        { t with ports := s.ports } = { s with rosters := [{ r with effective := eff }], lastEffective := some eff } ∧
        ∀ n ∈ s.fabricUp, n ≠ from_ → .roster r ∈ (t.port n).messages
      (p.val ∈ s.fabricUp → ∃ t, Gives (.rosterReceive p r) s t ∧ takes t p.val) ∧
      (s.lt.state = .master → ∃ t, Gives (.rosterPublish r) s t ∧ takes t 28)) ∧
    (p.val ∉ s.fabricUp → Gives (.rosterReceive p r) s s) ∧
    ((∀ n : Nat, n < 28 → (s.port n).role ≠ 2) → ∀ rest, s.rosters = r :: rest → s.comes ⟨r.effective, false⟩ = true →
      ∃ t, Gives .rosterApply s t ∧ t.roster = r ∧ t.prevRoster = some s.roster ∧ t.rosters = rest ∧
        r.effective.toNat ≤ t.lt.now.toNat ∧ t.parts = s.parts) ∧
    (s.prevRoster ≠ none → s.comes ⟨s.roster.effective + 8000000, false⟩ = true →
      ∃ t, Gives .rosterGraceExpiry s t ∧ t.prevRoster = none ∧ t.roster = s.roster ∧
        (s.roster.effective + 8000000).toNat ≤ t.lt.now.toNat))

/-- A counter-clear command leaves every counter of its block at 0 and nothing else changes; a core block that is fenced or fused as
disabled takes no write (R30, R84, R205, R212). A write of BAR0. Before stage 1 has ended, with RESET_N low and in Off it has no
effect, and so has one whose size is not 4 or 8 bytes or whose address is not a multiple of it, and one of the identity block (R8 to
R12, R31). A control register written with the bit of an action does what the command of that name does. RING_BASE takes a value
only while the ring is disabled, and reads as it was written, its low 12 bits 0; a 32-bit write changes only its half (R9, R10,
R183). The registers of a partition's page and of a core's block read as the fields they hold: PART_STATE with its state, ring, port
and halt, RING_STATE with the indices; CORE_STATE with its run state and its logical number. An offset that no map defines, or that
is not a multiple of 8, reads 0; a 32-bit read gives the low half at the register's offset and the high half 4 bytes above it, and a read
of any other size gives 0, the model's choice (R8, Tables 2.7, 8.12, log entry 40). CL_STAGE_LEN takes any value (R9). -/
def Obligations.Registers : Prop :=
  (∀ (s : State) (c : CoreId) (d : DieId) (p : PartId) (n : PortId),
    let k := s.core c
    (s.coreTakes c = true →
      Gives (.coreStallClr c) s (s.setCore c { k with stall := [] }) ∧
      Gives (.mxCntClr c) s (s.setCore c { k with mx := { k.mx with cnt := [] } }) ∧
      Gives (.vxCntClr c) s (s.setCore c { k with vx := { k.vx with cnt := [] } }) ∧
      Gives (.upCntClr c) s (s.setCore c { k with up := { k.up with cnt := [] } })) ∧
    (s.coreTakes c = false → Gives (.coreStallClr c) s s ∧ Gives (.mxCntClr c) s s ∧ Gives (.vxCntClr c) s s ∧ Gives (.upCntClr c) s s) ∧
    (∃ t, Gives (.xbCntClr d) s t ∧ t.die d = { s.die d with cnt := [] } ∧ { t with dies := s.dies } = s ∧
      ∀ e : Nat, e ≠ d.val → t.die e = s.die e) ∧
    Gives (.syCntClr p) s (s.setPart p { s.part p with syCnt := [] }) ∧
    (∃ t, Gives (.portCntClr n) s t ∧ t.port n = { s.port n with cnt := [] } ∧ { t with ports := s.ports } = s ∧
      ∀ m : Nat, m ≠ n.val → t.port m = s.port m) ∧
    Gives .ltCntClr s { s with lt := { s.lt with cnt := [] } } ∧
    Gives .secCntClr s { s with twin := { s.twin with cnt := [] } } ∧
    Gives .pwrCntClr s { s with power := { s.power with peakW := 0, cnt := [] } }) ∧
  (∀ (s : State) (hp : HostPort) (v : Word),
    (s.bar0Up = false → ∀ off size, Gives (.registerWrite hp off size v) s s) ∧
    (∀ off size, size ≠ 4 → size ≠ 8 → Gives (.registerWrite hp off size v) s s) ∧
    (∀ off size, (size = 4 ∨ size = 8) → off.toNat % size ≠ 0 → Gives (.registerWrite hp off size v) s s) ∧
    (∀ off size, off.toNat < 0x100000 → Gives (.registerWrite hp off size v) s s) ∧
    (s.bar0Up = true →
      (∀ c : CoreId,
        exec (.registerWrite hp (BitVec.ofNat 28 (0x01000008 + 0x10000 * c.val)) 8 1) s = exec (.coreStallClr c) s ∧
        exec (.registerWrite hp (BitVec.ofNat 28 (0x01000808 + 0x10000 * c.val)) 8 1) s = exec (.mxCntClr c) s ∧
        exec (.registerWrite hp (BitVec.ofNat 28 (0x01001008 + 0x10000 * c.val)) 8 1) s = exec (.vxCntClr c) s ∧
        exec (.registerWrite hp (BitVec.ofNat 28 (0x01001408 + 0x10000 * c.val)) 8 1) s = exec (.upCntClr c) s) ∧
      (∀ d : DieId, exec (.registerWrite hp (BitVec.ofNat 28 (0x03000008 + 0x100000 * d.val)) 8 1) s = exec (.xbCntClr d) s) ∧
      (∀ n : PortId,
        exec (.registerWrite hp (BitVec.ofNat 28 (0x06000010 + 0x10000 * n.val)) 8 1) s = exec (.portRetrain n) s ∧
        exec (.registerWrite hp (BitVec.ofNat 28 (0x06000010 + 0x10000 * n.val)) 8 2) s = exec (.portCntClr n) s) ∧
      exec (.registerWrite hp 0x07000030 8 1) s = exec .ltCntClr s ∧
      exec (.registerWrite hp 0x0A000028 8 1) s = exec .marginPlanStart s ∧
      exec (.registerWrite hp 0x0A000028 8 2) s = exec .pwrCntClr s ∧
      exec (.registerWrite hp 0x0B000420 8 1) s = exec .attGo s ∧
      exec (.registerWrite hp 0x0C000008 8 1) s = exec .clVerify s ∧
      exec (.registerWrite hp 0x0C000008 8 2) s = exec .clApply s ∧
      exec (.registerWrite hp 0x0C000008 8 4) s = exec .clPersist s ∧
      Gives (.registerWrite hp 0x0C000010 8 v) s { s with loader := { s.loader with stageLen := v.setWidth 21 } } ∧
      (∀ p : PartId,
        let at_ : BitVec 28 := BitVec.ofNat 28 (0x00110008 + 0x1000 * p.val)
        exec (.registerWrite hp (BitVec.ofNat 28 (0x00110038 + 0x1000 * p.val)) 8 8) s = exec (.partCntClr p hp) s ∧
        exec (.registerWrite hp (BitVec.ofNat 28 (0x08000010 + 0x1000 * p.val)) 8 1) s = exec (.syCntClr p) s ∧
        exec (.registerWrite hp (BitVec.ofNat 28 (0x05100000 + 0x1000 * p.val)) 8 1) s = exec (.xlatInval p) s ∧
        exec (.registerWrite hp (BitVec.ofNat 28 (0x00110020 + 0x1000 * p.val)) 8 v) s = exec (.ringCfgWrite p v) s ∧
        ((s.part p).enable = true → Gives (.registerWrite hp at_ 8 v) s s) ∧
        ((s.part p).enable = false →
          ∃ t, Gives (.registerWrite hp at_ 8 v) s t ∧ t = s.setPart p { s.part p with ringBase := v >>> 12 <<< 12 } ∧
            t.bar0Read at_.toNat = v >>> 12 <<< 12) ∧
        ((s.part p).enable = false →
          ∃ t, Gives (.registerWrite hp (at_ + 4) 4 v) s t ∧
            t.bar0Read at_.toNat = ((s.part p).ringBase &&& 0xFFFFF000) ||| (v <<< 32))))) ∧
  (∀ (s : State) (p : PartId) (c : CoreId),
    let x := s.part p
    let k := s.core c
    let state := s.bar0Read (0x00110000 + 0x1000 * p.val)
    let ring := s.bar0Read (0x00110028 + 0x1000 * p.val)
    let core := s.bar0Read (0x01000000 + 0x10000 * c.val)
    (s.partHeld p = false → state.toNat % 16 = x.state.code ∧
      state.toNat / 2 ^ 8 % 4 = (if x.enable then (if x.halted then 2 else 1) else 0) ∧ state.toNat / 2 ^ 10 % 2 = x.host.val ∧
      state.toNat / 2 ^ 16 % 2 ^ 32 = x.haltIndex.toNat ∧ state.toNat / 2 ^ 48 % 2 ^ 8 = x.haltStatus.toNat) ∧
    ring.toNat % 2 ^ 32 = x.producer.toNat ∧ ring.toNat / 2 ^ 32 = x.consumer.toNat ∧
    (k.role ≠ .disabled → core.toNat % 16 = k.run.code ∧ core.toNat / 2 ^ 4 % 4 = k.role.code ∧
      core.getLsbD 23 = k.logical.isSome ∧ ∀ l, k.logical = some l → core.toNat / 2 ^ 15 % 2 ^ 8 = l.toNat) ∧
    (k.role = .disabled → core = 0) ∧
    (∀ off : Nat, off % 8 ≠ 0 → s.bar0Read off = 0) ∧ (∀ off : Nat, 0x0D000000 ≤ off → s.bar0Read off = 0) ∧
    (∀ off : Nat, off % 8 = 0 → s.bar0Load off 8 = s.bar0Read off ∧ s.bar0Load off 4 = s.bar0Read off &&& 0xFFFFFFFF ∧
      s.bar0Load (off + 4) 4 = s.bar0Read off >>> 32) ∧
    (∀ off size : Nat, size ≠ 4 → size ≠ 8 → s.bar0Load off size = 0))

/-- The Line Time unit. The first beacon of a 10 µs period that comes from a source named by LT_CFG, on a FABRIC port that is UP,
is taken: while SEEKING it sets Line Time to its value plus the link's delay; after that Line Time is not stepped: a device that is ahead
holds it still until the source has caught up, and one behind slews by what it lacks; the beacon goes on, with the hop count raised by 1
and this device's own stamp, on every other FABRIC port that is UP; the unit then goes to LOCKING from SEEKING, UNLOCKED and, on a master
that returns, MASTER, and to LOCKED from HOLDOVER. 50 ms of beacons with no gap of 1 ms give LOCKED, 1 ms without one HOLDOVER, 10 ms
UNLOCKED; the backup that has been LOCKED takes over after 1 ms; a source sends at each multiple of 10 µs, the first at or after it became the source, on
every FABRIC port that is UP, and no other device sends any (log entries 8, 27);
a read of LT_NOW latches the fraction of its instant (R301 to R305, Table 13.1). -/
def Obligations.LineTimeUnit : Prop :=
  ∀ (s : State) (p : PortId) (dev : BitVec 16) (hops : BitVec 8) (v : Word) (after : Nat),
    let x := s.port p
    let lt := s.lt
    let t : Word := v + x.delayNs.setWidth 64
    let later := s.pass after
    let rest (u : State) : Prop := { u with lt := lt } = s
    let follows := (dev = lt.masterDev ∨ dev = lt.backupDev) ∧ dev ≠ s.devId ∧ (lt.state ≠ .master ∨ s.devId = lt.masterDev)
    let used := lt.period = some (BitVec.ofNat 64 (t.toNat / 10000))
    (x.role = 1 → x.state = .up → follows → ¬ used →
      ∃ u, Gives (.beaconReceive p dev hops v after) s u ∧ { u with lt := lt, ports := s.ports, freeCtr := s.freeCtr } = s ∧
        u.lt.sourceDev = dev ∧ u.lt.hops = hops ∧ u.lt.own = later.lt.own ∧ u.lt.lastBeacon = u.lt.now ∧
        u.lt.period = some (BitVec.ofNat 64 (t.toNat / 10000)) ∧
        (lt.state = .seeking → u.lt.now = t ∧ u.lt.hold = 0 ∧ u.lt.slew = 0) ∧
        (lt.state ≠ .seeking → u.lt.now = later.lt.now ∧ u.lt.hold.toNat = later.lt.now.toNat - t.toNat ∧
          u.lt.slew.toNat = t.toNat - later.lt.now.toNat) ∧
        u.lt.state = (match lt.state with | .seeking | .unlocked | .master => LtState.locking | .holdover => .locked | st => st) ∧
        tabGet 0 u.lt.cnt 2 = tabGet 0 lt.cnt 2 + 1 ∧
        (∀ n ∈ s.fabricUp, n ≠ p.val → .beacon dev (hops + 1) u.lt.now ∈ (u.port n).messages) ∧
        ∀ n : Nat, (n ∉ s.fabricUp ∨ n = p.val) → u.port n = s.port n) ∧
    ((x.role ≠ 1 ∨ x.state ≠ .up ∨ ¬ follows ∨ used) → Gives (.beaconReceive p dev hops v after) s later) ∧
    (lt.state = .master → ∃ u, Gives .beaconSend s u ∧ { u with lt := lt, ports := s.ports } = s ∧
      u.lt.now = (if lt.now.toNat ≤ lt.beaconDue.toNat then lt.beaconDue else lt.now) ∧ u.lt.state = .master ∧
      u.lt.beaconDue = lt.beaconDue + 10000 ∧ ∀ n ∈ s.fabricUp, .beacon s.devId 0 u.lt.now ∈ (u.port n).messages) ∧
    (lt.state ≠ .master → Gives .beaconSend s s) ∧
    (lt.state = .locking → lt.lastBeacon.toNat + 1000000 < 2 ^ 64 →
      max lt.now.toNat (lt.lockStart.toNat + 50000000) < lt.lastBeacon.toNat + 1000000 →
      ∃ u, Gives .lockAchieved s u ∧ u.lt.state = .locked ∧ u.lt.everLocked = true ∧
        u.lt.now.toNat = max lt.now.toNat (lt.lockStart.toNat + 50000000) ∧ (lt.everLocked = true → rest u)) ∧
    (lt.state = .locked → ∃ u, Gives .holdoverEntry s u ∧ rest u ∧ u.lt.state = .holdover ∧
      (lt.lastBeacon + 1000000).toNat ≤ u.lt.now.toNat ∧ tabGet 0 u.lt.cnt 3 = tabGet 0 lt.cnt 3 + 1) ∧
    (lt.state = .holdover → ∃ u, Gives .unlockTimeout s u ∧ rest u ∧ u.lt.state = .unlocked ∧
      (lt.lastBeacon + 10000000).toNat ≤ u.lt.now.toNat) ∧
    (s.devId = lt.backupDev → lt.backupDev ≠ lt.masterDev → lt.everLocked = true →
      (lt.state = .locked ∨ lt.state = .holdover ∨ lt.state = .unlocked) →
      ∃ u, Gives .backupTakeover s u ∧ rest u ∧ u.lt.state = .master ∧ u.lt.sourceDev = s.devId ∧ u.lt.hops = 0 ∧ u.lt.hold = 0 ∧
        (lt.lastBeacon + 1000000).toNat ≤ u.lt.now.toNat ∧
        u.lt.beaconDue = BitVec.ofNat 64 ((u.lt.now.toNat + 9999) / 10000 * 10000)) ∧
    Gives .ltNowRead s { s with lt := { lt with latched := lt.frac } }

/-- Arming, cancelling and copies. An arm needs a known Line Time, an action and the lead: 20 µs for a local entry, and the greater
of DOMAIN_LEAD_US and the distribution bound for a domain entry; without the lead the status is TIMETABLE_LATE and LATE_CNT counts
it. CANCEL disarms a local entry at once, and a domain entry only with its lead. A domain entry that is armed or cancelled here goes out as
a copy with this device's stamp on every FABRIC port that is UP. A copy of a domain entry that has not been met before goes on to the other
neighbours, and acts when this device is in the roster at its stamp: it takes the place of the entry, armed when it comes at least 20 µs before
TIME and unarmed with TIMETABLE_LATE, which LATE_CNT counts, when it comes later; it yields to an armed entry of a later origin stamp, or of an
equal one and a device ID that is not higher. Late, or at most 25 ns early, it leaves an entry of KIND 4 in the photo-finish log. A cancel
disarms the entry of an origin stamp that is not later, and without the lead is refused and counted the same way; one met before is discarded
(R305, R309 to R312; that a cancel, and a copy that yields, are logged like any copy is the model's reading, log entry 28). An armed entry
that is the next to be due fires at its time: a window of its length opens, cut to the period; a POWER_STEP waits for its stagger, armed
as it is; a one-shot entry disarms and a periodic one waits for its next occurrence; FIRED_CNT counts it. A domain entry on a device that
is UNLOCKED does not act, and its status is WRONG_STATE. Nothing fires while an image is being applied (R310, R313, R314, R355).
A command whose event cannot happen, or has no place, in the state changes nothing (log entry 8). -/
def Obligations.Timetable : Prop :=
  (∀ (s : State) (e : Fin 256) (y : TtCopy),
    let x := s.ttEntry e
    let lead := if 192 ≤ e.val then max (1000 * s.lt.leadUs.toNat) s.lt.boundNs.toNat else 20000
    let known := s.lt.state = .locked ∨ s.lt.state = .holdover ∨ s.lt.state = .master
    let late (t : State) : Prop := tabGet 0 t.lt.cnt 1 = tabGet 0 s.lt.cnt 1 + 1 ∧ { t with lt := s.lt, tt := s.tt } = s
    let others (t : State) : Prop := ∀ n : Nat, n ≠ e.val → t.ttEntry n = s.ttEntry n
    let told (t : State) (cancel : Bool) : Prop := ∀ n ∈ s.fabricUp, .copy
      { entry := e, cancel := cancel, time := x.time, period := x.period, duration := x.duration, arg := x.arg, partMask := x.partMask,
        action := x.action, origin := s.devId, stamp := s.lt.now, inPort := 0 } ∈ (t.port n).messages
    let arms : TtEntry := { x with armed := true, fromImage := false, status := 0, stamp := s.lt.now, fired := 0, stepDue := none,
                                   originDev := if 192 ≤ e.val then s.devId else 0 }
    (x.armed = true → Gives (.timetableArm e) s s) ∧
    (x.armed = false → x.action ≠ 0 → known → s.lt.now.toNat + lead ≤ x.time.toNat →
      (e.val < 192 → ∃ t, Gives (.timetableArm e) s t ∧ { t with tt := s.tt } = s ∧ others t ∧ t.ttEntry e = arms) ∧
      (192 ≤ e.val → ∃ t, Gives (.timetableArm e) s t ∧ { t with tt := s.tt, ports := s.ports } = s ∧ others t ∧ told t false ∧
        t.ttEntry e = { arms with seen := (false, s.lt.now, s.devId) :: x.seen })) ∧
    (x.armed = false → x.action ≠ 0 → known → x.time.toNat < s.lt.now.toNat + lead →
      ∃ t, Gives (.timetableArm e) s t ∧ late t ∧ others t ∧ t.ttEntry e = { x with status := 0x0B }) ∧
    (x.armed = false → (x.action = 0 ∨ ¬ known) →
      ∃ t, Gives (.timetableArm e) s t ∧ { t with tt := s.tt } = s ∧ others t ∧ t.ttEntry e = { x with status := 1 }) ∧
    (x.armed = false → Gives (.timetableCancel e) s s) ∧
    (x.armed = true → e.val < 192 →
      ∃ t, Gives (.timetableCancel e) s t ∧ { t with tt := s.tt } = s ∧ others t ∧
        t.ttEntry e = { x with armed := false, stepDue := none }) ∧
    (x.armed = true → 192 ≤ e.val → s.lt.now.toNat + lead ≤ x.time.toNat →
      ∃ t, Gives (.timetableCancel e) s t ∧ { t with tt := s.tt, ports := s.ports } = s ∧ others t ∧ told t true ∧
        t.ttEntry e = { x with armed := false, stepDue := none, seen := (true, s.lt.now, s.devId) :: x.seen }) ∧
    (x.armed = true → 192 ≤ e.val → x.time.toNat < s.lt.now.toNat + lead →
      ∃ t, Gives (.timetableCancel e) s t ∧ late t ∧ others t ∧ t.ttEntry e = { x with status := 0x0B }) ∧
    (y.entry = e → 192 ≤ e.val → s.carriesTime y.inPort = true → x.met y = false →
      let here := Roster.holds (s.rosterAt y.stamp) s.devId = true
      let seen := (y.cancel, y.stamp, y.origin) :: x.seen
      let comes (t : State) : Prop := others t ∧ t.mem = s.mem ∧ t.parts = s.parts ∧
        ∀ n ∈ s.fabricUp, n ≠ y.inPort.val → .copy y ∈ (t.port n).messages
      let inTime := s.lt.now.toNat + 20000 ≤ y.time.toNat
      let off : Int := (s.lt.now.toNat : Int) + 20000 - y.time.toNat
      let logs (t : State) (late : Nat) : Prop := tabGet 0 t.lt.cnt 1 = tabGet 0 s.lt.cnt 1 + BitVec.ofNat 64 late ∧
        (off < -25 → t.pfLog = s.pfLog ∧ t.pfNext = s.pfNext) ∧
        (-25 ≤ off → t.pfNext = s.pfNext + 1 ∧ let z := tabGet PfEntry.zero t.pfLog s.pfNext.toNat
          z.valid = true ∧ z.kind = 4 ∧ z.stamp = s.lt.now ∧ z.entry.toNat = e.val ∧ z.srcDev = y.origin ∧
          z.offset.toInt = min off 25 ∧ z.after = decide (0 < off))
      let yields := x.armed = true ∧ (y.stamp.toNat < x.stamp.toNat ∨ (y.stamp = x.stamp ∧ x.originDev.toNat ≤ y.origin.toNat))
      let copied (armed : Bool) (status : BitVec 8) : TtEntry := {
        time := y.time, period := y.period, duration := y.duration, arg := y.arg, partMask := y.partMask, action := y.action,
        armed := armed, originDev := y.origin, status := status, stamp := y.stamp, fired := 0, fromImage := false, stepDue := none,
        seen := seen }
      (¬ here → ∃ t, Gives (.timetableCopyReceive y) s t ∧ comes t ∧ t.ttEntry e = { x with seen := seen } ∧ t.pfLog = s.pfLog) ∧
      (here → y.cancel = false →
        (¬ yields → inTime → ∃ t, Gives (.timetableCopyReceive y) s t ∧ comes t ∧ logs t 0 ∧ t.ttEntry e = copied true 0) ∧
        (¬ yields → ¬ inTime → ∃ t, Gives (.timetableCopyReceive y) s t ∧ comes t ∧ logs t 1 ∧ t.ttEntry e = copied false 0x0B) ∧
        (yields → ∃ t, Gives (.timetableCopyReceive y) s t ∧ comes t ∧ logs t 0 ∧ t.ttEntry e = { x with seen := seen })) ∧
      (here → y.cancel = true →
        (x.armed = true → x.stamp.toNat ≤ y.stamp.toNat → inTime → ∃ t, Gives (.timetableCopyReceive y) s t ∧ comes t ∧ logs t 0 ∧
          t.ttEntry e = { x with armed := false, stepDue := none, seen := seen }) ∧
        (x.armed = true → x.stamp.toNat ≤ y.stamp.toNat → ¬ inTime → ∃ t, Gives (.timetableCopyReceive y) s t ∧ comes t ∧ logs t 1 ∧
          t.ttEntry e = { x with status := 0x0B, seen := seen }) ∧
        ((x.armed = false ∨ y.stamp.toNat < x.stamp.toNat) → ∃ t, Gives (.timetableCopyReceive y) s t ∧ comes t ∧ logs t 0 ∧
          t.ttEntry e = { x with seen := seen }))) ∧
    (y.entry = e → (e.val < 192 ∨ s.carriesTime y.inPort = false ∨ x.met y = true) → Gives (.timetableCopyReceive y) s s)) ∧
  (∀ (s : State) (e : Fin 256),
    let x := s.ttEntry e
    let due := x.time.toNat + x.fired * x.period.toNat
    let len := if x.period = 0 then x.duration.toNat else min x.duration.toNat x.period.toNat
    let after (status : BitVec 8) : TtEntry :=
      { x with status := status, armed := x.period != 0, fired := if x.period = 0 then x.fired else x.fired + 1 }
    (s.loader.applying ≠ none → Gives (.timetableFire e) s s) ∧
    (x.armed = true → x.stepDue = none → s.dueBefore e = false → s.loader.applying = none → s.lt.state ≠ .seeking →
      due + len < 2 ^ 64 →
      ((e.val < 192 ∨ s.lt.state ≠ .unlocked) → (x.action = 1 ∨ x.action = 2) → 0 < len →
        ∃ t, Gives (.timetableFire e) s t ∧ due ≤ t.lt.now.toNat ∧ t.ttEntry e = after 0 ∧ t.parts = s.parts ∧ t.mem = s.mem ∧
          tabGet 0 t.lt.cnt 0 = tabGet 0 s.lt.cnt 0 + 1 ∧
          ⟨e.val, x.action, BitVec.ofNat 64 due, BitVec.ofNat 64 (due + len), x.partMask, x.arg, false⟩ ∈ t.windows) ∧
      (x.action = 5 →
        ∃ t, Gives (.timetableFire e) s t ∧ due ≤ t.lt.now.toNat ∧ { t with lt := s.lt, tt := s.tt } = s ∧ t.lt.cnt = s.lt.cnt ∧
          t.ttEntry e = { x with stepDue := some (BitVec.ofNat 64 (due +
            s.devId.toNat % (x.arg.toNat / 256 % 256 + 1) * (x.arg.toNat / 65536 * 10))) }) ∧
      (192 ≤ e.val → s.lt.state = .unlocked → x.action ≠ 5 →
        ∃ t, Gives (.timetableFire e) s t ∧ t.ttEntry e = after 1 ∧ { t with lt := s.lt, tt := s.tt } = s)))

/-- The stages of a generation. Clearing is followed by data; the data stage ends when every unit is copied; the digest stage, whose
table goes to the twin, is followed by the wait for the loss, when there is a LOSS_ADDR, and by the commit otherwise, whose record goes to
the twin; the wait ends when LOSS_BATON has reached
STEP, with the value read at LOSS_ADDR; without it, after LOSS_WAIT_MS, the generation is abandoned with TIMEOUT. UNIT_COPIED copies
the lowest unit that is left, when no write is held: its digest is kept and the unit goes to the twin on VC 5; a poisoned one, and one whose read meets an uncorrectable error, abandons
the generation with POISON, and one that no path reaches with FENCED (DEDUCED, log entry 12: R328 and R247). The commit makes STEP and
the generation number the committed ones and counts it; the slot it stands in is then known as the twin's current one. A generation
that is abandoned leaves no record of its own waiting at the twin ports. ABANDON ends it with OWNER_LOST, and a record without its acknowledgement with
TIMEOUT; a restore in progress keeps its phase (R321, R325, R326, R328, Table 14.4). The end of a
securing window abandons, with TIMEOUT, the windowed generations that belong to it and no others; here one partition's. Without
either twin port for 20 ms a pair whose ports have been UP is LOST, whatever its state was, and every generation and restore ends with
TIMEOUT; with a twin port UP, without the role, before a port was ever UP, and when the pair is LOST already, PAIR_LOST_TIMEOUT cannot come
and changes nothing (R317, R318, R328, R330, log entry 8). That a stage's command stands for the acknowledgements it waits for, what this device
knows of the twin's slots at the commit and keeps when the pair is LOST, and that a restore in progress keeps its PHASE, are the model's readings
(DEDUCED, log entry 29). -/
def Obligations.Generations : Prop :=
  (∀ (s : State) (p : PartId) (g : Gen),
    let x := s.part p
    let sec (t : State) : SecPart := (t.part p).sec
    let keeps (t : State) : Prop := t.mem = s.mem ∧ t.cores = s.cores ∧ (t.part p).sync = x.sync
    let abandoned (t : State) (status : BitVec 8) : Prop := keeps t ∧ (sec t).gen = none ∧ (sec t).phase = x.sec.otherPhase ∧
      (sec t).genStatus = status ∧ (sec t).commitGen = x.sec.commitGen ∧ tabGet 0 t.twin.cnt 2 = tabGet 0 s.twin.cnt 2 + 1 ∧
      ∀ n : Nat, (n = 24 ∨ n = 25) → ∀ k ∈ (t.port n).waiting, ∀ r, k.msg = .twin r → ofGeneration p r = false
    let stage (ph : SecPhase) (h : Gen) : State := s.setPart p { x with sec := { x.sec with phase := ph, gen := some h } }
    let sends (t : State) (i : Nat) (r : TwinRec) : Prop := ∀ n, s.twinPort i = some n → .twin r ∈ (t.port n).messages
    let due : Word := s.lt.now + BitVec.ofNat 64 (1000 * s.consist.lifetimeUs.toNat)
    x.sec.gen = some g →
    (x.sec.phase = .clearing → Gives (.generationStageAdvance p) s (stage .data { g with sent := none })) ∧
    (x.sec.phase = .data →
      (g.copied.length = g.units.length → ∃ t, Gives (.generationStageAdvance p) s t ∧
        { t with ports := s.ports } = stage .digest { g with sent := some due } ∧ sends t 0 (.digest p g.slotB 0 g.table)) ∧
      (g.copied.length ≠ g.units.length → Gives (.generationStageAdvance p) s s) ∧
      (s.heldUnits p = [] → ∀ i : Nat, i < g.units.length → i ∉ g.copied → (∀ j : Nat, j < i → j ∈ g.copied) →
        let d := (g.units.getD i (0, 0)).2
        let data := s.devBytes d (2 ^ 21)
        let reached := ∀ q ∈ piecesOf d (2 ^ 21), s.agentReaches p q.1 = true
        (reached → s.unitPoisoned d = false → ∃ t, Gives (.unitCopied p .clean) s t ∧ sends t i (.unit p g.slotB i data) ∧
          let h : Gen := { g with copied := setAdd g.copied i, digests := tabPut g.digests i (sha256 data), sent := some due }
          { t with ports := s.ports, dies := s.dies, freeCtr := s.freeCtr } =
            s.setPart p { x with sec := { x.sec with gen := some h, unitsLeft := x.sec.unitsLeft - 1 } }) ∧
        (reached → s.unitPoisoned d = true → ∃ t, Gives (.unitCopied p .clean) s t ∧ abandoned t 0x0D) ∧
        (reached → d + 2 ^ 21 ≤ 0x12000000000 → ∃ t, Gives (.unitCopied p .uncorrectable) s t ∧ abandoned t 0x0D) ∧
        (¬ reached → ∀ ecc, ∃ t, Gives (.unitCopied p ecc) s t ∧ abandoned t 0x0C))) ∧
    (x.sec.phase = .digest →
      (g.lossAddr = 0 → ∃ t, Gives (.generationStageAdvance p) s t ∧
        { t with ports := s.ports } = stage .commit { g with sent := some due } ∧ sends t 0 (.commit p g.slotB (s.commitRecord p g))) ∧
      (g.lossAddr ≠ 0 → Gives (.generationStageAdvance p) s (stage .waitLoss { g with sent := none, stage4At := s.lt.now }))) ∧
    (x.sec.phase = .waitLoss →
      (g.step.toNat ≤ (x.sync.baton g.lossBaton.toNat).toNat → Gives (.lossWaitTimeout p) s s ∧
        ∀ u bs, x.bound.isSome = true → s.ctxRead p g.lossAddr.toNat 4 = (u, .ok bs) →
          ∃ t, Gives (.generationStageAdvance p) s t ∧ (sec t).phase = .commit ∧ (sec t).gen = ((u.part p).sec.gen.map fun _ =>
            { g with loss := BitVec.ofNat 32 (leNat bs), sent := some u.twinDeadline })) ∧
      ((x.sync.baton g.lossBaton.toNat).toNat < g.step.toNat → Gives (.generationStageAdvance p) s s ∧
        let d : Word := g.stage4At + BitVec.ofNat 64 (g.lossWaitMs.toNat * 1000000)
        ∃ t, Gives (.lossWaitTimeout p) s t ∧ abandoned t 0x10 ∧ (s.comes ⟨d, false⟩ = true → d.toNat ≤ t.lt.now.toNat))) ∧
    (x.sec.phase = .commit → ∃ t, Gives (.generationCommit p) s t ∧ (sec t).gen = none ∧ (sec t).phase = x.sec.otherPhase ∧
      (sec t).genStatus = 0 ∧ (sec t).commitStep = g.step ∧ (sec t).commitGen = g.generation ∧ (sec t).heldB = some g.slotB ∧ (sec t).heldKnown = true ∧
      tabGet 0 t.twin.cnt 1 = tabGet 0 s.twin.cnt 1 + 1 ∧ keeps t) ∧
    (∃ t, Gives (.abandon p) s t ∧ abandoned t 0x06) ∧
    (∀ d, g.sent = some d → s.comes ⟨d + 1000, false⟩ = true →
      ∃ t, Gives (.transferAckTimeout (.generation p)) s t ∧ abandoned t 0x10 ∧ (d + 1000).toNat ≤ t.lt.now.toNat)) ∧
  (∀ (s : State) (e : Fin 256) (w : OpenWindow) (p : PartId),
    let x := s.part p
    (s.windows = [w] → w.entry = e.val → w.action = 1 → w.ended = false → w.partMask = 1#16 <<< p.val →
      s.comes ⟨w.stop, false⟩ = true →
      (∀ g, x.sec.gen = some g → g.windowed = true → g.windowEnd = w.stop →
        ∃ t, Gives (.secureWindowEnd e) s t ∧ t.windows = [{ w with ended := true }] ∧ (t.part p).sec.gen = none ∧
          (t.part p).sec.genStatus = 0x10 ∧ w.stop.toNat ≤ t.lt.now.toNat ∧ t.mem = s.mem) ∧
      ((∀ g, x.sec.gen = some g → g.windowed = false) →
        ∃ t, Gives (.secureWindowEnd e) s t ∧ t.windows = [{ w with ended := true }] ∧ t.parts = s.parts ∧
          w.stop.toNat ≤ t.lt.now.toNat)) ∧
    (((s.port 24).role = 2 ∨ (s.port 25).role = 2) → s.twin.everUp = true → s.twin.state ≠ .lost → s.twinUp 24 = false →
      s.twinUp 25 = false →
      ∃ t, Gives .pairLostTimeout s t ∧ t.twin.state = .lost ∧ t.mem = s.mem ∧
        ∀ q : Nat, q < 16 → (t.part q).sec.gen = none ∧ (t.part q).sec.rest = none ∧
          (t.part q).sec.heldKnown = (s.part q).sec.heldKnown ∧ (t.part q).sec.heldB = (s.part q).sec.heldB ∧
          ((s.part q).sec.gen ≠ none → (t.part q).sec.genStatus = 0x10) ∧
          ((s.part q).sec.rest ≠ none → (t.part q).sec.restoreStatus = 0x10)) ∧
    ((s.twinUp 24 = true ∨ s.twinUp 25 = true ∨ ((s.port 24).role ≠ 2 ∧ (s.port 25).role ≠ 2) ∨ s.twin.everUp = false ∨ s.twin.state = .lost) →
      Gives .pairLostTimeout s s))

/-- The twin's securing records, on a twin port that is UP with the expected peer, write into this device's replica slots: a unit goes to
its place in the extent, byte for byte, and a
cleared commit record reads 0 and makes the slot one that holds nothing; each is acknowledged on the port it came on; no byte of near memory changes, and nothing is written
where the image gives no extent. A restore asks for a READY partition that neither secures nor restores, in a pair that is PAIRED or
DEGRADED: the request goes to the twin on VC 5; any other is refused with WRONG_STATE. A data unit that overtakes the digest table, which travels on the
other port, waits for it; a table with poisoned data ends the restore with POISON. When every unit is written it ends with OK, and
the generation restored is the committed one; without the twin's next record it ends with TIMEOUT (R317 to R322, R330, R331). No unit of
the stack is fenced or waits for a spare row here. A record that no path from its port leads to far memory is neither written nor acknowledged
(R247; DEDUCED, log entry 12). That an early unit waits for the table, that an acknowledgement leaves on the port the record came on, and what
this device knows of the twin's slots after a restore, are the model's readings (DEDUCED, log entry 29). A command whose event cannot happen, or
has no place, in the state changes nothing (log entry 8). -/
def Obligations.ReplicasAndRestores : Prop :=
  ∀ (s : State) (p : PartId) (n : PortId) (b poison : Bool) (i : Nat) (data : List Byte),
    let x := s.part p
    let base := (if b then 0x26E00000000 else 0x20000000000) + x.sec.baseGib.toNat * 2 ^ 30
    let unit := base + 2 ^ 21 * (1 + (x.sec.sizeGib.toNat + 63) / 64 + i)
    let takes := s.twinUp n = true ∧ (s.twin.state = .paired ∨ s.twin.state = .degraded) ∧ s.start.farZero = true ∧ x.sec.sizeGib ≠ 0
    let sound (a k : Nat) : Prop := ∀ d : Nat, a ≤ d → d < a + k → s.rowFenced d = false
    let due : Word := s.lt.now + BitVec.ofNat 64 (1000 * s.consist.lifetimeUs.toNat)
    (takes → x.sec.baseGib.toNat + x.sec.sizeGib.toNat ≤ 440 →
      (data.length = 2 ^ 21 → i < 512 * x.sec.sizeGib.toNat - 1 - (x.sec.sizeGib.toNat + 63) / 64 → sound unit (2 ^ 21) →
        (s.reachesAll (portJunction n) unit (2 ^ 21) = false → Gives (.twinRecordReceive n (.unit p b i data)) s s) ∧
        (s.reachesAll (portJunction n) unit (2 ^ 21) = true → ∃ t, Gives (.twinRecordReceive n (.unit p b i data)) s t ∧ t.parts = s.parts ∧ .twinAck p ∈ (t.port n).messages ∧
          (∀ j : Nat, j < 2 ^ 21 → memGet t.mem (unit + j) = data.getD j 0) ∧
          (∀ a : Nat, a < unit ∨ unit + 2 ^ 21 ≤ a → memGet t.mem a = memGet s.mem a))) ∧
      (sound base 128 → s.reachesAll (portJunction n) base 128 = true →
        ∃ t, Gives (.twinRecordReceive n (.clear p b)) s t ∧ .twinAck p ∈ (t.port n).messages ∧
          (∀ j : Nat, j < 128 → memGet t.mem (base + j) = 0) ∧
          (∀ a : Nat, a < base ∨ base + 128 ≤ a → memGet t.mem a = memGet s.mem a) ∧
          (if b then (t.part p).sec.replBGen else (t.part p).sec.replAGen) = 0)) ∧
    (¬ takes → Gives (.twinRecordReceive n (.unit p b i data)) s s ∧ Gives (.twinRecordReceive n (.clear p b)) s s ∧
      Gives (.twinRecordReceive n (.commit p b data)) s s) ∧
    (∀ older : Bool,
      let c : Instr := if older then .restoreOlder p else .secRestore p
      let may := x.state = .ready ∧ s.partHeld p = false ∧ (s.twin.state = .paired ∨ s.twin.state = .degraded) ∧
        x.sec.gen = none ∧ x.sec.rest = none
      (may → ∃ t, Gives c s t ∧ { t with ports := s.ports } = s.setPart p { x with
          sec := { x.sec with rest := some ⟨older, [], false, none, 0, [], [], due⟩, phase := .restoring, verify := 0 } } ∧
        ∀ m, s.twinPort 0 = some m → .twin (.restoreRequest p older) ∈ (t.port m).messages) ∧
      (¬ may → ∃ t, Gives c s t ∧ (t.part p).sec = { x.sec with restoreStatus := 1 } ∧ t.mem = s.mem)) ∧
    (∀ r : Rest, x.sec.rest = some r →
      (s.comes ⟨r.sent + 1000, false⟩ = true → ∃ t, Gives (.transferAckTimeout (.restore p)) s t ∧ (t.part p).sec.rest = none ∧
        (t.part p).sec.restoreStatus = 0x10 ∧ (t.part p).sec.verify = x.sec.verify ∧ t.mem = s.mem ∧
        (r.sent + 1000).toNat ≤ t.lt.now.toNat) ∧
      (s.twinUp n = true → (s.twin.state = .paired ∨ s.twin.state = .degraded) →
        (r.table = none → Gives (.twinRecordReceive n (.restoreUnit p i data poison)) s (s.setPart p { x with
          sec := { x.sec with rest := some { r with sent := due, early := r.early ++ [(i, data, poison)] } } })) ∧
        (∃ t, Gives (.twinRecordReceive n (.restoreTable p data true)) s t ∧ (t.part p).sec.rest = none ∧
          (t.part p).sec.restoreStatus = 0x0D ∧ (t.part p).sec.verify = x.sec.verify ∧ t.mem = s.mem)) ∧
      (r.record ≠ [] → r.table.isSome = true → r.written.length = r.units →
        ∃ t, Gives (.restoreComplete p) s t ∧ (t.part p).sec.rest = none ∧ (t.part p).sec.restoreStatus = 0 ∧
          (t.part p).sec.commitStep = BitVec.ofNat 64 (memNat r.record 16 8) ∧
          (t.part p).sec.commitGen = BitVec.ofNat 64 (memNat r.record 8 8) ∧
          (t.part p).sec.heldB = some (r.slotB != r.older) ∧ (t.part p).sec.heldKnown = true ∧
          (t.part p).sec.verify = (if x.sec.verifyReplay then 1 else 2) ∧ t.mem = s.mem ∧
          (x.sec.gen = none → (t.part p).sec.phase = (if x.sec.verifyReplay then .awaitReplay else .idle)) ∧
          (x.sec.gen ≠ none → (t.part p).sec.phase = x.sec.phase)))

/-- The loader's requests. While it is busy each is refused and counted. VERIFY and PERSIST check the staged image, APPLY also that
every affected partition is quiesced; a failed check ends the request with its status and applies and writes nothing. A change point
ends with the image applied; PERSIST writes the image to the slot with the lower SLOT_GEN, or the one that is not valid, and to slot A when
neither is valid or both hold the same (the latter is the model's choice, log entry 31), whose record is zero meanwhile, and the record,
with a SLOT_GEN above the highest and the SHA-384 of the image, once it has been read back (R350, R351, R353, R355). The affected partitions hold
debug level D0 from the start of the change point (R355, R364; DEDUCED, log entry 37). -/
def Obligations.LoaderRequests : Prop :=
  ∀ (s : State),
    let l := s.loader
    let r := s.checkImage l.staging (some l.stageLen.toNat)
    let c := takeImage s.fuses l.staging
    let m := s.consist.affected c
    let ends (op : BitVec 4) (status : BitVec 8) (t : State) : Prop :=
      t = { s with loader := { l.cycled r with state := 0, lastOp := op, lastStatus := status } }
    let gen (x : FlashSlot) : Nat := if x.valid then x.gen.toNat else 0
    (l.state ≠ 0 → ∀ i : Instr, (i = .clVerify ∨ i = .clApply ∨ i = .clPersist) →
      Gives i s { s with loader := { l with busyCnt := l.busyCnt + 1 } }) ∧
    (l.state = 0 → Gives .clVerify s { s with loader := { l with state := 1, lastOp := 2 } }) ∧
    (l.state = 1 → ∃ t, Gives .consistChecksComplete s t ∧ ends 2 r.status t) ∧
    (l.state = 0 → r.status ≠ 0 → (∃ t, Gives .clApply s t ∧ ends 3 r.status t) ∧ ∃ t, Gives .clPersist s t ∧ ends 4 r.status t) ∧
    (l.state = 0 → r.status = 0 → (∃ p : Nat, p < 16 ∧ m.getLsbD p = true ∧ (s.part p).quiesced = false) →
      ∃ t, Gives .clApply s t ∧ ends 3 1 t) ∧
    (l.state = 0 → r.status = 0 → (∀ p : Nat, p < 16 → m.getLsbD p = true → (s.part p).quiesced = true) →
      Gives .clApply s { s with loader := { l.cycled r with state := 2, lastOp := 3, applying := some c, affected := m }
                                security := { s.security with levels := s.security.levels.filter fun x => 16 ≤ x.1 || !m.getLsbD x.1 } }) ∧
    (∀ n, l.applying = some n → ∃ t, Gives .applyComplete s t ∧ t.consist = n ∧ t.loader.state = 0 ∧ t.loader.applying = none ∧
      t.loader.appliedFrom = 3 ∧ t.loader.lastOp = 3 ∧ t.loader.lastStatus = 0 ∧ t.twin.dev = n.twinDev ∧
      t.lt.masterDev = n.masterDev ∧ t.lt.backupDev = n.backupDev) ∧
    (l.state = 0 → r.status = 0 → ∃ t, Gives .clPersist s t ∧ t.loader.state = 3 ∧ t.loader.lastOp = 4 ∧ t.mem = s.mem ∧
      (gen l.slotA < gen l.slotB → t.loader.slotA = { FlashSlot.empty with image := stagedImage l } ∧ t.loader.slotB = l.slotB ∧
        t.loader.persistB = false) ∧
      (gen l.slotB < gen l.slotA ∨ (l.slotA.valid = true ∧ l.slotB.valid = false) →
        t.loader.slotB = { FlashSlot.empty with image := stagedImage l } ∧ t.loader.slotA = l.slotA ∧ t.loader.persistB = true) ∧
      (l.slotA.valid = l.slotB.valid → gen l.slotA = gen l.slotB →
        t.loader.slotA = { FlashSlot.empty with image := stagedImage l } ∧ t.loader.slotB = l.slotB ∧ t.loader.persistB = false)) ∧
    (l.state = 3 →
      Gives (.persistComplete false) s { s with loader := { l with state := 0, lastOp := 4, lastStatus := 0x0D } } ∧
      ∃ t, Gives (.persistComplete true) s t ∧ t.loader.state = 0 ∧ t.loader.lastStatus = 0 ∧
        (l.persistB = false → t.loader.slotA.valid = true ∧ t.loader.slotB = l.slotB ∧ t.loader.slotA.bytes.toNat = imageBytes l.staging ∧
          t.loader.slotA.digest = sha384 (memRead l.staging 0 (imageBytes l.staging)) ∧
          t.loader.slotA.gen = BitVec.ofNat 63 (max (gen l.slotA) (gen l.slotB) + 1) ∧
          (∀ a : Nat, a < imageBytes l.staging → memGet t.loader.slotA.image a = memGet l.staging a)) ∧
        (l.persistB = true → t.loader.slotB.valid = true ∧ t.loader.slotA = l.slotA ∧
          t.loader.slotB.gen = BitVec.ofNat 63 (max (gen l.slotA) (gen l.slotB) + 1)))

/-- Start-up. RESET_N low for 100 µs or more resets the device: the queue of commands, the fuses, the flash slots and the hours are kept,
far memory is kept when its supply was, and so is near memory, which stage 2 writes to zero; scratch reads 0, and the other registers said here are
as in `State.reset` (what the spec does not list of this is the model's choice: log entries 3, 32); a shorter one may do so or nothing (the choice is
a free value, log entry 2); its fall ends THERMTRIP_N and DEVICE_ERR_N (R384). RESET_N's rise starts stage 1, which, while both supplies
are there, makes the fuse map, the own count and I3C valid; stages 2 and 3
write near and far memory to zero; stage 4 applies the boot configuration when no flash slot is valid, and the first margin plan
starts (R352, R356 to R358, Table 15.9). A command whose event cannot happen, or has no place, in the state changes nothing (log entry 8). -/
def Obligations.StartUpStages : Prop :=
  ∀ (s : State) (us : Nat),
    (100 ≤ us → s.power.state ≠ .off → s.start.farZero = true → ∃ t, Gives (.resetNAssert us) s t ∧
      t.start.resetLow = true ∧ t.start.fuses = false ∧ t.start.farZero = true ∧ t.fuses = s.fuses ∧ t.pending = s.pending ∧
      t.loader.slotA = s.loader.slotA ∧ t.loader.slotB = s.loader.slotB ∧ t.cores = [] ∧ t.parts = [] ∧ t.ports = [] ∧
      t.lt = LineTime.reset ∧ t.consist = Consist.boot ∧ t.power.hours = s.power.hoursNow s.lt.own ∧
      t.board.thermtrip = false ∧ t.board.deviceErr = false ∧
      ∀ a : Nat, memGet t.mem a = if inNear a ∨ inFar a then memGet s.mem a else 0) ∧
    (us < 100 → ∃ t, Gives (.resetNAssert us) s t ∧ (t = s.pinsClear.tick ∨ t = s.tick.deviceReset s.lostSupply)) ∧
    (s.start.resetLow = true → ∃ t, Gives .resetNRise s t ∧ t.start.resetLow = false ∧ t.power.state = .run ∧ t.mem = s.mem ∧
      t.cores = s.cores ∧ t.parts = s.parts) ∧
    (s.start.resetLow = false → Gives .resetNRise s s) ∧
    ((s.start.resetLow = true ∨ s.start.fuses = true ∨ s.power.state = .off ∨ s.board.vaux12 = false) → Gives .fusesLoaded s s) ∧
    (s.start.resetLow = false → s.start.fuses = false → s.power.state ≠ .off → s.board.vaux12 = true → ∃ t, Gives .fusesLoaded s t ∧ t.start.fuses = true ∧
      t.board.mgmtReady = true ∧ t.lt.own = 0 ∧ t.lt.ownRuns = true ∧ t.fabric.linkUp = List.range 13 ∧
      ∀ c : Nat, c < 288 → (t.core c).role =
        if s.fuses.enabled.getLsbD c then .enabled else if s.fuses.spare.getLsbD c then .spare else .disabled) ∧
    (s.start.fuses = true → s.start.nearZero = false → ∃ t, Gives .nearMemoryZeroDone s t ∧ t.start.nearZero = true ∧
      ∀ a : Nat, memGet t.mem a = if inNear a then 0 else memGet s.mem a) ∧
    (s.start.fuses = true → s.start.farZero = false → ∃ t, Gives .farMemoryZeroDone s t ∧ t.start.farZero = true ∧
      ∀ a : Nat, memGet t.mem a = if inFar a then 0 else memGet s.mem a) ∧
    (s.start.fuses = true → s.start.applied = false → s.loader.slotA.valid = false → s.loader.slotB.valid = false →
      ∃ t, Gives .bootImageApply s t ∧ t.start.applied = true ∧ t.consist = Consist.boot ∧ t.loader.appliedFrom = 0 ∧
        t.loader.bootFallback = true ∧ t.loader.lastOp = 1 ∧ t.power.planning = true ∧ t.power.cause = 0)

/-- Steps between power states. The host's PWR_CTRL and a timetable entry whose stagger has passed ask for one; a code that Table
16.5 does not list, and a step to a lower state with a partition that runs, is refused with WRONG_STATE and counted. A step taken is
the target at once, and the state when it completes: Run and Idle keep everything; Drowse loses the tile registers, the accumulators
and L1 of the cores. The securing and debug state of the device refuses nothing here (R368, Tables 16.5 to 16.7). Margin plans.
AGE_CTRL.PLAN, the hours and start-up start one, unless one runs or the device is Off; in Hold it waits. A plan takes the highest
clock, not above the one it tries first, whose voltage a step of VCORE up to 850 mV reaches; with none the device is at its end of
margin, at 720 MHz and 850 mV, and a later plan tries 720 MHz only; a changed clock is counted and logged with its clock and voltage; the
worst slack is that of its die and monitor, and no die's is below it (R371 to R374). The slacks of the other dies are free values (log
entry 2). A command whose event cannot happen, or has no place, in the state changes nothing (log entry 8). -/
def Obligations.PowerStepsAndPlans : Prop :=
  (∀ (s : State) (e : Fin 256),
    let x := s.power
    let refused (t : State) : Prop := t.power = { x with lastStatus := 1, cnt := t.power.cnt } ∧
      tabGet 0 t.power.cnt 4 = tabGet 0 x.cnt 4 + 1
    let open_ := s.security.lifecycle = .operational ∧ s.debugLevel = 0 ∧ s.keepsReplica = false
    let quiet := ∀ p : Nat, p < 16 → ((s.part p).state = .absent ∨ (s.part p).state = .idle ∨ (s.part p).state = .ready) ∧
      (s.part p).sec.gen = none ∧ (s.part p).sec.rest = none
    (x.state = .off → Gives .pwrGo s s) ∧
    (x.state ≠ .off → 5 ≤ x.ctrlTarget.toNat → ∃ t, Gives .pwrGo s t ∧ refused t ∧ { t with power := x } = s) ∧
    (x.state = .run → x.target = .run → x.ctrlTarget = 2 → (∃ p : Nat, p < 16 ∧ (s.part p).state = .running) →
      ∃ t, Gives .pwrGo s t ∧ refused t ∧ { t with power := x } = s) ∧
    (x.state = .run → x.target = .run → open_ → quiet → (x.ctrlTarget = 1 ∨ x.ctrlTarget = 2) →
      Gives .pwrGo s { s with power := { x with lastStatus := 0, target := if x.ctrlTarget = 1 then .idle else .drowse } }) ∧
    (∀ due, (s.ttEntry e).stepDue = some due → (s.ttEntry e).armed = true → s.dueBefore e = false → s.loader.applying = none →
      s.lt.state ≠ .seeking → (e.val < 192 ∨ s.lt.state ≠ .unlocked) → x.state = .run → x.target = .run → open_ → quiet →
      (s.ttEntry e).arg.toNat % 16 = 1 →
      ∃ t, Gives (.powerStep e) s t ∧ due.toNat ≤ t.lt.now.toNat ∧ t.power.target = .idle ∧ t.power.state = .run ∧
        (t.ttEntry e).stepDue = none ∧ (t.ttEntry e).status = 0 ∧ (t.ttEntry e).armed = ((s.ttEntry e).period != 0) ∧
        tabGet 0 t.lt.cnt 0 = tabGet 0 s.lt.cnt 0 + 1 ∧ t.parts = s.parts) ∧
    ((s.ttEntry e).stepDue = none → Gives (.powerStep e) s s) ∧
    (x.state = x.target → Gives .powerStepComplete s s) ∧
    (x.state = .run → x.target = .idle → x.byI3c = false →
      Gives .powerStepComplete s { s with power := { x.settled s.lt.own with state := .idle } }) ∧
    (x.state = .run → x.target = .drowse → x.byI3c = false → ∃ t, Gives .powerStepComplete s t ∧
      t.power = { x.settled s.lt.own with state := .drowse } ∧
      ∀ c : Nat, c < 288 → (s.core c).works = true → (t.core c).tiles = [] ∧ (t.core c).powered = 0 ∧ (t.core c).mx.acc = [] ∧
        (t.core c).l1 = L1.empty ∧ (t.core c).scalars = (s.core c).scalars ∧ (t.core c).descs = (s.core c).descs)) ∧
  (∀ (s : State) (table : List Slack) (die : Fin 8) (mon : BitVec 6) (worst : BitVec 16),
    let plan : Instr := .marginPlanComplete table die mon worst
    let x := s.power
    let top := if x.eom then 720 else if x.cause = 0 then 800 else x.mhz.toNat
    let fits (f v : Nat) : Prop := ∃ y, table.find? (fun z => z.mhz == f) = some y ∧ max 700 ((y.mv + 4) / 5 * 5) = v ∧ v ≤ 850
    let newest (t : State) : EvtEntry := tabGet EvtEntry.zero t.twin.log s.twin.evtNext.toNat
    (x.state = .off ∨ x.planning = true → Gives .marginPlanStart s s) ∧
    (x.state = .hold → x.planning = false → Gives .marginPlanStart s { s with power := { x with planDue := true } }) ∧
    ((x.state = .run ∨ x.state = .idle ∨ x.state = .drowse) → x.planning = false →
      Gives .marginPlanStart s { s with power := { x with planning := true, cause := 2 } }) ∧
    (s.start.fuses = true → (x.state = .run ∨ x.state = .idle ∨ x.state = .drowse) → x.planning = false →
      ∃ t, Gives .ageHoursPlan s t ∧ t.power = { x with planAt := x.planAt + 1000, planning := true, cause := 1 } ∧
        { t with power := x, lt := s.lt } = s ∧ t.lt = (s.pass s.toHoursPlan).lt ∧
        (s.lt.ownRuns = true → x.hours.toNat ≤ x.planAt.toNat → (x.planAt.toNat - x.hours.toNat) * 3600000000000 < 2 ^ 64 →
          x.hours.toNat * 3600000000000 + x.spent s.lt.own ≤ x.planAt.toNat * 3600000000000 → t.power.hoursNow t.lt.own = x.planAt)) ∧
    (x.planning = false → Gives plan s s) ∧
    (x.planning = true → ∀ f v : Nat, 720 ≤ f → f ≤ top → top ≤ 800 → f % 10 = 0 → top % 10 = 0 → fits f v →
      (∀ h u : Nat, f < h → h ≤ top → h % 10 = 0 → ¬ fits h u) →
      ∃ t, Gives plan s t ∧ t.power.mhz.toNat = f ∧ t.power.vcoreMv.toNat = v ∧
        t.power.planning = false ∧ t.power.eom = x.eom ∧ t.power.slack = worst ∧ t.mem = s.mem ∧ t.parts = s.parts ∧
        tabGet 0 t.power.dieSlack die = mon ++ worst ∧
        (∀ d : Nat, d < 8 → worst.toInt ≤ ((tabGet 0 t.power.dieSlack d).setWidth 16).toInt) ∧
        (x.mhz.toNat = f → t.twin.log = s.twin.log ∧ tabGet 0 t.power.cnt 1 = tabGet 0 x.cnt 1) ∧
        (x.mhz.toNat ≠ f → tabGet 0 t.power.cnt 1 = tabGet 0 x.cnt 1 + 1 ∧ (newest t).kind = 7 ∧ (newest t).status = 0 ∧
          (newest t).info.toNat = f + 65536 * v)) ∧
    (x.planning = true → x.eom = false → 720 ≤ top → top ≤ 800 → top % 10 = 0 →
      (∀ h u : Nat, 720 ≤ h → h ≤ top → h % 10 = 0 → ¬ fits h u) →
      ∃ t, Gives plan s t ∧ t.power.mhz = 720 ∧ t.power.vcoreMv = 850 ∧ t.power.eom = true ∧
        (newest t).kind = 7 ∧ (newest t).status = 0x12 ∧ (newest t).info.toNat = 720 + 65536 * 850))

/-- The cap, temperature and failures. The peak is the highest 1 ms average, which never exceeds CAP_W, the 100 ms average, of at most 3,500 W, and the input voltage
are as measured (R380; that a larger operand is read as the limit is the model's choice, log entry 35); the withheld fraction is as judged,
and rises while the 1 ms average lies above the cap, or above 2,000 W with PWRBRK_N
low (that it rises by at least 1 is the model's choice, log entry 35); the temperature's fraction grows by 1 each 100 µs from a reading of
95 °C until one below 93 °C, and does not grow after it. PWRBRK_N only changes its pin. A sensor at 110 °C puts the device
Off, with TRIPPED and THERMTRIP; a supply that fails puts it Off without them (that this clears TRIPPED is the model's choice, log entry 35);
at 48 V nothing but fuses, flash and the management complex is kept; VAUX12, in Off too, stops that as well. Before stage 1 has ended, and
without the supply already, a failure is not detected and nothing changes (log entry 8) (R25, R367, R375 to R377, R382, R384). -/
def Obligations.CapAndFailures : Prop :=
  ∀ (s : State) (avg1 avg100 mv : BitVec 16) (w : BitVec 8) (die : BitVec 4) (temp : BitVec 12) (low : Bool),
    let x := s.power
    let measured := s.start.fuses = true ∧ x.state ≠ .off
    let off (t : State) (trip : Bool) : Prop := t.power.state = .off ∧ t.power.target = .off ∧ t.power.tripped = trip ∧ t.cores = [] ∧
      t.parts = [] ∧ t.mem = [] ∧ t.fuses = s.fuses ∧ t.loader.slotA = s.loader.slotA ∧ t.loader.slotB = s.loader.slotB ∧
      t.security.lifecycle = s.security.lifecycle ∧ t.security.keys = s.security.keys ∧ t.pending = s.pending
    let cap := if s.board.pwrbrkLow then min x.capW.toNat 2000 else x.capW.toNat
    (measured → ∃ t, Gives (.capUpdate avg1 avg100 mv w) s t ∧ t.power.avgW.toNat = min 3500 avg100.toNat ∧ t.power.in10mv = mv ∧
      (avg1.toNat ≤ cap → t.power.withhold = w) ∧
      (cap < avg1.toNat → t.power.withhold.toNat = max w.toNat (min 255 (x.withhold.toNat + 1))) ∧
      t.power.peakW.toNat = max x.peakW.toNat (min avg1.toNat x.capW.toNat) ∧ t.lt = (s.pass 10000).lt ∧ t.mem = s.mem ∧ t.cores = s.cores ∧ t.parts = s.parts) ∧
    (measured → ∃ t, Gives (.thermalWithholdStep die temp) s t ∧ t.power.hotDie = die ∧ t.power.tjMax = temp ∧
      t.lt = (s.pass 100000).lt ∧ t.cores = s.cores ∧
      ((950 ≤ temp.toNat ∨ (x.rising = true ∧ 930 ≤ temp.toNat)) →
        t.power.rising = true ∧ t.power.thermalW.toNat = min 255 (x.thermalW.toNat + 1)) ∧
      ((temp.toNat < 930 ∨ (x.rising = false ∧ temp.toNat < 950)) →
        t.power.rising = false ∧ t.power.thermalW.toNat ≤ x.thermalW.toNat)) ∧
    (¬ measured → Gives (.capUpdate avg1 avg100 mv w) s s ∧ Gives (.thermalWithholdStep die temp) s s) ∧
    Gives (.pwrbrkNChange low) s { s with board := { s.board with pwrbrkLow := low } } ∧
    (s.start.detects = true → x.state ≠ .off →
      (1100 ≤ temp.toNat → ∃ t, Gives (.thermalTrip die temp) s t ∧ off t true ∧ t.board.thermtrip = true) ∧
      (temp.toNat < 1100 → Gives (.thermalTrip die temp) s s) ∧
      (∃ t, Gives .vin48Fail s t ∧ off t false ∧ t.board.thermtrip = s.board.thermtrip) ∧
      (∃ t, Gives .refclkFail s t ∧ off t false ∧ t.board.thermtrip = s.board.thermtrip)) ∧
    ((s.start.detects = false ∨ x.state = .off) → Gives (.thermalTrip die temp) s s ∧ Gives .vin48Fail s s ∧ Gives .refclkFail s s) ∧
    ((s.board.vaux12 = false ∨ (s.start.detects = false ∧ x.state ≠ .off)) → Gives .vaux12Fail s s) ∧
    (s.board.vaux12 = true → (s.start.detects = true ∨ x.state = .off) → ∃ t, Gives .vaux12Fail s t ∧ t.power.state = .off ∧ t.board.vaux12 = false ∧
      t.board.mgmtReady = false ∧ t.mem = [] ∧ t.cores = [])

/-- Keys and attestation. A key slot is written once, in Blank or Provisioned, and revoked for good in any state but Retired;
outside Blank the last consist key stays. ATT_GO takes the nonce, and is refused in Blank and Retired; the report is signed over the
device as it is when it completes; with the attestation key destroyed since there is none, and the request ends with WRONG_STATE (DEDUCED,
log entry 36: R363 says that Retired makes none) (R361, R363, Table 16.3). The private
key and the secret number of a signature are free values (log entry 2). -/
def Obligations.KeysAndAttestation : Prop :=
  ∀ (s : State),
    let x := s.security
    let n := x.keySlot.toNat
    let k := tabGet KeySlot.empty x.keys n
    let ends (c : BitVec 8) : State := { s with security := { x with lastStatus := c } }
    let early := x.lifecycle = .blank ∨ x.lifecycle = .provisioned
    (n ≤ 4 → early → k.provisioned = false → k.revoked = false → Gives .keyWrite s { s with
      security := { x with lastStatus := 0, keys := tabPut x.keys n ⟨words768 x.keyData, true, false⟩ } }) ∧
    (n ≤ 4 → (¬ early ∨ k.provisioned = true ∨ k.revoked = true) → Gives .keyWrite s (ends 1)) ∧
    (n ≤ 4 → x.lifecycle ≠ .retired → (x.lifecycle = .blank ∨ n = 4 ∨ ∃ m : Nat, m < 4 ∧ m ≠ n ∧ x.keyIn m = true) →
      Gives .keyRevoke s { s with security := { x with lastStatus := 0, keys := tabPut x.keys n { k with revoked := true } } }) ∧
    (n < 4 → x.lifecycle ≠ .blank → x.keyIn n = true → (∀ m : Nat, m < 4 → m ≠ n → x.keyIn m = false) →
      Gives .keyRevoke s (ends 1)) ∧
    (n ≤ 4 → x.lifecycle = .retired → Gives .keyRevoke s (ends 1)) ∧
    ((x.lifecycle = .blank ∨ x.lifecycle = .retired) → Gives .attGo s (ends 1)) ∧
    (x.lifecycle ≠ .blank → x.lifecycle ≠ .retired → x.attBusy = false →
      ∃ t, Gives .attGo s t ∧ t.security.attBusy = true ∧
        t.security.attNonce.toNat = leNat ((List.range 4).flatMap fun i => leBytes 8 (tabGet 0 x.nonce i).toNat) ∧
        { t with security := { t.security with attBusy := false, attNonce := x.attNonce } } = s) ∧
    (x.attBusy = true → x.hasAttKey = false → Gives .attestationComplete s { s with
      security := { x with attBusy := false, lastStatus := 1 } }) ∧
    (x.attBusy = true → x.hasAttKey = true → ∃ t, Gives .attestationComplete s t ∧ t.security.attBusy = false ∧
      t.security.lastStatus = 0 ∧ { t with security := x, freeCtr := s.freeCtr } = s ∧
      memNat t.security.report 0 4 = 0x54535441 ∧ memNat t.security.report 8 8 = s.fuses.serial.toNat ∧
      memNat t.security.report 16 8 = s.consist.gen.toNat ∧
      ∃ k : Nat, memRead t.security.report 160 96 =
        (leBytes 96 (ecdsaSign (Config.attestationSecret s.fuses.serial) k (memRead t.security.report 0 160)).toNat).reverse)

/-- Debug levels, challenges and wipes. A level goes down at once. A challenge is fresh (free values, log entry 2) and lasts 60 s.
In Operational a raise needs a response that the debug key has signed over this very challenge and request; a valid one starts the
wipe of the scope, which makes a partition RESETTING; when the wipe has ended, the partition is IDLE, every byte of its sidings and of its
grants in near memory and slice scratch is zero and every other byte of device memory is kept, its
keys are gone, and the level holds if Table 16.7 still gives it in the power state and in the one being entered; an invalid response is
SECURITY_DENIED. A lifecycle change that Table 16.2 does not list, and any request during a wipe,
is WRONG_STATE; in Off none of this answers (R359, R360, R364 to R366, R370). That a request during a wipe is WRONG_STATE, that a plain
write which would raise a level in Operational changes nothing, and that the level is judged once more when the wipe ends, are the model's
readings (DEDUCED, log entry 37); a command whose event cannot happen changes nothing (log entry 8). A probe at D3 halts a running core, which then issues nothing; a resumed one runs again,
faulted when it had faulted; a single step makes one attempt on one instruction, here one that the sequencer executes, and leaves
the core halted (R55 makes a halt an interruption; the rest of halt, resume and single step is a DESIGN CHOICE, log entry 38). Below D3 none has an
effect (R364). The 60 s of a challenge run on the own count (DEDUCED, log entry 37); at a fenced slice scratch is not zeroed, and the writes dropped
there are counted (R247). -/
def Obligations.DebugAndLifecycle : Prop :=
  (∀ (s : State) (scope : Fin 17) (level : BitVec 2) (p : PartId),
    let x := s.security
    let ends (c : BitVec 8) : State := { s with security := { x with dbgStatus := c } }
    let on := s.power.state ≠ .off
    (¬ on → Gives (.dbgLevelWrite scope level) s s ∧ Gives .dbgChallenge s s ∧ Gives .dbgSubmit s s ∧ Gives .lifecycleChange s s) ∧
    (on → level.toNat ≤ (s.levelOf scope).toNat → ∃ t, Gives (.dbgLevelWrite scope level) s t ∧ t.levelOf scope = level ∧
      (∀ k : Nat, k ≠ scope.val → t.levelOf k = s.levelOf k) ∧ t.mem = s.mem ∧ t.parts = s.parts) ∧
    (x.lifecycle = .operational → (s.levelOf scope).toNat < level.toNat → Gives (.dbgLevelWrite scope level) s s) ∧
    (on → x.wiping ≠ none → Gives .dbgChallenge s (ends 1)) ∧
    (on → x.wiping = none → x.lifecycle = .operational → x.reqScope.toNat = p.val → (tabGet 0 x.maxLevels p).toNat < x.reqLevel.toNat →
      Gives .dbgChallenge s (ends 0x0F)) ∧
    (on → x.wiping = none → x.reqScope = 0xFF → ∃ t, Gives .dbgChallenge s t ∧
      t.security.chalFor = some (x.reqScope, x.reqLevel) ∧ t.security.chalEnd = ⟨s.lt.own + 60000000000, true⟩ ∧
      t.security.dbgStatus = 0 ∧ t.mem = s.mem ∧ t.parts = s.parts) ∧
    (x.chalFor ≠ none → s.comes x.chalEnd = true → ∃ t, Gives .challengeExpiry s t ∧ t.security.chalFor = none ∧ t.reached x.chalEnd = true ∧
      { t with lt := s.lt, security := x } = s) ∧
    (on → x.reqScope ≠ 0xFF → x.wiping ≠ none → Gives .dbgSubmit s (ends 1)) ∧
    (on → x.reqScope ≠ 0xFF → x.wiping = none → s.responseValid = false → Gives .dbgSubmit s (ends 0x0F)) ∧
    (on → x.reqScope.toNat = p.val → x.wiping = none → s.responseValid = true → x.lifecycle = .operational → s.isAbsent p = false →
      x.reqLevel.toNat = 1 → (tabGet 0 x.maxLevels p).toNat = 1 → s.debugLevel = 0 → ∃ t, Gives .dbgSubmit s t ∧
        t.security.wiping = some (.level p.val 1) ∧ t.security.wipeLeft = [p.val] ∧ (t.part p).state = .resetting ∧
        (t.part p).wiping = true ∧ (t.part p).parked = none ∧ t.levelOf p = s.levelOf p) ∧
    (x.wiping = some (.level p.val level) → x.wipeLeft = [p.val] → s.wipeEnds p = true → (s.part p).state = .absent →
      s.consist.grants = [] → ∃ t, Gives (.wipeComplete p.val) s t ∧ t.security.wiping = none ∧
        t.security.dbgStatus = s.raiseCode level.toNat ∧ t.levelOf p = (if s.raiseCode level.toNat = 0 then level else s.levelOf p) ∧
        (t.part p).key = none ∧ (t.part p).parkedKey = none ∧ (∀ i : Nat, i < 2 ^ 30 → t.sidingsByte p i = 0) ∧
        (∀ a : Nat, memGet t.mem a = if 0x02DC00000000 + p.val * 2 ^ 30 ≤ a ∧ a < 0x02DC00000000 + (p.val + 1) * 2 ^ 30 then 0
          else memGet s.mem a)) ∧
    (x.wiping = some (.level p.val level) → x.wipeLeft = [p.val] → (s.part p).state = .resetting → (s.part p).wiping = true →
      s.resetDone p = true →
      let zeroed (a : Nat) : Prop := (0x02DC00000000 + p.val * 2 ^ 30 ≤ a ∧ a < 0x02DC00000000 + (p.val + 1) * 2 ^ 30) ∨
        ∃ g ∈ s.consist.grants, g.part = p.val ∧ (inNear g.base = true ∨ inScratch g.base = true) ∧ g.base ≤ a ∧
          a < g.base + g.units * 2 ^ 21 ∧ (inScratch g.base = true → s.sliceFenced (g.base + (a - g.base) / 2 ^ 21 * 2 ^ 21) = false)
      ∃ t, Gives (.wipeComplete p.val) s t ∧ t.security.wiping = none ∧ t.security.wipeLeft = [] ∧
        t.security.dbgStatus = s.raiseCode level.toNat ∧ t.levelOf p = (if s.raiseCode level.toNat = 0 then level else s.levelOf p) ∧
        (t.part p).state = .idle ∧ (t.part p).wiping = false ∧ (t.part p).bound = none ∧ (t.part p).parked = none ∧
        (t.part p).key = none ∧ (t.part p).parkedKey = none ∧ (∀ i : Nat, i < 2 ^ 30 → t.sidingsByte p i = 0) ∧
        (∀ a : Nat, zeroed a → memGet t.mem a = 0) ∧ (∀ a : Nat, ¬ zeroed a → memGet t.mem a = memGet s.mem a)) ∧
    (x.wiping = none → Gives (.wipeComplete p.val) s s) ∧
    (x.reqScope ≠ 0xFF → Gives .lifecycleChange s s) ∧
    (on → x.reqScope = 0xFF → x.wiping = none → x.lifecycle = .provisioned → x.reqLevel = 2 → ∃ t, Gives .lifecycleChange s t ∧
      t.security.lifecycle = .operational ∧ t.security.keys = x.keys ∧ t.mem = s.mem ∧ t.parts = s.parts ∧
      ∀ k : Nat, k < 17 → t.levelOf k = 0) ∧
    (on → x.reqScope = 0xFF → x.wiping = none → x.lifecycle = .blank → x.reqLevel = 2 → Gives .lifecycleChange s (ends 1)) ∧
    (on → x.reqScope = 0xFF → x.wiping = none → x.lifecycle = .operational → x.reqLevel = 4 → s.responseValid = false →
      Gives .lifecycleChange s (ends 0x0F))) ∧
  (∀ (s : State) (c : CoreId) (d a b : SReg) (n : Nat),
    let k := s.core c
    let i : GOp := ⟨{ pred := 0, neg := false }, .alu .add d a b⟩
    (s.underD3 c = true → k.halted = false → k.kernel ≠ none → k.run = .running → k.tmq = [] →
      Gives (.debugHalt c) s (s.setCore c { k with halted := true, run := .debugHalt })) ∧
    (s.underD3 c = true → s.probeHalted c = true →
      Gives (.debugResume c) s (s.setCore c { k with halted := false, run := if k.fault.valid then .faulted else .running })) ∧
    (s.underD3 c = true → s.probeHalted c = true → k.run = .debugHalt → k.fault.valid = false → k.kernel ≠ none → k.aborting = false →
      k.seqBusy = false → k.platform.head? = some ⟨n, i⟩ → k.pendS = [] →
      ∃ t, Gives (.debugSingleStep c i) s t ∧ t.core c = { k with cycles := k.cycles + 1, platform := k.platform.drop 1 }.setReg d (k.reg a + k.reg b) ∧
        { t with cores := s.cores } = s) ∧
    (s.underD3 c = false → Gives (.debugHalt c) s s ∧ Gives (.debugResume c) s s ∧ Gives (.debugSingleStep c i) s s))

/-- Management over I3C. An address is assigned by ENTDAA, or by SETDASA sent to the static address; without one the device takes no
private transfer. A read of an identity register returns it, one of a register that the bus may not read returns zeros, and
in Off PWR_CTRL is not answered; the one write with an effect is that of PWR_CTRL, which sets the target and the cap, held between
2,000 W and 3,500 W, and steps only with GO; before stage 1 has ended nothing answers (R375, R385 to R387; that a second assignment takes
the place of the first is a DESIGN CHOICE, log entry 39). The test port, while
VAUX12 is present. IDCODE names the grade; BYPASS, and each code of no other instruction, is one bit; SAMPLE/PRELOAD and EXTEST capture
the pins and load the boundary cells only with the device's debug level at D3, and are a BYPASS otherwise, which keeps the bit that was
shifted last; in EXTEST the cells drive the signals that the device drives, each from a cell of its own (the number of cells, and their
places, which are free values, are the model's: log entries 2, 39). A DBGACC read of IDENT is open to every level, in
Off too; a
write through it reaches only the response to a challenge (R364, R365, R388, Table 17.6; which bit of the DBGACC word is the write flag and where the
offset stands is a DESIGN CHOICE, log entry 38: Table 17.3 gives widths). The functions of a host port.
Configuration requests are answered once stage 5 has ended and the host port is UP. NumVFs is taken while SR-IOV is disabled; MSI-X
is enabled by function; a vector that is unmasked is sent when it is pending, and a masked one waits (R202, R205, R206; what R202 leaves to
PCIe, masking, pending and NumVFs, is PRESUMED, log entry 19).
A command whose event cannot happen, or has no place, in the state changes nothing (log entry 8). -/
def Obligations.BoardAndHosts : Prop :=
  (∀ (s : State) (off : BitVec 32) (v : Word) (addr other : BitVec 7),
    let b := s.board
    let reads (x : Option Word) : State := { s with board := { b with i3cData := x } }
    let static : BitVec 7 := 0x58 + b.mgmtId.setWidth 7
    ((b.mgmtReady = false ∨ b.dynAddr = none) → Gives (.i3cReadRequest off) s s ∧ Gives (.i3cWriteRequest off v) s s) ∧
    (b.mgmtReady = false → Gives (.i3cAddressAssign none addr) s s ∧ Gives (.i3cAddressAssign (some other) addr) s s) ∧
    (b.mgmtReady = true →
      Gives (.i3cAddressAssign none addr) s { s with board := { b with dynAddr := some addr } } ∧
      Gives (.i3cAddressAssign (some static) addr) s { s with board := { b with dynAddr := some addr } } ∧
      (other ≠ static → Gives (.i3cAddressAssign (some other) addr) s s)) ∧
    (b.mgmtReady = true → b.dynAddr ≠ none →
      (off.toNat < 0x00100000 → Gives (.i3cReadRequest off) s (reads (some (s.bar0Read off.toNat)))) ∧
      (0x00100000 ≤ off.toNat → off.toNat < 0x0A000000 → s.power.state ≠ .off → Gives (.i3cReadRequest off) s (reads (some 0))) ∧
      (s.power.state = .off → off = 0x0A000008 → Gives (.i3cReadRequest off) s (reads none) ∧ Gives (.i3cWriteRequest off v) s s) ∧
      (off ≠ 0x0A000008 → Gives (.i3cWriteRequest off v) s s) ∧
      (s.power.state ≠ .off → v.getLsbD 4 = false → Gives (.i3cWriteRequest 0x0A000008 v) s { s with power := { s.power with
        capW := BitVec.ofNat 12 (min 3500 (max 2000 (v.toNat / 2 ^ 32 % 2 ^ 12))), ctrlTarget := BitVec.ofNat 4 (v.toNat % 16) } }))) ∧
  (∀ (s : State) (bits : BitVec 32) (code : BitVec 8) (tdi : Bool) (w : BitVec 104), s.board.vaux12 = true →
    let b := s.board
    let id : BitVec 32 := if s.fuses.gradeB then 0x07240BB7 else 0x07256BB7
    Gives .idcode s { s with board := { b with jtagIr := 0x01, dbgData := id.setWidth 64 } } ∧
    (code ∉ [0x00, 0x01, 0x02, 0x20] → Gives (.bypass code tdi) s { s with board := { b with jtagIr := code, bypassBit := tdi } }) ∧
    (s.levelOf 16 = 3 → ∃ t, Gives (.extest bits) s t ∧
      t = { s.tick with board := { b with jtagIr := 0x00, boundary := bits, scanOut := s.captured } } ∧
      (∀ n ∈ [7, 12, 13, 14, 15], t.pin n = some (bits.getLsbD (cellOf n)))) ∧
    (∀ m n : Nat, m < 16 → n < 16 → cellOf m < 32 ∧ (cellOf m = cellOf n → m = n)) ∧
    (s.levelOf 16 ≠ 3 → Gives (.extest bits) s { s.tick with board := { b with jtagIr := 0x00, bypassBit := bits.getLsbD 31 } }) ∧
    (s.levelOf 16 = 3 → Gives (.samplePreload bits) s
      { s.tick with board := { b with jtagIr := 0x02, boundary := bits, scanOut := s.captured } }) ∧
    (s.levelOf 16 ≠ 3 → Gives (.samplePreload bits) s { s.tick with board := { b with jtagIr := 0x02, bypassBit := bits.getLsbD 31 } }) ∧
    (w.toNat / 2 ^ 64 = 0 →
      Gives (.dbgacc w) s { s with board := { b with jtagIr := 0x20, dbgData := s.bar0Read 0 } }) ∧
    (2 ^ 39 ≤ w.toNat / 2 ^ 64 → w.toNat / 2 ^ 64 % 2 ^ 39 < 0x10000000 →
      (s.bar0Up = false ∨ w.toNat / 2 ^ 64 % 2 ^ 39 < 0x0B000340 ∨ 0x0B0003A0 ≤ w.toNat / 2 ^ 64 % 2 ^ 39) →
      Gives (.dbgacc w) s { s with board := { b with jtagIr := 0x20 } })) ∧
  (∀ (s : State) (hp : HostPort) (r : CfgReq) (n vector : Nat) (enable maskAll : Bool),
    let x := s.pcie hp
    let up := s.start.applied = true ∧ (s.port (26 + hp.val)).state = .up
    (¬ up → Gives (.configurationRequest hp r) s s) ∧
    (up → x.sriov = false → n ≤ 16 → Gives (.configurationRequest hp (.sriov true n)) s
      (s.modPcie hp fun x => { x with sriov := true, numVFs := n })) ∧
    (up → x.pending = [] → ∃ t, Gives (.configurationRequest hp (.msix 0 enable maskAll)) s t ∧
      setHas (t.pcie hp).msixOn 0 = enable ∧ setHas (t.pcie hp).maskAll 0 = maskAll ∧ t.intrs = s.intrs ∧
      ∀ f : Nat, f ≠ 0 → setHas (t.pcie hp).msixOn f = setHas x.msixOn f) ∧
    (vector < 256 → x.pending = [] → ∃ t, Gives (.msixTableWrite hp 0 vector maskAll) s t ∧
      setHas (t.pcie hp).unmasked vector = !maskAll ∧ t.intrs = s.intrs ∧
      ∀ f : Nat, f ≠ vector → setHas (t.pcie hp).unmasked f = setHas x.unmasked f) ∧
    (vector < 256 → x.pending = [vector] → setHas x.msixOn 0 = true → setHas x.maskAll 0 = false →
      ∃ t, Gives (.msixTableWrite hp 0 vector false) s t ∧ t.intrs = s.intrs ++ [⟨hp, 0, vector⟩] ∧ (t.pcie hp).pending = []) ∧
    (256 ≤ vector → Gives (.msixTableWrite hp 0 vector maskAll) s s))

/-- The device right after reset: the queue is empty; every partition is ABSENT with its rings disabled; no core runs, and its
scalars and predicates are 0, but p0; no accumulator, no tile and no baton holds anything; every port is out of use; Line Time is
SEEKING at 0; there is no pair; the cap is 3,500 W, the clock 720 MHz and VCORE 850 mV; no key, level or challenge is set. The fuse map
is a legal one of grade A with 256 enabled cores (R26), and a legal one of grade B has 240 (R27). What RAM
and registers hold without a reset value in the spec is the model's choice (log entries 3 and 4). -/
def Obligations.ResetState : Prop :=
  let r := State.reset
  r.pending = [] ∧ r.memoriesWf = true ∧ (∀ a, memGet r.mem a = 0) ∧ r.start.resetLow = true ∧
  (∀ p : Nat, (r.part p).state = .absent ∧ (r.part p).enable = false ∧ (r.part p).producer = 0 ∧ (r.part p).consumer = 0 ∧
    (r.part p).due = [] ∧ (r.part p).bound = none ∧ ∀ n, (r.part p).sync.baton n = 0) ∧
  (∀ c : Nat, (r.core c).run = .idle ∧ (r.core c).kernel = none ∧ (∀ q, (r.core c).reg q = 0) ∧
    (∀ q, (r.core c).pred q = decide (q = 0)) ∧ (∀ n, ((r.core c).tile n).cfg = TileCfg.none) ∧ (r.core c).mx.acc = [] ∧
    (r.core c).fault.valid = false) ∧
  (∀ p : Nat, (r.port p).state = .off ∧ (r.port p).role = 0) ∧
  r.lt.state = .seeking ∧ r.lt.now = 0 ∧ r.twin.state = .none ∧ r.power.capW.toNat = 3500 ∧ r.power.mhz.toNat = 720 ∧
  r.power.vcoreMv.toNat = 850 ∧ r.security.keys = [] ∧ (∀ k, r.levelOf k = 0) ∧ r.security.chalFor = none ∧
  r.bar0Read 0x0A000008 = 0x00000DAC00000000 ∧ r.fuses.legal = true ∧ r.fuses.toGradeB.legal = true ∧
  mapCount r.fuses.enabled = 256 ∧ mapCount r.fuses.toGradeB.enabled = 240

/-- The words of a well-formed kernel instruction decode to it, with every operand at every value that the encoding admits: for
either form of an immediate instruction, a 39-bit immediate in the short one; the first word fits in 64 bits, and so does the
extension word (R152 to R171, Tables 7.2 to 7.10). -/
def Obligations.KernelWordsDecode : Prop :=
  ∀ (x : Bool) (i : GOp), i.op.wf = true → (∀ b, needsExt i.op = some b → x = b) →
    (x = false → ∀ f d a imm, i.op = .immOp f d a imm → imm = (imm.setWidth 39).signExtend 64) →
    let w := encodeOp x i
    decodeOp w.1 w.2 = some i ∧ w.1 < 2 ^ 64 ∧ (w.2.isSome = x) ∧ ∀ e, w.2 = some e → e < 2 ^ 64

/-- Every step keeps near, far and scratch memory, the two host memories as the device has written them and the staging window in canonical
form: rising addresses, no entry that an unlisted address would read as (log entry 3). So two of them that read alike are equal. It says
nothing of tile registers, scale stores and L1. -/
def Obligations.MemoriesStayCanonical : Prop :=
  ∀ s t : State, s.memoriesWf = true → step s = .next t → t.memoriesWf = true
end

