-- ==== Sys2Proof/Laws/Board.lean ====
section
/-!
SUPPORT. The boundary-scan cells of the copper signals (R388): whatever the choices of Config.scanCell are, no cell is given twice.
-/
namespace Sys2Proof.Machine

/-- What is given is among what is left, each once, as long as something is left. -/
theorem giveCells_nodup (ks left : List Nat) (h : left.Nodup) (hn : ks.length ≤ left.length) :
    (giveCells ks left).Nodup ∧ (∀ x ∈ giveCells ks left, x ∈ left) ∧ (giveCells ks left).length = ks.length := by
  induction ks generalizing left with
  | nil => simp [giveCells]
  | cons k ks ih =>
    have hl : 0 < left.length := by simp at hn; omega
    have hi : k % max left.length 1 < left.length := by rw [max_eq_left hl]; exact Nat.mod_lt _ hl
    obtain ⟨nd, sub, len⟩ := ih (left.eraseIdx (k % max left.length 1)) (h.eraseIdx _)
      (by rw [List.length_eraseIdx_of_lt hi]; simp at hn; omega)
    have hd : left.getD (k % max left.length 1) 0 = left[k % max left.length 1] := by simp [List.getD, hi]
    refine ⟨List.nodup_cons.2 ⟨fun m => ?_, nd⟩, ?_, by simp [giveCells, len]⟩
    · rw [hd] at m
      have := sub _ m
      rw [← List.Nodup.erase_getElem h _ hi, List.Nodup.mem_erase_iff h] at this
      exact this.1 rfl
    · intro x hx
      rcases List.mem_cons.1 hx with rfl | hx
      · rw [hd]; exact List.getElem_mem _
      · exact List.mem_of_mem_eraseIdx (sub x hx)

/-- Each of the 16 signals has a cell of the 32, and no two share one. -/
theorem signalCells_nodup : signalCells.Nodup ∧ (∀ x ∈ signalCells, x < 32) ∧ signalCells.length = 16 := by
  obtain ⟨a, b, c⟩ := giveCells_nodup ((List.range 16).map Config.scanCell) (List.range 32) List.nodup_range (by simp)
  exact ⟨a, fun x hx => List.mem_range.1 (b x hx), by simpa [signalCells] using c⟩

end Sys2Proof.Machine
end

