-- ==== Sys2Proof/Laws/Frames.lean ====
section
/-!
SUPPORT. What the shared operations leave alone: the memories, and which part of the state each of them changes; and everything the
start of a ring's command can come to.
-/
namespace Sys2Proof.Machine

/-- The two states hold the same bytes in every memory. -/
def SameMemories (s t : State) : Prop := t.mem = s.mem ∧ t.hostOut0 = s.hostOut0 ∧ t.hostOut1 = s.hostOut1 ∧ t.loader = s.loader

theorem SameMemories.refl (s : State) : SameMemories s s := ⟨rfl, rfl, rfl, rfl⟩

theorem SameMemories.trans {s t u : State} (h : SameMemories s t) (k : SameMemories t u) : SameMemories s u :=
  ⟨k.1.trans h.1, k.2.1.trans h.2.1, k.2.2.1.trans h.2.2.1, k.2.2.2.trans h.2.2.2⟩

theorem SameMemories.wf {s t : State} (h : SameMemories s t) : t.memoriesWf = s.memoriesWf := by
  simp only [State.memoriesWf, h.1, h.2.1, h.2.2.1, h.2.2.2]

theorem State.modCore_memories (s : State) (c : Nat) (f : Core → Core) : SameMemories s (s.modCore c f) := ⟨rfl, rfl, rfl, rfl⟩
theorem State.modPart_memories (s : State) (p : Nat) (f : Part → Part) : SameMemories s (s.modPart p f) := ⟨rfl, rfl, rfl, rfl⟩
theorem State.tick_memories (s : State) : SameMemories s s.tick := ⟨rfl, rfl, rfl, rfl⟩
theorem State.ticks_memories (s : State) (n : Nat) : SameMemories s (s.ticks n) := ⟨rfl, rfl, rfl, rfl⟩
theorem State.pass_memories (s : State) (n : Nat) : SameMemories s (s.pass n) := ⟨rfl, rfl, rfl, rfl⟩

/-- Time passes: nothing but the clocks changes. -/
theorem State.passTo_frame (s : State) (d : Deadline) : { s.passTo d with lt := s.lt } = s := by
  unfold State.passTo
  split
  · rfl
  · split <;> rfl

/-- A deadline that can come is reached when time has passed to it. -/
theorem State.passTo_reached (s : State) (d : Deadline) (h : s.comes d = true) : (s.passTo d).reached d = true := by
  unfold State.passTo
  split
  · simp_all
  · split <;> simp_all [State.reached]

theorem State.passTo_memories (s : State) (d : Deadline) : SameMemories s (s.passTo d) := by
  have h := s.passTo_frame d
  exact ⟨(congrArg State.mem h :), (congrArg State.hostOut0 h :), (congrArg State.hostOut1 h :), (congrArg State.loader h :)⟩

/-- An interrupt is dropped, becomes pending in its function, or is sent (R202). -/
theorem State.interrupt_cases (s : State) (hp : HostPort) (fn v : Nat) :
    s.interrupt hp fn v = s ∨ (∃ f, s.interrupt hp fn v = s.modPcie hp f) ∨
    ∃ m, s.interrupt hp fn v = { s with intrs := s.intrs ++ [m] } := by
  unfold State.interrupt
  dsimp only
  generalize v % (if fn = 0 then 256 else 112) = w
  split
  · exact .inl rfl
  · split
    · exact .inr (.inl ⟨_, rfl⟩)
    · exact .inr (.inr ⟨_, rfl⟩)

theorem State.modPcie_memories (s : State) (hp : HostPort) (f : Pcie → Pcie) : SameMemories s (s.modPcie hp f) := by
  unfold State.modPcie
  split <;> exact ⟨rfl, rfl, rfl, rfl⟩

theorem State.interrupt_memories (s : State) (hp : HostPort) (fn v : Nat) : SameMemories s (s.interrupt hp fn v) := by
  obtain h | ⟨f, h⟩ | ⟨m, h⟩ := s.interrupt_cases hp fn v <;> rw [h]
  · exact .refl s
  · exact s.modPcie_memories hp f
  · exact ⟨rfl, rfl, rfl, rfl⟩

theorem State.partInterrupt_memories (s : State) (p v : Nat) : SameMemories s (s.partInterrupt p v) :=
  s.interrupt_memories _ _ _

/-- The state `t` with the photo-finish log and the counters of Line Time as they are in `s`: what a comparison with a boundary may change. -/
def State.photoAs (t s : State) : State := { t with pfLog := s.pfLog, pfNext := s.pfNext, lt := { t.lt with cnt := s.lt.cnt } }

/-- A comparison with a boundary changes no more than the photo-finish log and the counters of Line Time (R309). -/
theorem State.photo_frame (s : State) (k : Nat) (a j b : Word) (d : Bool) (e : Nat) (v : BitVec 16) :
    (s.photo k a j b d e v).photoAs s = s := by
  have hs (x : PfEntry) : (s.pfWrite x).photoAs s = s := by
    unfold State.pfWrite
    dsimp only
    split <;> rfl
  unfold State.photo
  dsimp only
  split
  · exact hs _
  · rfl

/-- An event compared with the boundaries that name its partition changes no more (R309). -/
theorem State.photoEvent_frame (s : State) (p : Nat) (a : Word) (v : BitVec 16) : (s.photoEvent p a v).photoAs s = s := by
  unfold State.photoEvent
  generalize s.boundaries p = l
  induction l generalizing s with
  | nil => rfl
  | cons b t ih =>
    rw [List.foldl_cons]
    have h := s.photo_frame 3 a a b.2 false b.1 v
    generalize s.photo 3 a a b.2 false b.1 v = u at h ⊢
    have := congrArg (fun x : State => x.photoAs s) (ih u)
    exact this.trans h

theorem State.photo_memories (s : State) (k : Nat) (a j b : Word) (d : Bool) (e : Nat) (v : BitVec 16) :
    SameMemories s (s.photo k a j b d e v) := by
  have h := s.photo_frame k a j b d e v
  exact ⟨(congrArg State.mem h :), (congrArg State.hostOut0 h :), (congrArg State.hostOut1 h :), (congrArg State.loader h :)⟩

theorem State.photoEvent_memories (s : State) (p : Nat) (a : Word) (v : BitVec 16) : SameMemories s (s.photoEvent p a v) := by
  have h := s.photoEvent_frame p a v
  exact ⟨(congrArg State.mem h :), (congrArg State.hostOut0 h :), (congrArg State.hostOut1 h :), (congrArg State.loader h :)⟩

/-- An event record falls due: its partition's page changes and its event is compared with the boundaries of windows, and nothing else. -/
theorem State.eventDue_frame (s : State) (p : Nat) (st : Code) (i : BitVec 32) (w : Word) :
    { (s.eventDue p st i w).photoAs s with parts := s.parts } = s := by
  have h := congrArg (fun x : State => { x with parts := s.parts }) (s.photoEvent_frame p s.lineTime s.devId)
  unfold State.eventDue
  dsimp only
  split <;> exact h

/-- What an event record leaves of its partition: the record is the last that is due, or it is counted as dropped (R183, R189, R199). -/
theorem State.eventDue_part (s : State) (p : Nat) (st : Code) (i : BitVec 32) (w : Word) :
    (s.eventDue p st i w).part p = if (s.part p).state = .absent || !(s.part p).enable || decide (256 ≤ (s.part p).waitingEvents)
      then (s.part p).bump 5
      else { s.part p with due := (s.part p).due ++ [⟨true, ⟨0, 0xFF#8, st, i, w, s.lineTime, false⟩, 0, (s.part p).eventVector⟩] } := by
  have h := s.photoEvent_frame p s.lineTime s.devId
  have hp : (s.photoEvent p s.lineTime s.devId).part p = s.part p := (congrArg (fun x : State => x.part p) h :)
  have hl : (s.photoEvent p s.lineTime s.devId).lineTime = s.lineTime := (congrArg State.lineTime h :)
  unfold State.eventDue
  dsimp only
  split <;> simp [hp, hl]

theorem State.eventDue_memories (s : State) (p : Nat) (st : Code) (i : BitVec 32) (w : Word) :
    SameMemories s (s.eventDue p st i w) := by
  have h := s.eventDue_frame p st i w
  exact ⟨(congrArg State.mem h :), (congrArg State.hostOut0 h :), (congrArg State.hostOut1 h :), (congrArg State.loader h :)⟩

/-- A command's end: its record falls due, or its interrupt is sent, or nothing, as with rings that are disabled (R183, R201, R202). -/
theorem State.finish_cases (s : State) (p : Nat) (i : BitVec 32) (op fl : BitVec 8) (tag : BitVec 16) (v : BitVec 8) (st : Code)
    (w : Word) :
    s.finish p i op fl tag v st w = s ∨ s.finish p i op fl tag v st w = s.partInterrupt p v.toNat ∨
    s.finish p i op fl tag v st w = s.modPart p fun x =>
      Part.trackFull { x with due := x.due ++ [⟨false, ⟨tag, op, st, i, w, s.lineTime, false⟩, fl, v⟩] } s.lt.own := by
  unfold State.finish
  split
  · split
    · exact .inr (.inl rfl)
    · exact .inl rfl
  · split
    · exact .inl rfl
    · exact .inr (.inr rfl)

theorem State.finish_memories (s : State) (p : Nat) (i : BitVec 32) (op fl : BitVec 8) (tag : BitVec 16) (v : BitVec 8) (st : Code)
    (w : Word) : SameMemories s (s.finish p i op fl tag v st w) := by
  obtain h | h | h := s.finish_cases p i op fl tag v st w <;> rw [h]
  · exact .refl s
  · exact s.partInterrupt_memories p _
  · exact s.modPart_memories p _

theorem State.complete_memories (s : State) (p i : Nat) (st : Code) (w : Word) : SameMemories s (s.complete p i st w) := by
  unfold State.complete
  split
  · exact .refl s
  · exact (s.modPart_memories p _).trans (State.finish_memories ..)

theorem State.log_memories (s : State) (k : Nat) (st : Code) (p : Option Nat) (a b : Nat) (w : BitVec 32) :
    SameMemories s (s.log k st p a b w) := by
  unfold State.log
  dsimp only
  generalize hu : (if (tabGet EvtEntry.zero s.twin.log s.twin.evtNext.toNat).valid = true then s.bumpTwin 7 else s) = u
  have hs : SameMemories s u := by
    subst hu
    split <;> exact ⟨rfl, rfl, rfl, rfl⟩
  cases p with
  | none =>
    have h (x : State) (hp : HostPort) (n m : Nat) := x.interrupt_memories hp n m
    exact hs.trans ⟨(h _ _ _ _).1, (h _ _ _ _).2.1, (h _ _ _ _).2.2.1, (h _ _ _ _).2.2.2⟩
  | some p => exact (hs.trans ⟨rfl, rfl, rfl, rfl⟩).trans (State.eventDue_memories ..)

theorem State.yielded_memories (s : State) (a b : Nat) (p q : Option Nat) : SameMemories s (s.yielded a b p q) :=
  (State.log_memories ..).trans ⟨rfl, rfl, rfl, rfl⟩

/-- A targeted self-test is queued, and nothing else changes (R334). -/
theorem State.startTest_memories (s : State) (u : TestUnit) (b : Bool) : SameMemories s (s.startTest u b) := by
  unfold State.startTest
  split
  · split <;> exact ⟨rfl, rfl, rfl, rfl⟩
  · exact ⟨rfl, rfl, rfl, rfl⟩

theorem State.partFaulted_memories (s : State) (c : Nat) : SameMemories s (s.partFaulted c) := by
  unfold State.partFaulted
  split
  · exact .refl s
  · split
    · exact ⟨rfl, rfl, rfl, rfl⟩
    · exact .refl s

/-- A fault changes no memory. -/
theorem State.fault_memories (s : State) (c : Nat) (e : BitVec 3) (st : Code) (i : Nat) (r : Option (TReg × Nat)) (a : Option Nat) :
    SameMemories s (s.fault c e st i r a) := by
  unfold State.fault
  dsimp only
  split
  · exact ⟨rfl, rfl, rfl, rfl⟩
  · generalize (⟨true, r.isSome, a.isSome, e, (r.map (·.1)).getD 0, BitVec.ofNat 10 ((r.map (·.2)).getD 0), st, BitVec.ofNat 32 i,
      BitVec.ofNat 48 (a.getD 0)⟩ : FaultRec) = x
    have h : SameMemories s ((State.modCore (s.modCore c fun k => { k with run := .faulted }) c
        fun k => { k with fault := x }).partFaulted c) :=
      SameMemories.trans (t := State.modCore (s.modCore c fun k => { k with run := .faulted }) c fun k => { k with fault := x })
        ⟨rfl, rfl, rfl, rfl⟩ (State.partFaulted_memories _ _)
    refine h.trans ?_
    split
    · exact .refl _
    · exact State.eventDue_memories ..

/-! ## Commands of a ring -/

theorem State.refuseCmd_memories (s : State) (h : CmdHdr) (op : BitVec 8) (i : BitVec 32) (st : Code) :
    SameMemories s (s.refuseCmd h op i st) :=
  s.tick_memories.trans (State.finish_memories ..)

/-- The shared start of a ring's command, when the ring does not take it: nothing happens (R192). -/
theorem State.startCmd_notReady {s : State} {h : CmdHdr} {op : BitVec 8} {bad : Bool} {legal : Part → Bool}
    {act : State → BitVec 32 → State} (hr : s.ringReady h (h.badOp.getD op) = false) : s.startCmd h op bad legal act = .next s := by
  simp [State.startCmd, hr]

/-- A command that the ring takes in Run, with a well-formed record, in a state that allows it, acts on the ring that has taken it. -/
theorem State.startCmd_acts {s : State} {h : CmdHdr} {op : BitVec 8} {legal : Part → Bool} {act : State → BitVec 32 → State}
    (ha : Accepts s h op) (hl : legal ((s.taken h.part.val).part h.part.val) = true) :
    s.startCmd h op false legal act = .next (act (s.taken h.part.val) (s.part h.part.val).consumer) := by
  obtain ⟨hr, h1, h2, h3, h4, h5⟩ := ha
  have h6 : (s.modPart h.part.val fun x => { (x.bump 0) with consumer := x.consumer + 1 }).power = s.power := rfl
  have h7 : ¬ 16 ≤ h.flags.toNat := Nat.not_le.mpr h3
  have h8 : legal ((s.modPart h.part.val fun x => { (x.bump 0) with consumer := x.consumer + 1 }).part h.part.val) = true := hl
  unfold State.startCmd
  dsimp only
  rw [h2, Option.getD_none, hr, h6, h4, h5, h1, decide_eq_false h7]
  simp only [Bool.not_true, Bool.false_eq_true, if_false, Option.isSome_none, Bool.or_false, show (PwrState.run == PwrState.idle) = false from rfl,
    Bool.false_and, h8]
  rfl

/-- One that is illegal in the state completes with WRONG_STATE (R195). -/
theorem State.startCmd_illegal {s : State} {h : CmdHdr} {op : BitVec 8} {legal : Part → Bool} {act : State → BitVec 32 → State}
    (ha : Accepts s h op) (hl : legal ((s.taken h.part.val).part h.part.val) = false) :
    s.startCmd h op false legal act = .next ((s.taken h.part.val).wrongState h op (s.part h.part.val).consumer) := by
  obtain ⟨hr, h1, h2, h3, h4, h5⟩ := ha
  have h6 : (s.modPart h.part.val fun x => { (x.bump 0) with consumer := x.consumer + 1 }).power = s.power := rfl
  have h7 : ¬ 16 ≤ h.flags.toNat := Nat.not_le.mpr h3
  have h8 : legal ((s.modPart h.part.val fun x => { (x.bump 0) with consumer := x.consumer + 1 }).part h.part.val) = false := hl
  unfold State.startCmd
  dsimp only
  rw [h2, Option.getD_none, hr, h6, h4, h5, h1, decide_eq_false h7]
  simp only [Bool.not_true, Bool.false_eq_true, if_false, Option.isSome_none, Bool.or_false, show (PwrState.run == PwrState.idle) = false from rfl,
    Bool.false_and, h8, Bool.not_false, if_true]
  rfl

/-- The start of a ring's command always goes on. -/
theorem State.startCmd_next (s : State) (h : CmdHdr) (op : BitVec 8) (bad : Bool) (legal : Part → Bool)
    (act : State → BitVec 32 → State) : ∃ t, s.startCmd h op bad legal act = .next t := by
  have ite_next (b : Prop) [Decidable b] (x y : Host.Outcome State Fault Refusal) (hx : ∃ t, x = .next t) (hy : ∃ t, y = .next t) :
      ∃ t, (if b then x else y) = .next t := by
    split
    · exact hx
    · exact hy
  unfold State.startCmd
  dsimp only
  exact ite_next _ _ _ ⟨_, rfl⟩ (ite_next _ _ _ ⟨_, rfl⟩ (ite_next _ _ _ ⟨_, rfl⟩ (ite_next _ _ _ ⟨_, rfl⟩ ⟨_, rfl⟩)))

/-! ## Reads in a context -/

/-- What the reads of a translation and of an agent change: the dies, the partitions' translation state, the free values. -/
def OnlyReads (s t : State) : Prop := { t with dies := s.dies, parts := s.parts, freeCtr := s.freeCtr } = s

theorem OnlyReads.refl (s : State) : OnlyReads s s := rfl

theorem OnlyReads.trans {s t u : State} (h : OnlyReads s t) (k : OnlyReads t u) : OnlyReads s u := by
  unfold OnlyReads at *
  rw [← h, ← k]

theorem State.sliceReads_frame (s : State) (f : State → State) : OnlyReads s (s.sliceReads f) := rfl

theorem State.xlat_frame (s : State) (p a : Nat) (w : Bool) : OnlyReads s (s.xlat p a w).1 := by
  unfold State.xlat
  split
  · rfl
  · dsimp only
    repeat' split
    all_goals rfl

theorem State.xlatAll_frame (p : Nat) (w : Bool) (l : List (Nat × Nat)) (s : State) : OnlyReads s (s.xlatAll p w l).1 := by
  induction l generalizing s with
  | nil => exact .refl s
  | cons x t ih =>
    have h := s.xlat_frame p x.1 w
    unfold State.xlatAll
    generalize s.xlat p x.1 w = r at h ⊢
    obtain ⟨u, _ | d⟩ := r
    · exact h
    · have k := h.trans (ih u)
      dsimp only
      generalize u.xlatAll p w t = q at k ⊢
      obtain ⟨v, _ | _⟩ := q <;> exact k

theorem State.fillSlice_frame (s : State) (d sl line : Nat) : OnlyReads s (s.fillSlice d sl line) := by
  unfold State.fillSlice
  dsimp only
  split <;> rfl

theorem State.cacheRead_frame (s : State) (a : Nat) : OnlyReads s (s.cacheRead a) := by
  unfold State.cacheRead
  split
  · exact .refl s
  · split
    · exact .refl s
    · split
      · rfl
      · exact OnlyReads.trans (t := s.bumpDie _ 1) rfl (State.fillSlice_frame _ _ _ _)

theorem State.agentReads_frame (l : List (Nat × Nat)) (n : Nat) (s : State) : OnlyReads s (s.agentReads n l) := by
  induction l generalizing n s with
  | nil => exact .refl s
  | cons x t ih =>
    unfold State.agentReads
    split
    · exact ih _ s
    · exact (s.cacheRead_frame x.1).trans (ih _ _)

/-- A read in a context leaves everything but the dies' slices, the translation state and the free values as it is. -/
theorem State.ctxRead_frame (s : State) (p a n : Nat) : OnlyReads s (s.ctxRead p a n).1 := by
  have h := s.xlatAll_frame p false (piecesOf a n)
  unfold State.ctxRead
  dsimp only
  generalize s.xlatAll p false (piecesOf a n) = r at h ⊢
  obtain ⟨u, ds | ⟨st, b⟩⟩ := r
  · exact h.trans (u.agentReads_frame _ 0)
  · exact h

end Sys2Proof.Machine
end

