-- ==== Sys2Proof/Laws/Issue.lean ====
section
/-!
SUPPORT. What one attempt of a core's sequencer can come to: every command of the sequencer and every issue of an engine
instruction goes through it.
-/
namespace Sys2Proof.Machine

/-- An instruction that issues has its effect. -/
theorem State.attempt_issues {s : State} {c : CoreId} {i : GOp} {n : Nat} (act : Nat → State) (h : Issues s c i n) :
    s.attempt c i act = .next (act n) := by
  obtain ⟨⟨hw, hi, hb, hp⟩, hg, hh⟩ := h
  unfold State.attempt
  simp only [hw, hi, hb, hg, hh, Bool.not_true, Bool.false_eq_true, if_false]
  cases hq : (s.core c).platform with
  | nil => simp [hq] at hp
  | cons w t =>
    simp only [hq, List.head?_cons, Option.some.injEq] at hp
    subst hp
    simp

/-- At a guard value of 0 the instruction takes one issue cycle and has no effect (R154). -/
theorem State.attempt_guarded {s : State} {c : CoreId} {i : GOp} {n : Nat} (act : Nat → State) (h : AtHead s c i n)
    (hg : (s.core c).guard i.g = false) : s.attempt c i act = .next (s.modCore c Core.pop) := by
  obtain ⟨hw, hi, hb, hp⟩ := h
  unfold State.attempt
  simp only [hw, hi, hb, hg, Bool.not_true, Bool.false_eq_true, if_false]
  cases hq : (s.core c).platform with
  | nil => simp [hq] at hp
  | cons w t =>
    simp only [hq, List.head?_cons, Option.some.injEq] at hp
    subst hp
    simp

/-- An instruction that a cause of Table 2.3 holds stays at the head, and the cycle counts under the cause (R40). -/
theorem State.attempt_held {s : State} {c : CoreId} {i : GOp} {n m : Nat} (act : Nat → State) (h : AtHead s c i n)
    (hg : (s.core c).guard i.g = true) (hh : (s.core c).heldBy i.op = some m) :
    s.attempt c i act = .next (s.modCore c (·.stallOn m)) := by
  obtain ⟨hw, hi, hb, hp⟩ := h
  unfold State.attempt
  simp only [hw, hi, hb, hg, hh, Bool.not_true, Bool.false_eq_true, if_false]
  cases hq : (s.core c).platform with
  | nil => simp [hq] at hp
  | cons w t =>
    simp only [hq, List.head?_cons, Option.some.injEq] at hp
    subst hp
    simp

/-- An instruction with a reserved field value never issues. -/
theorem State.attempt_illFormed {s : State} {c : CoreId} {i : GOp} (act : Nat → State) (h : i.op.wf = false) :
    s.attempt c i act = .fault .illFormed := by
  simp [State.attempt, h]

/-- Everything an attempt can come to. -/
theorem State.attempt_cases (s : State) (c : CoreId) (i : GOp) (act : Nat → State) :
    (i.op.wf = false ∧ s.attempt c i act = .fault .illFormed) ∨ s.attempt c i act = .next s ∨
    (∃ m, s.attempt c i act = .next (s.modCore c (·.stallOn m))) ∨
    s.attempt c i act = .next (s.modCore c Core.pop) ∨ ∃ n, Issues s c i n ∧ s.attempt c i act = .next (act n) := by
  unfold State.attempt
  by_cases hw : i.op.wf = true
  · simp only [hw, Bool.not_true, Bool.false_eq_true, if_false, false_and, false_or, Bool.true_eq_false]
    split
    · exact .inl rfl
    · rename_i hi
      split
      · exact .inr (.inl ⟨8, rfl⟩)
      · rename_i hb
        split
        · exact .inr (.inl ⟨7, rfl⟩)
        · rename_i w t hq
          split
          · exact .inl rfl
          · rename_i hne
            split
            · exact .inr (.inr (.inl rfl))
            · rename_i hg
              split
              · rename_i m hm
                exact .inr (.inl ⟨m, rfl⟩)
              · rename_i hh
                refine .inr (.inr (.inr ⟨w.index, ⟨⟨hw, by simpa using hi, by simpa using hb, ?_⟩, by simpa using hg, hh⟩, rfl⟩))
                have : w.gop = i := by simpa using hne
                simp [hq, ← this]
  · simp only [Bool.not_eq_true] at hw
    simp [hw]

end Sys2Proof.Machine
end

