-- ==== Sys2Proof/Laws/Matrix.lean ====
section
/-!
SUPPORT. The ports of the matrix array (R80): a port that has granted a requester grants nothing more in the same cycle.
-/
namespace Sys2Proof.Machine

/-- A decision takes no cycle. -/
theorem MxState.decide__clk (m : MxState) (port : Nat) (all : List Nat) : (m.decide_ port all).clk = m.clk := by
  unfold MxState.decide_
  split
  · rfl
  · split <;> rfl

/-- A request that is met leaves the port with nothing to give in this cycle. -/
theorem MxState.request_met (m : MxState) (port me : Nat) (rivals : List Nat) (h : (m.request port me rivals).2 = true) :
    (m.request port me rivals).1.winner port = some 8 ∧ (m.request port me rivals).1.clk = m.clk := by
  unfold MxState.request at h ⊢
  dsimp only at h ⊢
  split at h
  · rw [if_pos ‹_›]
    exact ⟨by simp [MxState.winner], m.decide__clk port _⟩
  · cases h

/-- A port whose decision stands grants a request only to its winner. -/
theorem MxState.request_decided (m : MxState) (port me w : Nat) (rivals : List Nat) (h : m.winner port = some w) :
    (m.request port me rivals).2 = (w == me) := by
  have : m.decide_ port (me :: rivals.filter (· != me)) = m := by simp [MxState.decide_, h]
  unfold MxState.request
  dsimp only
  rw [this, h]
  by_cases e : w = me <;> simp [e]

/-- Two requests for one port in one cycle are not both met. -/
theorem MxState.request_once (m : MxState) (port me you : Nat) (a b : List Nat) (h : (m.request port me a).2 = true) (hy : you ≠ 8) :
    ((m.request port me a).1.request port you b).2 = false := by
  rw [MxState.request_decided _ _ _ 8 _ (m.request_met port me a h).1]
  simpa using hy.symm

/-- The end of a cycle at the ports changes the runs alone (R80). -/
theorem MxState.closePorts_frame (m : MxState) (others : Nat → List Nat) : { m.closePorts others with runs := m.runs } = m := by
  unfold MxState.closePorts
  generalize (List.range 48).filter _ = l
  suffices h : ∀ (l : List Nat) (z : MxState), { l.foldl (fun m port => { m with
      runs := nextRuns m.runs port ((others port).filter fun r => decide (4 ≤ r)) }) z with runs := m.runs } = { z with runs := m.runs } from h l m
  intro l
  induction l with
  | nil => exact fun _ => rfl
  | cons p t ih => exact fun z => ih _

end Sys2Proof.Machine
end

