-- ==== Sys2Proof/Machine/Preloaded.lean ====
section
/-!
DEFINITION. What R123 says of the preloaded table images, whose bytes the manual does not give: the premise of a claim that rests on their
errors. No step of the machine uses it.
-/
namespace Sys2Proof.Machine

/-- The real number that an FP32 value holds. -/
def Num.holds : Num → ℝ → Prop
  | .fin d, x => x = (if d.neg then -1 else 1) * (d.m : ℝ) * (2 : ℝ) ^ d.e
  | _, _ => False

/-- For every finite input, the result of a table slot differs from `f` by at most 2^k. -/
def slotWithin (slot : Nat) (f : ℝ → ℝ) (k : ℤ) : Prop :=
  ∀ T, VxState.reset.table slot = some T → ∀ (b : F32) (x : ℝ), (f32Num b).holds x →
    ∃ y : ℝ, (f32Num (T.eval (f32Num b))).holds y ∧ |y - f x| ≤ (2 : ℝ) ^ k

/-- What R123 says of the preloaded images, which are published apart from the manual: both slots of each pair of Table 5.5 stay within the
absolute error of its function and of the function's derivative. `Config.preloaded` has no value in the model, so a claim that rests on
R123 takes this as its premise (log entry 2). -/
def PreloadedWithin : Prop :=
  let pair (n : Nat) (f : ℝ → ℝ) (forward derivative : ℤ) : Prop :=
    slotWithin (2 * n) f forward ∧ slotWithin (2 * n + 1) (deriv f) derivative
  let sigma (x : ℝ) : ℝ := 1 / (1 + Real.exp (-x))
  pair 0 (fun x => x * ∫ t in Set.Iic x, Real.exp (-t ^ 2 / 2) / Real.sqrt (2 * Real.pi)) (-19) (-16) ∧
  pair 1 (fun x => x * sigma x) (-16) (-14) ∧ pair 2 sigma (-18) (-18) ∧ pair 3 Real.tanh (-18) (-16) ∧
  pair 4 (fun x => Real.log (1 + Real.exp x)) (-18) (-18) ∧
  pair 5 (fun x => if 0 < x then x else Real.exp x - 1) (-18) (-16)

end Sys2Proof.Machine
end

