-- ==== Sys2Proof/Tests/Slice0.lean ====
section
/-!
SUPPORT. Tests: every check of well-formedness refuses a term, each statement's hypotheses are met by a state written out here, and a
few results that the spec writes out.
-/
namespace Sys2Proof.Tests

-- One theorem at a time: the kernel checks them in turn, and each one that waits for it would hold a thread and its stack.
set_option Elab.async false
open Sys2Proof Sys2Proof.Machine

/-! ## States -/

/-- A partition with core 0, RUNNING. -/
def wPart : Part := { Part.reset with state := .running, clusters := 1, enable := true, bound := some ⟨7, 0⟩, producer := 1 }

/-- A core that runs a kernel. -/
def wCore : Core := { Core.reset with run := .running, logical := some 0, kernel := some ⟨0, 0, 0, 1, 0, false, 0⟩ }

/-- A device with that partition and a core 0. -/
def wState (k : Core) : State := { State.reset with cores := [(0, k)], parts := [(0, wPart)] }

/-- A device whose partition 0 is this one. -/
def wWith (x : Part) : State := { State.reset with cores := [(0, wCore)], parts := [(0, x)] }

/-- Core 0 stands before an instruction of index 0. -/
def wHead (op : Op) : State := wState { wCore with platform := [⟨0, ⟨Guard.always, op⟩⟩] }

/-- An entry of an engine's queue, not started. -/
def wEntry (op : Op) (args : List Word) : Entry := ⟨0, 0, op, args, false, false, false, none, 0, false, none⟩

/-- An entry that has started. -/
def wStarted (op : Op) (args : List Word) : Entry := { wEntry op args with started := true }

/-- Core 0 with one entry in an engine's queue. -/
def wQueue (g : Engine) (e : Entry) : Core :=
  match g with
  | .mx => { wCore with mxq := [e] }
  | .vx => { wCore with vxq := [e] }
  | .tm => { wCore with tmq := [e] }
  | .sy => { wCore with syq := [e] }

/-! ## Ill-formed kernel instructions (WellFormed.lean): one term for each check, refused -/

/-- A window of 16 columns and one row. -/
def wWin : Window := ⟨0, 1, 0, 1⟩

/-- Operands of an element-wise instruction on tiles. -/
def wVec : VecOps := ⟨.tile 0, .tile 1, .tile 2, .tile 0, false, false, Window.zero, Window.zero⟩

/-- Operands of a row instruction with every optional field 0. -/
def wRow : RowOps := ⟨1, 2, 0, 3, 0, 4, 5, false, false, false, 1, 0, 1, 0⟩

theorem illFormed_pnot_with_two_sources : (Op.pred .not 1 2 3).wf = false := by decide
theorem illFormed_loop_on_s0 : (Op.loop 0 1).wf = false := by decide
theorem illFormed_rdsys_selector_11 : (Op.rdsys 1 11).wf = false := by decide
theorem illFormed_mm_run_past_t63 : (Op.mm 60 4 0 0 false false false).wf = false := by decide
theorem illFormed_mmq_without_quarters : (Op.mmq 0 0 false false false ⟨0, 0, 0⟩ ⟨0, 0, 0⟩ ⟨0, 0, 0⟩ ⟨0, 0, 0⟩).wf = false := by decide
theorem illFormed_mmq_unused_quarter : (Op.mmq 1 0 false false false ⟨0, 0, 0⟩ ⟨1, 0, 0⟩ ⟨0, 0, 0⟩ ⟨0, 0, 0⟩).wf = false := by decide
theorem illFormed_mmq_run_past_t63 : (Op.mmq 1 0 false false false ⟨63, 1, 0⟩ ⟨0, 0, 0⟩ ⟨0, 0, 0⟩ ⟨0, 0, 0⟩).wf = false := by decide
theorem illFormed_rmode_3 : (Op.rmode 3 0).wf = false := by decide
theorem illFormed_vec_scalar_destination : (Op.vec .add { wVec with d := .scalar 1 }).wf = false := by decide
theorem illFormed_vec_two_scalars : (Op.vec .add { wVec with s1 := .scalar 1, s2 := .scalar 2 }).wf = false := by decide
theorem illFormed_vec_unnamed_window : (Op.vec .add { wVec with w1 := wWin }).wf = false := by decide
theorem illFormed_vec_unused_source : (Op.vec .add { wVec with s3 := .tile 1 }).wf = false := by decide
theorem illFormed_cvt_packed : (Op.vec .cvt { wVec with s2 := .tile 0, packed := true }).wf = false := by decide
theorem illFormed_cvt_second_source : (Op.vec .cvt wVec).wf = false := by decide
theorem illFormed_act_slot : (Op.act (.tile 0) (.tile 1) false 12 Window.zero Window.zero).wf = false := by decide
theorem illFormed_actd_pair : (Op.actd (.tile 0) (.tile 1) (.tile 2) false 6 Window.zero Window.zero).wf = false := by decide
theorem illFormed_fn_window : (Op.fn .exp (.tile 0) (.tile 1) false wWin Window.zero).wf = false := by decide
theorem illFormed_rand_scalar : (Op.rand (.scalar 0) false Window.zero Window.zero).wf = false := by decide
theorem illFormed_tload_preloaded_slot : (Op.tload 1 15).wf = false := by decide
theorem illFormed_norm_sdy : (Op.row .norm { wRow with sdy := 1 }).wf = false := by decide
theorem illFormed_normb_sbet : (Op.row .normb { wRow with sbet := 1 }).wf = false := by decide
theorem illFormed_smax_sgam : (Op.row .smax wRow).wf = false := by decide
theorem illFormed_smaxb_rms : (Op.row .smaxb { wRow with sgam := 0, rms := true }).wf = false := by decide
theorem illFormed_upsq_cell_without_reduce : (Op.upsq 1 2 3 false 4).wf = false := by decide
theorem illFormed_ingest_code : (Op.ingest 0 1 false 0 0x190 2).wf = false := by decide
theorem illFormed_ingest_two_codes : (Op.ingest 0 1 true 3 1 2).wf = false := by decide

/-- The terms above differ from well-formed ones in the checked field only. -/
theorem wellFormed_terms :
    ∀ o ∈ [Op.pred .not 1 2 0, .loop 1 1, .rdsys 1 10, .mm 60 3 0 0 false false false,
      .mmq 1 0 false false false ⟨62, 1, 0⟩ ⟨0, 0, 0⟩ ⟨0, 0, 0⟩ ⟨0, 0, 0⟩, .rmode 2 0, .vec .add wVec,
      .vec .cvt { wVec with s2 := .tile 0 }, .act (.tile 0) (.tile 1) false 11 Window.zero Window.zero,
      .actd (.tile 0) (.tile 1) (.tile 2) false 5 Window.zero Window.zero, .fn .exp .win0 (.tile 1) false wWin Window.zero,
      .rand (.tile 0) false Window.zero Window.zero, .tload 1 16, .row .norm wRow, .row .normb { wRow with sdy := 1 },
      .row .smax { wRow with sgam := 0 }, .row .smaxb { wRow with sgam := 0, sdy := 1 }, .upsq 1 2 3 true 4, .upsq 1 2 3 false 0,
      .ingest 0 1 false 0 0x150 2, .ingest 0 1 true 3 0 2], o.wf = true := by decide

/-! ## Witnesses: the sequencer -/

/-- ScalarResults, PredicateResults, ControlFlow, SystemValues, ScalarMemory: core 0 issues each instruction. -/
theorem witness_issues_scalar :
    ∀ o ∈ [Op.alu .add 1 2 3, .alu .fmul 1 2 3, .conv .i2f 1 2, .conv .f2i 1 2, .immOp .addi 1 2 5, .immOp .srai 1 2 63,
      .cmp .eq 1 2 (.reg 3), .cmp .feq 1 2 (.imm 4), .pred .and 1 2 3, .pred .not 1 2 0, .br 5, .loop 1 0xFFFFFFFF, .nopK, .fence, .endK,
      .rdsys 1 0, .rdsys 1 10, .ld 1 2 3 true 8, .st 1 2 0 8], Issues (wHead o) 0 ⟨Guard.always, o⟩ 0 := by decide

/-- ControlFlow: sq.end issues on a core that is not fenced. -/
theorem witness_end : Issues (wHead .endK) 0 ⟨Guard.always, .endK⟩ 0 ∧ ((wHead .endK).core 0).works = true := by decide

/-- SystemValues: a kernel, a logical number and a partition are there. -/
theorem witness_system : ((wHead (.rdsys 1 3)).core 0).kernel = some ⟨0, 0, 0, 1, 0, false, 0⟩ ∧
    ((wHead (.rdsys 1 3)).core 0).logical = some 0 ∧ (wHead (.rdsys 1 3)).partOf 0 = some 0 := by decide

/-- ScalarMemory: a load from a page of 1 GiB that the table at address 0 maps, and one whose partition has no grant. -/
def wMapped (k : Core) (poison : NatSet) : State :=
  { wState k with
    mem := [(0, 0x0F)], poison := poison, consist := { Consist.boot with grants := [⟨0, 2, 0⟩] }
    start := { State.reset.start with nearZero := true } }
def wBefore (op : Op) : Core := { wCore with platform := [⟨0, ⟨Guard.always, op⟩⟩] }
theorem witness_load :
    let o := Op.ld 1 2 0 false 64
    Issues (wMapped (wBefore o) []) 0 ⟨Guard.always, o⟩ 0 ∧ ((wMapped (wBefore o) []).load 0 64 1).2 = .ok [0] ∧
    ((wMapped (wBefore o) [2]).load 0 64 1).2 = .fail Code.poison 64 ∧ ((wHead o).load 0 64 1).2 = .fail Code.pageFault 64 := by decide +kernel
theorem witness_store :
    let o := Op.st 1 2 3 64
    Issues (wMapped (wBefore o) []) 0 ⟨Guard.always, o⟩ 0 ∧ ((wMapped (wBefore o) []).store 0 64 (leBytes 8 0)).2 = .ok () ∧
    ((wHead o).store 0 64 (leBytes 8 0)).2 = .fail Code.pageFault 64 := by decide +kernel

/-- GuardedAndStopped, ControlFlow: a guard value of 0, by p1 and by p0 inverted; a core that runs no kernel. -/
theorem witness_guarded :
    AtHead (wState { wCore with platform := [⟨0, ⟨⟨false, 1⟩, .nopK⟩⟩] }) 0 ⟨⟨false, 1⟩, .nopK⟩ 0 ∧
    AtHead (wState { wCore with platform := [⟨0, ⟨⟨false, 1⟩, .br 5⟩⟩] }) 0 ⟨⟨false, 1⟩, .br 5⟩ 0 ∧
    wCore.pred 1 = false ∧ wCore.pred 0 = true ∧ (Instr.sqNop 0 ⟨false, 1⟩).issued = some (0, ⟨⟨false, 1⟩, .nopK⟩) := by decide
theorem witness_stopped : (Core.reset.run ≠ .running) ∧ (Op.nopK).wf = true := by decide

/-- HeldCycles, one for each cause. -/
theorem witness_held_busy : ({ wCore with seqBusy := true } : Core).issuing = true := by decide
theorem witness_held_empty : wCore.issuing = true ∧ wCore.seqBusy = false ∧ wCore.platform = [] := by decide
theorem witness_held_scalar :
    AtHead (wState { wCore with platform := [⟨0, ⟨Guard.always, .alu .add 1 2 3⟩⟩], pendS := [2] }) 0 ⟨Guard.always, .alu .add 1 2 3⟩ 0 ∧
    (2 : SReg) ∈ scalarsRead (.alu .add 1 2 3) := by decide
theorem witness_held_queue :
    AtHead (wState { wCore with platform := [⟨0, ⟨Guard.always, .sread 0 1⟩⟩], syq := List.replicate 16 (wEntry (.sread 0 1) []) }) 0
      ⟨Guard.always, .sread 0 1⟩ 0 ∧ engineOf (.sread 0 1) = some .sy := by decide
theorem witness_held_tcfg :
    AtHead (wState { wCore with platform := [⟨0, ⟨Guard.always, .tcfg 0 1 1 6 3 false⟩⟩], tmq := [wEntry (.tld 0 1 2) [0, 0]] }) 0
      ⟨Guard.always, .tcfg 0 1 1 6 3 false⟩ 0 ∧ ({ wCore with tmq := [wEntry (.tld 0 1 2) [0, 0]] } : Core).runBusy 0 1 = true := by decide
theorem witness_held_fence :
    AtHead (wState { wCore with platform := [⟨0, ⟨Guard.always, .fence⟩⟩], tmq := [wEntry (.tld 0 1 2) [0, 0]] }) 0
      ⟨Guard.always, .fence⟩ 0 ∧ ({ wCore with tmq := [wEntry (.tld 0 1 2) [0, 0]] } : Core).entries ≠ [] := by decide

/-- EngineInstructionsIssue: one instruction of each engine, and a tm.ingest on a grade A device. -/
theorem witness_issues_engine :
    ∀ o ∈ [Op.tld 0 1 2, .mm 0 0 4 0 false false false, .vec .add wVec, .row .norm wRow, .dset 0 1 2, .ingest 0 1 true 3 0 2, .sadd 0 1 2,
      .upsq 1 2 3 false 0], Issues (wHead o) 0 ⟨Guard.always, o⟩ 0 ∧ (engineOf o).isSome = true ∧ (wHead o).fuses.gradeB = false := by decide

/-- AbsentTransform: grade B, with a code in the scalar. -/
theorem witness_absent_transform :
    let s := { wState { wCore with platform := [⟨0, ⟨Guard.always, .ingest 0 1 true 3 0 2⟩⟩], scalars := [(3, 1)] } with
      fuses := Fuses.gradeA.toGradeB }
    Issues s 0 ⟨Guard.always, .ingest 0 1 true 3 0 2⟩ 0 ∧ (s.core 0).fault.valid = false ∧ ((s.core 0).reg 3).toNat % 512 ≠ 0 := by decide

/-- SequencerEvents: a tcfg to an awake bank; one to a gated bank; the waking of it; an access that executes. -/
theorem witness_tcfg :
    Issues (wState { wCore with platform := [⟨0, ⟨Guard.always, .tcfg 0 1 4 6 3 false⟩⟩], powered := 1 }) 0
      ⟨Guard.always, .tcfg 0 1 4 6 3 false⟩ 0 ∧ tcfgConsistent 0 1 4 6 3 false = true ∧ (1#8).getLsbD 0 = true := by decide
theorem witness_tcfg_none : tcfgConsistent 0 64 0 0 0 false = true := by decide
theorem witness_tcfg_gated : Issues (wHead (.tcfg 0 1 4 6 3 false)) 0 ⟨Guard.always, .tcfg 0 1 4 6 3 false⟩ 0 ∧
    wCore.powered.getLsbD 0 = false ∧ (3#4 ≠ 0) := by decide
theorem witness_bank_wakes :
    let k := { wCore with waking := 1, tcfgWait := some ⟨0, .tcfg 0 1 4 6 3 false⟩ }
    k.works = true ∧ k.aborting = false ∧ k.waking = 1#8 <<< 0 := by decide
theorem witness_sequencer_completes : ({ wCore with seqBusy := true } : Core).works = true ∧ wCore.aborting = false := by decide

/-! ## Witnesses: the engines -/

/-- Tiles t0 (one row of 32 F8G), t1 (one row of 64 F4), t2 (one row of 4 indices). -/
def wTiles : Tab Tile := [(0, ⟨⟨false, 3, 5, 1⟩, [], []⟩), (1, ⟨⟨false, 1, 5, 1⟩, [], []⟩), (2, ⟨⟨false, 6, 4, 1⟩, [], []⟩)]

/-- EngineStarts, ElementWise, SyncStarts, BarriersAndTimeouts: each of these starts as the only entry of its engine. -/
theorem witness_starts :
    ∀ x ∈ [(Engine.mx, Op.rmode 2 0xFF), (.mx, .mseed 1 2), (.vx, .vseed 1 2), (.tm, .dset 0 1 7), (.sy, .sbind 0 1), (.tm, .dld 15 1),
      (.tm, .dst 0 1), (.vx, .vec .add { wVec with d := .win0, w0 := wWin }), (.sy, .sadd 0 1 2), (.sy, .sread 7 2), (.sy, .swait 0 1 2 3),
      (.sy, .sbarcfg 1023 1 2), (.sy, .sbar 0 1 2 3)],
      Starts (wState (wQueue x.1 (wEntry x.2 [5, 0]))) 0 x.1 (wEntry x.2 [5, 0]) := by decide

/-- EngineStarts: an access to a page that is mapped, to a poisoned granule, and to a partition without a grant; a tile of F16 and
one of F4. -/
theorem witness_dld :
    let e := wEntry (.dld 15 1) [0xFFFF0000001FFFE0]
    let k := wQueue .tm e
    Starts (wMapped k []) 0 .tm e ∧ ((wMapped k []).load 0 0x1FFFE0 64).2 = .ok (List.replicate 64 0) ∧
    ((wMapped k [65536]).load 0 0x1FFFE0 64).2 = .fail Code.poison 0x200000 ∧
    ((wState k).load 0 0x1FFFE0 64).2 = .fail Code.pageFault 0x1FFFE0 ∧
    ((wMapped k []).store 0 0x1FFFE0 (leBytes 64 0)).2 = .ok () := by decide +kernel
theorem witness_tld :
    ∀ t ∈ [(0 : TReg), 1],
      let e := wEntry (.tld t 1 2) [0x1FFFE0, 0]
      let s := wMapped { wQueue .tm e with tiles := wTiles } []
      let r := ((s.core 0).tile t.toNat).cfg
      let x := (s.modCore 0 fun k => { k with mx := k.mx.touch t.toNat }).load 0 0x1FFFE0 (r.rowBytes + r.scaleBytes)
      Starts s 0 .tm e ∧ r.format ≠ 0 ∧ r.rows = 1 ∧ x.2 = .ok (List.replicate (r.rowBytes + r.scaleBytes) 0) := by decide +kernel

/-- EngineStarts: the start of a tld whose tile has no configuration is refused, that of one whose tile has one is not. -/
theorem witness_start_refused :
    let e := wEntry (.tld 1 1 2) [0x1FFFE0, 0]
    let refuses (s : State) : Bool := match exec (.engineStart 0 .tm .clean) s with | .next t => t == s.entryShape 0 .tm e | _ => false
    refuses (wState (wQueue .tm e)) = true ∧ refuses (wState { wQueue .tm e with tiles := wTiles }) = false := by decide +kernel
/-- R45: an error that cannot be corrected leaves an instruction that is refused without effect. -/
theorem test_start_refused :
    let e := wEntry (.tld 1 1 2) [0x1FFFE0, 0]
    let s := wState (wQueue .tm e)
    (match exec (.engineStart 0 .tm .uncorrectable) s with | .next t => t == s.entryShape 0 .tm e | _ => false) = true := by decide +kernel

/-- EngineStarts, EngineCompletes: a tile transfer, plain and by the index register t2, whose rows are loaded, translate and are stored. -/
theorem witness_tile_transfers :
    ∀ o ∈ [Op.tld 1 1 2, .tldx 1 1 2 2, .tst 1 1 2, .tstx 1 1 2 2],
      let e := wEntry o [0x1FFFE0, 64]
      let k := { wQueue .tm e with tiles := wTiles }
      let s := wMapped k []
      let a := rowAddr 0x1FFFE0 64 (indexOf k o)
      let d := { e with started := true, done := true }
      (tldReg o = some 1 ∨ tstReg o = some 1) ∧ Starts s 0 .tm e ∧ transferShape (k.tile 1) (indexOf k o) = true ∧
      (k.tile 2).cfg.format = 6 ∧ 1 ≤ (k.tile 2).cfg.rows.toNat ∧ 2 ≤ (k.tile 2).cfg.rowLog2.toNat ∧
      (s.tldRows 0 1 a [0]).2 = none ∧ (s.tstFault 0 (k.tile 1) a [0]).2 = none ∧ ((s.load 0 (a 0) 33).2 = .ok (List.replicate 33 0)) ∧
      (s.tstRows 0 (k.tile 1) a [0]).2 = none ∧ (s.store 0 (a 0) (List.replicate 33 0)).2 = .ok () ∧
      ({ k with tmq := [d] } : Core).tmq[0]? = some d := by decide +kernel

/-- EngineStarts: an image of zeros is one that vx.tload accepts. -/
theorem memWrite_zeros (n : Nat) : ∀ a : Nat, memWrite [] a (List.replicate n 0) = [] := by
  induction n with
  | zero => exact fun _ => rfl
  | succ n ih => exact fun a => ih (a + 1)
theorem zero_image : imageOk [] = true := by decide +kernel
set_option maxRecDepth 100000 in
theorem witness_tload :
    let e := wEntry (.tload 1 31) [0x1FF000]
    let k := wQueue .vx e
    Starts (wMapped k []) 0 .vx e ∧ ((wMapped k []).load 0 0x1FF000 6208).2 = .ok (List.replicate 6208 0) ∧
    imageOk (memWrite [] 0 (List.replicate 6208 0)) = true := by
  refine ⟨by decide, by decide +kernel, ?_⟩
  rw [memWrite_zeros]
  exact zero_image

/-- EngineStarts: a descriptor of one 4-byte element at an address, and moves between two of them: inside both, from outside the source,
to outside the destination. -/
def wDesc (a : Nat) : BitVec 512 := BitVec.ofNat 512 (a + 2 * 2 ^ 48 + 2 ^ 50 + 2 ^ (64 + 40) + 7 * 2 ^ (6 * 64))
theorem witness_moves :
    ∀ o ∈ [Op.copy 0 1 true, .gather 0 1 2 3, .scatter 0 1 2 3],
      let e := wEntry o [1]
      let s := wMapped { wQueue .tm e with descs := [(0, wDesc 64), (1, wDesc 128), (2, wDesc 192)] } []
      let d := descOf (wDesc 64)
      let b := descOf (wDesc 128)
      let z : Index := [0, 0, 0, 0, 0]
      let far : Index := [1, 0, 0, 0, 0]
      Starts s 0 .tm e ∧ d.count = 1 ∧ (s.moveElems 0 b d d.width (fun n => (d.index n, d.index n)) [0] Moved.none).2.2 = none ∧
      (s.moveBlocks 0 b d (descOf (wDesc 192)) true [0] (2 ^ 32) Moved.none).2.2 = none ∧ d.inside z = true ∧ d.inside far = false ∧
      (s.load 0 (b.addr z) 4).2 = .ok [0, 0, 0, 0] ∧ (s.store 0 (d.addr z) (leBytes 4 7)).2 = .ok () := by decide +kernel

/-- EngineStarts: a tm.rput and a tm.rget to this device of a domain of its own, with no signal; a tm.ingest of one element. -/
theorem witness_remote :
    ∀ o ∈ [Op.rput 0 1 2 0 false 3, .rget 0 1 2 0 false 3, .ingest 0 1 false 0 0 2],
      let e := wEntry o [0xF0000, 64]
      let s := { wMapped { wQueue .tm e with descs := [(0, wDesc 64), (1, wDesc 128)] } [] with
        lt := { LineTime.reset with everLocked := true }, roster := ⟨1, 0, [⟨0, 0, 0, 0⟩], []⟩ }
      let dev : BitVec 16 := ((0xF0000 : Word).setWidth 16)
      s.preLock = false ∧ s.inRoster dev s.lineTime = true ∧ s.inRoster s.devId s.lineTime = true ∧ Starts s 0 .tm e ∧
      (descOf ((s.core 0).desc 0)).width ≠ 8 ∧ codeReserved 0 = false ∧ 0 < (descOf ((s.core 0).desc 0)).count ∧
      (descOf ((s.core 0).desc 1)).inside (ingestIndex (descOf ((s.core 0).desc 1)) 0 ((descOf ((s.core 0).desc 0)).index 0)) = true := by
  decide +kernel

/-- FaultRecorded: a first fault in a partition that runs, and a later one. -/
theorem witness_fault :
    (wState wCore).partOf 0 = some 0 ∧ ((wState wCore).part 0).state = .running ∧ ((wState wCore).part 0).enable = true ∧
    ((wState wCore).part 0).waitingEvents < 256 ∧ wCore.fault.valid = false ∧
    ({ wCore with fault := ⟨true, false, false, 0, 0, 0, 9, 0, 0⟩ } : Core).fault.valid = true := by decide

/-- ElementWise: an accumulator window of one row, from two tiles. -/
theorem witness_element_wise :
    let v : VecOps := { wVec with d := .win0, s1 := .tile 1, s2 := .scalar 2, w0 := ⟨1023, 1, 28, 4⟩ }
    let e := wEntry (.vec .add v) [5]
    let k := { wQueue .vx e with tiles := wTiles }
    Starts (wState k) 0 .vx e ∧ k.vecShape v.w0 v.w1 .win0 (v.sources .add) false v.packed = true := by decide
/-- ElementWise: a tile destination; a PACKED one; a table and a derivative slot; a fixed function and vx.rand. -/
theorem witness_map :
    ∀ o ∈ [Op.vec .add ⟨.tile 0, .tile 0, .scalar 2, .tile 0, true, false, Window.zero, Window.zero⟩,
      .act (.tile 0) (.tile 0) true 11 Window.zero Window.zero, .actd (.tile 0) (.tile 0) (.tile 0) true 5 Window.zero Window.zero,
      .fn .exp (.tile 0) (.tile 0) true Window.zero Window.zero, .rand (.tile 0) true Window.zero Window.zero],
      let e := wEntry o [5]
      let k := { wQueue .vx e with tiles := wTiles }
      Starts (wState k) 0 .vx e ∧ k.selDims Window.zero Window.zero (.tile 0) = some (1, 32) ∧
      k.vecShape Window.zero Window.zero (.tile 0) [.tile 0, .scalar 2] false false = true ∧
      k.vecShape Window.zero Window.zero (.tile 0) [.tile 0, .tile 0] false false = true ∧
      k.vecShape Window.zero Window.zero (.tile 0) [.tile 0] false false = true ∧
      k.vecShape Window.zero Window.zero (.tile 0) [] false false = true ∧ (k.vx.table 11).isSome = true := by decide
theorem witness_packed :
    let v : VecOps := ⟨.tile 3, .tile 3, .tile 3, .tile 0, false, true, Window.zero, Window.zero⟩
    let e := wEntry (.vec .mul v) []
    let k := { wQueue .vx e with tiles := [(3, ⟨⟨false, 4, 5, 2⟩, [], []⟩)] }
    Starts (wState k) 0 .vx e ∧ k.selDims Window.zero Window.zero (.tile 3) = some (2, 16) ∧
    k.vecShape Window.zero Window.zero (.tile 3) (v.sources .mul) false true = true := by decide
/-- ElementWise: each row instruction of one element. -/
theorem witness_rows :
    ∀ f ∈ [RowFn.norm, .normb, .smax, .smaxb],
      let r : RowOps := { wRow with xfmt := 5, dyfmt := 5, outfmt := 5 }
      let e := wEntry (.row f r) [0, 64, 128, 192, 256, 0x100000001, 0, 0]
      let s := wMapped (wQueue .vx e) []
      let x := s.streams 0 (rowN e) ((rowStreams e f r).1 ++ (rowStreams e f r).2)
      Starts s 0 .vx e ∧ rowShape e f r = true ∧ (match x.2 with | .ok _ => true | _ => false) = true ∧
      (x.1.storeRows 0 ((rowResults e f r (match x.2 with | .ok vs => vs | _ => [])).1.map fun o => (o.1, (x.1.core 0).rowOut e r o.2))).2 = none := by
  decide +kernel

/-- DotProducts: an mx.mm and an mx.ew of F8, F4 and W16 registers; the last row of an odd count of F4 rows stands alone. -/
theorem witness_dot :
    (∀ x ∈ [((2 : BitVec 4), 0), (1, 1), (4, 2)],
      let k := { wCore with tiles := [(0, ⟨⟨false, x.1, 7, 3⟩, [], []⟩), (4, ⟨⟨true, x.1, 9, 32⟩, [], []⟩)] }
      k.opClass (.mm 0 0 4 1021 true false true) = x.2 ∧ k.opClass (.ew 0 0 1021 true true) = x.2 ∧ k.runRows 0 0 = 3) ∧
    2 * 0 + 1 < 3 ∧ ¬ 2 * 1 + 1 < 3 ∧ (2 : Nat) < 4 := by decide

/-- ArrayEvents: a B load in flight; an mx.accld of one row before its read, and after it; a store whose rows are written. -/
theorem witness_b_load : ({ wCore with mx := { MxState.reset with bufs := [(1, { BBuf.empty with loading := true })] } } : Core).works = true ∧
    (({ MxState.reset with bufs := [(1, { BBuf.empty with loading := true })] } : MxState).buf 1).loading = true := by decide
theorem witness_waiting_ldb :
    let x : BBuf := { BBuf.empty with loading := true, first := 4 }
    wStarted (.ldb 4 false false) [] ∈ [wStarted (.ldb 4 false false) []] ∧ x.tagged 4 false false = true := by decide
/-- ArrayEvents: legal shapes of mx.mm, mx.mmq, mx.ew, mx.accld, mx.ldb and mx.st; each state of the B buffers. -/
def wArray : Tab Tile :=
  [(0, ⟨⟨false, 2, 7, 1⟩, [], []⟩), (1, ⟨⟨false, 2, 9, 1⟩, [], []⟩), (2, ⟨⟨false, 5, 9, 1⟩, [], []⟩)] ++
  [4, 5, 6, 7].map (fun t => (t, ⟨⟨true, 2, 9, 32⟩, [], []⟩)) ++ [8, 9, 10, 11].map (fun t => (t, ⟨⟨true, 2, 7, 128⟩, [], []⟩))
theorem witness_array_starts :
    ∀ o ∈ [Op.mm 0 0 4 1023 false false false, .mmq 8 8 false false false ⟨0, 0, 0⟩ ⟨0, 0, 0⟩ ⟨0, 0, 0⟩ ⟨0, 0, 1023⟩, .ew 1 1 1023 true false,
      .accld 2 1023 24, .ldb 8 false true, .mst 1 2 1023 1 28 4 1 false false true],
      let e := wEntry o [0, 0]
      let k := { wQueue .mx e with tiles := wArray }
      k.works = true ∧ Starts (wState k) 0 .mx e ∧ k.arrayShape o = true ∧ k.mx.match_ 4 false false = none ∧
      k.mx.loadOf 4 false false = none ∧ k.mx.isLoading = false := by decide
theorem witness_array_buffers :
    let b : BBuf := ⟨true, false, false, false, 4, 2, true⟩
    let m (b : BBuf) : MxState := { MxState.reset with bufs := [(1, b)] }
    (m b).match_ 4 false false = some 1 ∧ (m { b with valid := false, loading := true }).match_ 4 false false = none ∧
    (m { b with valid := false, loading := true }).loadOf 4 false false = some 1 ∧
    (m { b with valid := false, loading := true }).match_ 8 false true = none ∧
    (m { b with valid := false, loading := true }).loadOf 8 false true = none ∧
    (m { b with valid := false, loading := true }).isLoading = true := by decide
theorem witness_mst :
    let e := wEntry (.mst 1 2 1023 1 28 4 1 false false true) [0, 0]
    let s := wMapped (wQueue .mx e) []
    Starts s 0 .mx e ∧ mstShape 1023 1 28 4 1 false = true ∧
    (s.mstRows 0 (fun _ => 0) ((s.core 0).mstRow 1023 1 448 64 1 false false) [0]).2 = none := by decide +kernel
theorem witness_result :
    let j : ArrayJob := ⟨0, .accld 2 1023 24, 0, none, [(0, { QJob.none with rows := 1, reads := [(0, 0)] })]⟩
    let k := { wCore with tiles := wArray, mx := { MxState.reset with jobs := [j], clk := 1 } }
    k.works = true ∧ k.mx.writing = some j ∧ (j.at 0).written < (j.at 0).rows ∧ k.resultDue j 0 = true ∧
    (∀ i < 4, k.moves i (k.category i false) = true) ∧
    (let z := (k.bound j 0).foldl (fun z p => z.settle j [] p) k
     let asked := z.mx.requestAll (jobKey j 0) (fun port => z.others port []) (z.resultPorts j 0)
     asked.2 = true ∧ (k.bound j 0).any asked.1.refused = false) := by decide
/-- The write port of the sub-bank has been granted to another requester in this cycle. -/
theorem witness_result_refused :
    let j : ArrayJob := ⟨0, .accld 2 1023 24, 0, none, [(0, { QJob.none with rows := 1, reads := [(0, 0)] })]⟩
    let k := { wCore with tiles := wArray, mx := { MxState.reset with jobs := [j], clk := 1, grants := [(47, (1, 7))] } }
    k.mx.writing = some j ∧ k.resultDue j 0 = true ∧
    (let z := (k.bound j 0).foldl (fun z p => z.settle j [] p) k
     (z.mx.requestAll (jobKey j 0) (fun port => z.others port []) (z.resultPorts j 0)).2 = false) := by decide
theorem witness_accld :
    let j (r : List (Nat × Nat)) : List ArrayJob := [⟨0, .accld 0 1023 30, 0, none, [(0, { QJob.none with rows := 1, reads := r })]⟩]
    ({ wCore with mx := { MxState.reset with jobs := j [], clk := 1 } } : Core).works = true ∧ (0 : Nat) < 1 ∧
    (tabGet (0, 16) MxState.reset.grants 0).1 ≠ 1 ∧ (∀ port : Nat, (tabGet (0, 16) MxState.reset.grants port).1 ≠ 1) ∧
    (∀ i : Nat, tabGet 0 MxState.reset.runs i = 0) := by
  refine ⟨by decide, by decide, by decide, fun _ => Nat.zero_ne_add_one 0, fun _ => rfl⟩
/-- ArrayEvents: a row of an mx.mm that was read four cycles before, with its buffer loaded; cycles are withheld. -/
theorem witness_row_enters :
    let p : QJob := { QJob.none with rows := 1, reads := [(0, 0)] }
    p.accRefused = false ∧ p.enteredAt = [] ∧ 0 < p.rows ∧ (MxState.reset.buf 0).loading = false ∧
    (∃ u f, p.reads.head? = some (u, f) ∧ u + 4 ≤ 3 + 1) ∧ MxState.reset.wrote = false ∧ ({ Power.reset with thermalW := 1 }).thermalW ≠ 0 := by
  refine ⟨by decide, by decide, by decide, by decide, ⟨0, 0, by decide, by decide⟩, by decide, by decide⟩
theorem witness_fused_store :
    let e := wStarted (.mst 1 2 0 1 0 1 5 false false false) [0, 0]
    ({ wCore with mxq := [e] } : Core).works = true ∧ e.started = true ∧ e.done = false ∧ e.faulted = false := by decide

/-- EngineCompletes: a TM instruction with a result that waits behind another; a held up.setstep, and one that has no shard left. -/
theorem witness_engine_completes :
    let e : Entry := { wStarted (.rput 0 1 2 0 false 3) [] with done := true, result := some (3, 16) }
    let k := { wCore with tmq := [wStarted (.dset 0 1 2) [0], e] }
    k.works = true ∧ k.aborting = false ∧ (k.queue .tm)[1]? = some e ∧ e.done = true ∧ e.faulted = false ∧ e.draws = false ∧
    e.drops = 0 ∧ tstReg e.op = none ∧ e.result = some (3, 16) := by decide
theorem witness_held_update :
    let r : UpResume := ⟨1, 0, none, [], [], []⟩
    let e : Entry := { wStarted (.upsetstep 1 2 3) [0, 1, 7] with resume := some r }
    let k : Core := { wCore with vxq := [e], up := { UpState.reset with hold := true } }
    k.works = true ∧ k.up.hold = true ∧ k.vxq = [e] ∧ e.resume = some r ∧ r.places = [] ∧ e.done = false ∧ e.faulted = false ∧
    (e.args.getD 1 0).toNat % 2 ^ 32 ≤ 1 ∧ wCore.up.hold = false ∧ (∀ d ∈ wCore.vxq, d.resume = none) ∧
    ({ e with op := .upstep 1 2 3 4 5 6 } : Entry).resume = some r := by decide
/-- EngineCompletes: a vx.tload that is done; a sy.add whose message a flag-mode die holds. -/
theorem witness_vx_completes :
    let e : Entry := { wStarted (.tload 1 31) [0] with done := true }
    ({ wCore with vxq := [e] } : Core).vxq[0]? = some e ∧ e.drops = 0 ∧ tstReg e.op = none ∧ e.faulted = false := by decide
theorem witness_sync_held :
    let e := wStarted (.sadd 0 1 2) [5]
    let s := { wState { wCore with syq := [e] } with
      dies := [(0, { Die.reset with flagMode := true, sync := [⟨0, false, 7, 0, [(0, 5, none)]⟩] })] }
    (s.core 0).syq = [e] ∧ e.drops = 0 ∧ e.draws = false ∧ e.done = false ∧
    (s.die (dieOf 0)).sync = [⟨0, false, 7, 0, [(0, e.args.getD 0 0, none)]⟩] ∧ (s.part 0).waiters = [] ∧
    7 ≠ (s.part 0).sec.stepBaton.toNat ∧ 7 ≠ (s.part 0).sec.lossBaton.toNat := by decide
/-- EngineCompletes: the update instructions over a table of one shard whose descriptor is all zeros, and its rows of Table 6.4. -/
theorem witness_updates :
    ∀ o ∈ [Op.upsq 1 2 3 false 0, .upsq 1 2 3 true 4, .upstep 1 2 3 4 5 6, .upsetstep 1 2 3],
      let e := wEntry o [64, 1, 128, 0, 192]
      let s := wMapped (wQueue .vx e) []
      let h : Shard := shardOf 64 (List.replicate 64 0)
      Starts s 0 .vx e ∧ (match (s.cellTarget 0 128).2 with | .ok ds => ds == [(128, 4)] | .error _ => false) = true ∧
      (s.sqShards 0 64 [0] (.fin ⟨false, 0, 0⟩)).2 = .ok (.fin ⟨false, 0, 0⟩) ∧
      (s.load 0 192 64).2 = .ok (List.replicate 64 0) ∧ (s.setShards 0 64 128 [0]).2.1 = .ok ∧ h.formatsOk = false ∧
      (s.upWrite 0 [((h.at_ + 44) % 2 ^ 48, [Code.tileShape])]).2 = .ok ∧
      (s.upShards 0 64 (upParOf 128 0 (List.replicate 64 0)) [0] 0).2.1 = .ok := by decide +kernel
theorem witness_shard_rows :
    let h : Shard := { shardOf 64 (List.replicate 64 0) with pfmt := 4, afmt := 5, gfmt := 3 }
    let p : UpPar := upParOf 0 0x7FC00000 (List.replicate 64 0)
    h.formatsOk = true ∧ (h.step ≠ p.next ∧ h.step = p.e ∧ p.c = none) ∧ ({ h with step := 1 } : Shard).step = p.next ∧ h.cursor = 0 ∧
    h.status = 0 ∧ ({ h with step := 2 } : Shard).step ≠ p.e ∧ ({ h with step := 2 } : Shard).step ≠ p.next := by decide +kernel

/-- A core whose SY engine holds one entry, with handle b0 bound to a baton, in a partition with this sync image. -/
def wSync (e : Entry) (h : Option Word) (x : Part) : State :=
  { State.reset with cores := [(0, { wQueue .sy e with handles := [(0, h)] })], parts := [(0, x)], lt := { LineTime.reset with state := .locked } }

/-- SyncStarts: the handle of baton 65535, unbound, local, and remote, on partition 3 of device 0; the baton below and at the value; an idle barrier. -/
theorem witness_sync :
    let x := { wPart with sync := ⟨[(65535, 5)], []⟩, sec := { SecPart.reset with stepBaton := 1, lossBaton := 2 } }
    let e := wEntry (.sadd 0 1 2) [5]
    let w (v : Word) := wEntry (.swait 0 1 2 3) [v, 0]
    Starts (wSync e (some 0xFFFF) x) 0 .sy e ∧ ((wSync e (some 0xFFFF) x).core 0).syq = [e] ∧
    ((wSync e (some 0xFFFF) x).core 0).handle 0 = some 0xFFFF ∧ (0xFFFF : Word).getLsbD 36 = false ∧ x.waiters = [] ∧
    ((0xFFFF : Word).setWidth 16 : BitVec 16) ≠ x.sec.stepBaton ∧ ((0xFFFF : Word).setWidth 16 : BitVec 16) ≠ x.sec.lossBaton ∧
    ((wSync e none x).core 0).handle 0 = none ∧ ((wSync e (some 0x100003FFFF) x).core 0).handle 0 = some 0x100003FFFF ∧
    (0x100003FFFF : Word).getLsbD 36 = true ∧ Starts (wSync e (some 0x100003FFFF) x) 0 .sy e ∧
    ((w 5).args.getD 0 0).toNat ≤ (x.sync.baton ((0xFFFF : Word).toNat % 65536)).toNat ∧
    (x.sync.baton ((0xFFFF : Word).toNat % 65536)).toNat < ((w 6).args.getD 0 0).toNat ∧ (wSync (w 6) (some 0xFFFF) x).lt.state ≠ .seeking ∧
    (x.sync.bar 1023).arrived = 0 ∧ (x.sync.bar 1023).next = 0 := by decide

/-- SyncStarts, BarriersAndTimeouts: the sync store is reached, and with a routing whose every hop is None it is not. -/
theorem witness_sync_reached :
    let e := wEntry (.sadd 0 1 2) [5]
    let s := wSync e (some 0xFFFF) wPart
    let u := { s with consist := { Consist.boot with routing := some [] } }
    s.syncReaches 0 0 = true ∧ u.syncReaches 0 0 = false ∧ Starts u 0 .sy e ∧ (u.core 0).handle 0 = some 0xFFFF := by decide +kernel

/-- SyncStarts: the same on a die in flag mode, with nothing waiting in its crossbar. -/
theorem witness_sync_flag_mode :
    let e := wEntry (.sadd 0 1 2) [5]
    let s := { wSync e (some 0xFFFF) wPart with dies := [(0, { Die.reset with flagMode := true })] }
    Starts s 0 .sy e ∧ (s.core 0).syq = [e] ∧ (s.die (dieOf 0)).flagMode = true ∧ (s.die (dieOf 0)).sync = [] ∧
    (State.reset.die (dieOf 0)).flagMode = false := by decide

/-- BarriersAndTimeouts: each lap of a barrier, NEXT below and at COUNT; the last arrival; a wait with a deadline. -/
theorem witness_barrier :
    let b : Barrier := ⟨1, 2, 0, 0⟩
    Barrier.off.count = 0 ∧ b.count ≠ 0 ∧ b.next.toNat < b.count.toNat ∧ ({ b with next := 1 } : Barrier).count.toNat ≤ 1 ∧
    (4 : BitVec 63) ≠ b.lap ∧ (4 : BitVec 63) ≠ b.lap + 1 ∧ (4 : BitVec 63) ≠ b.lap - 1 := by decide
theorem witness_last_arrival :
    let x := { wPart with sync := ⟨[], [(1023, ⟨1, 2, 0, 0⟩)]⟩ }
    let e := wEntry (.sbar 1023 1 2 3) [2, 0]
    let s := wSync e none x
    Starts s 0 .sy e ∧ (s.core 0).syq = [e] ∧ s.partOf 0 = some 0 ∧ x.waiters = [] ∧ (x.sync.bar 1023).count = 1 ∧ (x.sync.bar 1023).arrived = 0 ∧
    (x.sync.bar 1023).next = 0 ∧ e.args.getD 0 0 = ((x.sync.bar 1023).lap).setWidth 64 ∧ e.args.getD 1 0 = 0 := by decide
theorem witness_wait_timeout :
    let w : Waiter := ⟨.core 0, .baton 1 6, some ⟨7, false⟩⟩
    let e := wStarted (.swait 0 1 2 3) [6, 7]
    let s := wSync e none { wPart with waiters := [w] }
    (s.part 0).waiters[0]? = some w ∧ w.deadline = some ⟨7, false⟩ ∧ w.who = .core (0 : CoreId).val ∧ (s.core 0).syq = [e] ∧
    e.op = .swait 0 1 2 3 ∧ (s.core 0).works = true ∧ s.comes ⟨7, false⟩ = true := by decide

/-! ## Witnesses: rings and commands -/

/-- A partition whose ring holds a command, its core 0 with logical number 0. -/
def wRing (x : Part) : State :=
  { State.reset with cores := [(0, { Core.reset with logical := some 0 })], parts := [(0, x)], start := { State.reset.start with nearZero := true } }

/-- A command of partition 0 with COMPLETE. -/
def wHdr : CmdHdr := ⟨0, 2, 7, 0, false, none⟩

/-- A command in progress. -/
def wCmd (opcode : BitVec 8) (k : CmdKind) : Cmd := ⟨0, opcode, 2, 7, 0, k, 0⟩

/-- The states that each command's statement needs: its ring takes it. -/
theorem witness_accepts :
    ([0x00, 0x0E, 0x01].all fun op => decide (Accepts (wRing { wPart with state := .idle }) wHdr op)) = true ∧
    ([0x02, 0x03, 0x04, 0x05, 0x0B, 0x0C, 0x0D, 0x0A].all fun op => decide (Accepts (wRing { wPart with state := .ready }) wHdr op)) = true ∧
    ([0x05, 0x07, 0x08].all fun op => decide (Accepts (wRing wPart) wHdr op)) = true ∧ Accepts (wRing { wPart with state := .faulted }) wHdr 0x06 := by
  decide

/-- RingDoorbell, CompletionDoorbell: the last value within the ring, and the first beyond it; a halted ring; the other port. -/
theorem witness_doorbell :
    let s := wRing wPart
    s.doorbellTaken 0 0 = true ∧ ¬ (2 ^ wPart.sizeLog2.toNat < ((64 : BitVec 32) - wPart.producer).toNat ∨ 2 ^ wPart.sizeLog2.toNat < ((64 : BitVec 32) - wPart.consumer).toNat) ∧
    (2 ^ wPart.sizeLog2.toNat < ((65 : BitVec 32) - wPart.consumer).toNat) ∧ wPart.halted = false ∧
    ((64 : BitVec 32) - 0).toNat ≤ 2 ^ wPart.sizeLog2.toNat ∧ (wPart.producer - wPart.mirror).toNat ≤ ((64 : BitVec 32) - wPart.mirror).toNat ∧
    (wPart.consumer - wPart.mirror).toNat ≤ (wPart.producer - wPart.mirror).toNat ∧
    (wRing { wPart with halted := true }).doorbellTaken 0 0 = true ∧ (wRing { wPart with enable := false }).doorbellTaken 0 0 = false ∧ wPart.host ≠ 1 ∧
    (wPart.cqProducer - (-64 : BitVec 32)).toNat ≤ 2 ^ wPart.cqLog2.toNat ∧ 2 ^ wPart.cqLog2.toNat < (wPart.cqProducer - (-65 : BitVec 32)).toNat := by decide

/-- CompletionDoorbell: a command has waited since 1,000 ns for the slot that a doorbell frees. -/
theorem witness_full_ring :
    let d : Due := ⟨false, ⟨7, 0x0D, 1, 0, 0, 0, false⟩, 3, 0⟩
    let x := { wPart with due := [d], cqProducer := 64, fullSince := some 1000 }
    x.fullSince = some 1000 ∧ (x.cqProducer - 1).toNat ≤ 2 ^ x.cqLog2.toNat ∧
    (∀ d ∈ x.due.drop (2 ^ x.cqLog2.toNat - (x.cqProducer - 1).toNat), d.isEvent = true) := by decide

/-- RefusedCommands: a record with a reserved opcode, and one with a byte of its payload that RESUME does not use. -/
theorem witness_refused_record :
    let bs (op x : Byte) : List Byte := op :: List.replicate 55 0 ++ [x]
    0x0F ≤ ((bs 0x0F 0).getD 0 0).toNat ∧ recordReserved (bs 0x06 1) = true ∧ (bs 0x06 1).getD 56 0 ≠ 0 ∧ recordReserved (bs 0x06 0) = false ∧
    (wRing { wPart with state := .idle }).ringReady (headerOf 0 (bs 0x0F 0)) 0x0F = true ∧ wHdr.badOp = none := by decide +kernel

/-- Records of 64 bytes written out from Tables 8.2 and 8.3, with the commands that they are (R190). -/
def wCommand (bs : List Byte) : List Byte := bs ++ List.replicate (64 - bs.length) 0
theorem test_record_bind :
    commandOf 3 (wCommand [0x01, 0x02, 0x34, 0x12, 0x05, 0, 0, 0, 0x07, 0x01, 0, 0, 0, 0, 0, 0, 0, 0x10, 0, 0, 0, 0, 0, 0]) [] =
      .bind ⟨3, 2, 0x1234, 5, false, none⟩ 0x0107 0x1000 := by decide +kernel
theorem test_record_launch :
    commandOf 0 (wCommand [0x05, 0x03, 1, 0, 0, 0, 0, 0, 63, 1, 0, 0, 0, 0, 0, 0, 0x40, 0, 0, 0, 0, 0, 0, 0, 0x01, 0, 0, 0, 0, 0, 0, 0x80]) [] =
      .launch ⟨0, 3, 1, 0, false, none⟩ 63 true 64 0x8000000000000001 := by decide +kernel
theorem test_record_copy :
    commandOf 0 (wCommand [0x0B, 0x02, 1, 0, 0, 0, 0, 0, 2, 0, 0, 0, 0, 0, 0, 0, 0x20, 0, 0, 0, 0, 0, 0, 0, 0x40, 0, 0, 0, 0, 0, 0, 0,
      0x80, 0, 0, 0, 0, 0, 0, 0]) [] = .copy ⟨0, 2, 1, 0, false, none⟩ 2 0x20 0x40 0x80 [] := by decide +kernel
theorem test_record_signal :
    commandOf 0 (wCommand [0x0C, 0x02, 1, 0, 0, 0, 0, 0, 0xFF, 0xFF, 0x07, 0, 0, 0, 0, 0, 9]) [] =
      .signal ⟨0, 2, 1, 0, false, none⟩ 0xFFFF 7 9 := by decide +kernel

/-- RefusedCommands: a halted ring; a reserved bit of the header, bit 4 of FLAGS; a slot number of 64; UNBIND in IDLE. -/
theorem witness_refused :
    (wRing { wPart with halted := true }).ringReady wHdr 0x00 = false ∧
    (wRing { wPart with state := .idle }).ringReady { wHdr with reserved := true } 0x00 = true ∧
    (wRing { wPart with state := .idle }).ringReady { wHdr with flags := 16 } 0x00 = true ∧ 16 ≤ (16 : BitVec 8).toNat ∧
    Accepts (wRing wPart) wHdr 0x04 ∧ Instr.payloadOk (.unload wHdr 64) = false ∧ Instr.payloadOk (.unload wHdr 63) = true ∧
    Accepts (wRing { wPart with state := .idle }) wHdr 0x02 ∧ wrongIn 0x02 .idle = true ∧ (Instr.unbind wHdr).command = some (wHdr, 0x02) := by decide

/-- CommandsComplete: a WAIT in progress, with and without COMPLETE and INTERRUPT. -/
theorem witness_completes :
    wPart.enable = true ∧ Part.reset.enable = false ∧ ∀ f ∈ [(0 : BitVec 8), 2, 4],
      ((wRing { wPart with cmds := [{ wCmd 0x0D (.wait 0 1) with flags := f }] }).part 0).cmds.find? (fun m => m.seq == 0) =
        some { wCmd 0x0D (.wait 0 1) with flags := f } := by
  refine ⟨by decide, by decide, by decide⟩

/-- LoadAndUnload: a slot of no launch; images without a word, whose code area is one byte short, and one that the translator rejects. -/
theorem witness_load_command :
    let k (room : Nat) : Cmd := wCmd 0x03 (.load 63 0 room [])
    let s := wRing { wPart with cmds := [k 4096] }
    wPart.slotUsed 63 = false ∧ (4095 : Nat) < 16 * imageNat [] 12 4 + 4096 ∧ 16 * imageNat [] 12 4 + 4096 ≤ 4096 ∧
    (s.part 0).cmds = [k 4096] ∧ (match s.translate [] with | .error _ => true | .ok _ => false) = true := by decide

/-- LaunchStarts: slot 63 is loaded, core 0 is idle. -/
theorem witness_launch :
    let s := wRing { wPart with state := .ready, slots := [(63, some ⟨[⟨Guard.always, .endK⟩], 0, 1, 0⟩)] }
    Accepts s wHdr 0x05 ∧ Instr.payloadOk (.launch wHdr 63 true 64 1) = true ∧ (tabGet none (s.part 0).slots 63).isSome = true ∧
    (∀ n : Nat, (1 : BitVec 256).getLsbD n = true → s.insidePart 0 n = true ∧ ∃ c : Nat, s.physical n = some c ∧ (s.core c).works = true ∧
      (s.core c).kernel = none) ∧ (s.part 0).cmds = [] := by
  refine ⟨by decide, by decide, by decide, fun n h => ?_, by decide⟩
  have : n = 0 := by simpa using h
  subst this
  exact ⟨by decide +kernel, 0, by decide +kernel, by decide, by decide⟩

/-- DeferredStartAndWords: a launch that waits, whose core is idle; a core that runs a kernel of 512 words. -/
theorem witness_deferred :
    let l : LaunchInfo := ⟨63, false, 0, [0], [0], false, 0⟩
    let s := wRing { wPart with cmds := [wCmd 0x05 (.launch l)] }
    (s.part 0).cmds = [wCmd 0x05 (.launch l)] ∧ l.started = false ∧ (s.part 0).state = .running ∧
    ∀ n ∈ l.cores, ∃ d : Nat, s.physical n = some d ∧ (s.core d).kernel = none := by
  refine ⟨by decide, by decide, by decide, fun n h => ⟨0, ?_, by decide⟩⟩
  have : n = 0 := by simpa using h
  subst this
  decide +kernel
theorem witness_words :
    let x : KSlot := ⟨List.replicate 512 ⟨Guard.always, .nopK⟩, 0, 1, 0⟩
    let s := { wState wCore with parts := [(0, { wPart with slots := [(0, some x)] })] }
    (s.core 0).works = true ∧ (s.core 0).kernel = some ⟨0, 0, 0, 1, 0, false, 0⟩ ∧ s.partN 0 = 0 ∧ (s.core 0).platform = [] ∧
    0 + 1 ≤ x.ops.length ∧ tabGet none (s.part 0).slots 0 = some x ∧ ((List.range 1).map fun j => opWords (0 + j)).sum ≤ 512 ∧
    (s.core 0).nativeWords ≤ 512 := by
  refine ⟨by decide, by decide, by decide +kernel, by decide, by decide +kernel, by decide +kernel, ?_, by decide⟩
  show min 512 (1 + Config.nativeWords 0) + 0 ≤ 512
  omega

/-- ResumePreemptResetAbort, SavesAndResetsEnd: a faulted core; the states of each command; a save and a reset of a partition with
one core; a parked context. -/
theorem witness_resume :
    let s := { wRing { wPart with state := .faulted } with
      cores := [(0, { wCore with run := .faulted, fault := ⟨true, false, false, 0, 0, 0, 9, 0, 0⟩ })] }
    Accepts s wHdr 0x06 ∧ s.coreTestRuns 0 = false ∧ s.faultedCores 0 = [0] := by decide +kernel
theorem witness_preempt_reset :
    let x := { wPart with state := .ready }
    Accepts (wRing x) wHdr 0x08 ∧ x.canPreempt = true ∧ Accepts (wRing x) wHdr 0x0A ∧ x.bound = some ⟨7, 0⟩ ∧ x.cmds = [] ∧ x.waiters = [] ∧
    x.sec.gen = none := by decide
theorem witness_abort :
    let s := { wRing wPart with cores := [(0, { wCore with seqBusy := true })] }
    Accepts s wHdr 0x07 ∧ (s.part 0).cmds = [] ∧ (s.part 0).waiters = [] ∧ s.coresOf 0 = [0] ∧ (s.core 0).kernel.isSome = true ∧
    (s.core 0).executing = true ∧ ((wRing wPart).core 0).kernel = none ∧ (wRing wPart).coresOf 0 = [0] := by decide +kernel

/-- ResumePreemptResetAbort: a LAUNCH and a WAIT of the host in progress, with nothing in the crossbars. -/
def wLaunchWait : State :=
  { wRing { wPart with
      cmds := [wCmd 0x05 (.launch ⟨0, false, 0, [0], [0], true, 0⟩), { wCmd 0x0D (.wait 9 6) with index := 1, tag := 8, seq := 1 }]
      nextCmd := 2
      waiters := [⟨.host 1, .baton 9 6, some ⟨50, false⟩⟩], sync := ⟨[(9, 5)], []⟩ } with cores := [(0, wCore)] }
theorem witness_launch_wait :
    let s := wLaunchWait
    let x := s.part 0
    x.cmds.map (·.seq) = [0, 1] ∧ x.waiters = [⟨.host 1, .baton 9 6, some ⟨50, false⟩⟩] ∧ (∀ d : Nat, (s.die d).syncFor 0 = []) ∧
    Accepts s wHdr 0x07 ∧ Accepts s wHdr 0x0A ∧ x.state = .running ∧ x.bound = some ⟨7, 0⟩ ∧ x.sec.gen = none ∧ s.coresOf 0 = [0] := by
  refine ⟨by decide, by decide, fun _ => rfl, by decide, by decide, by decide, by decide, by decide, by decide +kernel⟩
/-- Table 8.6: at RESET a WAIT ends with OWNER_LOST and its baton's value, a LAUNCH with OWNER_LOST; at ABORT the WAIT goes on. -/
theorem test_launch_wait :
    (match exec (.reset wHdr false) wLaunchWait with
      | .next t => (t.part 0).due.map (fun d => (d.rec_.tag, d.rec_.status, d.rec_.info)) == [(8, 0x06, 5), (7, 0x06, 0)] && (t.part 0).waiters == []
      | _ => false) = true ∧
    (match exec (.abort wHdr) wLaunchWait with
      | .next t => ((t.part 0).due.head?.map fun d => (d.rec_.tag, d.rec_.status)) == some (7, 0x06) && (t.part 0).waiters == (wLaunchWait.part 0).waiters
      | _ => false) = true := by decide +kernel

/-- Every core of a device with one core that works does so. -/
theorem all_work (k : Core) (h : k.works = true) (s : State) (e : s.cores = [(0, k)]) (c : Nat) : (s.core c).works = true := by
  unfold State.core
  rw [e]
  cases c with
  | zero => exact h
  | succ n => rfl

theorem witness_save :
    let k := wCmd 0x08 .preempt
    let s := { wRing { wPart with state := .quiescing, cmds := [k] } with cores := [(0, wCore)] }
    (∀ c : Nat, (s.core c).works = true) ∧ (s.part 0).bound = some ⟨7, 0⟩ ∧ k.kind = .preempt ∧ s.coresOf 0 = [0] ∧ (s.core 0).quiet = true ∧
    (s.core 0).l1 = L1.empty ∧ (s.core 0).fault.valid = false := by
  refine ⟨fun c => all_work wCore rfl _ rfl c, ?_⟩
  decide +kernel
theorem witness_restore :
    let y : Parked := ⟨⟨7, 0⟩, .running, [(0, wCore)], ⟨[(1, 5)], []⟩, [], [], [], []⟩
    let x := { wPart with state := .idle, parked := some y, parkedKey := some 1 }
    Accepts (wRing x) wHdr 0x09 ∧ x.parkedKey.isSome = true ∧ y.cores = [(0, wCore)] ∧ (wRing x).physical 0 = some 0 ∧ wCore.vx.slots = [] ∧
    y.waiters = [] := by decide +kernel
theorem witness_reset :
    let s := { wRing { wPart with state := .resetting } with cores := [(0, { wCore with halted := true })] }
    (s.part 0).wiping = false ∧ s.coresOf 0 = [0] ∧ (s.core 0).executing = false ∧ (s.core 0).works = true := by decide +kernel

/-- SavesAndResetsEnd: the cores of the partition have logical numbers of their own. -/
theorem witness_save_numbers :
    let s := { wRing { wPart with state := .quiescing, key := some 5 } with cores := [(0, wCore)] }
    (∀ c ∈ s.coresOf 0, (s.core c).logical.isSome = true) ∧
    (∀ c ∈ s.coresOf 0, ∀ d ∈ s.coresOf 0, (s.core c).logical = (s.core d).logical → c = d) ∧ (s.part 0).state = .quiescing ∧
    (s.part 0).key = some 5 := by decide +kernel
theorem witness_restore_banks :
    let k := { wCore with powered := 1 }
    (∀ c : Nat, ((wRing wPart).core c).works = true) ∧ k.powered.getLsbD (7 / 8) = true ∧ k.powered.getLsbD (8 / 8) = false ∧
    (wRing { wPart with state := .resetting }).coresOf 0 = [0] ∧ ((wRing { wPart with state := .resetting }).part 0).state = .resetting := by
  refine ⟨fun c => all_work { Core.reset with logical := some 0 } rfl _ rfl c, ?_⟩
  decide +kernel

/-- CopySignalWait: a COPY of 32 bytes to a granule that is mapped; batons below and at VALUE. -/
theorem witness_copy :
    let d : List Byte := List.replicate 32 7
    let s := { wMapped Core.reset [] with parts := [(0, { wPart with cmds := [wCmd 0x0B (.copy 0 0 64 32 d)] })] }
    Accepts (wRing wPart) wHdr 0x0B ∧ Instr.payloadOk (.copy wHdr 2 0 64 (2 ^ 40) d) = true ∧ (s.part 0).cmds = [wCmd 0x0B (.copy 0 0 64 d.length d)] ∧
    (64 : Word).toNat % 32 + d.length ≤ 32 ∧ (s.ctxWrite 0 (64 : Word).toNat d false).2 = .ok () := by decide +kernel
theorem witness_signal_wait :
    let x := { wPart with sync := ⟨[(65535, 5)], []⟩, sec := { SecPart.reset with stepBaton := 1, lossBaton := 2 } }
    Accepts (wRing x) wHdr 0x0C ∧ x.bound = some ⟨7, 0⟩ ∧ x.waiters = [] ∧ (65535 : BitVec 16) ≠ x.sec.stepBaton ∧ (65535 : BitVec 16) ≠ x.sec.lossBaton ∧
    Accepts (wRing x) wHdr 0x0D ∧ (5 : Word).toNat ≤ (x.sync.baton 65535).toNat ∧ (x.sync.baton 65535).toNat < (6 : Word).toNat := by decide

/-- RecordsAndInterrupts: a full completion ring has no room, one with one free slot has; MSI-X off, on and masked, on and unmasked. -/
theorem witness_records :
    let d : Due := ⟨false, ⟨7, 0x0D, 1, 0, 0, 0, false⟩, 3, 0⟩
    let x := { wPart with due := [d], cqProducer := 63 }
    x.due = d :: [] ∧ d.isEvent = false ∧ x.enable = true ∧ (x.cqProducer - x.cqConsumer).toNat < 2 ^ x.cqLog2.toNat ∧
    ¬ (({ x with cqProducer := 64 } : Part).cqProducer - x.cqConsumer).toNat < 2 ^ x.cqLog2.toNat ∧
    d.flags.getLsbD 0 = true ∧ d.rec_.status ≠ 0 ∧ x.halted = false := by decide
theorem witness_interrupts :
    setHas Pcie.reset.msixOn 0 = false ∧
    (let x : Pcie := { Pcie.reset with msixOn := [0] }
     setHas x.msixOn 0 = true ∧ setHas x.unmasked (4096 * 0 + 255) = false) ∧
    (let x : Pcie := { Pcie.reset with msixOn := [1], unmasked := [4096 + 111] }
     setHas x.msixOn 1 = true ∧ setHas x.maskAll 1 = false ∧ setHas x.unmasked (4096 * 1 + 111) = true) := by decide

theorem witness_event_record :
    let d : Due := ⟨true, ⟨7, 0xFF, 9, 0xFFFFFFFF, 0, 0, false⟩, 0, 200⟩
    d.isEvent = true ∧ wPart.state ≠ .absent ∧ wPart.enable = true ∧ wPart.waitingEvents < 256 ∧
    (let x : Pcie := { Pcie.reset with sriov := true, numVFs := 1 }; x.sriov = true ∧ 0 < x.numVFs) := by decide

/-- PartitionPage: a ring that is disabled in IDLE with an event waiting; a VF that exists. -/
theorem witness_page_falls :
    let d : Due := ⟨true, ⟨7, 0xFF, 9, 0xFFFFFFFF, 0, 0, false⟩, 0, 200⟩
    let x := { wPart with state := .idle, due := [d] }
    x.enable = true ∧ x.cmds = [] ∧ (∀ d ∈ x.due, d.isEvent = true) ∧ x.fullSince = none ∧
    (let s := { wRing x with pcie0 := { Pcie.reset with sriov := true, numVFs := 1 } }
     (s.pcie x.host).sriov = true ∧ 0 + 1 ≤ (s.pcie x.host).numVFs) ∧ ((wRing x).pcie x.host).sriov = false := by decide

/-- PartitionPage: the rings disabled, enabled in IDLE, enabled and running. -/
theorem witness_page :
    let s := wRing { wPart with enable := false, state := .idle }
    (s.part 0).enable = false ∧ s.isAbsent 0 = false ∧ (1 : Word).getLsbD 0 = true ∧ (0 : Word).getLsbD 0 = false ∧
    ({ wPart with state := .idle } : Part).enable = true ∧ ({ wPart with state := .idle } : Part).cmds = [] ∧ wPart.state ≠ .idle ∧
    State.reset.isAbsent 0 = true ∧ wPart.canPreempt = true ∧ wPart.bound.isSome = true ∧ wPart.state.isBound = true ∧
    (Part.reset).canPreempt = false ∧ wPart.host = 0 ∧ wPart.host ≠ 1 := by decide

/-- Translation: a page that is mapped, one without the permission, and a context with no grant. -/
theorem witness_translation :
    let s := wMapped wCore []
    let t : Tlb := ⟨0, 30, true, true⟩
    (match s.lookup 0 0x3FFFFF with | .ok u => u == t | .error _ => false) = true ∧ s.granted 0 0x3FFFFF = true ∧ s.populated 0x3FFFFF = true ∧
    (match { s with mem := [(0, 0x07)] }.lookup 0 0x3FFFFF with | .ok u => u == ⟨0, 30, true, false⟩ | .error _ => false) = true ∧
    (match (wState wCore).lookup 0 0 with | .error n => n == 3 | .ok _ => false) = true ∧ ({ wPart with inval := true } : Part).inval = true := by decide

/-- Translation: each cause of a walk and of a page; the first address outside the grants, and near memory that is not yet zeroed. -/
theorem witness_translation_causes :
    let s := wMapped wCore []
    let far := { wMapped wCore [] with mem := [(0, 0x0F), (3, 0x80)] }
    let hole := { wMapped wCore [] with consist := { Consist.boot with grants := [⟨0x12000000000, 2, 0⟩] } }
    s.granted 0 0x400000 = false ∧ s.granted 0 0 = true ∧ s.populated 0 = true ∧
    hole.granted 0 0x12000000000 = true ∧ hole.populated 0x12000000000 = false ∧
    ({ s with poison := [0] } : State).poisoned 0 = true ∧ s.poisoned 0 = false ∧ memNat s.mem (alias_ 0) 8 % 4 = 3 ∧
    memNat [] (alias_ 0) 8 % 2 = 0 ∧ (s.part 0).tlb = [] ∧ (s.part 0).bound = some ⟨7, 0⟩ ∧
    (match far.lookup 0 0 with | .ok u => u == ⟨0x80000000, 30, true, true⟩ && !far.granted 0 0x80000000 | .error _ => false) = true := by decide

/-! ### A translation that writes its native words -/

/-- The image of a kernel of one instruction, sq.end: header (Table 7.13), code. -/
def wImage : List Byte :=
  let code := leBytes 8 (encodeOp false ⟨Guard.always, .endK⟩).1
  leBytes 4 0x53495645 ++ [0x10, 0, 0, 0] ++ leBytes 4 1 ++ leBytes 4 1 ++ [0, 0, 0, 0] ++ leBytes 4 0 ++
    leBytes 4 (crc32 code).toNat ++ leBytes 4 0 ++ code

/-- A LOAD of it into slot 63, with a code area at 4,096 that the context maps. -/
def wLoading (n : Nat) (d : Tab Die) (l : Tab Tlb) : State :=
  { wMapped Core.reset [] with
    parts := [(0, { wPart with cmds := [wCmd 0x03 (.load 63 0x1000 4112 wImage)], tlb := l })], dies := d, freeCtr := n }

theorem wLoading_lookup (n : Nat) (d : Tab Die) (l : Tab Tlb) (h : ∀ e ∈ l, e.2 = ⟨0, 30, true, true⟩) (a : Nat) (ha : a < 2 ^ 22) :
    (wLoading n d l).lookup 0 a = .ok ⟨0, 30, true, true⟩ := by
  have he : (wLoading n d l).tableEntry 0 0 = .ok 15 := by
    have hg : (wLoading n d l).granted 0 0 = true := rfl
    have hp : (wLoading n d l).populated 0 = true := by simp [State.populated, inNear]
    have hq : (wLoading n d l).poisoned 0 = false := rfl
    have hm : memNat (wLoading n d l).mem (alias_ 0) 8 = 15 := by
      change memNat [(0, 0x0F)] (alias_ 0) 8 = 15
      decide
    unfold State.tableEntry
    rw [hg, hp, hq, hm]
    rfl
  have hw : (wLoading n d l).walk 0 0 a = .ok ⟨0, 30, true, true⟩ := by
    have h0 : 0 % 2 ^ 48 / 4096 * 4096 + 8 * (a / 2 ^ 30) = 0 := by omega
    unfold State.walk
    rw [h0, he]
    rfl
  have hb : ((wLoading n d l).part 0).bound = some ⟨7, 0⟩ := rfl
  have ht : ((wLoading n d l).part 0).tlb = l := rfl
  have h0 : (0 : Word).toNat = 0 := rfl
  unfold State.lookup
  simp only [hb, ht, h0, hw]
  cases hf : l.find? (fun t => t.1 == a / 2 ^ 21) with
  | none => rfl
  | some t => simp only [h t (List.mem_of_find?_eq_some hf), ite_self]

theorem wLoading_xlat (n : Nat) (d : Tab Die) (l : Tab Tlb) (h : ∀ e ∈ l, e.2 = ⟨0, 30, true, true⟩) (a : Nat) (ha : a < 2 ^ 22) :
    ∃ m ds, (wLoading n d l).xlat 0 a true = (wLoading m ds (tabPut l (a / 2 ^ 21) ⟨0, 30, true, true⟩), some a) := by
  have hm : a % 2 ^ 30 = a := Nat.mod_eq_of_lt (by omega)
  have hg (m : Nat) (ds : Tab Die) : (wLoading m ds (tabPut l (a / 2 ^ 21) ⟨0, 30, true, true⟩)).granted 0 a = true := by
    have e : alias_ a = a := by simp [alias_, inReduce]; omega
    simp [State.granted, e, inFar, wLoading, wMapped]
    omega
  have hp (m : Nat) (ds : Tab Die) : (wLoading m ds (tabPut l (a / 2 ^ 21) ⟨0, 30, true, true⟩)).populated a = true := by
    simp [State.populated, inNear]
    omega
  refine ⟨((wLoading n d l).walkReads 0 a).freeCtr, ((wLoading n d l).walkReads 0 a).dies, ?_⟩
  unfold State.xlat
  rw [wLoading_lookup n d l h a ha]
  simp only [hm, Nat.zero_add]
  have hs : ((wLoading n d l).walkReads 0 a).modPart 0 (fun x => { x with tlb := tabPut x.tlb (a / 2 ^ 21) ⟨0, 30, true, true⟩ }) =
    wLoading ((wLoading n d l).walkReads 0 a).freeCtr ((wLoading n d l).walkReads 0 a).dies
      (tabPut l (a / 2 ^ 21) ⟨0, 30, true, true⟩) := rfl
  rw [hs, hg, hp]
  rfl

theorem tabPut_all {α : Type} (x : α) (l : Tab α) (h : ∀ e ∈ l, e.2 = x) (n : Nat) : ∀ e ∈ tabPut l n x, e.2 = x := by
  induction l with
  | nil => simp [tabPut]
  | cons y t ih =>
    intro e he
    unfold tabPut at he
    split at he
    · rcases List.mem_cons.1 he with rfl | he
      · rfl
      · exact h e (List.mem_cons_of_mem _ he)
    · split at he
      · rcases List.mem_cons.1 he with rfl | he
        · rfl
        · exact h e he
      · rcases List.mem_cons.1 he with rfl | he
        · exact h _ (List.mem_cons_self ..)
        · exact ih (fun e he => h e (List.mem_cons_of_mem _ he)) e he

theorem wLoading_xlatAll (ps : List (Nat × Nat)) (hp : ∀ q ∈ ps, q.1 < 2 ^ 22) :
    ∀ (n : Nat) (d : Tab Die) (l : Tab Tlb), (∀ e ∈ l, e.2 = ⟨0, 30, true, true⟩) →
      ∃ u ds, (wLoading n d l).xlatAll 0 true ps = (u, .ok ds) ∧ u.fabric = State.reset.fabric ∧ u.consist.routing = none := by
  induction ps with
  | nil => exact fun _ _ l _ => ⟨_, _, rfl, rfl, rfl⟩
  | cons q t ih =>
    intro n d l h
    obtain ⟨m, ds, hx⟩ := wLoading_xlat n d l h q.1 (hp q (List.mem_cons_self ..))
    obtain ⟨u, rs, e, k⟩ := ih (fun q hq => hp q (List.mem_cons_of_mem _ hq)) m ds _ (tabPut_all _ l h (q.1 / 2 ^ 21))
    refine ⟨u, (q.1, q.2) :: rs, ?_, k⟩
    unfold State.xlatAll
    rw [hx]
    simp only [e]

/-- With nothing fenced, and the default routing, an agent reaches every address. -/
theorem reached_addr (s : State) (hf : s.fabric = State.reset.fabric) (hr : s.consist.routing = none) (j a : Nat) :
    s.reachesAddr j a = true := by
  have h (j k : Nat) : s.reaches j k = true := by
    unfold State.reaches
    rw [hf, hr]
    have : setDel State.reset.fabric.fenced k = [] := rfl
    simp [this]
  unfold State.reachesAddr
  split <;> simp [h]
theorem all_reached (s : State) (hf : s.fabric = State.reset.fabric) (hr : s.consist.routing = none) (p a : Nat) : s.agentReaches p a = true := by
  unfold State.agentReaches
  simp only [reached_addr s hf hr _ a]
  decide
theorem none_cut (s : State) (hf : s.fabric = State.reset.fabric) (hr : s.consist.routing = none) (p : Nat) :
    ∀ ps ds : List (Nat × Nat), s.agentCut p ps ds = none := by
  intro ps
  induction ps with
  | nil => intro ds; cases ds <;> rfl
  | cons q t ih =>
    intro ds
    cases ds with
    | nil => rfl
    | cons d ds =>
      obtain ⟨a, n⟩ := q
      obtain ⟨d, k⟩ := d
      unfold State.agentCut
      rw [all_reached s hf hr p d]
      exact ih ds

theorem pieces_below (b : Nat) (hb : b ≤ 2 ^ 22) (fuel : Nat) : ∀ a n : Nat, a + n ≤ b → ∀ q ∈ pieces fuel a n, q.1 < b := by
  induction fuel with
  | zero => intro a n _ q hq; cases hq
  | succ f ih =>
    intro a n h q hq
    unfold pieces at hq
    split at hq
    · cases hq
    · have hm : a % 2 ^ 48 = a := Nat.mod_eq_of_lt (by omega)
      simp only [hm] at hq
      rcases List.mem_cons.1 hq with rfl | hq
      · simp only; omega
      · exact ih _ _ (by omega) q hq

/-- LoadAndUnload: the image translates, and its native words, however many, are written. -/
theorem witness_translated :
    let s := wLoading 0 [] []
    let n := codeUsed (imageNat wImage 12 4)
    (s.part 0).cmds = [wCmd 0x03 (.load 63 0x1000 4112 wImage)] ∧ 16 * imageNat wImage 12 4 + 4096 ≤ 4112 ∧
    (match s.translate wImage with | .ok ops => ops == [⟨Guard.always, .endK⟩] | .error _ => false) = true ∧
    ∃ u, (s.ticks (n + 1)).ctxWrite 0 ((0x1000 : Word).toNat % 2 ^ 48) (s.freeBytes n) false = (u, .ok ()) := by
  refine ⟨by decide +kernel, by decide +kernel, by decide +kernel, ?_⟩
  have hn : codeUsed (imageNat wImage 12 4) ≤ 4112 := by
    have : imageNat wImage 12 4 = 1 := by decide +kernel
    rw [this]
    exact Nat.min_le_right _ _
  generalize codeUsed (imageNat wImage 12 4) = n at hn
  have hl : ((wLoading 0 [] []).freeBytes n).length = n := by simp [State.freeBytes]
  obtain ⟨u, ds, e, hf, hr⟩ := wLoading_xlatAll (piecesOf 0x1000 n)
    (fun q hq => by have := pieces_below (2 ^ 22) (Nat.le_refl _) _ 0x1000 n (by omega) q hq; exact this) (n + 1) [] [] (by simp)
  have hs : (wLoading 0 [] []).ticks (n + 1) = wLoading (n + 1) [] [] := by simp [State.ticks, wLoading]
  have ha : (0x1000 : Word).toNat % 2 ^ 48 = 0x1000 := by decide
  unfold State.ctxWrite
  rw [hl, hs, ha, e]
  simp only [none_cut u hf hr]
  exact ⟨_, rfl⟩

/-! ## Witnesses: memory, slices, errors -/

/-- A device that has fenced no row. -/
theorem none_fenced (s : State) (h : s.memStacks = []) (a : Nat) : s.rowFenced a = false := by
  unfold State.rowFenced State.stack
  rw [h]
  cases stackOf a <;> rfl

/-- A device that has replaced no row. -/
theorem none_fresh (s : State) (h : s.memStacks = []) (a : Nat) : s.rowFresh a = false := by
  unfold State.rowFresh State.stack
  rw [h]
  cases stackOf a <;> rfl

/-- MemoryWrites: the last bytes of near memory; a BAR4 window of 1 GiB that shows its base, and an access past its end; a line of L1
with a byte written. -/
theorem witness_memory_writes :
    let s := State.reset
    let d : List Byte := [1, 2]
    (0x12000000000 - 2) + d.length ≤ 0x12000000000 ∧ (∀ b : Nat, 0x12000000000 - 2 ≤ b → b < 0x12000000000 - 2 + d.length → s.rowFenced b = false) ∧
    (0x3FFFFFFE : Nat) + d.length ≤ s.bar4Size 0 ∧ s.bar4Size 0 < 0x3FFFFFFF + d.length ∧
    s.bar4Base.toNat / s.bar4Size 0 * s.bar4Size 0 + 0x3FFFFFFE = 0x3FFFFFFE := by
  refine ⟨by decide, fun b _ _ => none_fenced _ rfl b, by decide, by decide, by decide⟩
/-- MemoryWrites: a path is left from a host's port, and from a core to a slice of its own die. -/
theorem witness_paths :
    let s := { State.reset with fabric := { State.reset.fabric with linkUp := List.range 13 } }
    (∀ b ∈ [0x3FFFFFFE, 0x3FFFFFFF], s.reachesAddr (portJunction 26) b = true) ∧ s.coreReaches 0 0 = true := by decide +kernel
theorem witness_eviction :
    let s := wState { wCore with l1 := ⟨[0x23FFFFFFF], [(0x11FFFFFFFFF, 5)], [0x11FFFFFFFFF], []⟩ }
    (s.core 0).works = true ∧ 0x23FFFFFFF ∈ (s.core 0).l1.lines ∧ 128 * 0x23FFFFFFF + 128 ≤ 0x12000000000 ∧
    (∀ b : Nat, b / 128 = 0x23FFFFFFF → s.rowFenced b = false) ∧
    { s with fabric := { s.fabric with linkUp := List.range 13 } }.coreReaches 0 (128 * 0x23FFFFFFF) = true := by
  refine ⟨by decide, by decide, by decide, fun b _ => none_fenced _ rfl b, by decide +kernel⟩
theorem witness_evicted_poison :
    let l : L1 := ⟨[0x23FFFFFFF], [(0x11FFFFFFFFF, 5)], [0x11FFFFFFFFF], [0x8FFFFFFFF]⟩
    0x11FFFFFFFFF ∈ l.dirty ∧ 0x11FFFFFFFFF / 128 = 0x23FFFFFFF ∧ setHas l.poison (0x11FFFFFFFFF / 32) = true := by decide

/-- SliceReads: the 8th cycle after a group's first read, by a port that has not read the line; a cached line, and one that is not. -/
theorem witness_slice_reads :
    let g : ReadGroup := ⟨1, [0], 2, List.replicate 128 0⟩
    let s := { State.reset with dies := [(0, { Die.reset with groups := [g] })] }
    let u := { State.reset with dies := [(0, { Die.reset with cached := [1] })] }
    (128 : BitVec 48).toNat < 0x12000000000 ∧ (s.die 0).groups = [g] ∧ g.cycle ≤ 10 ∧ 10 ≤ g.cycle + 8 ∧ (31 : Nat) ∉ g.ports ∧
    (u.die 0).groups = [] ∧ u.cacheLines 0 (128 % 0x2400000000 / 256 % 32) ≠ 0 ∧ 1 ∈ (u.die 0).cached ∧ 1 ∉ (State.reset.die 0).cached := by decide

/-- ReduceCells: the last cell of a scratch of 4 MiB; a refused contribution in turn, and one whose launch has ended. -/
theorem witness_reduce :
    let k : Contribution := ⟨0x3FFFFC, 0x3F800000, false, ⟨0, 5⟩, 0, 2, 0, 0, false⟩
    let s := { State.reset with
      dies := [(0, { Die.reset with scratch512k := [(0, 8)], refused := [k] })]
      parts := [(0, { wPart with cmds := [{ wCmd 0x05 (.launch ⟨0, false, 0, [0], [0], true, 0⟩) with seq := 5 }] })] }
    (0x3FFFFC : Nat) < 2 ^ 30 ∧ 0x3FFFFC % 4 = 0 ∧ s.scratchHas 0x3FFFFC = true ∧ (s.die 0).flagMode = false ∧
    s.sliceFenced (0x30000000000 + 0x3FFFFC) = false ∧ (s.die 0).refused = [k] ∧ (s.die 0).held = [] ∧ s.launchLive k.launch = true ∧
    (tabGet Cell.free (s.die 0).cells 0x3FFFFC).inTurn k.launch k.rank = true ∧ { s with parts := [] }.launchLive k.launch = false ∧
    k.dead = false ∧ (tabGet Cell.free (s.die 0).cells 0x3FFFFC).inTurn k.launch 1 = false ∧ ({ k with dead := true } : Contribution).dead = true := by
  decide

/-- ReduceCells: a ranked contribution of a launch that a save has ended since, and of one that is over. -/
theorem witness_reduce_ranked :
    let s := { State.reset with
      dies := [(0, { Die.reset with scratch512k := [(0, 8)] })]
      parts := [(0, { wPart with cmds := [{ wCmd 0x05 (.launch ⟨0, false, 0, [0], [0], true, 1⟩) with seq := 5 }] })] }
    (s.die 0).flagMode = false ∧ s.sliceFenced (0x30000000000 + 0x3FFFFC) = false ∧ s.launchLive ⟨0, 5⟩ = true ∧ 0 ≠ s.launchSaves ⟨0, 5⟩ ∧
    s.launchLive ⟨0, 6⟩ = false := by decide
/-- ErrorsAndSelfTests: the first byte of far memory is of stack 16; a test of a row that waits, and one that runs. -/
theorem witness_errors :
    stackOf (0x20000000000 : BitVec 48).toNat = some (16 : Fin 20).val ∧
    (let s := { State.reset with twin := { Twin.reset with tests := [⟨.memRow 19 0x7FFFFF, true, false⟩] } }
     s.twin.tests = [⟨.memRow 19 0x7FFFFF, true, false⟩]) ∧
    (let s := { State.reset with twin := { Twin.reset with tests := [⟨.memRow 19 0x7FFFFF, true, true⟩] } }
     s.twin.tests = [⟨.memRow 19 0x7FFFFF, true, true⟩]) := by decide

/-! ## Witnesses: ports and the transport -/

/-- A write record of device 5, core 0, with its deadline in 1 ms. -/
def wRecord (type : RecType) : Record :=
  { type := type, status := 0, srcDev := 5, dstDev := 0, srcPart := 0, dstPart := 0, engineSy := false, last := true, sig := false, dirs := 0,
    srcCore := 0, context := 7, fseq := 0, deadline := 1000000, remote := 64, count := 1, first := 0, xfer := 3, poison := false, data := [], sigPart := 0 }

/-- A device in a torus of three devices, whose FABRIC port 0 is this, its partition this one, with devices 4 and 5 in its roster. -/
def wPort (x : Port) (y : Part) : State :=
  { State.reset with
    ports := [(0, x)], parts := [(0, y)]
    consist := { Consist.boot with shape := (3, 1, 1), policy := [⟨5, 1, 0, false⟩] }
    roster := ⟨1, 0, [⟨4, 5, 0, 0⟩, ⟨5, 4, 0, 0⟩], []⟩, lt := { LineTime.reset with state := .locked } }

/-- A FABRIC port that is UP. -/
def wUp : Port := { Port.reset with role := 1, state := .up, width := 2 }

/-- Flits: a flit with an error, one out of sequence, the one expected, a record at its deadline; flits that wait for their
acknowledgement. -/
theorem witness_flits :
    let s := wPort wUp wPart
    let f : Flit := ⟨0, 0, 0, true, [wRecord .write]⟩
    (s.port 0).state = .up ∧ (s.port 0).role = 1 ∧ (s.port 0).waiting = [] ∧ (s.port 0).replay = [] ∧ ({ f with crcOk := false } : Flit).crcOk = false ∧
    ({ f with seq := 1 } : Flit).seq ≠ (s.port 0).rxSeq ∧ f.crcOk = true ∧ f.seq = (s.port 0).rxSeq ∧ (wRecord .write).dstDev = s.devId ∧
    s.lt.now.toNat < (wRecord .write).deadline.toNat ∧ ({ wRecord .write with deadline := 0 } : Record).deadline.toNat ≤ s.lt.now.toNat := by decide
theorem witness_replay :
    let a : TxFlit := ⟨0, 0, 5, []⟩
    let f : TxFlit := ⟨0, 1, 5, []⟩
    let x := { wUp with replay := [a, f, a] }
    x.state = .up ∧ x.waiting = [] ∧ x.replay = [a] ++ f :: [a] ∧ (∀ g ∈ [a], g.seq ≠ f.seq) ∧ x.replay ≠ [] ∧
    (∀ c : Nat, ((wPort x wPart).core c).remoteNow = none) := by
  refine ⟨by decide, by decide, by decide, by decide, by decide, fun _ => rfl⟩
/-- Flits: the flit sent longest ago is not the first; the first has been sent 7 and 8 times without progress; an empty buffer. -/
theorem witness_replay_oldest :
    let a : TxFlit := ⟨0, 0, 5, []⟩
    let f : TxFlit := ⟨0, 1, 3, []⟩
    let x := { wUp with replay := [a, f], resends := 6 }
    x.state = .up ∧ x.waiting = [] ∧ f ∈ x.replay ∧ (∀ g ∈ x.replay, f.sent.toNat ≤ g.sent.toNat) ∧ x.resends < 7 ∧
    7 ≤ ({ x with resends := 7 } : Port).resends ∧ wUp.replay = [] := by decide
/-- R275, log entry 23: at the 10 µs of the flit sent longest ago only the flits as old are sent again. -/
theorem test_replay_oldest :
    let s := wPort { wUp with replay := [⟨0, 0, 5000, []⟩, ⟨0, 1, 0, []⟩] } wPart
    (match exec (.replayTimeout 0) s with
      | .next t => ((t.port 0).replay.map (·.sent)) == [5000, 10000] && t.lt.own == 10000
      | _ => false) = true := by decide +kernel
/-- Flits: a message of one flit on a port with the last credit of a VC and the last place of its replay buffer; a port that is not UP. -/
theorem witness_put :
    let x := { wUp with spent := [(1, wUp.credits - 1)], replay := List.replicate (wUp.replaySize - 1) ⟨0, 0, 0, []⟩ }
    x.waiting = [] ∧ x.state = .up ∧ x.replay.length < x.replaySize ∧ tabGet 0 x.spent 1 < x.credits ∧
    x.flitsOf (.record { wRecord .ack with data := [] }) = 1 ∧ ({ x with state := .down } : Port).state ≠ .up := by decide +kernel

/-- PortStates: the peer that the torus gives, with the lowest and the highest version this device holds; another; the states of a
port; a laser input below and at 13.0 dBm. -/
def wTraining : Training := ⟨0, 1, 1, 1, false, 0x11, 0x11, 0, 1, 0, true, []⟩
theorem witness_training :
    let s := { wPort { wUp with state := .down } wPart with board := { Board.reset with laserPower := [(0, 1300), (2, 1300)] } }
    (s.port 0).role = 1 ∧ (s.port 0).waiting = [] ∧ (∀ n : Nat, n < 28 → (s.port n).state ≠ .up → (s.port n).waiting = []) ∧ s.portIdle 0 = false ∧ setHas s.fabric.fenced (portJunction 0) = false ∧
    s.peerAccepted 0 wTraining = true ∧ 0 < s.ownWidth 0 ∧ 0 < wTraining.width.toNat ∧ wTraining.rlMin.toNat ≤ 0x11 ∧ 0x10 ≤ wTraining.rlMax.toNat ∧
    wTraining.rlMin.toNat ≤ wTraining.rlMax.toNat ∧ s.peerAccepted 0 { wTraining with dev := 2 } = false ∧
    ({ wPort wUp wPart with ports := [(23, wUp)] } : State).portIdle 23 = true ∧ setHas ({ wPort wUp wPart with fabric := { State.reset.fabric with fenced := [portJunction 5] } } : State).fabric.fenced
      (portJunction 5) = true ∧ ({ wUp with state := .training } : Port).laneFailed.getLsbD 7 = false := by decide
theorem witness_lasers :
    let s := wPort wUp wPart
    1300 ≤ (1300 : BitVec 16).toInt ∧ (1299 : BitVec 16).toInt < 1300 ∧
    (∀ n : Nat, n < 28 → (s.port n).state = .up → n = (0 : PortId).val ∧ (s.port n).waiting = []) ∧ laserInput 0 0 = 0 ∧
    (∀ i : Nat, i < 2 → laserInput 0 i ≠ 0 → tabGet 0 s.board.laserPower (laserInput 0 i) = 0) ∧ (s.port 0).role ≠ 3 ∧
    ({ wUp with state := .training } : Port).state ≠ .off := by decide

/-- RequestsServed: in flow order, after a gap, and after the end of its transfer; granted, refused, and with its effects. -/
theorem witness_requests :
    let r := wRecord .inc
    let s := wPort { wUp with delivered := [r] } wPart
    let flow (next : BitVec 32) (ended : Bool) : InFlow := ⟨5, 0, false, next, 3, ended, none⟩
    (s.port 0).delivered = r :: [] ∧ (s.port 0).role ≠ 4 ∧ flowOrder (s.inFlow r) r = .accept ∧ s.transferRefused r 0 = none ∧
    flowOrder (some (flow 1 false)) r = .gap ∧ flowOrder (some (flow 0 true)) r = .drop ∧ flowOrder (some (flow 0 false)) r = .accept ∧
    (wPort { wUp with delivered := [r] } { wPart with state := .quiescing }).transferRefused r 0 = some 0x01 ∧ s.transferDenied r = false ∧
    (wPort wUp { wPart with state := .resetting }).transferDenied r = false ∧
    (s.remoteInc r.srcDev r.srcPart r.dstPart r.context (s.originOf r) (r.remote.toNat % 65536) 1).2 = 0 := by decide
/-- RequestsServed: a record of this device to itself, at its deadline and 1 ns before it. -/
theorem witness_loopback :
    let r := { wRecord .write with srcDev := 0 }
    let s := { wPort wUp wPart with loopback := [r], lt := { LineTime.reset with state := .locked, now := 1000000 } }
    s.loopback = r :: [] ∧ (s.port 0).delivered.head? ≠ some r ∧ r.deadline.toNat ≤ s.lt.now.toNat ∧ ¬ r.deadline.toNat ≤ (999999 : Word).toNat ∧
    r.type = .write := by decide
theorem witness_write_read :
    let r : Record := { wRecord .read with remote := 0x1FFFE0 }
    let w : Record := { wRecord .write with data := [9] }
    let s := { wPort wUp wPart with
      mem := [(0, 0x0F)], consist := { Consist.boot with grants := [⟨0, 2, 0⟩], policy := [⟨5, 1, 0, false⟩] }
      start := { State.reset.start with nearZero := true }, inFlows := [⟨5, 0, false, 0, 3, false, some 64⟩] }
    (match (s.serveRead r).2.1 with | .ok bs => bs == 64 :: List.replicate 63 0 | .error _ => false) = true ∧
    (match ((wPort wUp wPart).serveRead r).2.1 with | .ok _ => false | .error c => c == 0x04) = true ∧
    (s.serveWrite w).2 = none ∧ ((wPort wUp wPart).serveWrite w).2 = some 0x04 := by decide +kernel

/-- RemoteIncrements, one for each outcome. -/
theorem witness_remote_increments :
    let s := wPort wUp { wPart with sec := { SecPart.reset with stepBaton := 1, lossBaton := 2 }, lostA := 9, lostAValid := true }
    let y : Parked := ⟨⟨8, 0⟩, .ready, [], Sync.zero, [], [], [], []⟩
    s.inRoster 5 0 = true ∧ s.policyGrants 5 0 0 = true ∧ s.inRoster 6 0 = false ∧ (s.part 0).state ≠ .resetting ∧
    ((s.part 0).lostAValid = true ∧ (s.part 0).lostA = 9) ∧ s.partHeld 0 = false ∧ (s.part 0).bound = some ⟨7, 0⟩ ∧ (s.part 0).waiters = [] ∧
    (65535 : Nat) ≠ (s.part 0).sec.stepBaton.toNat ∧ (65535 : Nat) ≠ (s.part 0).sec.lossBaton.toNat ∧ (s.part 0).boundIs 8 = false ∧
    ({ wPart with parked := some y } : Part).parked = some y ∧ y.ctx.id = 8 ∧ (s.part 0).parkedIs 8 = false := by decide

/-- AnswersAndTimeouts: a transfer of each kind waits for its answer, in time and late; one whose records wait for their turn; a signal
that has gone out. -/
def wXfer (kind : XferKind) : Xfer :=
  ⟨kind, 5, 0, 3, 0, 4, 4, 1, 1000000, [1000000], false, false, false, false, 0, 7, 0, 0, 0, 64, 4, []⟩
theorem witness_answers :
    let a := wStarted (.sadd 0 1 2) [1]
    let b := wStarted (.rput 0 1 2 0 false 3) []
    let i := wStarted (.ingest 0 1 false 0 0 2) []
    let k := { wCore with syq := [a], tmq := [b], xferSy := some (wXfer .inc), xferTm := some (wXfer .rputRead) }
    let r := wRecord .ack
    let s := { wPort { wUp with delivered := [r] } wPart with cores := [(0, k)] }
    (s.port 0).delivered = r :: [] ∧ (s.port 0).role ≠ 4 ∧ s.physical r.srcCore.toNat = some (0 : CoreId).val ∧ (wXfer .inc).xferNo = r.xfer ∧
    (wXfer .inc).dst = r.srcDev ∧ (wXfer .inc).dst ≠ ({ r with srcDev := 4 } : Record).srcDev ∧ (wXfer .inc).xferNo ≠ ({ r with xfer := 4 } : Record).xfer ∧
    (wXfer .inc).onOwn = false ∧ a.started = true ∧ a.done = false ∧ b.started = true ∧ b.done = false ∧ b.faulted = false ∧
    (s.core 0).syq = [a] ∧ (s.core 0).tmq = [b] ∧ (s.core 0).xferSy = some (wXfer .inc) ∧ (s.core 0).xferTm = some (wXfer .rputRead) ∧
    (wXfer .rputRead).kind = .rputRead ∧ r.count ≠ 0 ∧ (wXfer .rput).acked + r.count.toNat < (wXfer .rput).total ∧
    ({ wXfer .rput with onOwn := true } : Xfer).onOwn = true ∧ (wXfer .ingest).kind = .ingest ∧ i.started = true ∧ i.done = false ∧ i.faulted = false ∧
    transferStatus Code.poison = true ∧ (wXfer .ingest).hostLen ≠ 0 ∧ s.comes ⟨(wXfer .rput).deadline + 1000, false⟩ = true ∧
    (wXfer .inc).late s.lt.now = false ∧ (wXfer .inc).late 1001000 = true ∧ (wXfer .rput).total ≤ (wXfer .rput).next ∧
    (wXfer .rput).sent ≠ [] ∧ ({ wXfer .rput with sent := [] } : Xfer).sent = [] ∧
    ({ wXfer .rput with sig := true, sigSent := true } : Xfer).sigSent = true ∧ s.unsent r = 0 := by
  decide +kernel
/-- AnswersAndTimeouts: more records of a flow wait than the transport buffers hold. -/
theorem witness_no_room :
    ∃ s : State, s.hasRoom (wRecord .write) = false := by
  refine ⟨{ State.reset with loopback := List.replicate (Config.transportRecords + 1) (wRecord .write) }, ?_⟩
  have h : sameFlow (wRecord .write) (wRecord .write) = true := by decide
  have hi : isAnswer (wRecord .write).type = false := rfl
  have hu : State.unsent { State.reset with loopback := List.replicate (Config.transportRecords + 1) (wRecord .write) } (wRecord .write) =
      Config.transportRecords + 1 := by
    have hf (n : Nat) (l : List Nat) : l.foldl (fun n _ => n + 0) n = n := by
      induction l with
      | nil => rfl
      | cons _ _ ih => exact ih
    have hh : State.reset.holds = [] := rfl
    simp only [State.unsent, hh, List.countP_replicate, h, hi, List.foldl_nil, Nat.add_zero]
    exact hf _ _
  simp [State.hasRoom, hu]
/-- R281: an ACK later than its record's deadline and 1 µs is discarded. -/
theorem test_late_ack :
    let a := wStarted (.sadd 0 1 2) [1]
    let r := { wRecord .ack with engineSy := true }
    let s := { wPort { wUp with delivered := [r] } wPart with cores := [(0, { wCore with syq := [a], xferSy := some (wXfer .inc) })] }
    let answered (t : State) : Bool := match exec (.ack 0 r) t with
      | .next u => (u.port 0).delivered == [] && (u.core 0).xferSy == none
      | _ => false
    answered { s with lt := { s.lt with now := 1000999 } } = true ∧ answered { s with lt := { s.lt with now := 1001000 } } = false := by
  decide +kernel
/-- AnswersAndTimeouts: the last element of an ingest is on its way. -/
theorem witness_ingest_ends :
    let x : Xfer := { wXfer .ingest with total := 1, next := 0 }
    let e := wStarted (.ingest 0 1 false 0 0 2) []
    let s := wMapped { wCore with tmq := [e], xferTm := some x, descs := [(0, wDesc 64), (1, wDesc 128)] } []
    let src := descOf ((s.core 0).desc 1)
    let dst := descOf ((s.core 0).desc 0)
    x.next + 1 = x.total ∧ x.buf = [] ∧ x.hostLen = dst.width ∧ ([1, 2, 3, 4] : List Byte).length = dst.width ∧
    src.inside (ingestIndex src x.code (dst.index x.next)) = true ∧ (s.store 0 (dst.addr (dst.index x.next)) [1, 2, 3, 4]).2 = .ok () := by
  decide +kernel

/-- LinesHoldsRosters: the time that remains at and above the link's delay; a flow that may move; rosters to come and in effect. -/
theorem witness_long_line :
    let r := wRecord .write
    let l : Line := ⟨0x8001, 0, 0, 9, 5, 1000⟩
    let s := { wPort { wUp with role := 4, delayNs := 100, delivered := [r] } wPart with consist := { Consist.boot with lines := [l] } }
    (s.port 0).delivered = r :: [] ∧ (s.port 0).role = 4 ∧ (100 : Word).toInt ≤ ((s.port 0).delayNs.setWidth 64 : Word).toInt ∧
    (-1 : Word).toInt ≤ ((s.port 0).delayNs.setWidth 64 : Word).toInt ∧ ((s.port 0).delayNs.setWidth 64 : Word).toInt < (101 : Word).toInt ∧
    (0x8001 : BitVec 16).getLsbD 15 = true ∧
    (s.consist.lines.find? fun l => l.farDomain == 8 && l.farDev == r.srcDev && l.gatewayDev == s.devId && l.port.toNat == 0) = none ∧
    (s.consist.lines.find? fun l => l.farDomain == 9 && l.farDev == r.srcDev && l.gatewayDev == s.devId && l.port.toNat == 1) = none ∧ r.dstDev.getLsbD 15 = false ∧ r.dstDev = s.devId ∧
    s.consist.lines.find? (fun l => l.farDomain == 9 && l.farDev == r.srcDev && l.gatewayDev == s.devId && l.port.toNat == 0) = some l := by
  decide
theorem witness_holds_rosters :
    let h : FlowHold := ⟨5, 0, false, 6, 0, 1, []⟩
    let s := { wPort wUp wPart with holds := [h], lastEffective := some 0 }
    s.holds = [h] ∧ h.records = [] ∧ (s.port h.oldPort).holds h.isFor = false ∧
    ({ wUp with waiting := [⟨0, .record { wRecord .write with dstDev := 6 }, 0, 1, false, 5, 28⟩] } : Port).holds h.isFor = true ∧
    s.fabricUp = [0] ∧ s.lt.state ≠ .seeking ∧ s.comes ⟨8000000, false⟩ = true ∧ ({ s with lt := { s.lt with state := .master } } : State).lt.state = .master ∧
    (∀ n : Nat, n < 28 → (s.port n).role ≠ 2) ∧ s.rosters = [] ∧ s.roster.epoch ≠ 2 ∧ s.lastEffective = some 0 ∧
    { s with rosters := [⟨2, 5, [], []⟩] }.rosters = ⟨2, 5, [], []⟩ :: [] ∧ { s with prevRoster := some s.roster }.prevRoster ≠ none := by decide

/-! ## Witnesses: registers -/

/-- Registers: a core that takes writes, and one that is fused as disabled; stage 1 ended, and not; the sizes and addresses of a
write; the rings of a partition enabled and disabled. -/
def wBar : State := { wRing { wPart with enable := false } with start := { State.reset.start with resetLow := false, fuses := true } }
theorem witness_registers :
    wBar.coreTakes 0 = true ∧ (wState { wCore with role := .disabled }).coreTakes 0 = false ∧ State.reset.bar0Up = false ∧ wBar.bar0Up = true ∧
    (2 : Nat) ≠ 4 ∧ (2 : Nat) ≠ 8 ∧ (0x110004 : BitVec 28).toNat % 8 ≠ 0 ∧ (0xFFFF8 : BitVec 28).toNat < 0x100000 ∧ (wBar.part 0).enable = false ∧
    ((wRing wPart).part 0).enable = true ∧ wBar.partHeld 0 = false ∧ (wBar.core 0).role ≠ .disabled ∧ (wBar.core 0).logical = some 0 ∧
    (wState { wCore with role := .disabled }).core 0 = { wCore with role := .disabled } := by decide

/-! ## Witnesses: Line Time, the timetable, generations -/

/-- A device whose Line Time unit is this. -/
def wTime (l : LineTime) : State := { wPort wUp wPart with lt := l }

/-- LineTimeUnit: a beacon of the period after the last used, and of it; each state's times. -/
theorem witness_line_time :
    let l := { LineTime.reset with masterDev := 5, backupDev := 6, period := some 2 }
    let s := wTime l
    (s.port 0).role = 1 ∧ (s.port 0).state = .up ∧ (5 : BitVec 16) = l.masterDev ∧ (6 : BitVec 16) = l.backupDev ∧ (5 : BitVec 16) ≠ s.devId ∧
    l.state ≠ .master ∧ (∀ q, l.period = some q → q.toNat < ((30000 : Word) + (s.port 0).delayNs.setWidth 64).toNat / 10000) ∧
    (∃ q, l.period = some q ∧ ((29999 : Word) + (s.port 0).delayNs.setWidth 64).toNat / 10000 ≤ q.toNat) ∧
    (7 : BitVec 16) ≠ l.masterDev ∧ (7 : BitVec 16) ≠ l.backupDev ∧ (s.port 1).role ≠ 1 := by
  refine ⟨by decide, by decide, by decide, by decide, by decide, by decide, fun q h => ?_, ⟨2, by decide, by decide⟩, by decide, by decide, by decide⟩
  have : q = 2 := by simpa [eq_comm] using h
  subst this
  decide
theorem witness_line_time_states :
    let m := { LineTime.reset with state := .master, now := 10000 }
    let l := { LineTime.reset with state := .locking, lockStart := 0, lastBeacon := 49000001, now := 49000001 }
    let h := { LineTime.reset with state := .holdover, everLocked := true, masterDev := 5 }
    m.state = .master ∧ ¬ m.now.toNat ≤ m.beaconDue.toNat ∧ m.now.toNat ≤ ({ m with beaconDue := 10000 } : LineTime).beaconDue.toNat ∧
    l.state ≠ .master ∧ l.lastBeacon.toNat + 1000000 < 2 ^ 64 ∧
    max l.now.toNat (l.lockStart.toNat + 50000000) < l.lastBeacon.toNat + 1000000 ∧ ({ h with state := .locked } : LineTime).state = .locked ∧
    h.state = .holdover ∧ (wTime h).devId = h.backupDev ∧ h.backupDev ≠ h.masterDev ∧ h.everLocked = true := by decide

/-- LineTimeUnit: a port of each kind that is told; the backup that takes over from each state. -/
theorem witness_line_time_tells :
    let s := { wTime LineTime.reset with ports := [(0, wUp), (1, wUp)] }
    let b (st : LtState) : State := { wTime { LineTime.reset with state := st, everLocked := true, masterDev := 5 } with roster := s.roster }
    s.fabricUp = [0, 1] ∧ (1 : Nat) ≠ (0 : PortId).val ∧ (2 : Nat) ∉ s.fabricUp ∧ (b .locked).devId = (b .locked).lt.backupDev ∧
    (b .unlocked).lt.backupDev ≠ (b .unlocked).lt.masterDev ∧ (b .holdover).lt.everLocked = true := by decide

/-- Timetable: a local and a domain entry exactly at their leads, and 1 ns later; a copy at its least lead; entries that are due. -/
def wEntryAt (now : Word) (e : Fin 256) (x : TtEntry) : State :=
  { wTime { LineTime.reset with state := .locked, now := now, leadUs := 100, boundNs := 100000 } with tt := [(e.val, x)] }
theorem witness_timetable :
    let x : TtEntry := { TtEntry.reset with action := 1, time := 120000 }
    let s := wEntryAt 100000 191 x
    let d := wEntryAt 20000 192 x
    x.armed = false ∧ x.action ≠ 0 ∧ s.lt.state = .locked ∧ s.lt.now.toNat + 20000 ≤ (s.ttEntry 191).time.toNat ∧
    (wEntryAt 100001 191 x).lt.now.toNat + 20000 > x.time.toNat ∧ d.lt.now.toNat + max (1000 * d.lt.leadUs.toNat) d.lt.boundNs.toNat ≤ x.time.toNat ∧
    (wEntryAt 20001 192 x).lt.now.toNat + max (1000 * d.lt.leadUs.toNat) d.lt.boundNs.toNat > x.time.toNat ∧ TtEntry.reset.action = 0 ∧
    ({ x with armed := true } : TtEntry).armed = true := by decide
theorem witness_timetable_copy :
    let y : TtCopy := ⟨192, false, 120000, 0, 0, 0, 1, 1, 5, 5, 0⟩
    let s := wEntryAt 100000 192 TtEntry.reset
    let h : State := { s with roster := ⟨1, 0, [⟨s.devId, 5, 0, 0⟩, ⟨5, s.devId, 0, 0⟩], []⟩ }
    let a := wEntryAt 100000 192 { TtEntry.reset with armed := true, stamp := 3, seen := [(false, 5, 5)] }
    y.entry = 192 ∧ y.cancel = false ∧ s.carriesTime y.inPort = true ∧ (s.ttEntry 192).armed = false ∧ (s.ttEntry 192).met y = false ∧
    s.lt.now.toNat + 20000 ≤ y.time.toNat ∧ (191 : Fin 256).val < 192 ∧ (a.ttEntry 192).met y = true ∧ (a.ttEntry 192).armed = true ∧
    ({ y with cancel := true } : TtCopy).cancel = true ∧ (a.ttEntry 192).stamp.toNat ≤ y.stamp.toNat ∧ s.fabricUp = [0] ∧
    Roster.holds (h.rosterAt y.stamp) h.devId = true ∧ Roster.holds ((wEntryAt 0 192 TtEntry.reset).rosterAt y.stamp) 9 = false := by decide
/-- Timetable: copies 1 ns too late, 25 and 26 ns before the boundary of the lead; one that yields by its stamp, by its device, and not. -/
theorem witness_timetable_late :
    let y : TtCopy := ⟨192, false, 120000, 0, 0, 0, 1, 1, 5, 5, 0⟩
    let x := { TtEntry.reset with armed := true, stamp := 5, originDev := 5 }
    let off (now : Nat) : Int := (now : Int) + 20000 - y.time.toNat
    ¬ 100001 + 20000 ≤ y.time.toNat ∧ 99975 + 20000 ≤ y.time.toNat ∧ -25 ≤ off 99975 ∧ off 99974 < -25 ∧ 0 < off 100001 ∧
    x.armed = true ∧ ({ y with stamp := 4 } : TtCopy).stamp.toNat < x.stamp.toNat ∧ (y.stamp = x.stamp ∧ x.originDev.toNat ≤ y.origin.toNat) ∧
    ¬ x.originDev.toNat ≤ ({ y with origin := 4 } : TtCopy).origin.toNat ∧ ({ y with cancel := true, stamp := 4 } : TtCopy).cancel = true := by decide
/-- R312: a copy 1 ns too late is stored unarmed with TIMETABLE_LATE (0x0B) and leaves an entry of KIND 4, with offset 1. -/
theorem test_timetable_late :
    let y : TtCopy := ⟨192, false, 120000, 0, 0, 0, 1, 1, 5, 5, 0⟩
    let s : State := { wEntryAt 100001 192 TtEntry.reset with roster := ⟨1, 0, [⟨0, 5, 0, 0⟩, ⟨5, 0, 0, 0⟩], []⟩ }
    (match exec (.timetableCopyReceive y) s with
      | .next t => let x := t.ttEntry 192
        let z := tabGet PfEntry.zero t.pfLog 0
        !x.armed && x.status == 0x0B && x.time == 120000 && z.kind == 4 && z.offset == 1 && z.after && z.srcDev == 5
      | _ => false) = true := by decide +kernel
theorem witness_timetable_fire :
    let x : TtEntry := { TtEntry.reset with action := 2, time := 120000, duration := 10, period := 5, armed := true }
    let y : TtEntry := { x with action := 5 }
    let s := wEntryAt 100000 192 x
    (s.ttEntry 192).armed = true ∧ s.dueBefore 192 = false ∧ s.loader.applying = none ∧ s.lt.state ≠ .seeking ∧ s.lt.state ≠ .unlocked ∧
    x.time.toNat + x.fired * x.period.toNat + min x.duration.toNat x.period.toNat < 2 ^ 64 ∧ 0 < min x.duration.toNat x.period.toNat ∧ y.action = 5 ∧
    { s.loader with applying := some Consist.boot }.applying ≠ none := by decide +kernel

/-- Generations: a generation of two units in each of its stages; poisoned and clean units; the loss baton below and at STEP. -/
def wGen : Gen := ⟨5, 1, false, [(0, 0), (1, 0x200000)], [0], true, 9, 2, 64, 1000, 0, 0, [], none⟩
def wSec (ph : SecPhase) (g : Gen) : Part := { wPart with sec := { SecPart.reset with phase := ph, gen := some g, unitsLeft := 1 } }
theorem witness_generation :
    let s := wRing (wSec .data wGen)
    (s.part 0).sec.gen = some wGen ∧ (s.part 0).sec.phase = .data ∧ wGen.copied.length ≠ wGen.units.length ∧ s.heldUnits 0 = [] ∧
    1 < wGen.units.length ∧ 1 ∉ wGen.copied ∧ (∀ j : Nat, j < 1 → j ∈ wGen.copied) ∧
    { wGen with copied := [0, 1] }.copied.length = wGen.units.length ∧ wGen.lossAddr ≠ 0 ∧ { wGen with lossAddr := 0 }.lossAddr = 0 ∧
    ((wSec .waitLoss wGen).sync.baton wGen.lossBaton.toNat).toNat < wGen.step.toNat ∧
    wGen.step.toNat ≤ (({ wSec .waitLoss wGen with sync := ⟨[(2, 5)], []⟩ } : Part).sync.baton wGen.lossBaton.toNat).toNat := by decide +kernel
theorem witness_units :
    (wRing (wSec .data wGen)).unitPoisoned 0x200000 = false ∧ ({ wRing (wSec .data wGen) with poison := [0x1FFFF] } : State).unitPoisoned 0x200000 = true := by
  refine ⟨?_, ?_⟩
  · unfold State.unitPoisoned State.spoilt
    rw [List.any_eq_false]
    intro i hi
    have hn : inNear (0x200000 + 32 * i) = true := by
      have : i < 65536 := List.mem_range.1 hi
      simp [inNear]
      omega
    have hr : (wRing (wSec .data wGen)).rowFenced (0x200000 + 32 * i) = false := none_fenced _ rfl _
    have hf : (wRing (wSec .data wGen)).rowFresh (0x200000 + 32 * i) = false := none_fresh _ rfl _
    have hp : setHas (wRing (wSec .data wGen)).poison (alias_ (0x200000 + 32 * i) / 32) = false := rfl
    simp [State.poisoned, hn, hr, hf, hp]
  · unfold State.unitPoisoned State.spoilt
    rw [List.any_eq_true]
    exact ⟨65535, List.mem_range.2 (by decide), by decide⟩
/-- Generations: an uncorrectable error is met in the last unit of near memory; a path is left, and none. -/
theorem witness_unit_paths :
    let s := wRing (wSec .data wGen)
    let u := { s with consist := { Consist.boot with routing := some [] } }
    (∀ q ∈ piecesOf 0x200000 (2 ^ 21), s.agentReaches 0 q.1 = true) ∧ (¬ ∀ q ∈ piecesOf 0x200000 (2 ^ 21), u.agentReaches 0 q.1 = true) ∧
    (0x12000000000 - 2 ^ 21) + 2 ^ 21 ≤ 0x12000000000 := by
  refine ⟨fun q _ => all_reached _ rfl rfl 0 q.1, fun h => ?_, by decide⟩
  have hq : (0x200000, 32) ∈ piecesOf 0x200000 (2 ^ 21) := by
    unfold piecesOf
    rw [show 2 ^ 21 / 32 + 2 = 65537 + 1 from rfl]
    exact List.mem_cons_self ..
  exact absurd (h _ hq) (by decide +kernel)
theorem witness_loss :
    let s := { wMapped Core.reset [] with parts := [(0, { wSec .waitLoss wGen with sync := ⟨[(2, 5)], []⟩ })] }
    (s.part 0).bound.isSome = true ∧ (s.ctxRead 0 wGen.lossAddr.toNat 4).2 = .ok [0, 0, 0, 0] := by decide +kernel
theorem witness_window_end :
    let w : OpenWindow := ⟨3, 1, 0, 9, 1, 0, false⟩
    let s := { wRing (wSec .data wGen) with windows := [w] }
    s.windows = [w] ∧ w.entry = (3 : Fin 256).val ∧ w.action = 1 ∧ w.partMask = 1#16 <<< (0 : PartId).val ∧ wGen.windowed = true ∧ wGen.windowEnd = w.stop ∧
    { wGen with windowed := false }.windowed = false ∧ ({ s with ports := [(24, { wUp with role := 2 })] } : State).twinUp 24 = true := by decide
/-- Generations: a twin port of the role that has been UP and is DOWN, in a pair that is WAITING; a port without the role. -/
theorem witness_pair_lost :
    let s := { wRing (wSec .data wGen) with ports := [(25, { wUp with role := 2, state := .down })], twin := { Twin.reset with everUp := true, state := .waiting } }
    (s.port 25).role = 2 ∧ s.twin.everUp = true ∧ s.twin.state ≠ .lost ∧ s.twinUp 24 = false ∧ s.twinUp 25 = false ∧ (s.port 24).role ≠ 2 ∧
    Twin.reset.everUp = false ∧ ({ Twin.reset with state := .lost } : Twin).state = .lost := by decide

/-- Generations: a record of a generation or a restore that waits for its acknowledgement, a port to the twin, the end of a window. -/
theorem witness_twin_waits :
    let s := { wTime { LineTime.reset with state := .locked, now := 50 } with
      twin := { Twin.reset with dev := 9, state := .paired }
      ports := [(24, { wUp with role := 2, peerDev := 9 })] }
    ({ wGen with sent := some 60 } : Gen).sent = some 60 ∧ s.comes ⟨(60 : Word) + 1000, false⟩ = true ∧ s.comes ⟨9, false⟩ = true ∧
    s.twinPort 0 = some 24 ∧ s.twinUp 24 = true := by decide

/-- ReplicasAndRestores: the last unit of an extent of 1 GiB; an extent that the image does not give; a restore that may start, and one
that has written its units. -/
theorem witness_replicas :
    let s : State := { wRing { wPart with state := .ready, sec := { SecPart.reset with sizeGib := 1, baseGib := 439 } } with
      twin := { Twin.reset with state := .paired }, start := { State.reset.start with farZero := true } }
    s.twin.state = .paired ∧ s.start.farZero = true ∧ (s.part 0).sec.sizeGib ≠ 0 ∧ (List.replicate (2 ^ 21) (0 : Byte)).length = 2 ^ 21 ∧
    510 - 1 < 512 * (s.part 0).sec.sizeGib.toNat - 1 - ((s.part 0).sec.sizeGib.toNat + 63) / 64 ∧
    (s.part 0).sec.baseGib.toNat + (s.part 0).sec.sizeGib.toNat ≤ 440 ∧ (∀ a : Nat, s.rowFenced a = false) ∧ (wPart).sec.sizeGib = 0 ∧
    (s.part 0).state = .ready ∧ s.partHeld 0 = false ∧ (s.part 0).sec.gen = none ∧ (s.part 0).sec.rest = none ∧ wPart.state ≠ .ready := by
  refine ⟨by decide, by decide, by decide, List.length_replicate .., by decide, by decide, fun a => none_fenced _ rfl a, by decide, by decide, by decide,
    by decide, by decide, by decide⟩
/-- ReplicasAndRestores: a path is left from a twin port to far memory, and none. -/
theorem witness_replica_paths :
    let s := { State.reset with consist := { Consist.boot with routing := some [] } }
    (∀ a n : Nat, State.reset.reachesAll (portJunction 24) a n = true) ∧ s.reachesAll (portJunction 24) 0x20000000000 128 = false := by
  refine ⟨fun a n => ?_, by decide +kernel⟩
  unfold State.reachesAll
  rw [List.all_eq_true]
  exact fun i _ => reached_addr _ rfl rfl _ _
/-- ReplicasAndRestores: a restore that has its commit record and waits for its digest table, with a twin port UP. -/
theorem witness_restoring :
    let r : Rest := ⟨false, [(8, 1)], false, none, 3, [], [], 0⟩
    let s := { wTime { LineTime.reset with state := .locked } with
      twin := { Twin.reset with dev := 9, state := .paired }
      parts := [(0, { wPart with sec := { SecPart.reset with rest := some r } })]
      ports := [(24, { wUp with role := 2, peerDev := 9 })] }
    (s.part 0).sec.rest = some r ∧ s.twinUp 24 = true ∧ s.twin.state = .paired ∧ r.table = none := by decide
theorem witness_restored :
    let r : Rest := ⟨false, [(8, 1)], false, some [], 3, [0, 1, 2], [], 0⟩
    ({ SecPart.reset with rest := some r } : SecPart).rest = some r ∧ r.record ≠ [] ∧ r.table.isSome = true ∧ r.written.length = r.units ∧
    (wTime { LineTime.reset with state := .locked }).comes ⟨r.sent + 1000, false⟩ = true := by decide

/-! ## Witnesses: the loader and start-up -/

/-- The public key of the private key 1, and the signatures of it that the witnesses use (made with another program). -/
def wKey : BitVec 768 :=
  (0xaa87ca22be8b05378eb1c71ef320ad746e1d3b628ba79b9859f741e082542a385502f25dbf55296c3a545e3872760ab7 : BitVec 384) ++
  (0x3617de4a96262c6f5d9e98bf9292dc29f8f41dbd289a147ce9da3113b5f0b8c00a60b1ce1d7e819d7a431d7c90ea0e5f : BitVec 384)
def wSigImage : BitVec 768 :=
  (0x283c1d7365ce4788f29f8ebf234edffead6fe997fbea5ffa2d58cc9dfa7b1c508b05526f55b9ebb2040f05b48fb6d0e1 : BitVec 384) ++
  (0x8d7f76ca508b0f219dabfd57b68d67c2736e30f284d4ebd65b49a1a9ec036622086c7095bb3a366d389400014442f5a8 : BitVec 384)
def wResp : Tab Word :=
  [(0, 0x98b9a77de2569009), (1, 0xc5164890c2ee1eda), (2, 0x74c33758ed35e97f), (3, 0x8c3f2d8914fdc956),
   (4, 0xd681fb3a6eb64947), (5, 0xd8ddb4553b6f3526), (6, 0x04a12705d16996f9), (7, 0x03ecf1473bafc099),
   (8, 0x40240992936ad22b), (9, 0xe76b1cbcad9875a5), (10, 0xa1d132d5ad964b8a), (11, 0x85dd2912e9c3fe2c)]

/-- The digests of the three bytes of the standards' first example. -/
theorem test_sha256_abc : sha256 [0x61, 0x62, 0x63] = 0xba7816bf8f01cfea414140de5dae2223b00361a396177a9cb410ff61f20015ad := by
  decide +kernel
theorem test_sha384_abc : sha384 [0x61, 0x62, 0x63] =
    0xcb00753f45a35e8bb5a03d699ac65007272c32ab0eded1631a8b605a43ff5bed8086072ba1e7cc2358baeca134c825a7 := by decide +kernel

/-- An image of no sections, 160 bytes long, signed by key 0. -/
def wStaged : Mem := memWrite [(0, 0x43), (1, 0x4E), (2, 0x53), (3, 0x54), (4, 0x10), (8, 160)] 64 (sigBytes wSigImage)

/-- A device with it in the staging window, in Operational with consist key 0. -/
def wLoader (c : Consist) (x : Part) : State :=
  { wRing x with
    consist := c, loader := { Loader.reset with staging := wStaged, stageLen := 160 }
    security := { Security.reset with lifecycle := .operational, keys := [(0, ⟨wKey, true, false⟩)] } }

/-- A slot of flash that holds an image of no bytes. -/
def wSlot (gen : BitVec 63) : FlashSlot := ⟨0x544F4C53, 0, gen, sha384 [], []⟩

/-- LoaderRequests: checks that fail; the states of the loader; the slots of flash, either of them the newer. -/
theorem witness_loader :
    (State.reset.checkImage State.reset.loader.staging (some State.reset.loader.stageLen.toNat)).status ≠ 0 ∧ State.reset.loader.state = 0 ∧
    ({ Loader.reset with state := 3 } : Loader).state = 3 ∧ ({ Loader.reset with applying := some Consist.boot } : Loader).applying = some Consist.boot ∧
    ({ Loader.reset with slotA := wSlot 1 } : Loader).slotB.valid = false ∧ (wSlot 1).valid = true ∧
    (wSlot 1).gen.toNat < (wSlot 2).gen.toNat ∧ Loader.reset.slotA.valid = Loader.reset.slotB.valid ∧
    ({ Loader.reset with slotA := wSlot 2, slotB := wSlot 2 } : Loader).slotA.valid = ({ Loader.reset with slotA := wSlot 2, slotB := wSlot 2 } : Loader).slotB.valid ∧ ({ Loader.reset with persistB := true } : Loader).persistB = true := by decide +kernel

/-- The checks of the signed image pass; no partition is affected, or partition 0 is, running or absent. -/
theorem witness_loader_checked :
    (∀ c x, ((wLoader c x).checkImage wStaged (some 160)).status = 0) ∧
    (Consist.boot.affected (takeImage Fuses.gradeA wStaged)).getLsbD 0 = false ∧
    (let c : Consist := { Consist.boot with clusters := [(0, 1)] }
     (c.affected (takeImage Fuses.gradeA wStaged)).getLsbD 0 = true) ∧ wPart.quiesced = false ∧ (Part.reset).quiesced = true := by
  refine ⟨fun c x => ?_, by decide +kernel, by decide +kernel, by decide, by decide⟩
  have hs : (wLoader c x).security.signedBy wStaged = true := by
    change ({ Security.reset with lifecycle := .operational, keys := [(0, ⟨wKey, true, false⟩)] } : Security).signedBy wStaged = true
    decide +kernel
  have hl : (wLoader c x).security.lifecycle.loads = true := rfl
  have hr : (takeImage (wLoader c x).fuses wStaged).routing = none := by
    change (takeImage Fuses.gradeA wStaged).routing = none
    decide +kernel
  have hc : (memNat wStaged 0 4 != 0x54534E43 || decide (imageBytes wStaged < 160) || decide (1048576 < imageBytes wStaged) ||
      decide (160 < imageBytes wStaged) || decide (32 < sectionCount wStaged) || decide (imageBytes wStaged < 64 + 16 * sectionCount wStaged)) = false := by
    decide +kernel
  have hv : (memNat wStaged 4 1 != 0x10) = false := by decide +kernel
  unfold State.checkImage
  simp only [hl, hc, hs, hr, hv]
  rfl

/-- StartUpStages: the states between its events. -/
theorem witness_start :
    let s (u : StartUp) : State := { State.reset with start := u }
    let u := State.reset.start
    State.reset.power.state ≠ .off ∧ (s { u with farZero := true }).start.farZero = true ∧ (100 : Nat) ≤ 100 ∧ (99 : Nat) < 100 ∧
    State.reset.start.resetLow = true ∧ ({ u with resetLow := false } : StartUp).resetLow = false ∧ u.fuses = false ∧
    ({ u with fuses := true } : StartUp).fuses = true ∧ u.nearZero = false ∧ u.farZero = false ∧ u.applied = false ∧
    State.reset.loader.slotA.valid = false ∧ State.reset.loader.slotB.valid = false := by decide

/-! ## Witnesses: power, security, management -/

/-- A device in a power state that steps towards another. -/
def wPower (p : Power) : State := { wRing { wPart with state := .ready } with power := p, security := { Security.reset with lifecycle := .operational } }

/-- PowerStepsAndPlans: a code past the last, a step refused by a partition that runs, the steps that are taken, each transition, and a
timetable entry whose stagger has passed. -/
theorem witness_power :
    let p := { Power.reset with ctrlTarget := 2 }
    let s := wPower p
    (5 : Nat) ≤ ({ p with ctrlTarget := 5 } : Power).ctrlTarget.toNat ∧ p.state ≠ .off ∧ p.state = .run ∧ p.target = .run ∧
    ((wRing wPart).part 0).state = .running ∧ s.security.lifecycle = .operational ∧ s.debugLevel = 0 ∧ s.keepsReplica = false ∧
    (∀ n : Nat, n < 16 → ((s.part n).state = .absent ∨ (s.part n).state = .idle ∨ (s.part n).state = .ready) ∧ (s.part n).sec.gen = none ∧
      (s.part n).sec.rest = none) ∧ p.byI3c = false ∧ ({ p with target := .drowse } : Power).state = .run ∧
    ({ TtEntry.reset with stepDue := some 5, arg := 1 } : TtEntry).stepDue = some 5 ∧ (1 : BitVec 32).toNat % 16 = 1 := by decide +kernel

/-- PowerStepsAndPlans: a timetable entry whose stagger has passed; a step that the host asked for; the hours before the plan at 1,000. -/
theorem witness_power_step :
    let s := { wPower Power.reset with lt := { LineTime.reset with state := .locked, ownRuns := true }
                                       tt := [(3, { TtEntry.reset with armed := true, stepDue := some 5, arg := 1, action := 5 })] }
    (s.ttEntry 3).stepDue = some 5 ∧ (s.ttEntry 3).armed = true ∧ s.dueBefore 3 = false ∧ s.loader.applying = none ∧ s.lt.state ≠ .seeking ∧
    (s.ttEntry 3).arg.toNat % 16 = 1 ∧ s.power.state = .run ∧ (s.ttEntry 4).stepDue = none ∧ s.lt.ownRuns = true ∧
    s.power.hours.toNat ≤ s.power.planAt.toNat ∧ (s.power.planAt.toNat - s.power.hours.toNat) * 3600000000000 < 2 ^ 64 ∧
    s.power.hours.toNat * 3600000000000 + s.power.spent s.lt.own ≤ s.power.planAt.toNat * 3600000000000 ∧
    ({ Power.reset with state := .off } : Power).state = .off ∧ s.power.state = s.power.target ∧
    (wState wCore).start.fuses = false ∧ ({ State.reset.start with fuses := true } : StartUp).fuses = true ∧ ((wState wCore).core 0).works = true := by
  decide +kernel

/-- Margin plans: after start-up the highest clock is tried, later the clock in use; a table that gives 800 MHz its voltage at the
highest that VCORE takes, one that gives only 790 MHz, and one that gives none. -/
theorem witness_plans :
    let p := { Power.reset with planning := true, mhz := 800 }
    let top := 800
    let fits (t : List Slack) (f v : Nat) : Prop :=
      ∃ y, t.find? (fun z => z.mhz == f) = some y ∧ max 700 ((y.mv + 4) / 5 * 5) = v ∧ v ≤ 850
    top = (if p.eom then 720 else if p.cause = 0 then 800 else p.mhz.toNat) ∧ fits [⟨800, 846⟩] 800 850 ∧ fits [⟨800, 851⟩, ⟨790, 0⟩] 790 700 ∧
    (∀ u, ¬ fits [⟨800, 851⟩, ⟨790, 0⟩] 800 u) ∧ (∀ h u, ¬ fits [] h u) ∧ p.planning = true ∧ Power.reset.planning = false ∧
    ({ Power.reset with state := .hold } : Power).state = .hold ∧ Power.reset.hours.toNat + 1000 < 2 ^ 32 := by
  refine ⟨by decide, ⟨⟨800, 846⟩, by decide, by decide, by decide⟩, ⟨⟨790, 0⟩, by decide, by decide, by decide⟩, fun u h => ?_, fun h u k => ?_,
    by decide, by decide, by decide, by decide⟩
  · obtain ⟨y, hy, hv, hb⟩ := h
    have : y = ⟨800, 851⟩ := by simpa [eq_comm] using hy
    subst this
    simp only at hv
    omega
  · obtain ⟨y, hy, _⟩ := k
    cases hy

/-- CapAndFailures: the device at work; 95.0 °C and 110.0 °C, and just below. -/
theorem witness_failures :
    let s := { State.reset with start := { State.reset.start with fuses := true, detects := true } }
    s.start.fuses = true ∧ s.power.state ≠ .off ∧ s.start.detects = true ∧ State.reset.start.detects = false ∧ State.reset.start.fuses = false ∧
    950 ≤ (950 : BitVec 12).toNat ∧ ({ Power.reset with rising := true } : Power).rising = true ∧ 930 ≤ (930 : BitVec 12).toNat ∧
    (929 : BitVec 12).toNat < 930 ∧ Power.reset.rising = false ∧ (949 : BitVec 12).toNat < 950 ∧ (3500 : BitVec 16).toNat ≤ Power.reset.capW.toNat ∧
    Power.reset.capW.toNat < (3501 : BitVec 16).toNat ∧ ({ Board.reset with pwrbrkLow := true } : Board).pwrbrkLow = true ∧ 1100 ≤ (1100 : BitVec 12).toNat ∧ (1099 : BitVec 12).toNat < 1100 ∧ s.board.vaux12 = true ∧
    ({ s.power with state := .off }).state = .off ∧ ({ Board.reset with vaux12 := false } : Board).vaux12 = false := by decide

/-- A device with this security state. -/
def wSafe (x : Security) : State := { wRing { wPart with state := .ready } with security := x }

/-- KeysAndAttestation: the debug slot empty, provisioned, and revoked; the last consist key, and one of two; each lifecycle state. -/
theorem witness_keys :
    let x := { Security.reset with keySlot := 4 }
    let k (n : Nat) : Nat × KeySlot := (n, ⟨1, true, false⟩)
    x.keySlot.toNat ≤ 4 ∧ x.lifecycle = .blank ∧ (tabGet KeySlot.empty x.keys 4).provisioned = false ∧ (tabGet KeySlot.empty x.keys 4).revoked = false ∧
    (tabGet KeySlot.empty [k 4] 4).provisioned = true ∧ ({ x with lifecycle := .operational } : Security).lifecycle ≠ .retired ∧
    ({ x with keys := [k 0, k 1] } : Security).keyIn 1 = true ∧ ({ x with keys := [k 0] } : Security).keyIn 0 = true ∧
    (∀ m : Nat, m < 4 → m ≠ 0 → ({ x with keys := [k 0] } : Security).keyIn m = false) ∧ ({ x with attBusy := true } : Security).hasAttKey = false ∧
    ({ x with attBusy := true, hasAttKey := true } : Security).hasAttKey = true ∧ x.attBusy = false := by decide

/-- DebugAndLifecycle: a level at and above the one held, a request above the image's maximum, and each lifecycle change. -/
theorem witness_debug :
    let x := { Security.reset with lifecycle := .operational, maxLevels := [(0, 1)], reqLevel := 2 }
    let s := wSafe x
    (0 : BitVec 2).toNat ≤ (s.levelOf 0).toNat ∧ (s.levelOf 0).toNat < (1 : BitVec 2).toNat ∧ x.wiping = none ∧ x.reqScope.toNat = (0 : PartId).val ∧
    (tabGet 0 x.maxLevels 0).toNat < x.reqLevel.toNat ∧ ({ x with reqScope := 0xFF } : Security).reqScope = 0xFF ∧ s.lt.state = .seeking ∧
    ({ x with wiping := some (.level 0 1) } : Security).wiping ≠ none ∧ ({ x with chalFor := some (0, 1) } : Security).chalFor ≠ none ∧
    s.responseValid = false ∧ (0xFF : BitVec 8) ≠ 0 ∧ (tabGet 0 x.maxLevels 0).toNat = 1 ∧ s.debugLevel = 0 ∧ s.isAbsent (0 : PartId).val = false ∧
    ({ x with lifecycle := .provisioned } : Security).lifecycle = .provisioned ∧ ({ x with lifecycle := .blank } : Security).lifecycle = .blank := by
  decide +kernel

/-- DebugAndLifecycle: the end of a challenge that is held, in Run and in Off; a change asked for at the device's scope, from each state. -/
theorem witness_lifecycle :
    let x := { Security.reset with reqScope := 0xFF, reqLevel := 2 }
    let s := { wSafe { x with chalFor := some (0, 1), chalEnd := ⟨5, false⟩ } with lt := { LineTime.reset with state := .locked } }
    s.power.state ≠ .off ∧ ({ Power.reset with state := .off } : Power).state = .off ∧ s.security.chalFor ≠ none ∧ s.comes s.security.chalEnd = true ∧
    s.security.wiping = none ∧ s.lt.state ≠ .seeking ∧ x.reqScope = 0xFF ∧ x.reqLevel = 2 ∧ x.wiping = none ∧
    ({ x with lifecycle := .operational, reqLevel := 4 } : Security).reqLevel = 4 ∧ (wSafe { x with lifecycle := .operational }).responseValid = false := by
  decide +kernel

/-- A response that the debug key has signed. -/
def wRaise : State := { wSafe { Security.reset with lifecycle := .operational, maxLevels := [(0, 1)], reqLevel := 1, chalFor := some (0, 1),
                                                    chalEnd := ⟨5, false⟩, keys := [(4, ⟨wKey, true, false⟩)], resp := wResp } with
                        lt := { LineTime.reset with state := .locked } }
theorem witness_response : wRaise.responseValid = true := by decide +kernel
theorem witness_raise :
    wRaise.power.state ≠ .off ∧ wRaise.security.reqScope.toNat = (0 : PartId).val ∧ wRaise.security.wiping = none ∧
    wRaise.security.lifecycle = .operational ∧ wRaise.isAbsent (0 : PartId).val = false ∧ wRaise.security.reqLevel.toNat = 1 ∧
    (tabGet 0 wRaise.security.maxLevels 0).toNat = 1 ∧ wRaise.debugLevel = 0 := by decide
theorem witness_wipe :
    let s := { wSafe { Security.reset with wiping := some (.level 0 1), wipeLeft := [0] } with parts := [] }
    s.security.wiping = some (.level (0 : PartId).val 1) ∧ s.security.wipeLeft = [0] ∧ s.wipeEnds 0 = true ∧ (s.part 0).state = .absent ∧
    s.consist.grants = [] := by decide
/-- DebugAndLifecycle: the wipe of a partition that is RESETTING, with a grant of near memory and one of slice scratch. -/
theorem witness_wipe_resetting :
    let s := { wSafe { Security.reset with wiping := some (.level 0 1), wipeLeft := [0] } with
      parts := [(0, { wPart with state := .resetting, wiping := true, bound := none })]
      consist := { Consist.boot with grants := [⟨0x200000, 1, 0⟩, ⟨0x30000000000, 1, 0⟩, ⟨0x400000, 1, 1⟩] } }
    s.security.wiping = some (.level (0 : PartId).val 1) ∧ s.security.wipeLeft = [0] ∧ (s.part 0).state = .resetting ∧ (s.part 0).wiping = true ∧
    s.resetDone 0 = true ∧ inNear 0x200000 = true ∧ inScratch 0x30000000000 = true ∧ s.sliceFenced 0x30000000000 = false ∧ s.power.state ≠ .off ∧
    (∃ g ∈ s.consist.grants, g.part = 0 ∧ g.base ≤ 0x3FFFFF ∧ 0x3FFFFF < g.base + g.units * 2 ^ 21) := by
  refine ⟨by decide, by decide, by decide, by decide, by decide +kernel, by decide, by decide, by decide, by decide, ⟨⟨0x200000, 1, 0⟩, by decide⟩⟩
/-- R366: at the end of the wipe the last byte of a grant is zero, the byte after it is kept, and the partition is IDLE. -/
theorem test_wipe :
    let s := { wSafe { Security.reset with wiping := some (.level 0 1), wipeLeft := [0] } with
      parts := [(0, { wPart with state := .resetting, wiping := true, bound := none })], mem := [(0x3FFFFF, 9), (0x400000, 9)]
      consist := { Consist.boot with grants := [⟨0x200000, 1, 0⟩, ⟨0x400000, 1, 1⟩] } }
    (match exec (.wipeComplete 0) s with
      | .next t => t.mem == [(0x400000, 9)] && (t.part 0).state == .idle && t.security.wiping == none && t.levelOf 0 == 1
      | _ => false) = true := by decide +kernel
theorem witness_probe :
    let s (k : Core) : State := { wState k with security := { Security.reset with levels := [(0, 3)] } }
    let i : GOp := ⟨{ pred := 0, neg := false }, .alu .add 1 2 3⟩
    let k := { wCore with halted := true, run := .debugHalt, platform := [⟨0, i⟩] }
    (s wCore).underD3 0 = true ∧ wCore.halted = false ∧ wCore.kernel ≠ none ∧ wCore.run = .running ∧ wCore.tmq = [] ∧ (s k).probeHalted 0 = true ∧
    k.fault.valid = false ∧ k.aborting = false ∧ k.seqBusy = false ∧ k.platform.head? = some ⟨0, i⟩ ∧ k.pendS = [] ∧ (wState k).underD3 0 = false := by
  decide

/-- BoardAndHosts: the management complex ready, and not; the offsets of an I3C access; PWR_CTRL with and without GO; the device's debug
level; a DBGACC read of IDENT and a write; a host port before and after stage 5. -/
theorem witness_board :
    let s := wBar
    let w := (2 ^ 39 * 2 ^ 64 : BitVec 104)
    Board.reset.mgmtReady = false ∧ ({ Board.reset with mgmtReady := true } : Board).mgmtReady = true ∧ (0xFFFF8 : BitVec 32).toNat < 0x00100000 ∧
    0x00100000 ≤ (0x00100000 : BitVec 32).toNat ∧ (0x09FFFFF8 : BitVec 32).toNat < 0x0A000000 ∧ ({ Power.reset with state := .off } : Power).state = .off ∧
    ({ Board.reset with dynAddr := some 9 } : Board).dynAddr ≠ none ∧ Board.reset.dynAddr = none ∧
    (0x59 : BitVec 7) ≠ 0x58 + Board.reset.mgmtId.setWidth 7 ∧ (0x03 : BitVec 8) ∉ [0x00, 0x01, 0x02, 0x20] ∧
    (0xDAC00000001 : Word).getLsbD 4 = false ∧ s.board.vaux12 = true ∧ s.levelOf 16 ≠ 3 ∧ (wSafe { Security.reset with levels := [(16, 3)] }).levelOf 16 = 3 ∧
    s.bar0Up = true ∧ (7 : BitVec 104).toNat / 2 ^ 64 = 0 ∧ 2 ^ 39 ≤ w.toNat / 2 ^ 64 ∧ w.toNat / 2 ^ 64 % 2 ^ 39 < 0x0B000340 ∧
    State.reset.bar0Up = false ∧ (0x0FFFFFF8 : Nat) < 0x10000000 ∧ 0x0B0003A0 ≤ (0x0B0003A0 : Nat) := by decide +kernel
theorem witness_hosts :
    let s := { State.reset with start := { State.reset.start with applied := true }, ports := [(26, { wUp with role := 3 })] }
    (s.start.applied = true ∧ (s.port (26 + (0 : HostPort).val)).state = .up) ∧ (s.pcie 0).sriov = false ∧ (16 : Nat) ≤ 16 ∧ (s.pcie 0).pending = [] ∧
    ({ Pcie.reset with pending := [255] } : Pcie).pending = [255] ∧ ¬ (State.reset.start.applied = true) ∧ (255 : Nat) < 256 ∧ 256 ≤ 256 ∧
    setHas ({ Pcie.reset with msixOn := [0], pending := [255] } : Pcie).msixOn 0 = true ∧ setHas Pcie.reset.maskAll 0 = false := by decide

/-! ## Witnesses: the step -/

/-- StepRunsFront, EmptyQueueIdles, OnlyIllFormedStops, MemoriesStayCanonical: a command in front, an empty queue, a well-formed command and one that is not,
canonical memories. -/
theorem witness_step :
    State.reset.pending = [] ∧ (Instr.sqLoop 0 Guard.always 1 0).wf = true ∧ (Op.loop 0 0).wf = false ∧
    (Instr.sqLoop 0 Guard.always 0 0).issued = some (0, ⟨Guard.always, .loop 0 0⟩) ∧ State.reset.memoriesWf = true ∧
    (match step { State.reset with pending := [.idcode] } with | .next t => t.board.dbgData == 0x07256BB7 | _ => false) = true := by decide +kernel

/-- EmptyQueueIdles: a device that is SEEKING, one that follows its source, and one that is 3 ns ahead of it. -/
theorem witness_idle :
    let l := { LineTime.reset with state := .locked, now := 100 }
    (wTime l).pending = [] ∧ (wTime l).lt.state ≠ .seeking ∧ (wTime l).lt.hold = 0 ∧ (wTime { l with hold := 3 }).lt.hold ≠ 0 ∧
    (wTime LineTime.reset).lt.state = .seeking := by decide

/-- R303: a device 40 ns ahead of the beacon holds Line Time still for 40 ns, and then goes on. -/
theorem test_line_time_holds :
    let s := (wTime { LineTime.reset with state := .locked, now := 100040 }).acceptBeacon 5 1 100000
    (s.pass 40).lt.now = 100040 ∧ (s.pass 41).lt.now = 100041 := by decide

/-- KernelWordsDecode: an immediate instruction in its short and its long form, at the bounds of the short one, and a row instruction. -/
theorem witness_words_decode :
    (Op.immOp .addi 1 2 0x3FFFFFFFFF).wf = true ∧ needsExt (.immOp .addi 1 2 0x3FFFFFFFFF) = none ∧
    (0x3FFFFFFFFF : Word) = ((0x3FFFFFFFFF : Word).setWidth 39).signExtend 64 ∧ (0xFFFFFFC000000000 : Word) = ((0xFFFFFFC000000000 : Word).setWidth 39).signExtend 64 ∧
    (0x4000000000 : Word) ≠ ((0x4000000000 : Word).setWidth 39).signExtend 64 ∧ (Op.row .norm wRow).wf = true ∧ needsExt (.row .norm wRow) = some true := by
  decide

/-! ## Results that the spec writes out -/

/-- R228: its example, 0x0049_0000_2300, lies in stack NM5 and slice 3 of die 2. -/
theorem test_near_address : stackOf 0x004900002300 = some 5 ∧ sliceOf 0x004900002300 = some (2, 3) := by decide

/-- R229, Table 10.1: far memory's granule 3 is of stack FM3; a siding; an address outside the windows. -/
theorem test_far_address : stackOf 0x020000003000 = some 19 ∧ inFar 0x02DC40000000 = true ∧ stackOf 0x012000000000 = none := by decide

/-- R157: integer results wrap; a shift uses bits 5:0; the high half of an unsigned product. -/
theorem test_integers :
    aluOp .add 0xFFFFFFFFFFFFFFFF 2 = 1 ∧ aluOp .shl 1 65 = 2 ∧ aluOp .sra 0x8000000000000000 64 = 0x8000000000000000 ∧
    aluOp .mulhu 0xFFFFFFFFFFFFFFFF 0xFFFFFFFFFFFFFFFF = 0xFFFFFFFFFFFFFFFE ∧ aluOp .min 0xFFFFFFFFFFFFFFFF 1 = 0xFFFFFFFFFFFFFFFF ∧
    aluOp .minu 0xFFFFFFFFFFFFFFFF 1 = 1 := by decide

/-- R157: truncation towards zero, NaN gives 0, a value beyond the range its nearest limit. -/
theorem test_f2i :
    f2i 0xBFC00000 = 0xFFFFFFFFFFFFFFFF ∧ f2i 0x7FC00000 = 0 ∧ f2i 0x7F800000 = 0x7FFFFFFFFFFFFFFF ∧ f2i 0xDF000001 = 0x8000000000000000 := by
  decide +kernel

/-- R157, R94: the sum of 1 and 2⁻²⁴ is a tie, to even; an infinity less itself is NaN; a product of zeros takes both signs. -/
theorem test_floats :
    fAdd 0x3F800000 0x33800000 = 0x3F800000 ∧ fAdd 0x3F800001 0x33800000 = 0x3F800002 ∧ fMul 0x80000000 0x3F800000 = 0x80000000 := by decide +kernel

/-- Tables 7.2 to 7.4: words written out field by field. -/
theorem test_words :
    decodeOp (0x01 * 2 ^ 59 + 0x02 * 2 ^ 54 + 1 * 2 ^ 52 + 5 * 2 ^ 49 + 31 * 2 ^ 44 + 1 * 2 ^ 39 + 2 * 2 ^ 34) none =
      some ⟨⟨true, 5⟩, .alu .mul 31 1 2⟩ ∧
    decodeOp (0x02 * 2 ^ 59 + 3 * 2 ^ 44 + 4 * 2 ^ 39 + (2 ^ 39 - 1)) none = some ⟨⟨false, 0⟩, .immOp .addi 3 4 0xFFFFFFFFFFFFFFFF⟩ ∧
    decodeOp (0x02 * 2 ^ 59 + 2 ^ 53 + 3 * 2 ^ 44) (some 0x123456789ABCDEF0) = some ⟨⟨false, 0⟩, .immOp .addi 3 0 0x123456789ABCDEF0⟩ ∧
    decodeOp (0x04 * 2 ^ 59 + 0x02 * 2 ^ 54) none = some ⟨⟨false, 0⟩, .endK⟩ ∧ decodeOp 0 none = none ∧
    decodeOp (0x05 * 2 ^ 59 + 6 * 2 ^ 44 + 7 * 2 ^ 39 + 2 * 2 ^ 37 + 2 ^ 36 + 8) none = some ⟨⟨false, 0⟩, .ld 6 7 2 true 8⟩ := by decide +kernel

/-- Table 7.13: the first four bytes of a kernel image are the letters E V I S, and its CRC is that of IEEE 802.3 (check value of "123456789"). -/
theorem test_image : leBytes 4 0x53495645 = [0x45, 0x56, 0x49, 0x53] ∧ crc32 ([0x31, 0x32, 0x33, 0x34, 0x35, 0x36, 0x37, 0x38, 0x39]) = 0xCBF43926 := by
  decide +kernel

/-- R252: a baton saturates at 2⁶³ − 1, by sy.add. -/
theorem test_baton_saturates :
    let x := { wPart with sync := ⟨[(3, 0x7FFFFFFFFFFFFFFE)], []⟩, sec := { SecPart.reset with stepBaton := 1, lossBaton := 2 } }
    let e := wEntry (.sadd 0 1 2) [5]
    (match exec (.engineStart 0 .sy .clean) (wSync e (some 3) x) with
      | .next t => (t.part 0).sync.baton 3 == 0x7FFFFFFFFFFFFFFF
      | _ => false) = true := by decide +kernel

/-- R187: RING_DB with a value one past the ring size halts the ring with QUEUE_OVERRUN (0x05), at index P. -/
theorem test_ring_overrun :
    (match exec (.ringDb 0 0 65) (wRing { wPart with producer := 0 }) with
      | .next t => (t.part 0).halted && (t.part 0).haltStatus == 0x05 && (t.part 0).haltIndex == 0 && (t.part 0).producer == 0
      | _ => false) = true := by decide

/-- The cap is held between 2,000 W and 3,500 W (R375, the power registers of chapter 16); PWR_CTRL after reset reads the cap of 3,500 W (0xDAC). -/
theorem test_cap :
    State.reset.bar0Read 0x0A000008 = 0x00000DAC00000000 ∧
    (match exec (.i3cWriteRequest 0x0A000008 0) { State.reset with board := { Board.reset with mgmtReady := true, dynAddr := some 9 } } with
      | .next t => t.power.capW == 2000
      | _ => false) = true := by decide +kernel

/-- The step takes the front of the queue and leaves the rest. -/
theorem test_step :
    (match step { State.reset with pending := [.ltCntClr, .idcode] } with | .next t => t.pending == [.idcode] | _ => false) = true := by decide +kernel

end Sys2Proof.Tests
end

/-!
The registers of BAR0 and the device at reset: the fields of a register word, where BAR0 holds each block, what a write of a control register
does, and the reset values (O46, O58).
-/
namespace Sys2Proof.Machine

/-! ## The fields of a register word -/

/-- A field reads the same bits of each side of a union. -/
@[simp] theorem field_or (v w : Word) (lo n : Nat) : field (v ||| w) lo n = field v lo n ||| field w lo n := by
  simp only [field, BitVec.toNat_or, ← Nat.shiftRight_eq_div_pow, Nat.shiftRight_or_distrib, Nat.or_mod_two_pow]

/-- The bits of a field are those of the word, from its lowest on. -/
theorem testBit_field (w : Word) (lo n i : Nat) : (field w lo n).testBit i = (decide (i < n) && w.getLsbD (lo + i)) := by
  rw [field, Nat.testBit_mod_two_pow, Nat.testBit_div_two_pow, BitVec.getLsbD, Nat.add_comm]

/-- A number placed at a bit begins there. -/
theorem getLsbD_put (lo v i : Nat) : (put lo v).getLsbD i = (decide (i < 64) && (decide (lo ≤ i) && v.testBit (i - lo))) := by
  rw [put, BitVec.getLsbD_ofNat, Nat.testBit_mul_two_pow]

/-- A number reads back from the field it was placed in. -/
theorem field_put_same {lo n v : Nat} (hv : v < 2 ^ n) (hlo : lo + n ≤ 64) : field (put lo v) lo n = v := by
  apply Nat.eq_of_testBit_eq
  intro i
  rw [testBit_field, getLsbD_put]
  by_cases hi : i < n
  · simp [hi, show lo + i < 64 by omega]
  · simp [hi, Nat.testBit_lt_two_pow (hv.trans_le (Nat.pow_le_pow_right (by decide) (not_lt.1 hi)))]

/-- A number placed above a field leaves it 0. -/
theorem field_put_above {lo n l : Nat} (v : Nat) (h : lo + n ≤ l) : field (put l v) lo n = 0 := by
  apply Nat.eq_of_testBit_eq
  intro i
  rw [testBit_field, getLsbD_put]
  by_cases hi : i < n
  · simp [show ¬ l ≤ lo + i by omega]
  · simp [hi]

/-- A number that ends below a field leaves it 0. -/
theorem field_put_below {lo n l v : Nat} (hv : v < 2 ^ (lo - l)) : field (put l v) lo n = 0 := by
  apply Nat.eq_of_testBit_eq
  intro i
  rw [testBit_field, getLsbD_put,
    Nat.testBit_lt_two_pow (hv.trans_le (Nat.pow_le_pow_right (by decide) (show lo - l ≤ lo + i - l by omega)))]
  simp

theorem putB_eq (lo : Nat) (b : Bool) : putB lo b = put lo b.toNat := by
  cases b <;> simp [putB, put]

/-- A field of one bit tells the flag. -/
theorem getLsbD_of_field_one {w : Word} {i : Nat} {b : Bool} (h : field w i 1 = b.toNat) : w.getLsbD i = b := by
  have inj : ∀ a b : Bool, a.toNat = b.toNat → a = b := by decide
  rw [field, pow_one, ← Nat.toNat_testBit] at h
  exact inj _ _ h

/-- The lowest field of a word. -/
theorem field_zero (w : Word) (n : Nat) : field w 0 n = w.toNat % 2 ^ n := by rw [field, pow_zero, Nat.div_one]

/-- The highest field of a word. -/
theorem field_top {lo n : Nat} (w : Word) (h : 64 ≤ lo + n) : field w lo n = w.toNat / 2 ^ lo := by
  have hw : w.toNat < 2 ^ (lo + n) := w.isLt.trans_le (Nat.pow_le_pow_right (by decide) h)
  rw [field, Nat.mod_eq_of_lt (Nat.div_lt_of_lt_mul (by rwa [← pow_add]))]

/-! ## Where BAR0 holds a register (Table 1.9) -/

section Blocks
variable (s : State) (hp : HostPort) (m a : Word)

theorem State.bar0Read_part {off p o : Nat} (h : off = 0x00110000 + 0x1000 * p + o) (hlt : p < 16) (ho : o < 0x1000) (h8 : o % 8 = 0) :
    s.bar0Read off = s.readPart p o := by
  have hr : (off - 0x00110000) / 0x1000 = p ∧ off % 0x1000 = o := by omega
  have hc : 0x00110000 ≤ off ∧ off < 0x00120000 ∧ off % 8 = 0 := by omega
  simp [State.bar0Read, State.readSignalBox, hr, hc, show ¬ off < 0x00100000 by omega, show off < 0x01000000 by omega,
    show off ≠ 0x00100000 by omega]

theorem State.bar0Read_core {off c o : Nat} (h : off = 0x01000000 + 0x10000 * c + o) (hc : c < 288) (ho : o < 0x10000) (h8 : o % 8 = 0) :
    s.bar0Read off = s.readCore c o := by
  have hr : (off - 0x01000000) / 0x10000 = c ∧ off % 0x10000 = o := by omega
  simp [State.bar0Read, hr, show off % 8 = 0 by omega, show ¬ off < 0x00100000 by omega, show ¬ off < 0x01000000 by omega,
    show off < 0x02200000 by omega]

theorem State.bar0Read_unaligned {off : Nat} (h : off % 8 ≠ 0) : s.bar0Read off = 0 := by
  simp [State.bar0Read, h]

/-- No map defines an offset after the loader's block. -/
theorem State.bar0Read_past {off : Nat} (h : 0x0D000000 ≤ off) : s.bar0Read off = 0 := by
  by_cases h8 : off % 8 = 0
  · unfold State.bar0Read
    rw [if_neg (by simp [h8])]
    iterate 16 rw [if_neg (by omega)]
  · exact s.bar0Read_unaligned h8

theorem State.writeReg_identity {off : Nat} (h : off < 0x00100000) : s.writeReg hp off m a = s := by
  unfold State.writeReg
  simp only [Bool.and_eq_true, decide_eq_true_eq]
  iterate 12 rw [if_neg (by omega)]

theorem State.writeReg_part {off p o : Nat} (h : off = 0x00110000 + 0x1000 * p + o) (hlt : p < 16) (ho : o < 0x1000) :
    s.writeReg hp off m a = s.writePart hp p o m a := by
  have hr : (off - 0x00110000) / 0x1000 = p ∧ off % 0x1000 = o := by omega
  unfold State.writeReg
  simp only [Bool.and_eq_true, decide_eq_true_eq, hr]
  rw [if_neg (by omega), if_pos (by omega)]

theorem State.writeReg_core {off c o : Nat} (h : off = 0x01000000 + 0x10000 * c + o) (hc : c < 288) (ho : o < 0x10000) :
    s.writeReg hp off m a = s.writeCore c o a := by
  have hr : (off - 0x01000000) / 0x10000 = c ∧ off % 0x10000 = o := by omega
  unfold State.writeReg
  simp only [Bool.and_eq_true, decide_eq_true_eq, hr]
  iterate 2 rw [if_neg (by omega)]
  rw [if_pos (by omega)]

theorem State.writeReg_xbCtrl {off d : Nat} (h : off = 0x03000000 + 0x100000 * d + 0x0008) (hd : d < 8) :
    s.writeReg hp off m a = onBit a 0 (·.clearXb d) s := by
  have hr : (off - 0x03000000) / 0x100000 = d ∧ off % 0x100000 = 0x0008 := by omega
  unfold State.writeReg
  simp only [Bool.and_eq_true, decide_eq_true_eq]
  iterate 3 rw [if_neg (by omega)]
  rw [if_pos (by omega), if_pos hr.2, hr.1]

theorem State.writeReg_xlatCtrl {off p : Nat} (h : off = 0x05100000 + 0x1000 * p) (hlt : p < 16) :
    s.writeReg hp off m a = onBit a 0 (fun s => s.modPart p fun x => { x with inval := true }) s := by
  have hr : (off - 0x05100000) / 0x1000 = p ∧ off % 0x1000 = 0 := by omega
  unfold State.writeReg
  simp only [Bool.and_eq_true, decide_eq_true_eq]
  iterate 4 rw [if_neg (by omega)]
  rw [if_pos (by omega), if_pos hr.2, hr.1]

theorem State.writeReg_port {off n o : Nat} (h : off = 0x06000000 + 0x10000 * n + o) (hn : n < 28) (ho : o < 0x10000) :
    s.writeReg hp off m a = s.writePort n o a := by
  have hr : (off - 0x06000000) / 0x10000 = n ∧ off % 0x10000 = o := by omega
  unfold State.writeReg
  simp only [Bool.and_eq_true, decide_eq_true_eq, hr]
  iterate 5 rw [if_neg (by omega)]
  rw [if_pos (by omega)]

theorem State.writeReg_syCtrl {off p : Nat} (h : off = 0x08000000 + 0x1000 * p + 0x010) (hlt : p < 16) :
    s.writeReg hp off m a = onBit a 0 (·.clearSy p) s := by
  have hr : (off - 0x08000000) / 0x1000 = p ∧ off % 0x1000 = 0x010 := by omega
  unfold State.writeReg
  simp only [Bool.and_eq_true, decide_eq_true_eq]
  iterate 7 rw [if_neg (by omega)]
  rw [if_pos (by omega), if_pos hr.2, hr.1]

end Blocks

/-! ## Accesses of BAR0 (R8) -/

section Accesses
variable (s : State) (hp : HostPort) (v : Word)

theorem mergeWrite_whole {old v : Word} {off : Nat} (h : off % 8 = 0) : mergeWrite old v off 8 = some (v, v) := by
  simp [mergeWrite, h]

/-- A 32-bit write of the upper half leaves the lower half as it was. -/
theorem mergeWrite_upper {old v : Word} {off : Nat} (h : off % 8 = 4) :
    mergeWrite old v off 4 = some ((old &&& 0xFFFFFFFF) ||| ((v &&& 0xFFFFFFFF) <<< 32), (v &&& 0xFFFFFFFF) <<< 32) := by
  simp [mergeWrite, h]

theorem mergeWrite_size {old v : Word} {off size : Nat} (h4 : size ≠ 4) (h8 : size ≠ 8) : mergeWrite old v off size = none := by
  simp [mergeWrite, h4, h8]

theorem mergeWrite_unaligned {old v : Word} {off size : Nat} (hs : size = 4 ∨ size = 8) (h : off % size ≠ 0) :
    mergeWrite old v off size = none := by
  obtain rfl | rfl := hs
  · simp [mergeWrite, show ¬ off % 8 = 0 by omega, show ¬ off % 8 = 4 by omega]
  · simp [mergeWrite, h]

theorem exec_registerWrite (off : BitVec 28) (size : Nat) :
    exec (.registerWrite hp off size v) s = .next (if s.bar0Up then s.bar0Write hp off.toNat size v else s) := rfl

/-- A write that no half and no whole register takes has no effect. -/
theorem exec_registerWrite_none {off : BitVec 28} {size : Nat} (h : ∀ old, mergeWrite old v off.toNat size = none) :
    Gives (.registerWrite hp off size v) s s := by
  rw [Gives, exec_registerWrite, State.bar0Write, h]
  exact congrArg _ (ite_self s)

theorem exec_registerWrite_down {off : BitVec 28} {size : Nat} (h : s.bar0Up = false) : Gives (.registerWrite hp off size v) s s := by
  rw [Gives, exec_registerWrite, h]
  rfl

theorem exec_registerWrite_identity {off : BitVec 28} {size : Nat} (h : off.toNat < 0x100000) :
    Gives (.registerWrite hp off size v) s s := by
  have hw : s.bar0Write hp off.toNat size v = s := by
    unfold State.bar0Write
    dsimp only
    split
    · exact s.writeReg_identity hp _ _ (by omega)
    · rfl
  rw [Gives, exec_registerWrite, hw, ite_self]

/-- A 64-bit write gives the register its value, and its actions the bits written. -/
theorem exec_registerWrite_whole {n : Nat} (hup : s.bar0Up = true) (hn : n < 2 ^ 28) (h8 : n % 8 = 0) :
    exec (.registerWrite hp (BitVec.ofNat 28 n) 8 v) s = .next (s.writeReg hp n v v) := by
  have ht : (BitVec.ofNat 28 n).toNat = n := by simpa using Nat.mod_eq_of_lt hn
  simp only [exec_registerWrite, hup, if_true, State.bar0Write, ht, mergeWrite_whole h8]
  rw [Nat.div_mul_cancel (Nat.dvd_of_mod_eq_zero h8)]

theorem exec_registerWrite_upper {n : Nat} (hup : s.bar0Up = true) (hn : n + 4 < 2 ^ 28) (h8 : n % 8 = 0) :
    exec (.registerWrite hp (BitVec.ofNat 28 n + 4) 4 v) s =
      .next (s.writeReg hp n ((s.bar0Read n &&& 0xFFFFFFFF) ||| ((v &&& 0xFFFFFFFF) <<< 32)) ((v &&& 0xFFFFFFFF) <<< 32)) := by
  have ht : (BitVec.ofNat 28 n + 4).toNat = n + 4 := by
    simp
    omega
  simp only [exec_registerWrite, hup, if_true, State.bar0Write, ht, mergeWrite_upper (show (n + 4) % 8 = 4 by omega)]
  rw [show (n + 4) / 8 * 8 = n by omega]

theorem State.bar0Load_whole (off : Nat) : s.bar0Load off 8 = s.bar0Read off := rfl

theorem State.bar0Load_low {off : Nat} (h : off % 8 = 0) : s.bar0Load off 4 = s.bar0Read off &&& 0xFFFFFFFF := by
  simp [State.bar0Load, halfOf, h, show off % 4 = 0 by omega, show off / 8 * 8 = off by omega]

theorem State.bar0Load_high {off : Nat} (h : off % 8 = 0) : s.bar0Load (off + 4) 4 = s.bar0Read off >>> 32 := by
  have hm (w : Word) : w >>> 32 &&& 0xFFFFFFFF#64 = w >>> 32 := by
    rw [show 0xFFFFFFFF#64 = BitVec.allOnes 64 >>> 32 by decide, ← BitVec.ushiftRight_and_distrib, BitVec.and_allOnes]
  simp [State.bar0Load, halfOf, show (off + 4) % 8 = 4 by omega, show (off + 4) % 4 = 0 by omega,
    show (off + 4) / 8 * 8 = off by omega, hm]

theorem State.bar0Load_size {off size : Nat} (h4 : size ≠ 4) (h8 : size ≠ 8) : s.bar0Load off size = 0 := by
  simp [State.bar0Load, h4, h8]
end Accesses

/-! ## Control registers -/

section Controls
variable {s : State} {hp : HostPort} (hup : s.bar0Up = true)
include hup

theorem exec_writeCore {n : Nat} (c : CoreId) (o : Nat) (v : Word) (h : n = 0x01000000 + 0x10000 * c.val + o)
    (ho : o < 0x10000) (h8 : o % 8 = 0) :
    exec (.registerWrite hp (BitVec.ofNat 28 n) 8 v) s = .next (s.writeCore c o v) := by
  have hc := c.isLt
  rw [exec_registerWrite_whole s hp v hup (by omega) (by omega), s.writeReg_core hp v v h hc ho]

theorem exec_writePart {n : Nat} (p : PartId) (o : Nat) (v : Word) (h : n = 0x00110000 + 0x1000 * p.val + o)
    (ho : o < 0x1000) (h8 : o % 8 = 0) :
    exec (.registerWrite hp (BitVec.ofNat 28 n) 8 v) s = .next (s.writePart hp p o v v) := by
  have hc := p.isLt
  rw [exec_registerWrite_whole s hp v hup (by omega) (by omega), s.writeReg_part hp v v h hc ho]

theorem exec_writePort {n : Nat} (p : PortId) (o : Nat) (v : Word) (h : n = 0x06000000 + 0x10000 * p.val + o)
    (ho : o < 0x10000) (h8 : o % 8 = 0) :
    exec (.registerWrite hp (BitVec.ofNat 28 n) 8 v) s = .next (s.writePort p o v) := by
  have hc := p.isLt
  rw [exec_registerWrite_whole s hp v hup (by omega) (by omega), s.writeReg_port hp v v h hc ho]

theorem exec_write_coreControls (c : CoreId) :
    exec (.registerWrite hp (BitVec.ofNat 28 (0x01000008 + 0x10000 * c.val)) 8 1) s = exec (.coreStallClr c) s ∧
    exec (.registerWrite hp (BitVec.ofNat 28 (0x01000808 + 0x10000 * c.val)) 8 1) s = exec (.mxCntClr c) s ∧
    exec (.registerWrite hp (BitVec.ofNat 28 (0x01001008 + 0x10000 * c.val)) 8 1) s = exec (.vxCntClr c) s ∧
    exec (.registerWrite hp (BitVec.ofNat 28 (0x01001408 + 0x10000 * c.val)) 8 1) s = exec (.upCntClr c) s :=
  ⟨exec_writeCore hup c 0x0008 1 (by omega) (by decide) rfl, exec_writeCore hup c 0x0808 1 (by omega) (by decide) rfl,
    exec_writeCore hup c 0x1008 1 (by omega) (by decide) rfl, exec_writeCore hup c 0x1408 1 (by omega) (by decide) rfl⟩

theorem exec_write_xbCtrl (d : DieId) :
    exec (.registerWrite hp (BitVec.ofNat 28 (0x03000008 + 0x100000 * d.val)) 8 1) s = exec (.xbCntClr d) s := by
  have hd := d.isLt
  rw [exec_registerWrite_whole s hp 1 hup (by omega) (by omega), s.writeReg_xbCtrl hp 1 1 (d := d) (by omega) hd]
  rfl

theorem exec_write_portControls (n : PortId) :
    exec (.registerWrite hp (BitVec.ofNat 28 (0x06000010 + 0x10000 * n.val)) 8 1) s = exec (.portRetrain n) s ∧
    exec (.registerWrite hp (BitVec.ofNat 28 (0x06000010 + 0x10000 * n.val)) 8 2) s = exec (.portCntClr n) s :=
  ⟨exec_writePort hup n 0x0010 1 (by omega) (by decide) rfl, exec_writePort hup n 0x0010 2 (by omega) (by decide) rfl⟩

theorem exec_write_ltCtrl : exec (.registerWrite hp 0x07000030 8 1) s = exec .ltCntClr s :=
  exec_registerWrite_whole s hp 1 hup (n := 0x07000030) (by decide) rfl

theorem exec_write_ageCtrl :
    exec (.registerWrite hp 0x0A000028 8 1) s = exec .marginPlanStart s ∧ exec (.registerWrite hp 0x0A000028 8 2) s = exec .pwrCntClr s :=
  ⟨exec_registerWrite_whole s hp 1 hup (n := 0x0A000028) (by decide) rfl, exec_registerWrite_whole s hp 2 hup (n := 0x0A000028) (by decide) rfl⟩

theorem exec_write_attCtrl : exec (.registerWrite hp 0x0B000420 8 1) s = exec .attGo s :=
  exec_registerWrite_whole s hp 1 hup (n := 0x0B000420) (by decide) rfl

/-- A request on CL_CTRL does what its command does: the loader that is busy counts either. -/
theorem exec_write_clCtrl (v : Word) (f : State → Host.Outcome State Fault Refusal) (g : State → State)
    (hf : f s = .next (s.loaderRequest g)) (hv : s.writeClCtrl v = if s.loader.state != 0 then s.loaderRequest id else doneBy f s) :
    exec (.registerWrite hp 0x0C000008 8 v) s = f s := by
  have hw : s.writeClCtrl v = s.loaderRequest g := by
    rw [hv, doneBy, hf]
    unfold State.loaderRequest
    split <;> rfl
  rw [hf, ← hw]
  exact exec_registerWrite_whole s hp v hup (n := 0x0C000008) (by decide) rfl

theorem exec_write_clCtrls :
    exec (.registerWrite hp 0x0C000008 8 1) s = exec .clVerify s ∧ exec (.registerWrite hp 0x0C000008 8 2) s = exec .clApply s ∧
    exec (.registerWrite hp 0x0C000008 8 4) s = exec .clPersist s :=
  ⟨exec_write_clCtrl hup 1 execClVerify _ rfl rfl, exec_write_clCtrl hup 2 execClApply _ rfl rfl,
    exec_write_clCtrl hup 4 execClPersist _ rfl rfl⟩

/-- CL_STAGE_LEN takes any value (R9). -/
theorem exec_write_clStageLen (v : Word) :
    Gives (.registerWrite hp 0x0C000010 8 v) s { s with loader := { s.loader with stageLen := v.setWidth 21 } } := by
  have hl : fieldOf 21 v 0 21 = v.setWidth 21 := by
    apply BitVec.eq_of_toNat_eq
    simp [fieldOf, field]
  rw [← hl]
  exact exec_registerWrite_whole s hp v hup (n := 0x0C000010) (by decide) rfl

theorem exec_write_partControls (p : PartId) (v : Word) :
    exec (.registerWrite hp (BitVec.ofNat 28 (0x00110038 + 0x1000 * p.val)) 8 8) s = exec (.partCntClr p hp) s ∧
    exec (.registerWrite hp (BitVec.ofNat 28 (0x08000010 + 0x1000 * p.val)) 8 1) s = exec (.syCntClr p) s ∧
    exec (.registerWrite hp (BitVec.ofNat 28 (0x05100000 + 0x1000 * p.val)) 8 1) s = exec (.xlatInval p) s ∧
    exec (.registerWrite hp (BitVec.ofNat 28 (0x00110020 + 0x1000 * p.val)) 8 v) s = exec (.ringCfgWrite p v) s := by
  have hlt := p.isLt
  refine ⟨exec_writePart hup p 0x038 8 (by omega) (by decide) rfl, ?_, ?_, exec_writePart hup p 0x020 v (by omega) (by decide) rfl⟩
  · rw [exec_registerWrite_whole s hp 1 hup (by omega) (by omega), s.writeReg_syCtrl hp 1 1 (p := p) (by omega) hlt]
    rfl
  · rw [exec_registerWrite_whole s hp 1 hup (by omega) (by omega), s.writeReg_xlatCtrl hp 1 1 (p := p) (by omega) hlt]
    rfl
end Controls

/-! ## RING_BASE (R183) -/

theorem Part.read_ringBase (x : Part) (own : Word) : x.read own 0x008 = x.ringBase := rfl

theorem State.readPart_ringBase (s : State) (p : Nat) : s.readPart p 0x008 = (s.part p).ringBase := by
  unfold State.readPart
  split <;> exact Part.read_ringBase _ _

/-- RING_BASE takes a value only while the ring is disabled; its low 12 bits are 0. -/
theorem State.writePart_ringBase (s : State) (hp : HostPort) (p : Nat) (m a : Word) :
    s.writePart hp p 0x008 m a =
      if (s.part p).enable then s else s.setPart p { s.part p with ringBase := m &&& 0xFFFFFFFFFFFFF000#64 } := rfl

theorem and_pageMask (v : Word) : v &&& 0xFFFFFFFFFFFFF000#64 = v >>> 12 <<< 12 := by
  rw [BitVec.shiftLeft_ushiftRight]
  rfl

/-- RING_BASE after a write of its upper half: an address in the upper half is a multiple of a page. -/
theorem upperHalf_pageAligned (old v : Word) :
    ((old &&& 0xFFFFFFFF#64) ||| ((v &&& 0xFFFFFFFF#64) <<< 32)) &&& 0xFFFFFFFFFFFFF000#64 = (old &&& 0xFFFFF000#64) ||| (v <<< 32) := by
  have hlow : (v &&& 0xFFFFFFFF#64) <<< 32 = v <<< 32 := by
    rw [BitVec.shiftLeft_and_distrib, show 0xFFFFFFFF#64 <<< 32 = BitVec.allOnes 64 <<< 32 from rfl, ← BitVec.shiftLeft_and_distrib,
      BitVec.and_allOnes]
  have hpage : v <<< 32 &&& 0xFFFFFFFFFFFFF000#64 = v <<< 32 := by
    rw [show v <<< 32 = v <<< 20 <<< 12 from BitVec.shiftLeft_add v 20 12, show 0xFFFFFFFFFFFFF000#64 = BitVec.allOnes 64 <<< 12 from rfl,
      ← BitVec.shiftLeft_and_distrib, BitVec.and_allOnes]
  rw [hlow, BitVec.and_or_distrib_right, BitVec.and_assoc, hpage]
  rfl

/-- RING_BASE is written while the ring is disabled, and reads as its page (R9, R183). -/
theorem exec_write_ringBase {s : State} {hp : HostPort} (hup : s.bar0Up = true) (p : PartId) (v : Word) :
    let at_ : BitVec 28 := BitVec.ofNat 28 (0x00110008 + 0x1000 * p.val)
    ((s.part p).enable = true → Gives (.registerWrite hp at_ 8 v) s s) ∧
    ((s.part p).enable = false →
      ∃ t, Gives (.registerWrite hp at_ 8 v) s t ∧ t = s.setPart p { s.part p with ringBase := v >>> 12 <<< 12 } ∧
        t.bar0Read at_.toNat = v >>> 12 <<< 12) ∧
    ((s.part p).enable = false →
      ∃ t, Gives (.registerWrite hp (at_ + 4) 4 v) s t ∧
        t.bar0Read at_.toNat = ((s.part p).ringBase &&& 0xFFFFF000) ||| (v <<< 32)) := by
  intro at_
  have hlt := p.isLt
  have hat : at_.toNat = 0x00110000 + 0x1000 * p.val + 0x008 := by
    simp only [at_, BitVec.toNat_ofNat]
    omega
  have hread (t : State) : t.bar0Read at_.toNat = (t.part p).ringBase := by
    rw [t.bar0Read_part hat hlt (by decide) rfl, t.readPart_ringBase]
  have hwhole : exec (.registerWrite hp at_ 8 v) s = .next (s.writePart hp p 0x008 v v) :=
    exec_writePart hup p 0x008 v (by omega) (by decide) rfl
  refine ⟨fun he => ?_, fun he => ⟨s.setPart p { s.part p with ringBase := v >>> 12 <<< 12 }, ?_, rfl, ?_⟩, fun he => ⟨_,
    exec_registerWrite_upper s hp v hup (by omega) (by omega), ?_⟩⟩
  · rw [Gives, hwhole, s.writePart_ringBase, he, if_pos rfl]
  · rw [Gives, hwhole, s.writePart_ringBase, he, and_pageMask]
    rfl
  · rw [hread, State.part_setPart, if_pos rfl]
  · rw [hread, s.writeReg_part hp _ _ (o := 0x008) (by omega) hlt (by decide), s.writePart_ringBase, he]
    have hold : s.bar0Read (0x00110008 + 0x1000 * p.val) = (s.part p).ringBase := by
      rw [s.bar0Read_part (p := p) (o := 0x008) (by omega) hlt (by decide) rfl, s.readPart_ringBase]
    rw [hold, if_neg Bool.false_ne_true, State.part_setPart, if_pos rfl]
    exact upperHalf_pageAligned _ _

/-! ## Status registers -/

theorem PState.code_lt (x : PState) : x.code < 2 ^ 4 := by cases x <;> decide
theorem Run.code_lt (x : Run) : x.code < 2 ^ 4 := by cases x <;> decide
theorem Role.code_lt (x : Role) : x.code < 2 ^ 2 := by cases x <;> decide
theorem Part.ringCode_eq (x : Part) : x.ringCode = if x.enable then (if x.halted then 2 else 1) else 0 := by
  unfold Part.ringCode
  cases x.enable <;> rfl
theorem Part.ringCode_lt (x : Part) : x.ringCode < 2 ^ 2 := by
  rw [Part.ringCode_eq]
  split
  · split <;> decide
  · decide

theorem State.partN_lt (s : State) (c : Nat) : s.partN c < 2 ^ 4 := by
  unfold State.partN State.partOf State.partOfCluster
  cases h : (List.range 16).find? fun p => (s.part p).clusters.getLsbD (clusterOf c) with
  | none => decide
  | some p => simpa using List.mem_of_find?_eq_some h

/-- PART_STATE. -/
theorem Part.read_state_fields (x : Part) (own : Word) :
    let w := x.read own 0
    field w 0 4 = x.state.code ∧ field w 8 2 = x.ringCode ∧ field w 10 1 = x.host.val ∧
    field w 16 32 = x.haltIndex.toNat ∧ field w 48 8 = x.haltStatus.toNat := by
  intro w
  have hs := x.state.code_lt
  have hr := x.ringCode_lt
  have hh := x.host.isLt
  have hi := x.haltIndex.isLt
  have ht := x.haltStatus.isLt
  have hk := x.parkedNow.toNat_lt
  have hw : w = (put 48 x.haltStatus.toNat ||| put 16 x.haltIndex.toNat ||| put 11 x.parkedNow.toNat ||| put 10 x.host.val |||
      put 8 x.ringCode ||| put 0 x.state.code) := by
    rw [← putB_eq]
    rfl
  rw [hw]
  simp (disch := omega) only [field_or, field_put_same, field_put_above, field_put_below, Nat.or_zero, Nat.zero_or, and_self]
  
/-- CORE_STATE. -/
theorem State.coreState_fields (s : State) (c : Nat) :
    let k := s.core c
    let w := s.coreState c
    field w 0 4 = k.run.code ∧ field w 4 2 = k.role.code ∧ field w 15 8 = (k.logical.map BitVec.toNat).getD 0 ∧
    field w 23 1 = k.logical.isSome.toNat := by
  intro k w
  have hr := k.run.code_lt
  have ho := k.role.code_lt
  have hp := s.partN_lt c
  have hl : (k.logical.map BitVec.toNat).getD 0 < 2 ^ 8 := by
    cases k.logical with
    | none => decide
    | some l => exact l.isLt
  have hb := k.logical.isSome.toNat_lt
  have hw : w = (put 23 k.logical.isSome.toNat ||| put 15 ((k.logical.map BitVec.toNat).getD 0) ||| put 11 (s.partN c) ||| put 4 k.role.code |||
      put 0 k.run.code) := by
    rw [← putB_eq]
    rfl
  rw [hw]
  simp (disch := omega) only [field_or, field_put_same, field_put_above, field_put_below, Nat.or_zero, Nat.zero_or, and_self]

theorem Part.read_ringState (x : Part) (own : Word) : x.read own 0x028 = (put 32 x.consumer.toNat ||| put 0 x.producer.toNat) := rfl

/-- RING_STATE. -/
theorem Part.read_ringState_fields (x : Part) (own : Word) :
    field (x.read own 0x028) 0 32 = x.producer.toNat ∧ field (x.read own 0x028) 32 32 = x.consumer.toNat := by
  have hp := x.producer.isLt
  have hc := x.consumer.isLt
  rw [Part.read_ringState]
  simp (disch := omega) only [field_or, field_put_same, field_put_above, field_put_below, Nat.or_zero, Nat.zero_or, and_self]

theorem State.readPart_held {s : State} {p : Nat} (o : Nat) (h : s.partHeld p = false) : s.readPart p o = (s.part p).read s.lt.own o := by
  rw [State.readPart, h]
  rfl

/-- RING_STATE shows the indices of a partition that is held back, too. -/
theorem State.readPart_ringState (s : State) (p : Nat) : s.readPart p 0x028 = (s.part p).read s.lt.own 0x028 := by
  unfold State.readPart
  split <;> simp only [Part.read_ringState]

theorem State.readCore_state {s : State} {c : Nat} (h : (s.core c).role ≠ .disabled) : s.readCore c 0 = s.coreState c := by
  rw [State.readCore, if_neg h, if_pos rfl]

theorem State.readCore_disabled {s : State} {c : Nat} (o : Nat) (h : (s.core c).role = .disabled) : s.readCore c o = 0 := by
  rw [State.readCore, if_pos h]

/-! ## Counter clears -/

theorem exec_coreClears (s : State) (c : CoreId) :
    let k := s.core c
    (s.coreTakes c = true →
      Gives (.coreStallClr c) s (s.setCore c { k with stall := [] }) ∧
      Gives (.mxCntClr c) s (s.setCore c { k with mx := { k.mx with cnt := [] } }) ∧
      Gives (.vxCntClr c) s (s.setCore c { k with vx := { k.vx with cnt := [] } }) ∧
      Gives (.upCntClr c) s (s.setCore c { k with up := { k.up with cnt := [] } })) ∧
    (s.coreTakes c = false → Gives (.coreStallClr c) s s ∧ Gives (.mxCntClr c) s s ∧ Gives (.vxCntClr c) s s ∧ Gives (.upCntClr c) s s) := by
  have takes (h : s.coreTakes c = true) (f : Core → Core) : s.writeCoreBlock c f = s.setCore c (f (s.core c)) := by
    rw [State.writeCoreBlock, if_pos h, State.modCore]
  have takesNone (h : s.coreTakes c = false) (f : Core → Core) : s.writeCoreBlock c f = s := by
    rw [State.writeCoreBlock, h, if_neg Bool.false_ne_true]
  exact ⟨fun h => ⟨congrArg _ (takes h _), congrArg _ (takes h _), congrArg _ (takes h _), congrArg _ (takes h _)⟩,
    fun h => ⟨congrArg _ (takesNone h _), congrArg _ (takesNone h _), congrArg _ (takesNone h _), congrArg _ (takesNone h _)⟩⟩

theorem exec_xbCntClr (s : State) (d : DieId) :
    ∃ t, Gives (.xbCntClr d) s t ∧ t.die d = { s.die d with cnt := [] } ∧ { t with dies := s.dies } = s ∧
      ∀ e : Nat, e ≠ d.val → t.die e = s.die e := by
  refine ⟨_, rfl, ?_, rfl, fun e he => ?_⟩
  · rw [State.clearXb, State.die_modDie, if_pos rfl]
  · rw [State.clearXb, State.die_modDie, if_neg he.symm]

theorem exec_portCntClr (s : State) (n : PortId) :
    ∃ t, Gives (.portCntClr n) s t ∧ t.port n = { s.port n with cnt := [] } ∧ { t with ports := s.ports } = s ∧
      ∀ m : Nat, m ≠ n.val → t.port m = s.port m := by
  refine ⟨_, rfl, ?_, rfl, fun m hm => ?_⟩
  · rw [State.clearPort, State.port_modPort, if_pos rfl]
  · rw [State.clearPort, State.port_modPort, if_neg hm.symm]

/-! ## O46 -/

/-- Settles O46: the clears are one update of a table each; a write goes through the block that holds its address to the command of the bit
written; a register's fields are the numbers it was put together from. -/
theorem registers : Obligations.Registers := by
  unfold Obligations.Registers
  refine ⟨fun s c d p n => ?_, fun s hp v => ?_, fun s p c => ?_⟩
  · obtain ⟨takes, takesNone⟩ := exec_coreClears s c
    exact ⟨takes, takesNone, exec_xbCntClr s d, rfl, exec_portCntClr s n, rfl, rfl, rfl⟩
  · refine ⟨fun h _ _ => exec_registerWrite_down s hp v h, fun _ _ h4 h8 => exec_registerWrite_none s hp v fun _ => mergeWrite_size h4 h8,
      fun _ _ hs h => exec_registerWrite_none s hp v fun _ => mergeWrite_unaligned hs h, fun _ _ h => exec_registerWrite_identity s hp v h,
      fun hup => ⟨exec_write_coreControls hup, exec_write_xbCtrl hup, exec_write_portControls hup, exec_write_ltCtrl hup, ?_⟩⟩
    obtain ⟨plan, clear⟩ := exec_write_ageCtrl hup (hp := hp)
    obtain ⟨verify, apply, persist⟩ := exec_write_clCtrls hup (hp := hp)
    refine ⟨plan, clear, exec_write_attCtrl hup, verify, apply, persist, exec_write_clStageLen hup v, fun p => ?_⟩
    obtain ⟨cntClr, syClr, inval, cfg⟩ := exec_write_partControls hup p v (hp := hp)
    exact ⟨cntClr, syClr, inval, cfg, exec_write_ringBase hup p v⟩
  · intro x k state ring core
    have hstate : state = s.readPart p 0 := s.bar0Read_part rfl p.isLt (by decide) rfl
    have hring : ring = x.read s.lt.own 0x028 :=
      (s.bar0Read_part (o := 0x028) (by omega) p.isLt (by decide) rfl).trans (s.readPart_ringState p)
    have hcore : core = s.readCore c 0 := s.bar0Read_core rfl c.isLt (by decide) rfl
    obtain ⟨producer, consumer⟩ := x.read_ringState_fields s.lt.own
    refine ⟨fun h => ?_, ?_, ?_, fun h => ?_, fun h => ?_, fun _ => s.bar0Read_unaligned, fun _ => s.bar0Read_past,
      fun off h => ⟨s.bar0Load_whole off, s.bar0Load_low h, s.bar0Load_high h⟩, fun _ _ => s.bar0Load_size⟩
    · rw [hstate, State.readPart_held 0 h]
      obtain ⟨code, ringCode, host, index, status⟩ := x.read_state_fields s.lt.own
      exact ⟨(field_zero _ 4).symm.trans code, ringCode.trans x.ringCode_eq, host, index, status⟩
    · rw [hring, ← producer]
      exact (field_zero _ 32).symm
    · rw [hring, ← consumer]
      exact (field_top _ (by decide)).symm
    · obtain ⟨run, role, logical, held⟩ := s.coreState_fields c
      rw [hcore, State.readCore_state h]
      exact ⟨(field_zero _ 4).symm.trans run, role, getLsbD_of_field_one held, fun l hl => logical.trans (by rw [hl]; rfl)⟩
    · rw [hcore, State.readCore_disabled 0 h]

/-! ## The device at reset -/

theorem State.core_reset (c : Nat) : State.reset.core c = Core.reset := rfl
theorem State.part_reset (p : Nat) : State.reset.part p = Part.reset := rfl
theorem State.port_reset (p : Nat) : State.reset.port p = Port.reset := rfl

/-- A partition at reset is ABSENT, its rings are disabled and empty, and it has no context (R184, R250). -/
theorem Part.reset_fields : Part.reset.state = .absent ∧ Part.reset.enable = false ∧ Part.reset.producer = 0 ∧ Part.reset.consumer = 0 ∧
    Part.reset.due = [] ∧ Part.reset.bound = none ∧ ∀ n, Part.reset.sync.baton n = 0 :=
  ⟨rfl, rfl, rfl, rfl, rfl, rfl, fun _ => rfl⟩

theorem Core.reg_reset (q : SReg) : Core.reset.reg q = 0 := ite_self _

theorem Core.pred_reset (q : PReg) : Core.reset.pred q = decide (q = 0) := by
  unfold Core.pred
  split
  · exact (decide_eq_true ‹_›).symm
  · exact (decide_eq_false ‹_›).symm

/-- A core at reset runs nothing, and no register of it holds anything but p0 (R58, R79). -/
theorem Core.reset_fields : Core.reset.run = .idle ∧ Core.reset.kernel = none ∧ (∀ q, Core.reset.reg q = 0) ∧
    (∀ q, Core.reset.pred q = decide (q = 0)) ∧ (∀ n, (Core.reset.tile n).cfg = TileCfg.none) ∧ Core.reset.mx.acc = [] ∧
    Core.reset.fault.valid = false :=
  ⟨rfl, rfl, Core.reg_reset, Core.pred_reset, fun _ => rfl, rfl, rfl⟩

/-- The fuse map of grade A at reset is one that R26 allows, with 256 enabled cores. -/
theorem Fuses.gradeA_legal : Fuses.gradeA.legal = true ∧ mapCount Fuses.gradeA.enabled = 256 := by decide +kernel

/-- The fuse map of grade B is one that R27 allows, with 240 enabled cores. -/
theorem Fuses.gradeB_legal : Fuses.gradeA.toGradeB.legal = true ∧ mapCount Fuses.gradeA.toGradeB.enabled = 240 := by decide +kernel

/-- PWR_CTRL at reset shows the cap of 3,500 W. -/
theorem State.bar0Read_reset_pwrCtrl : State.reset.bar0Read 0x0A000008 = 0x00000DAC00000000 := by decide

/-! ## O58 -/

/-- Settles O58: a table of the state is empty at reset, so each of its entries is the reset one. -/
theorem resetState : Obligations.ResetState := by
  unfold Obligations.ResetState
  intro r
  obtain ⟨legalA, countA⟩ := Fuses.gradeA_legal
  obtain ⟨legalB, countB⟩ := Fuses.gradeB_legal
  have hpart (p : Nat) : r.part p = Part.reset := State.part_reset p
  have hcore (c : Nat) : r.core c = Core.reset := State.core_reset c
  have hport (p : Nat) : r.port p = Port.reset := State.port_reset p
  refine ⟨rfl, rfl, fun _ => rfl, rfl, fun p => ?_, fun c => ?_, fun p => ?_, rfl, rfl, rfl, rfl, rfl, rfl, rfl, fun _ => rfl, rfl,
    State.bar0Read_reset_pwrCtrl, legalA, legalB, countA, countB⟩
  · rw [hpart]
    exact Part.reset_fields
  · rw [hcore]
    exact Core.reset_fields
  · rw [hport]
    exact ⟨rfl, rfl⟩

end Sys2Proof.Machine

/-!
The sequencer: what the command of a kernel instruction comes to, what holds it, how an engine instruction takes its entry, and what a fault
leaves (O8, O9, O10, O12, O15).
-/
namespace Sys2Proof.Machine

/-! ## Sets of numbers -/

theorem setHas_iff (s : NatSet) (n : Nat) : setHas s n = true ↔ n ∈ s := List.contains_iff_mem

theorem mem_setAdd (s : NatSet) (n m : Nat) : m ∈ setAdd s n ↔ m ∈ s ∨ m = n := by
  induction s with
  | nil => simp [setAdd]
  | cons k t ih =>
    unfold setAdd
    split
    · rename_i h
      subst h
      rw [List.mem_cons]
      tauto
    · split
      · simp only [List.mem_cons]
        tauto
      · simp only [List.mem_cons, ih]
        tauto

/-! ## One attempt (R33, R40, R53) -/

/-- The command of a kernel instruction is one attempt of its core's sequencer to issue it (R33). -/
theorem exec_issued {i : Instr} {c : CoreId} {x : GOp} (h : i.issued = some (c, x)) (s : State) :
    ∃ act, exec i s = s.attempt c x act := by
  cases i <;> simp only [Instr.issued, Option.some.injEq, Prod.mk.injEq, reduceCtorEq] at h <;> obtain ⟨rfl, rfl⟩ := h <;>
    dsimp only [exec, execSqAdd, execSqSub, execSqMul, execSqMulhu, execSqAnd, execSqOr, execSqXor, execSqShl, execSqShr, execSqSra,
      execSqMin, execSqMax, execSqMinu, execSqMaxu, execSqFadd, execSqFsub, execSqFmul, execSqI2f, execSqF2i, execSqAddi, execSqAndi,
      execSqOri, execSqXori, execSqShli, execSqShri, execSqSrai, execSqCeq, execSqCne, execSqClt, execSqCge, execSqCltu, execSqCgeu,
      execSqCflt, execSqCfle, execSqCfeq, execSqPand, execSqPor, execSqPxor, execSqPnot, execSqBr, execSqLoop, execSqEnd, execSqLd,
      execSqSt, execSqNop, execSqFence, execSqRdsys, execTcfg, execTmIngest, execTld, execTst, execTldX, execTstX, execMxMm, execMxMmq,
      execMxEw, execMxAccld, execMxLdb, execMxSt, execMxRmode, execMxSeed, execVxAdd, execVxMul, execVxFma, execVxMax, execVxMin,
      execVxCvt, execVxAct, execVxActd, execVxFn, execVxRand, execVxTload, execVxSeed, execVxNorm, execVxNormb, execVxSmax, execVxSmaxb,
      execTmDld, execTmDst, execTmDset, execTmCopy, execTmGather, execTmScatter, execTmRput, execTmRget, execSyBind, execSyAdd,
      execSyWait, execSyRead, execSyBar, execSyBarcfg, execUpSq, execUpStep, execUpSetstep, State.alu, State.conv, State.immediate,
      State.compare, State.predOps, State.scalar, State.predicate, State.engineIssue] <;>
    exact ⟨_, rfl⟩

/-- While a core issues nothing, a well-formed instruction has no effect (R53, R55, R197). -/
theorem State.attempt_stopped {s : State} {c : CoreId} {i : GOp} (act : Nat → State) (hw : i.op.wf = true)
    (hi : (s.core c).issuing = false) : s.attempt c i act = .next s := by
  simp [State.attempt, hw, hi]

/-- While an instruction executes in the sequencer, the cycle counts under STALL_CNT8 (R40). -/
theorem State.attempt_busy {s : State} {c : CoreId} {i : GOp} (act : Nat → State) (hw : i.op.wf = true)
    (hi : (s.core c).issuing = true) (hb : (s.core c).seqBusy = true) : s.attempt c i act = .next (s.modCore c (·.stallOn 8)) := by
  simp [State.attempt, hw, hi, hb]

/-- While the platform queue is empty, the cycle counts under PLATFORM_EMPTY (R40). -/
theorem State.attempt_empty {s : State} {c : CoreId} {i : GOp} (act : Nat → State) (hw : i.op.wf = true)
    (hi : (s.core c).issuing = true) (hb : (s.core c).seqBusy = false) (hp : (s.core c).platform = []) :
    s.attempt c i act = .next (s.modCore c (·.stallOn 7)) := by
  simp [State.attempt, hw, hi, hb, hp]

/-- Each of these stops the issue of a core. -/
theorem Core.issuing_eq_false {k : Core} (h : k.run ≠ .running ∨ k.halted = true ∨ k.aborting = true ∨ k.kernel = none) :
    k.issuing = false := by
  unfold Core.issuing
  obtain h | h | h | h := h <;> simp [h]

/-! ## What holds the head of the platform queue (Table 2.3) -/

theorem Core.touchesPending_iff {k : Core} {op : Op} :
    k.touchesPending op = true ↔ ∃ r : SReg, (r ∈ scalarsRead op ∨ scalarWritten op = some r) ∧ r.toNat ∈ k.pendS := by
  unfold Core.touchesPending
  generalize scalarsRead op = reads
  generalize scalarWritten op = writes
  rw [Bool.or_eq_true, List.any_eq_true]
  simp only [setHas_iff]
  cases writes with
  | none => simp
  | some d =>
    simp only [setHas_iff, Option.some.injEq]
    constructor
    · rintro (⟨r, hr, hp⟩ | hp)
      · exact ⟨r, .inl hr, hp⟩
      · exact ⟨d, .inr rfl, hp⟩
    · rintro ⟨r, hr | rfl, hp⟩
      · exact .inl ⟨r, hr, hp⟩
      · exact .inr hp

/-- A pending scalar holds every instruction that reads or writes it, before any other cause (R37, R40). -/
theorem Core.heldBy_pending {k : Core} {op : Op} (h : k.touchesPending op = true) : k.heldBy op = some 4 := if_pos h

/-- With no pending scalar, an engine instruction is held by its engine's full queue alone (R35). -/
theorem Core.heldBy_engine {k : Core} {op : Op} {e : Engine} (he : engineOf op = some e) (hp : k.touchesPending op = false) :
    k.heldBy op = if 16 ≤ (k.queue e).length then some (engineStall e) else none := by
  have h : ¬ k.touchesPending op = true := by simp [hp]
  refine (if_neg h).trans ?_
  cases op <;> simp only [engineOf, reduceCtorEq] at he <;> cases he <;> rfl

/-- Without a pending scalar, a tcfg waits for the one before it and for the registers of its run (R47). -/
theorem Core.heldBy_tcfg {k : Core} {first count rows rowLog2 format group}
    (hp : k.touchesPending (.tcfg first count rows rowLog2 format group) = false) (h : k.tcfgWait ≠ none ∨ k.runBusy first.toNat count.toNat = true) :
    k.heldBy (.tcfg first count rows rowLog2 format group) = some 5 := by
  have h' : (k.tcfgWait.isSome || k.runBusy first.toNat count.toNat) = true := by
    rwa [Bool.or_eq_true, Option.isSome_iff_ne_none]
  exact (if_neg (by simp [hp])).trans (if_pos h')

/-- Without a pending scalar, sq.fence and sq.end wait for every earlier instruction (R39). -/
theorem Core.heldBy_fence {k : Core} {op : Op} (ho : op = .fence ∨ op = .endK) (h : k.entries ≠ []) : k.heldBy op = some 6 := by
  have h' : ¬ k.entries.isEmpty = true := by simpa using h
  obtain rfl | rfl := ho <;> exact (if_neg (by simp [Core.touchesPending, scalarsRead, scalarWritten])).trans (if_neg h')

/-! ## The issue of an engine instruction (R34 to R37) -/

/-- An engine instruction that issues takes the tail of its queue, but for a tm.ingest that R176 faults. -/
theorem exec_enqueues {i : Instr} {c : CoreId} {x : GOp} {e : Engine} {n : Nat} {s : State} (h : i.issued = some (c, x))
    (he : engineOf x.op = some e) (hi : Issues s c x n)
    (hx : ∀ dd ds sxf xf sd, x.op = .ingest dd ds true sxf xf sd →
      s.fuses.gradeB = false ∨ (((s.core c).reg sxf).setWidth 9 : BitVec 9) = 0) :
    Gives i s (s.modCore c fun k => k.enqueue e x.op n) := by
  have ha := State.attempt_issues (fun n => s.modCore c fun k => k.enqueue e x.op n) hi
  cases i <;> simp only [Instr.issued, Option.some.injEq, Prod.mk.injEq, reduceCtorEq] at h <;> obtain ⟨rfl, rfl⟩ := h <;>
    simp only [engineOf, Option.some.injEq, reduceCtorEq] at he <;> subst he
  case tmIngest c g dd ds xfs sxf xf sd => 
    have hn : ¬ (xfs && s.fuses.gradeB && ((s.core c).reg sxf).setWidth 9 != (0 : BitVec 9)) = true := by
      cases xfs
      · simp
      · obtain h | h := hx dd ds sxf xf sd rfl <;> simp [h]
    show execTmIngest c g dd ds xfs sxf xf sd s = _
    unfold execTmIngest
    rw [State.attempt_issues _ hi]
    exact congrArg Host.Outcome.next (if_neg hn)
  all_goals exact ha

/-! ### What an entry's taking its place changes -/

section Enqueue
variable (k : Core) (e : Engine) (op : Op) (n : Nat)

/-- The entry takes the tail of its engine's queue, with the scalars that it names (R35, R36). -/
theorem Core.enqueue_queue (f : Engine) : (k.enqueue e op n).queue f = if f = e then k.queue e ++
    [⟨k.seqNo, n, op, (scalarsRead op).map k.reg, false, false, false, none, 0, opDraws op, none⟩] else k.queue f := by
  cases e <;> cases f <;> rfl

/-- Of the scalars other than s0, the one that the instruction writes becomes pending (R37). -/
theorem Core.mem_enqueue_pendS {r : SReg} (h : r ≠ 0) :
    r.toNat ∈ (k.enqueue e op n).pendS ↔ r.toNat ∈ k.pendS ∨ scalarWritten op = some r := by
  unfold Core.enqueue
  dsimp only
  cases scalarWritten op with
  | none => simp
  | some d =>
    by_cases hd : d = 0
    · dsimp only
      rw [if_pos hd, hd, Option.some.injEq]
      exact ⟨.inl, Or.rec id fun h0 => absurd h0.symm h⟩
    · simp only [if_neg hd, mem_setAdd, Option.some.injEq, BitVec.toNat_inj, eq_comm]

theorem Core.enqueue_counts : (k.enqueue e op n).cycles = k.cycles + 1 ∧ (k.enqueue e op n).platform = k.platform.drop 1 ∧
    (k.enqueue e op n).seqNo = k.seqNo + 1 := by
  cases e <;> exact ⟨rfl, rfl, rfl⟩

/-- The issue of an engine instruction changes nothing of its core but these. -/
theorem Core.enqueue_frame : { k.enqueue e op n with
    cycles := k.cycles, platform := k.platform, seqNo := k.seqNo, pendS := k.pendS,
    mxq := k.mxq, vxq := k.vxq, tmq := k.tmq, syq := k.syq } = k := by
  cases e <;> rfl

end Enqueue

/-! ## A fault (R53, R196, R199) -/

/-- The record that a fault leaves (Tables 2.10, 2.11). -/
def faultRec (engine : BitVec 3) (status : Code) (index : Nat) (row : Option (TReg × Nat)) (addr : Option Nat) : FaultRec :=
  ⟨true, row.isSome, addr.isSome, engine, (row.map (·.1)).getD 0, BitVec.ofNat 10 ((row.map (·.2)).getD 0), status,
    BitVec.ofNat 32 index, BitVec.ofNat 48 (addr.getD 0)⟩

/-- The event record of a fault falls due in the core's partition (R199). -/
def State.faultDue (s : State) (c : Nat) (status : Code) (index : Nat) : State :=
  match s.partOf c with
  | none => s
  | some p => s.eventDue p status 0xFFFFFFFF#32 (put 0 c ||| put 16 (index % 2 ^ 32))

/-- The cluster of a core decides its partition. -/
theorem State.partOf_congr {s t : State} (h : ∀ p, (t.part p).clusters = (s.part p).clusters) (c : Nat) : t.partOf c = s.partOf c := by
  simp only [State.partOf, State.partOfCluster, h]

section Fault
variable (s : State) (c : Nat) (engine : BitVec 3) (status : Code) (index : Nat) (row : Option (TReg × Nat)) (addr : Option Nat)

/-- A fault of a core whose record is valid changes RUN alone. -/
theorem State.fault_again (h : (s.core c).fault.valid = true) :
    s.fault c engine status index row addr = s.setCore c { s.core c with run := .faulted } := if_pos h

/-- The first fault of a core: its record, its partition's state and the event record. -/
theorem State.fault_first (h : (s.core c).fault.valid = false) :
    s.fault c engine status index row addr =
      (((s.modCore c fun k => { k with run := .faulted }).modCore c fun k =>
        { k with fault := faultRec engine status index row addr }).partFaulted c).faultDue c status index :=
  if_neg (by simp [h])

theorem State.partFaulted_frame : { s.partFaulted c with parts := s.parts } = s := by
  unfold State.partFaulted
  split
  · rfl
  · split <;> rfl

theorem State.partFaulted_part {p : Nat} (h : s.partOf c = some p) :
    (s.partFaulted c).part p = if (s.part p).state = .running then { s.part p with state := .faulted } else s.part p := by
  unfold State.partFaulted
  simp only [h]
  split <;> simp

theorem State.partFaulted_partOf (d : Nat) : (s.partFaulted c).partOf d = s.partOf d := by
  apply State.partOf_congr
  intro q
  unfold State.partFaulted
  split
  · rfl
  · split
    · rw [State.part_modPart]
      split
      · rename_i h
        rw [← h]
      · rfl
    · rfl

theorem State.faultDue_frame : { (s.faultDue c status index).photoAs s with parts := s.parts } = s := by
  unfold State.faultDue
  split
  · rfl
  · exact s.eventDue_frame ..

/-- Of the cores, a fault changes RUN and the record of its own: the first record stays (R53). -/
theorem State.fault_core (d : Nat) : (s.fault c engine status index row addr).core d =
    if c = d then { s.core c with run := .faulted, fault := if (s.core c).fault.valid then (s.core c).fault else faultRec engine status index row addr }
    else s.core d := by
  cases h : (s.core c).fault.valid
  · rw [s.fault_first _ _ _ _ _ _ h]
    generalize hu : ((s.modCore c fun k => { k with run := .faulted }).modCore c fun k =>
        { k with fault := faultRec engine status index row addr }) = u
    have h1 := congrArg State.cores ((u.partFaulted c).faultDue_frame c status index)
    have h2 := congrArg State.cores (u.partFaulted_frame c)
    have h3 : ((u.partFaulted c).faultDue c status index).core d = u.core d := congrArg (tabGet Core.reset · d) (h1.trans h2)
    rw [h3, ← hu, State.core_modCore, State.core_modCore_same, State.core_modCore]
    split <;> rfl
  · rw [s.fault_again _ _ _ _ _ _ h, State.core_setCore]
    rfl

/-- The partition that a fault leaves, before its event record (R196). -/
def Part.faulted (x : Part) : Part := if x.state = .running then { x with state := .faulted } else x

/-- The first fault of a core: its partition enters FAULTED, and then has an event record due, or dropped and counted (R183, R189, R199). -/
theorem State.fault_first_part (h : (s.core c).fault.valid = false) {p : Nat} (hp : s.partOf c = some p) :
    (s.fault c engine status index row addr).part p =
      let x := (s.part p).faulted
      if x.state = .absent ∨ x.enable = false ∨ 256 ≤ x.waitingEvents then x.bump 5
      else { x with due := x.due ++ [⟨true, ⟨0, 0xFF#8, status, 0xFFFFFFFF#32, put 0 c ||| put 16 (index % 2 ^ 32), s.lt.now, false⟩, 0, x.eventVector⟩] } := by
  rw [s.fault_first _ _ _ _ _ _ h]
  generalize hu : ((s.modCore c fun k => { k with run := .faulted }).modCore c fun k =>
      { k with fault := faultRec engine status index row addr }) = u
  have hpu : u.partOf c = some p := by subst hu; exact hp
  have hx : (u.partFaulted c).part p = (s.part p).faulted := by
    rw [u.partFaulted_part c hpu, ← hu]
    rfl
  have hl : (u.partFaulted c).lineTime = s.lt.now := by
    have h2 := congrArg State.lineTime (u.partFaulted_frame c)
    exact h2.trans (by rw [← hu]; rfl)
  unfold State.faultDue
  rw [u.partFaulted_partOf, hpu]
  dsimp only
  rw [State.eventDue_part, hx, hl]
  simp only [Bool.or_eq_true, decide_eq_true_eq, Bool.not_eq_true', or_assoc]

theorem Part.faulted_state {x : Part} (h : x.state = .running) : x.faulted = { x with state := .faulted } := if_pos h

/-- The first fault of a core of a RUNNING partition: the partition enters FAULTED (R196). -/
theorem State.fault_first_state (h : (s.core c).fault.valid = false) {p : Nat} (hp : s.partOf c = some p) (hr : (s.part p).state = .running) :
    ((s.fault c engine status index row addr).part p).state = .faulted := by
  rw [s.fault_first_part c engine status index row addr h hp, Part.faulted_state hr]
  dsimp only
  split <;> rfl

end Fault

/-- A core and an index side by side in INFO. -/
theorem toNat_put_core_index {c i : Nat} (hc : c < 2 ^ 16) (hi : i < 2 ^ 32) : (put 0 c ||| put 16 i).toNat = c + 2 ^ 16 * i := by
  rw [BitVec.toNat_or, put, put, BitVec.toNat_ofNat, BitVec.toNat_ofNat, Nat.mod_eq_of_lt (by omega), Nat.mod_eq_of_lt (by omega), pow_zero,
    Nat.mul_one, Nat.or_comm, Nat.mul_comm i, ← Nat.two_pow_add_eq_or_of_lt hc, Nat.add_comm]


/-! ## O8 -/

/-- Settles O8: an sq.ld or sq.st that issues makes its access through L1 and stays in the sequencer, or faults there. -/
theorem scalarMemory : Obligations.ScalarMemory := by
  unfold Obligations.ScalarMemory
  intro s t c g sr sa size signed off n
  have hld (hi : Issues s c ⟨g, .ld sr sa size signed off⟩ n) := State.attempt_issues (fun i =>
    match s.load c (scalarAddr ((s.core c).reg sa) off) (scalarBytes size) with
    | (s, .ok bs) => s.modCore c fun k => k.popBusy.setReg sr (loaded (scalarBytes size) signed bs)
    | (s, .fail st a) => s.seqFaults c 0 st i (some a)) hi
  have hst (hi : Issues s c ⟨g, .st sr sa size off⟩ n) := State.attempt_issues (fun i =>
    match s.store c (scalarAddr ((s.core c).reg sa) off) (leBytes (scalarBytes size) ((s.core c).reg sr).toNat) with
    | (s, .ok ()) => s.modCore c Core.popBusy
    | (s, .fail st a) => s.seqFaults c 0 st i (some a)) hi
  refine ⟨fun bs hi hl => ?_, fun st b hi hl => ?_, fun hi hl => ?_, fun st b hi hl => ?_⟩
  · exact (hld hi).trans (by simp only [scalarAddr, scalarBytes, hl]; rfl)
  · exact (hld hi).trans (by simp only [scalarAddr, scalarBytes, hl])
  · exact (hst hi).trans (by simp only [scalarAddr, scalarBytes, hl]; rfl)
  · exact (hst hi).trans (by simp only [scalarAddr, scalarBytes, hl])

/-! ## O9 -/

/-- Settles O9: an attempt at a guard value of 0 takes the head, and one of a stopped core does nothing. -/
theorem guardedAndStopped : Obligations.GuardedAndStopped := by
  unfold Obligations.GuardedAndStopped
  refine ⟨fun s i c x n h hh hp => ?_, fun s i c x h hw hs => ?_⟩
  · obtain ⟨act, he⟩ := exec_issued h s
    have hg : (s.core c).guard x.g = false := by simp [Core.guard, hp]
    exact he.trans (State.attempt_guarded act hh hg)
  · obtain ⟨act, he⟩ := exec_issued h s
    exact he.trans (State.attempt_stopped act hw (Core.issuing_eq_false hs))

/-! ## O10 -/

/-- Settles O10: each cause of Table 2.3 in the order in which an attempt meets them. -/
theorem heldCycles : Obligations.HeldCycles := by
  unfold Obligations.HeldCycles
  intro s i c x n h hw
  obtain ⟨act, he⟩ := exec_issued h s
  refine ⟨fun hi hb => he.trans (State.attempt_busy act hw hi hb), fun hi hb hp => he.trans (State.attempt_empty act hw hi hb hp),
    fun hh hg => ?_⟩
  have held {m : Nat} (hm : (s.core c).heldBy x.op = some m) := he.trans (State.attempt_held act hh hg hm)
  refine ⟨fun r hr hp => held (Core.heldBy_pending (Core.touchesPending_iff.2 ⟨r, hr, hp⟩)), fun hnp => ?_⟩
  have hp : (s.core c).touchesPending x.op = false :=
    Bool.eq_false_iff.2 fun h => by
      obtain ⟨r, hr, hm⟩ := Core.touchesPending_iff.1 h
      exact hnp r hr hm
  refine ⟨fun e hop hfull => ?_, fun first count rows rowLog2 format group hop hbusy => ?_, fun hop hfull => ?_⟩
  · have hm : (s.core c).heldBy x.op = some (engineStall e) := by rw [Core.heldBy_engine hop hp, if_pos hfull]
    exact (held hm).trans (by cases e <;> rfl)
  · rw [hop] at hp
    exact held (hop ▸ Core.heldBy_tcfg hp hbusy)
  · exact held (Core.heldBy_fence hop hfull)

/-! ## O12 -/

/-- Settles O12: an engine instruction takes its entry and changes nothing else; a tm.ingest that R176 faults takes none. -/
theorem engineInstructionsIssue : Obligations.EngineInstructionsIssue := by
  unfold Obligations.EngineInstructionsIssue
  refine ⟨fun s i c x e n h he hi hx => ?_, fun s c g dd ds sxf sd n => ?_⟩
  · refine ⟨_, exec_enqueues h he hi hx, rfl, fun d hd => s.core_modCore_other _ hd.symm, ?_⟩
    rw [State.core_modCore_same]
    obtain ⟨hcycles, hplatform, hseq⟩ := (s.core c).enqueue_counts e x.op n
    exact ⟨((s.core c).enqueue_queue e x.op n e).trans (if_pos rfl), fun f hf => ((s.core c).enqueue_queue e x.op n f).trans (if_neg hf),
      fun r hr => (s.core c).mem_enqueue_pendS e x.op n hr, hcycles, hplatform, hseq, (s.core c).enqueue_frame e x.op n⟩
  · intro k hi hb hv hc
    have hcode : ((k.reg sxf).setWidth 9 : BitVec 9) ≠ 0 := by
      intro h0
      have := congrArg BitVec.toNat h0
      rw [BitVec.toNat_setWidth] at this
      exact hc this
    have hg : Gives (.tmIngest c g dd ds true sxf 0 sd) s (s.seqFaults c 3 Code.absentEngine n none) := by
      show execTmIngest c g dd ds true sxf 0 sd s = _
      unfold execTmIngest
      rw [State.attempt_issues _ hi]
      exact congrArg Host.Outcome.next (if_pos (by simp only [hb, Bool.true_and, bne_iff_ne, ne_eq]; exact hcode))
    generalize hu : (s.modCore c fun k => { k with cycles := k.cycles + 1 }) = u
    have hk : u.core c = { k with cycles := k.cycles + 1 } := by rw [← hu, State.core_modCore_same]
    have hvu : (u.core c).fault.valid = false := by rw [hk]; exact hv
    have hcore := u.fault_core c 3 Code.absentEngine n none none c
    rw [if_pos rfl, hvu, hk] at hcore
    refine ⟨_, hg, ?_⟩
    unfold State.seqFaults
    rw [hu, hcore]
    refine ⟨rfl, rfl, rfl, rfl, rfl, ?_, fun p hp hr => ?_⟩
    · rw [(u.fault_memories ..).1, ← hu]
      rfl
    · subst hu
      exact State.fault_first_state _ _ _ _ _ _ _ hvu hp hr

/-! ## O15 -/

/-- Settles O15: the record of the first fault, and the event record of a partition whose rings are enabled. -/
theorem faultRecorded : Obligations.FaultRecorded := by
  unfold Obligations.FaultRecorded
  intro s c engine status index row addr t k
  have hcore : t.core c = { k with run := .faulted, fault := if k.fault.valid then k.fault else faultRec engine status index row addr } :=
    (s.fault_core c engine status index row addr c).trans (if_pos rfl)
  obtain ⟨hmem, -⟩ := s.fault_memories c engine status index row addr
  rw [hcore]
  refine ⟨rfl, hmem, rfl, rfl, rfl, s.fault_again _ _ _ _ _ _, fun hv => ?_⟩
  dsimp only
  rw [if_neg (by simp [hv])]
  refine ⟨rfl, rfl, rfl, rfl, ?_, ?_, fun p hp => ?_⟩
  · rintro r j rfl
    exact ⟨rfl, rfl, rfl⟩
  · rintro a rfl
    exact ⟨rfl, rfl⟩
  · have hpart := s.fault_first_part c engine status index row addr hv hp
    dsimp only at hpart
    refine ⟨s.fault_first_state c engine status index row addr hv hp, fun hr hen hw hi => ?_⟩
    rw [Part.faulted_state hr] at hpart
    have hroom : ¬ ((PState.faulted = .absent) ∨ (s.part p).enable = false ∨ 256 ≤ (s.part p).waitingEvents) := by
      rintro (h | h | h)
      · cases h
      · exact absurd hen (by simp [h])
      · omega
    rw [Nat.mod_eq_of_lt hi] at hpart
    rw [hpart.trans (if_neg hroom)]
    exact ⟨_, rfl, rfl, rfl, rfl, rfl, toNat_put_core_index (by have := c.isLt; omega) hi, rfl⟩

end Sys2Proof.Machine

/-!
A pending launch that starts, and the words that arrive in the platform queue (O29).
-/
namespace Sys2Proof.Machine

/-! ## The platform queue (R33, Table 1.4) -/

/-- The items of the platform queue that instructions become, from an index on. -/
def itemsFrom (f : Nat) (ops : List GOp) : List PItem := (List.range ops.length).zipWith (fun i o => ⟨f + i, o⟩) ops

/-- The native words of items. -/
def itemWords (l : List PItem) : Nat := (l.map fun i => opWords i.index).sum

theorem itemWords_append (l m : List PItem) : itemWords (l ++ m) = itemWords l + itemWords m := by
  simp [itemWords]

theorem itemsFrom_cons (f : Nat) (o : GOp) (t : List GOp) : itemsFrom f (o :: t) = ⟨f, o⟩ :: itemsFrom (f + 1) t := by
  simp only [itemsFrom, List.length_cons, List.range_succ_eq_map, List.zipWith_cons_cons, List.zipWith_map_left, Nat.add_zero]
  congr 2
  funext i o
  rw [Nat.succ_eq_add_one, Nat.add_assoc, Nat.add_comm 1]

theorem itemsFrom_length (f : Nat) (ops : List GOp) : (itemsFrom f ops).length = ops.length := by
  simp [itemsFrom]

theorem itemsFrom_getElem? (f : Nat) (ops : List GOp) (j : Nat) : (itemsFrom f ops)[j]? = ops[j]?.map fun o => ⟨f + j, o⟩ := by
  induction ops generalizing f j with
  | nil => simp [itemsFrom]
  | cons o t ih =>
    rw [itemsFrom_cons]
    cases j with
    | zero => simp
    | succ j =>
      simp only [List.getElem?_cons_succ, ih]
      rw [Nat.add_assoc, Nat.add_comm 1]

theorem Core.nativeWords_eq (k : Core) : k.nativeWords = itemWords k.platform := by
  rw [itemWords, List.sum_eq_foldl, List.foldl_map]
  rfl

/-- What fits takes no more than the room there is. -/
theorem itemWords_fitting (room f : Nat) (ops : List GOp) : itemWords (itemsFrom f (fitting room f ops)) ≤ room := by
  induction ops generalizing room f with
  | nil => exact Nat.zero_le _
  | cons o t ih =>
    unfold fitting
    split
    · rw [itemsFrom_cons]
      have := ih (room - opWords f) (f + 1)
      simp only [itemWords, List.map_cons, List.sum_cons] at this ⊢
      omega
    · exact Nat.zero_le _

/-- Instructions whose words find room all fit. -/
theorem fitting_all {room f : Nat} {ops : List GOp} (h : itemWords (itemsFrom f ops) ≤ room) : fitting room f ops = ops := by
  induction ops generalizing room f with
  | nil => rfl
  | cons o t ih =>
    simp only [itemsFrom_cons, itemWords, List.map_cons, List.sum_cons] at h
    unfold fitting
    rw [if_pos (by omega), ih (by simp only [itemWords]; omega)]

theorem itemWords_itemsFrom (f : Nat) (ops : List GOp) :
    itemWords (itemsFrom f ops) = ((List.range ops.length).map fun j => opWords (f + j)).sum := by
  induction ops generalizing f with
  | nil => rfl
  | cons o t ih =>
    rw [itemsFrom_cons, List.length_cons, List.range_succ_eq_map, List.map_cons, List.sum_cons, List.map_map]
    have := ih (f + 1)
    simp only [itemWords, List.map_cons, List.sum_cons, Function.comp_def, Nat.succ_eq_add_one, Nat.add_zero] at this ⊢
    rw [this]
    simp only [Nat.add_assoc, Nat.add_comm 1]

/-- What arrives in the platform queue: nothing, or instructions of the core's kernel in order, as many as find room. -/
theorem exec_platformWordArrival (s : State) (c : CoreId) (n : Nat) :
    Gives (.platformWordArrival c n) s s ∨
    ∃ r x, (s.core c).works = true ∧ (s.core c).kernel = some r ∧ tabGet none (s.part (s.partN c)).slots r.slot = some x ∧
      let ops := fitting (512 - (s.core c).nativeWords) r.fetch ((x.ops.drop r.fetch).take n)
      Gives (.platformWordArrival c n) s (s.setCore c { s.core c with
        platform := (s.core c).platform ++ itemsFrom r.fetch ops, kernel := some { r with fetch := r.fetch + ops.length } }) := by
  have he : exec (.platformWordArrival c n) s = execPlatformWordArrival c n s := rfl
  unfold Gives
  rw [he, execPlatformWordArrival]
  dsimp only
  split
  · exact .inl rfl
  · rename_i r hk
    split
    · exact .inl rfl
    · rename_i x hx
      obtain ⟨hw, hk⟩ : (s.core c).works = true ∧ (s.core c).kernel = some r := by
        split at hk
        · exact ⟨‹_›, hk⟩
        · cases hk
      exact .inr ⟨r, x, hw, hk, hx, rfl⟩

/-! ## O29 -/

/-- The words of a kernel never fill more than the queue (R33). -/
theorem exec_platformWordArrival_bound (s : State) (c : CoreId) (n : Nat) (h : (s.core c).nativeWords ≤ 512) :
    ∃ t, Gives (.platformWordArrival c n) s t ∧ (t.core c).nativeWords ≤ 512 ∧ { t with cores := s.cores } = s ∧
      (s.core c).platform <+: (t.core c).platform := by
  obtain hs | ⟨r, x, hw, hk, hx, ht⟩ := exec_platformWordArrival s c n
  · exact ⟨s, hs, h, rfl, List.prefix_rfl⟩
  · refine ⟨_, ht, ?_, rfl, ?_⟩ <;> rw [State.core_setCore_same]
    · have hf := itemWords_fitting (512 - (s.core c).nativeWords) r.fetch ((x.ops.drop r.fetch).take n)
      generalize fitting (512 - (s.core c).nativeWords) r.fetch ((x.ops.drop r.fetch).take n) = ops at hf ⊢
      rw [Core.nativeWords_eq] at h hf ⊢
      dsimp only
      rw [itemWords_append]
      omega
    · exact List.prefix_append _ _

/-- Instructions that find room in an empty queue arrive whole and in order (R33, R204). -/
theorem exec_platformWordArrival_all {s : State} {p : PartId} {c : CoreId} {r : KernelRef} {x : KSlot} {n : Nat}
    (hw : (s.core c).works = true) (hk : (s.core c).kernel = some r) (hp : s.partN c = p.val)
    (hx : tabGet none (s.part p).slots r.slot = some x) (he : (s.core c).platform = [])
    (hroom : ((List.range n).map fun j => opWords (r.fetch + j)).sum ≤ 512) (hn : r.fetch + n ≤ x.ops.length) :
    Gives (.platformWordArrival c n) s (s.setCore c { s.core c with
      platform := itemsFrom r.fetch ((x.ops.drop r.fetch).take n), kernel := some { r with fetch := r.fetch + n } }) := by
  have hlen : ((x.ops.drop r.fetch).take n).length = n := by
    rw [List.length_take, List.length_drop]
    omega
  have hfit : fitting (platformSize - (s.core c).nativeWords) r.fetch ((x.ops.drop r.fetch).take n) = (x.ops.drop r.fetch).take n := by
    apply fitting_all
    rw [itemWords_itemsFrom, hlen, Core.nativeWords_eq, he]
    exact hroom
  show execPlatformWordArrival c n s = _
  unfold execPlatformWordArrival
  simp only [hw, hk, if_true, hp, hx, hfit, hlen, he, List.nil_append]
  rw [itemsFrom, hlen]

/-- Settles O29: a launch whose cores are idle starts, and the words of a kernel arrive in order while they find room. -/
theorem deferredStartAndWords : Obligations.DeferredStartAndWords := by
  unfold Obligations.DeferredStartAndWords
  intro s p c k l
  refine ⟨fun hcmds hkind hstarted hrun hcores => ?_, fun r x n hw hk hp hx he hroom hn => ?_, fun n => exec_platformWordArrival_bound s c n⟩
  · have hmask : s.maskFenced l.cores = false := by
      simp only [State.maskFenced, List.any_eq_false]
      intro n hn
      obtain ⟨d, hd, hw, -⟩ := hcores n hn
      simp [hd, hw]
    have hidle : s.coresIdle p k.seq l.cores = true := by
      simp only [State.coresIdle, hcmds, Bool.and_eq_true, List.all_eq_true]
      refine ⟨fun n hn => ?_, by simp⟩
      obtain ⟨d, hd, -, hk⟩ := hcores n hn
      simp [hd, hk]
    have hdue : s.launchDue p k = true := by simp [State.launchDue, hkind, hstarted, hidle]
    show execLaunchDeferredStart p k.index s = _
    unfold execLaunchDeferredStart
    simp only [hcmds, List.find?_cons, beq_self_eq_true, hdue, Bool.and_true, hkind, hrun, hmask]
    simp only [State.modPart, hcmds, hrun, List.map_cons, List.map_nil, beq_self_eq_true, if_true]
    rfl
  · refine ⟨_, exec_platformWordArrival_all hw hk hp hx he hroom hn, rfl, ?_, ?_, fun j hj => ?_⟩ <;> rw [State.core_setCore_same]
    · rw [itemsFrom_length, List.length_take, List.length_drop]
      omega
    · rw [itemsFrom_getElem?, List.getElem?_take_of_lt hj, List.getElem?_drop]

end Sys2Proof.Machine

/-!
tcfg and the waking of a bank (O13): what a configuration that takes effect changes of the tile registers, and what it leaves.
-/
namespace Sys2Proof.Machine

/-! ## Tile registers -/

theorem Core.tile_setTile (k : Core) (t : Nat) (x : Tile) (r : Nat) : (k.setTile t x).tile r = if t = r then x else k.tile r :=
  tabGet_tabPut Tile.zero k.tiles t x r

/-- Nothing but the tile registers and the tags of the B buffers differs. -/
def Core.SameButTiles (k l : Core) : Prop := { l with tiles := k.tiles, mx := k.mx } = k

theorem Core.SameButTiles.refl (k : Core) : k.SameButTiles k := rfl

theorem Core.SameButTiles.trans {k l m : Core} (h : k.SameButTiles l) (h' : l.SameButTiles m) : k.SameButTiles m := by
  unfold Core.SameButTiles at *
  rw [← h, ← h']

/-- The bytes of every tile register are the same. -/
def Core.SameBytes (k l : Core) : Prop := ∀ r, (l.tile r).data = (k.tile r).data ∧ (l.tile r).scales = (k.tile r).scales

theorem Core.SameBytes.trans {k l m : Core} (h : k.SameBytes l) (h' : l.SameBytes m) : k.SameBytes m :=
  fun r => ⟨(h' r).1.trans (h r).1, (h' r).2.trans (h r).2⟩

/-- A register that takes another configuration keeps its bytes. -/
theorem Core.setTile_sameBytes (k : Core) (t : Nat) (cfg : TileCfg) : k.SameBytes (k.setTile t { k.tile t with cfg := cfg }) := by
  intro r
  rw [Core.tile_setTile]
  split
  · rename_i h
    subst h
    exact ⟨rfl, rfl⟩
  · exact ⟨rfl, rfl⟩

/-- A relation between cores that each step of a fold keeps. -/
theorem foldl_rel {α β : Type} {R : β → β → Prop} (refl : ∀ b, R b b) (trans : ∀ {a b c}, R a b → R b c → R a c) {f : β → α → β}
    (h : ∀ b a, R b (f b a)) (l : List α) (b : β) : R b (l.foldl f b) := by
  induction l generalizing b with
  | nil => exact refl b
  | cons a t ih => exact trans (h b a) (ih _)

/-! ## GROUP_CLEAR (R46) -/

/-- What clearing groups may change: GROUP of the registers, and nothing else. -/
def Core.GroupsCleared (k l : Core) : Prop :=
  k.SameButTiles l ∧ k.SameBytes l ∧ ∀ r, { (l.tile r).cfg with group := (k.tile r).cfg.group } = (k.tile r).cfg

theorem Core.GroupsCleared.refl (k : Core) : k.GroupsCleared k := ⟨rfl, fun _ => ⟨rfl, rfl⟩, fun _ => rfl⟩

theorem Core.GroupsCleared.trans {k l m : Core} (h : k.GroupsCleared l) (h' : l.GroupsCleared m) : k.GroupsCleared m := by
  refine ⟨h.1.trans h'.1, h.2.1.trans h'.2.1, fun r => ?_⟩
  rw [← h.2.2 r, ← h'.2.2 r]

theorem Core.setTile_groupsCleared (k : Core) (t : Nat) :
    k.GroupsCleared (k.setTile t { k.tile t with cfg := { (k.tile t).cfg with group := false } }) := by
  refine ⟨rfl, k.setTile_sameBytes t _, fun r => ?_⟩
  rw [Core.tile_setTile]
  split
  · rename_i h
    subst h
    rfl
  · rfl

theorem Core.clearGroups_groupsCleared (k : Core) (first count : Nat) (regroup : Bool) :
    k.GroupsCleared (k.clearGroups first count regroup) := by
  refine foldl_rel Core.GroupsCleared.refl Core.GroupsCleared.trans (fun k j => ?_) _ k
  dsimp only
  split
  · exact foldl_rel Core.GroupsCleared.refl Core.GroupsCleared.trans Core.setTile_groupsCleared _ k
  · exact .refl k

/-! ## The registers of the run (R44) -/

/-- The registers first to first + count − 1 take a configuration. -/
def Core.configured (k : Core) (first count : Nat) (v : TileCfg) : Core :=
  (List.range count).foldl (fun k i => { k.setTile (first + i) { k.tile (first + i) with cfg := v } with mx := k.mx.touch (first + i) }) k

theorem Core.configured_succ (k : Core) (first count : Nat) (v : TileCfg) : k.configured first (count + 1) v =
    { (k.configured first count v).setTile (first + count) { (k.configured first count v).tile (first + count) with cfg := v } with
      mx := (k.configured first count v).mx.touch (first + count) } := by
  simp only [Core.configured, List.range_succ, List.foldl_append, List.foldl_cons, List.foldl_nil]

theorem Core.configured_sameButTiles (k : Core) (first count : Nat) (v : TileCfg) : k.SameButTiles (k.configured first count v) := by
  refine foldl_rel Core.SameButTiles.refl Core.SameButTiles.trans (fun k i => ?_) _ k
  rfl

theorem Core.configured_tile (k : Core) (first count : Nat) (v : TileCfg) (r : Nat) :
    (k.configured first count v).tile r = if first ≤ r ∧ r < first + count then { k.tile r with cfg := v } else k.tile r := by
  induction count with
  | zero => exact (if_neg (by omega)).symm
  | succ n ih =>
    rw [Core.configured_succ]
    refine (Core.tile_setTile _ _ _ _).trans ?_
    by_cases h : first + n = r
    · subst h
      rw [if_pos rfl, if_pos (by omega), ih, if_neg (by omega)]
    · rw [if_neg h, ih]
      by_cases hr : first ≤ r ∧ r < first + n
      · rw [if_pos hr, if_pos (by omega)]
      · rw [if_neg hr, if_neg (by omega)]

/-! ## Gating the banks left at NONE (R57) -/

/-- Each of the banks that is left at NONE is gated. -/
def Core.gated (k : Core) (banks : List Nat) : Core :=
  banks.foldl (fun k b => if k.bankIdle b then { k with powered := setBit8 k.powered b false } else k) k

theorem Core.gated_frame (k : Core) (banks : List Nat) : { k.gated banks with powered := k.powered } = k := by
  refine foldl_rel (R := fun k l : Core => { l with powered := k.powered } = k) (fun _ => rfl) (fun {a b c} h h' => ?_) (fun k b => ?_) banks k
  · rw [← h, ← h']
  · split <;> rfl

/-- A bank with a register in use stays awake. -/
theorem Core.gated_used {k : Core} {b : Nat} (h : k.bankIdle b = false) : k.gated [b] = k := by
  simp [Core.gated, h]

theorem Core.applyTcfg_eq (k : Core) (first count : Nat) (v : TileCfg) :
    k.applyTcfg first count v = ((k.clearGroups first count (v.group && count == 4)).configured first count v).gated (runBanks first count) := rfl

/-- A tcfg that takes effect changes the tile registers, the tags and the power of the banks alone. -/
theorem Core.applyTcfg_frame (k : Core) (first count : Nat) (v : TileCfg) :
    { k.applyTcfg first count v with tiles := k.tiles, mx := k.mx, powered := k.powered } = k := by
  rw [Core.applyTcfg_eq]
  obtain ⟨hclear, -⟩ := k.clearGroups_groupsCleared first count (v.group && count == 4)
  generalize k.clearGroups first count (v.group && count == 4) = j at hclear ⊢
  have hl := hclear.trans (j.configured_sameButTiles first count v)
  generalize j.configured first count v = l at hl ⊢
  have hg := l.gated_frame (runBanks first count)
  generalize l.gated (runBanks first count) = m at hg ⊢
  unfold Core.SameButTiles at hl
  rw [← hl, ← hg]

theorem Core.applyTcfg_tile (k : Core) (first count : Nat) (v : TileCfg) (r : Nat) :
    (k.applyTcfg first count v).tile r = if first ≤ r ∧ r < first + count
      then { (k.clearGroups first count (v.group && count == 4)).tile r with cfg := v }
      else (k.clearGroups first count (v.group && count == 4)).tile r := by
  rw [Core.applyTcfg_eq, ← Core.configured_tile]
  have h := ((k.clearGroups first count (v.group && count == 4)).configured first count v).gated_frame (runBanks first count)
  exact (congrArg (fun l : Core => l.tile r) h :)

/-- No byte of a tile register changes at a tcfg that takes effect (R44). -/
theorem Core.applyTcfg_bytes (k : Core) (first count : Nat) (v : TileCfg) : k.SameBytes (k.applyTcfg first count v) := by
  intro r
  have h := (k.clearGroups_groupsCleared first count (v.group && count == 4)).2.1 r
  rw [Core.applyTcfg_tile]
  split <;> exact h

/-- Each register of the run has the configuration (R44). -/
theorem Core.applyTcfg_inside (k : Core) {first count r : Nat} (v : TileCfg) (h : first ≤ r ∧ r < first + count) :
    ((k.applyTcfg first count v).tile r).cfg = v := by
  rw [Core.applyTcfg_tile, if_pos h]

/-- A register outside the run keeps its configuration but for GROUP (R46). -/
theorem Core.applyTcfg_outside (k : Core) {first count r : Nat} (v : TileCfg) (h : r < first ∨ first + count ≤ r) :
    { ((k.applyTcfg first count v).tile r).cfg with group := (k.tile r).cfg.group } = (k.tile r).cfg := by
  rw [Core.applyTcfg_tile, if_neg (by omega)]
  exact (k.clearGroups_groupsCleared first count _).2.2 r

/-! ## Banks -/

theorem mem_runBanks {first count b : Nat} :
    b ∈ runBanks first count ↔ b < 8 ∧ ∃ r, first ≤ r ∧ r < first + count ∧ r / 8 = b := by
  simp only [runBanks, inRun, List.mem_filter, List.mem_range, List.any_eq_true, Bool.and_eq_true, decide_eq_true_eq]
  refine and_congr_right fun hb => ⟨?_, ?_⟩
  · rintro ⟨i, hi, h1, h2⟩
    exact ⟨8 * b + i, h1, h2, by omega⟩
  · rintro ⟨r, h1, h2, h3⟩
    exact ⟨r % 8, by omega, by omega, by omega⟩

/-- The banks of a run within one bank. -/
theorem runBanks_one {first count : Nat} (b : Fin 8) (hc : 1 ≤ count) (h1 : first / 8 = b.val) (h2 : (first + count - 1) / 8 = b.val) :
    runBanks first count = [b.val] := by
  have hmem (x : Nat) (hx : x ∈ List.range 8) : (List.range 8).any (fun i => inRun first count (8 * x + i)) = decide (x = b.val) := by
    have hx' := List.mem_range.1 hx
    have := @mem_runBanks first count x
    rw [runBanks, List.mem_filter] at this
    rw [Bool.eq_iff_iff, decide_eq_true_eq]
    constructor
    · intro h
      obtain ⟨-, r, hr⟩ := this.1 ⟨hx, h⟩
      omega
    · intro h
      exact (this.2 ⟨hx', first, by omega⟩).2
  rw [runBanks, List.filter_congr hmem]
  clear hmem h1 h2
  revert b
  decide

/-- Every bank of the run is awake. -/
theorem Core.toWake_awake {k : Core} {first count : Nat} {format : BitVec 4}
    (h : format = 0 ∨ ∀ b : Nat, b < 8 → (∃ r, first ≤ r ∧ r < first + count ∧ r / 8 = b) → k.powered.getLsbD b = true) :
    k.toWake first count format = [] := by
  unfold Core.toWake
  split
  · rfl
  · rename_i hf
    obtain h | h := h
    · exact absurd h hf
    · rw [List.filter_eq_nil_iff]
      intro b hb
      obtain ⟨hb8, hr⟩ := mem_runBanks.1 hb
      simp [h b hb8 hr]

theorem setBit8_only (b : Fin 8) : setBit8 (1#8 <<< b.val) b.val false = 0 ∧ (1#8 <<< b.val).getLsbD b.val = true := by
  revert b
  decide

theorem setBit8_getLsbD (m : BitVec 8) (b : Fin 8) : (setBit8 m b.val true).getLsbD b.val = true := by
  obtain ⟨-, h⟩ := setBit8_only b
  rw [setBit8, if_pos rfl, BitVec.getLsbD_or, h, Bool.or_true]

/-- The registers of a bank, from a register on, read zero. -/
theorem Core.wakeBank_tile (k : Core) (b r : Nat) (h : r / 8 = b) : ((k.wakeBank b).tile r).data = [] ∧ ((k.wakeBank b).tile r).scales = [] := by
  have hz (n : Nat) (i : Nat) (hi : i < n) :
      let t := ((List.range n).foldl (fun k i => k.setTile (8 * b + i) { Tile.zero with cfg := (k.tile (8 * b + i)).cfg }) k).tile (8 * b + i)
      t.data = [] ∧ t.scales = [] := by
    induction n with
    | zero => omega
    | succ n ih =>
      simp only [List.range_succ, List.foldl_append, List.foldl_cons, List.foldl_nil, Core.tile_setTile]
      split
      · exact ⟨rfl, rfl⟩
      · exact ih (by omega)
  have := hz 8 (r % 8) (by omega)
  rw [show 8 * b + r % 8 = r by omega] at this
  exact this

/-- Waking a bank changes nothing else. -/
theorem Core.wakeBank_frame (k : Core) (b : Nat) :
    k.wakeBank b = { k with tiles := (k.wakeBank b).tiles, powered := setBit8 k.powered b true, waking := setBit8 k.waking b false } := by
  unfold Core.wakeBank
  have h := foldl_rel (R := fun k l : Core => l = { k with tiles := l.tiles }) (fun _ => rfl) (fun {a b c} h h' => by rw [h', h])
    (f := fun k i => k.setTile (8 * b + i) { Tile.zero with cfg := (k.tile (8 * b + i)).cfg }) (fun _ _ => rfl) (List.range 8) k
  dsimp only at h ⊢
  generalize (List.range 8).foldl _ k = l at h ⊢
  rw [h]

/-! ## tcfg -/

theorem tcfgConsistent_count {first count rows rowLog2 : Nat} {format : BitVec 4} {group : Bool}
    (h : tcfgConsistent first count rows rowLog2 format group = true) : 1 ≤ count := by
  simp only [tcfgConsistent, Bool.and_eq_true, decide_eq_true_eq] at h
  exact h.1.1.1.2

/-- A tcfg that issues, and is consistent, takes effect or wakes the banks that it needs (R44, R57). -/
theorem exec_tcfg_consistent {s : State} {c : CoreId} {g : Guard} {first : TReg} {count : BitVec 7} {rows : BitVec 11}
    {rowLog2 format : BitVec 4} {group : Bool} {n : Nat} {banks : List Nat}
    (hi : Issues s c ⟨g, .tcfg first count rows rowLog2 format group⟩ n)
    (hc : tcfgConsistent first.toNat count.toNat rows.toNat rowLog2.toNat format group = true)
    (hb : (s.core c).toWake first.toNat count.toNat format = banks) :
    Gives (.tcfg c g first count rows rowLog2 format group) s
      (if banks.isEmpty then s.setCore c ((s.core c).pop.applyTcfg first.toNat count.toNat (tcfgValue rows rowLog2 format group))
       else s.setCore c { (s.core c).stallOn 5 with
         waking := banks.foldl (fun w b => setBit8 w b true) (s.core c).waking
         tcfgWait := some ⟨n, .tcfg first count rows rowLog2 format group⟩ }) := by
  show execTcfg c g first count rows rowLog2 format group s = _
  unfold execTcfg
  rw [State.attempt_issues _ hi]
  dsimp only
  rw [hc, Bool.not_true, if_neg Bool.false_ne_true, hb]
  rfl

/-- A bank with a register of the run stays awake when the tcfg takes effect (R57). -/
theorem Core.applyTcfg_powered {k : Core} {first count b : Nat} {v : TileCfg} (hb : runBanks first count = [b]) (hc : 1 ≤ count)
    (hf : v.format ≠ 0) (h1 : first / 8 = b) : (k.applyTcfg first count v).powered = k.powered := by
  rw [Core.applyTcfg_eq, hb]
  obtain ⟨hclear, -⟩ := k.clearGroups_groupsCleared first count (v.group && count == 4)
  generalize k.clearGroups first count (v.group && count == 4) = j at hclear ⊢
  have hused : (j.configured first count v).bankIdle b = false := by
    rw [Core.bankIdle, List.all_eq_false]
    refine ⟨first % 8, List.mem_range.2 (Nat.mod_lt _ (by decide)), ?_⟩
    rw [show 8 * b + first % 8 = first by omega, Core.configured_tile, if_pos (by omega)]
    simpa [fmtNone] using hf
  rw [Core.gated_used hused]
  exact (congrArg Core.powered (hclear.trans (j.configured_sameButTiles first count v)) :)

theorem State.abortEnds_not_aborting {s : State} {c : Nat} (h : (s.core c).aborting = false) : s.abortEnds c = s := by
  simp [State.abortEnds, h]

theorem tcfgValue_some {rows : BitVec 11} {rowLog2 format : BitVec 4} {group : Bool} (h : format ≠ 0) :
    tcfgValue rows rowLog2 format group = ⟨group, format, rowLog2, rows⟩ := if_neg h

/-- The last bank that a tcfg waits for is awake, and the tcfg takes effect (R57). -/
theorem exec_bankWakeComplete_last {s : State} {c : CoreId} {b : Fin 8} {n : Nat} {first : TReg} {count : BitVec 7} {rows : BitVec 11}
    {rowLog2 format : BitVec 4} {group : Bool} (hw : (s.core c).works = true) (ha : (s.core c).aborting = false)
    (hwait : (s.core c).tcfgWait = some ⟨n, .tcfg first count rows rowLog2 format group⟩) (hwaking : (s.core c).waking = 1#8 <<< b.val) :
    Gives (.bankWakeComplete c b) s (s.setCore c { ((s.core c).wakeBank b.val).applyTcfg first.toNat count.toNat
      (tcfgValue rows rowLog2 format group) with tcfgWait := none, platform := (s.core c).platform.drop 1 }) := by
  have hbit : (s.core c).waking.getLsbD b.val = true := (congrArg (BitVec.getLsbD · b.val) hwaking).trans (setBit8_only b).2
  have hframe := (s.core c).wakeBank_frame b.val
  show execBankWakeComplete c b s = _
  unfold execBankWakeComplete
  simp only [hw, hbit, Bool.not_true, Bool.or_false, Bool.false_eq_true, if_false]
  generalize (s.core c).wakeBank b.val = w at hframe ⊢
  have hwait' : w.tcfgWait = some ⟨n, .tcfg first count rows rowLog2 format group⟩ := by rw [hframe, hwait]
  have hzero : w.waking = 0 := by rw [hframe, hwaking, (setBit8_only b).1]
  have happly := w.applyTcfg_frame first.toNat count.toNat (tcfgValue rows rowLog2 format group)
  simp only [hwait', hzero, if_true, Core.tcfgEnds]
  generalize w.applyTcfg first.toNat count.toNat (tcfgValue rows rowLog2 format group) = a at happly ⊢
  have hplatform : a.platform = (s.core c).platform := (congrArg Core.platform happly :).trans (congrArg Core.platform hframe :)
  have haborting : a.aborting = false := ((congrArg Core.aborting happly :).trans (congrArg Core.aborting hframe :)).trans ha
  rw [State.abortEnds_not_aborting (by rw [State.core_setCore_same]; exact haborting), hplatform]

/-! ## O13 -/

/-- Settles O13: a tcfg whose banks are awake, one that wakes a bank, the bank's waking, and the end of an access. -/
theorem sequencerEvents : Obligations.SequencerEvents := by
  unfold Obligations.SequencerEvents
  refine ⟨fun s c g first count rows rowLog2 format group n => ?_, fun s c g first count rows rowLog2 format group n b => ?_, fun s c hw hb ha => ?_⟩
  · intro k hi hc hawake
    refine ⟨_, exec_tcfg_consistent hi hc (Core.toWake_awake hawake), rfl, fun d hd => s.core_setCore_other _ hd.symm, ?_⟩
    rw [if_pos List.isEmpty_nil, State.core_setCore_same]
    generalize hv : tcfgValue rows rowLog2 format group = v
    have hs := k.pop.applyTcfg_frame first.toNat count.toNat v
    refine ⟨(congrArg Core.platform hs :), (congrArg Core.scalars hs :), (congrArg Core.preds hs :), (congrArg Core.mxq hs :),
      (congrArg Core.tmq hs :), fun r hr => ?_⟩
    obtain ⟨hdata, hscales⟩ := k.pop.applyTcfg_bytes first.toNat count.toNat v r
    refine ⟨hdata, hscales, fun hin => ?_, fun hout => k.pop.applyTcfg_outside v hout⟩
    rw [Core.applyTcfg_inside _ v hin, ← hv]
    rfl
  · intro k op hc hf h1 h2
    have hcount := tcfgConsistent_count hc
    have hbanks := runBanks_one b hcount h1 h2
    refine ⟨fun hi hp => ?_, fun hw ha hwait hwaking => ?_⟩
    · refine exec_tcfg_consistent hi hc (banks := [b.val]) ?_
      rw [Core.toWake, if_neg (show ¬ format = fmtNone from hf), hbanks]
      exact List.filter_cons_of_pos (by rw [hp, Bool.not_false])
    · refine ⟨_, exec_bankWakeComplete_last hw ha hwait hwaking, ?_⟩
      rw [State.core_setCore_same, tcfgValue_some hf]
      dsimp only
      have hframe := k.wakeBank_frame b.val
      have hzero := k.wakeBank_tile b.val
      generalize k.wakeBank b.val = w at hframe hzero
      have happly := w.applyTcfg_frame first.toNat count.toNat ⟨group, format, rowLog2, rows⟩
      refine ⟨?_, ?_, rfl, rfl, fun r hr => ?_, fun r h3 h4 => Core.applyTcfg_inside w _ ⟨h3, h4⟩⟩
      · refine (congrArg Core.waking happly :).trans ?_
        rw [hframe]
        exact (congrArg (setBit8 · b.val false) hwaking).trans (setBit8_only b).1
      · rw [Core.applyTcfg_powered (v := ⟨group, format, rowLog2, rows⟩) hbanks hcount hf h1, hframe]
        exact setBit8_getLsbD _ b
      · obtain ⟨hdata, hscales⟩ := w.applyTcfg_bytes first.toNat count.toNat ⟨group, format, rowLog2, rows⟩ r
        exact ⟨hdata.trans (hzero r hr).1, hscales.trans (hzero r hr).2⟩
  · show execSequencerInstructionComplete c s = _
    unfold execSequencerInstructionComplete
    rw [hw, hb, State.abortEnds_not_aborting (by rw [State.core_modCore_same]; exact ha)]
    rfl

end Sys2Proof.Machine

/-!
The completion of an engine's instruction, the update instructions from their start and from a hold, and a combined increment that reaches
the sync store (O19).
-/
namespace Sys2Proof.Machine

/-! ## Lists and sets -/

theorem listDel_eq {α : Type} (l : List α) (n : Nat) : listDel l n = l.take n ++ l.drop (n + 1) := by
  induction l generalizing n with
  | nil => simp [listDel]
  | cons x t ih =>
    cases n with
    | zero => rfl
    | succ n => exact congrArg (x :: ·) (ih n)

theorem mem_setDel (s : NatSet) (n m : Nat) : m ∈ setDel s n ↔ m ∈ s ∧ m ≠ n := by
  simp [setDel]

/-! ## What a completion leaves of its core (R35, R37, R118, R121) -/

/-- SD receives a result and is no longer pending (R37). -/
def Core.withResult (k : Core) : Option (SReg × Word) → Core
  | some (d, v) => { k.setReg d v with pendS := setDel k.pendS d.toNat }
  | none => k

/-- The draw of an instruction is counted, and the table of a vx.tload is valid (R118, R121). -/
def VxState.retired (x : VxState) (e : Entry) : VxState :=
  let x : VxState := if e.draws then { x with draw := x.draw + 1 } else x
  match e.op with
  | .tload _ slot => x.loaded slot.toNat
  | _ => x

theorem Core.setReg_frame (k : Core) (d : SReg) (v : Word) : { k.setReg d v with scalars := k.scalars } = k := by
  unfold Core.setReg
  split <;> rfl

theorem Core.withResult_frame (k : Core) (r : Option (SReg × Word)) :
    { k.withResult r with scalars := k.scalars, pendS := k.pendS } = k := by
  obtain - | ⟨d, v⟩ := r
  · rfl
  · exact (congrArg (fun l : Core => { l with pendS := k.pendS }) (k.setReg_frame d v) :)

theorem Core.reg_of_ne_zero (k : Core) {r : SReg} (h : r ≠ 0) : k.reg r = tabGet 0 k.scalars r.toNat := if_neg h

theorem Core.setReg_of_ne_zero (k : Core) {d : SReg} (v : Word) (h : d ≠ 0) :
    k.setReg d v = { k with scalars := tabPut k.scalars d.toNat v } := if_neg h

/-- A scalar reads what was written to it last; s0 reads 0 (R150). -/
theorem Core.reg_setReg (k : Core) (d r : SReg) (v : Word) : (k.setReg d v).reg r = if r = d then (if d = 0 then 0 else v) else k.reg r := by
  by_cases hd : d = 0
  · rw [show k.setReg d v = k from if_pos hd, if_pos hd]
    split
    · rename_i hrd
      exact if_pos (hrd.trans hd)
    · rfl
  · rw [Core.setReg_of_ne_zero k v hd, if_neg hd]
    by_cases hr : r = 0
    · rw [if_neg (fun h => hd (h.symm.trans hr))]
      exact (if_pos hr).trans (if_pos hr).symm
    · rw [Core.reg_of_ne_zero _ hr, tabGet_tabPut, Core.reg_of_ne_zero _ hr]
      simp only [BitVec.toNat_inj, @eq_comm _ d r]

/-- An instruction that has dropped no write leaves its queue, with its result, and changes nothing else but the vector engine. -/
theorem Core.retire_eq (k : Core) (g : Engine) (pos : Nat) {e : Entry} (hd : e.drops = 0) :
    k.retire g pos e = { (k.setQueue g (listDel (k.queue g) pos)).withResult e.result with vx := k.vx.retired e } := by
  have hdrop (l : Core) : (match dropsDesc e.op with | some d => if e.drops = 0 then l else l.setDesc d (addDrops (l.desc d) e.drops) | none => l) = l := by
    split
    · exact if_pos hd
    · rfl
  have hload (l : Core) (o : Op) (x : VxState) : (match o with | .tload _ slot => { l with vx := x.loaded slot.toNat } | _ => { l with vx := x }) =
      { l with vx := match o with | .tload _ slot => x.loaded slot.toNat | _ => x } := by
    cases o <;> rfl
  have hq (q : List Entry) : (k.setQueue g q).vx = k.vx := by cases g <;> rfl
  have hs (l : Core) (d : SReg) (v : Word) : (l.setReg d v).vx = l.vx := (congrArg Core.vx (l.setReg_frame d v) :)
  unfold Core.retire
  refine (hdrop _).trans ((hload _ e.op _).trans ?_)
  unfold VxState.retired
  rw [← hq (listDel (k.queue g) pos)]
  generalize k.setQueue g (listDel (k.queue g) pos) = l
  rcases e.result with _ | ⟨d, v⟩
  · cases e.draws <;> rfl
  · rw [← hs l d v]
    cases e.draws <;> rfl

section Retire
variable (k : Core) (g : Engine) (pos : Nat) {e : Entry} (hd : e.drops = 0)
include hd

/-- The entries before and behind an instruction that leaves its queue keep their places (R35). -/
theorem Core.retire_queue (f : Engine) : (k.retire g pos e).queue f =
    if f = g then (k.queue g).take pos ++ (k.queue g).drop (pos + 1) else k.queue f := by
  rw [k.retire_eq g pos hd, ← listDel_eq]
  have h := (k.setQueue g (listDel (k.queue g) pos)).withResult_frame e.result
  refine (congrArg (fun l : Core => l.queue f) h : _).trans ?_
  cases f <;> cases g <;> rfl

/-- A completion leaves the tile registers, the descriptors, the matrix engine and what an ABORT waits for as they are. -/
theorem Core.retire_frame : (k.retire g pos e).mx = k.mx ∧ (k.retire g pos e).tiles = k.tiles ∧ (k.retire g pos e).descs = k.descs ∧
    (k.retire g pos e).aborting = k.aborting ∧ (k.retire g pos e).vx = k.vx.retired e := by
  rw [k.retire_eq g pos hd]
  have h := (k.setQueue g (listDel (k.queue g) pos)).withResult_frame e.result
  refine ⟨(congrArg Core.mx h :).trans ?_, (congrArg Core.tiles h :).trans ?_, (congrArg Core.descs h :).trans ?_,
    (congrArg Core.aborting h :).trans ?_, rfl⟩ <;> cases g <;> rfl

theorem Core.retire_noResult (hr : e.result = none) :
    (k.retire g pos e).scalars = k.scalars ∧ (k.retire g pos e).pendS = k.pendS := by
  rw [k.retire_eq g pos hd, hr]
  cases g <;> exact ⟨rfl, rfl⟩

/-- SD holds the result and is no longer pending; the other scalars stay as they are (R37). -/
theorem Core.retire_result {d : SReg} {v : Word} (hr : e.result = some (d, v)) :
    (∀ r : SReg, (k.retire g pos e).reg r = if r = d then (if d = 0 then 0 else v) else k.reg r) ∧
    ∀ r : Nat, r ∈ (k.retire g pos e).pendS ↔ r ∈ k.pendS ∧ r ≠ d.toNat := by
  rw [k.retire_eq g pos hd, hr]
  have hq (r : SReg) : (k.setQueue g (listDel (k.queue g) pos)).reg r = k.reg r := by cases g <;> rfl
  have hp : (k.setQueue g (listDel (k.queue g) pos)).pendS = k.pendS := by cases g <;> rfl
  refine ⟨fun r => ?_, fun r => ?_⟩
  · rw [← hq r]
    exact Core.reg_setReg _ d r v
  · rw [← hp]
    exact mem_setDel _ _ _

end Retire

/-! ## ENGINE_INSTRUCTION_COMPLETE -/

/-- The state after the sync traffic that the completion of an instruction may send (R243). -/
def State.syncSent (s : State) (c : Nat) (g : Engine) : State := if g = .sy && (s.core c).works then s.sendSync c else s

theorem State.syncSent_none {s : State} {c : Nat} {g : Engine} (h : g = .sy → s.syncOf c = none) : s.syncSent c g = s := by
  unfold State.syncSent
  split
  · rename_i hg
    rw [Bool.and_eq_true, decide_eq_true_eq] at hg
    rw [State.sendSync, h hg.1]
  · rfl

/-- An instruction that is done, and stores no tile, reaches its completion point once its sync traffic is sent. -/
theorem exec_engineInstructionComplete {s u : State} {c : CoreId} {g : Engine} {e : Entry} {pos : Nat} (hu : s.syncSent c g = u)
    (hw : (u.core c).works = true) (hq : ((u.core c).queue g)[pos]? = some e) (hdone : e.done = true) (hf : e.faulted = false)
    (ht : tstReg e.op = none) : Gives (.engineInstructionComplete c g pos) s (u.completeAt c g pos e) := by
  show execEngineInstructionComplete c g pos s = _
  unfold execEngineInstructionComplete
  unfold State.syncSent at hu
  dsimp only
  rw [hu, hq]
  simp only [hw, hdone, hf, ht, Bool.not_true, Bool.or_self, Bool.false_eq_true, if_false]

/-- One that stores a tile stores its rows first (R50). -/
theorem exec_engineInstructionComplete_tst {s u : State} {c : CoreId} {e : Entry} {t : TReg} {pos : Nat} (hw : (s.core c).works = true)
    (hq : (s.core c).tmq[pos]? = some e) (hdone : e.done = true) (hf : e.faulted = false) (ht : tstReg e.op = some t)
    (hrows : s.finishTst c e t = (u, none)) : Gives (.engineInstructionComplete c .tm pos) s (u.completeAt c .tm pos e) := by
  show execEngineInstructionComplete c .tm pos s = _
  unfold execEngineInstructionComplete
  have hq' : ((s.core c).queue .tm)[pos]? = some e := hq
  simp only [reduceCtorEq, decide_false, Bool.false_and, Bool.false_eq_true, if_false, hq', hw, hdone, hf, ht, hrows, Bool.not_true, Bool.or_self]

/-- At its completion point an instruction of the MX, TM and SY engines leaves its queue. -/
theorem State.completeAt_other {s : State} {c : Nat} {g : Engine} {e : Entry} (pos : Nat) (hg : g ≠ .vx) (hd : e.drops = 0)
    (ha : (s.core c).aborting = false) : s.completeAt c g pos e = s.setCore c ((s.core c).retire g pos e) := by
  obtain ⟨-, -, -, hab, -⟩ := (s.core c).retire_frame g pos hd
  have h : (s.setCore c ((s.core c).retire g pos e)).abortEnds c = s.setCore c ((s.core c).retire g pos e) :=
    State.abortEnds_not_aborting (by rw [State.core_setCore_same, hab, ha])
  cases g
  case vx => exact absurd rfl hg
  all_goals exact h

/-- What a completion counts in the vector engine changes its counters, and UP_STATE when an update instruction ends, alone. -/
theorem State.countVx_core (s : State) (c : Nat) (e : Entry) : ∃ cnt up,
    (s.countVx c e).core c = { s.core c with up := up, vx := { (s.core c).vx with cnt := cnt } } := by
  unfold State.countVx
  dsimp only
  split
  · rw [State.ticks_core, State.modUp, State.core_modCore_same, State.core_modCore_same]
    exact ⟨_, _, rfl⟩
  · rw [State.ticks_core, State.core_modCore_same]
    exact ⟨_, _, rfl⟩

theorem State.countVx_frame (s : State) (c : Nat) (e : Entry) : { s.countVx c e with cores := s.cores, freeCtr := s.freeCtr } = s := by
  unfold State.countVx
  dsimp only
  split <;> rfl

theorem VxState.retired_draw (x : VxState) (e : Entry) : (x.retired e).draw = if e.draws then x.draw + 1 else x.draw := by
  unfold VxState.retired
  dsimp only
  split <;> cases e.draws <;> rfl

/-- The table that a vx.tload has read is valid at its completion (R121). -/
theorem VxState.retired_tload (x : VxState) {e : Entry} {sa : SReg} {slot : BitVec 5} (h : e.op = .tload sa slot) :
    tabGet none (x.retired e).slots slot.toNat = tabGet none x.loading slot.toNat := by
  simp only [VxState.retired, h, VxState.loaded, tabGet_tabPut_same]
  split <;> rfl

/-- The last row of a tst is stored as any other. -/
theorem State.tstRows_one {s u x : State} {c : Nat} {t : Tile} {addr : Nat → Nat} (h : s.tstRows c t addr (List.range 1) = (u, none))
    (hs : s.store c (addr 0) (t.rowBytes 0) = (x, .ok ())) : u = x := by
  rw [show List.range 1 = [0] from rfl, State.tstRows, hs] at h
  exact (Prod.mk.inj h).1.symm

/-! ## Update instructions from their start (R137 to R147) -/

theorem exec_engineStart_clean {s : State} {c : CoreId} {g : Engine} {e : Entry} (h : Starts s c g e) :
    Gives (.engineStart c g .clean) s (s.startOp c g e) := by
  show execEngineStart c g .clean s = _
  unfold execEngineStart
  rw [h]

section Updates
variable {s u v : State} {c : CoreId} {e : Entry}

/-- up.sq without a cell: SD is given the rounded sum of the squares (R137). -/
theorem State.startUpsq_alone {sd : SReg} {acc : Num} (h : (s.modUp c fun x => { x with run := 1 }).sqShards c (e.arg 0)
    (List.range ((e.arg 1).toNat % 2 ^ 32)) (.fin ⟨false, 0, 0⟩) = (u, .ok acc)) :
    s.startUpsq c e sd false = (u.modUp c fun x => { x with sq := rn acc }).entryDone c .vx e (some (sd, (rn acc).setWidth 64)) := by
  unfold State.startUpsq
  simp only [Bool.false_eq_true, if_false, h]

/-- up.sq with a cell sends what SD is given (R138). -/
theorem State.startUpsq_cell {sd : SReg} {acc : Num} {ds : List (Nat × Nat)}
    (hc : (s.modUp c fun x => { x with run := 1 }).cellTarget c ((e.arg 2).toNat % 2 ^ 48) = (v, .ok ds))
    (h : v.sqShards c (e.arg 0) (List.range ((e.arg 1).toNat % 2 ^ 32)) (.fin ⟨false, 0, 0⟩) = (u, .ok acc)) :
    s.startUpsq c e sd true = ((u.sendNorm c ds (rn acc)).modUp c fun x => { x with sq := rn acc }).entryDone c .vx e
      (some (sd, (rn acc).setWidth 64)) := by
  unfold State.startUpsq
  simp only [if_true, hc, h]

theorem State.upMoves_start (s : State) (c : Nat) (r : UpResume) (h : r.places = []) : s.upMoves c r = (s, r) := by
  simp [State.upMoves, State.movedShards, h]

theorem UpResume.rest_start (n : Nat) : UpResume.start.rest n = (List.range n).filter fun j => decide (0 ≤ j) :=
  List.filter_eq_self.2 fun _ _ => rfl

/-- up.step from its start: SD is given the number of shards that were not updated (R140 to R145). -/
theorem State.runUpstep_start {sd : SReg} {bs : List Byte} {r : UpResume}
    (hl : (s.modUp c fun x => { x with run := 2, hold := false }).load c ((e.arg 4).toNat % 2 ^ 48 / 64 * 64) 64 = (v, .ok bs))
    (h : v.upShards c (e.arg 0) (upParOf (e.arg 2) ((e.arg 3).setWidth 32) bs)
      ((List.range ((e.arg 1).toNat % 2 ^ 32)).filter fun j => decide (0 ≤ j)) 0 = (u, .ok, r)) :
    s.runUpstep c e sd UpResume.start = (u.modUp c fun x => { x with notOk := BitVec.ofNat 32 r.count }).entryDone c .vx e
      (some (sd, BitVec.ofNat 64 r.count)) := by
  have hp : (s.modUp c fun x => { x with run := 2, hold := false }).upParams c e UpResume.start =
      (v, .ok (upParOf (e.arg 2) ((e.arg 3).setWidth 32) bs)) := by
    simp only [State.upParams, UpResume.start, hl]
  unfold State.runUpstep
  dsimp only
  rw [hp]
  dsimp only
  rw [State.upMoves_start _ _ _ rfl]
  dsimp only
  rw [UpResume.rest_start, show v.upWriteGo c UpResume.start.left = (v, .ok) from rfl]
  dsimp only
  rw [show UpResume.start.count = 0 from rfl, h]

/-- up.setstep that has no shard left to do, or does them all, is done (R147). -/
theorem State.runSetstep_done {r : UpResume} {i : Nat} (hr : r.places = [])
    (h : (s.modUp c fun x => { x with run := 3, hold := false }).setShards c (e.arg 0) (e.arg 2)
      (r.rest ((e.arg 1).toNat % 2 ^ 32)) = (u, .ok, i)) : s.runSetstep c e r = u.entryDone c .vx e none := by
  unfold State.runSetstep
  dsimp only
  rw [State.upMoves_start _ _ _ hr]
  dsimp only
  rw [h]

/-! ### The rows of Table 6.4 that update nothing -/

variable {p : UpPar} {h : Shard}

/-- A shard with a format that Table 6.1 does not give: LAST_STATUS is TILE_SHAPE. -/
theorem State.upShard_shape (hf : h.formatsOk = false) (hw : s.upWrite c [h.statusWrite Code.tileShape] = (u, .ok)) :
    s.upShard c p h = (u, .ok, true) := by
  unfold State.upShard
  simp only [hf, Bool.not_false, if_true, hw]

theorem State.upShard_updated_iff : (h.step == p.next && h.cursor == 0 && (h.status == Code.ok || h.status == Code.frozenSkipped)) = true ↔
    h.step = p.next ∧ h.cursor = 0 ∧ (h.status = 0 ∨ h.status = Code.frozenSkipped) := by
  simp only [Bool.and_eq_true, Bool.or_eq_true, beq_iff_eq, and_assoc]
  rfl

/-- One that the step has updated already is counted. -/
theorem State.upShard_updated (hf : h.formatsOk = true)
    (hu : h.step = p.next ∧ h.cursor = 0 ∧ (h.status = 0 ∨ h.status = Code.frozenSkipped)) : s.upShard c p h = (s.upCount c 3 1, .ok, false) := by
  unfold State.upShard
  rw [hf, if_neg (by decide), if_pos (State.upShard_updated_iff.2 hu)]

/-- One at another step: LAST_STATUS is STEP_MISMATCH. -/
theorem State.upShard_mismatch (hf : h.formatsOk = true)
    (hu : ¬ (h.step = p.next ∧ h.cursor = 0 ∧ (h.status = 0 ∨ h.status = Code.frozenSkipped))) (he : h.step ≠ p.e)
    (hw : s.upWrite c [h.statusWrite Code.stepMismatch] = (u, .ok)) : s.upShard c p h = (u.upCount c 1 1, .ok, true) := by
  unfold State.upShard
  rw [hf, if_neg (by decide), if_neg fun h => hu (State.upShard_updated_iff.1 h), if_pos (by simpa using he)]
  simp only [hw]

/-- One whose clipping factor is not finite: LAST_STATUS is POISON. -/
theorem State.upShard_poison (hf : h.formatsOk = true)
    (hu : ¬ (h.step = p.next ∧ h.cursor = 0 ∧ (h.status = 0 ∨ h.status = Code.frozenSkipped))) (he : h.step = p.e) (hc : p.c = none)
    (hw : s.upWrite c [h.statusWrite Code.poison] = (u, .ok)) : s.upShard c p h = (u.upCount c 4 1, .ok, true) := by
  unfold State.upShard
  rw [hf, if_neg (by decide), if_neg fun h => hu (State.upShard_updated_iff.1 h), if_neg (by simpa using he)]
  simp only [hc, hw]

end Updates

end Sys2Proof.Machine

/-!
A combined increment that reaches the sync store, and an update instruction's hold that ends (O19).
-/
namespace Sys2Proof.Machine

/-! ## A combined increment reaches the sync store (R243, R252) -/

/-- An increment saturates at 2⁶³ − 1 (R252). -/
theorem satAdd_toNat (b v : Word) : (satAdd b v).1.toNat = min (2 ^ 63 - 1) (b.toNat + v.toNat) := by
  unfold satAdd batonMax
  dsimp only
  split
  · rw [BitVec.toNat_ofNat]
    omega
  · rw [BitVec.toNat_ofNat]
    omega

theorem Sync.baton_setBaton (y : Sync) (n : Nat) (v : BitVec 63) : ((y.setBaton n v).baton n).toNat = v.toNat := by
  rw [Sync.baton, Sync.setBaton, tabGet_tabPut_same, BitVec.toNat_setWidth_of_le (by decide)]

/-- A baton with an increment added, and SATURATED counted. -/
def State.incremented (s : State) (p n : Nat) (v : Word) : State :=
  let b := satAdd ((s.part p).sync.baton n) v
  let t := s.modPart p fun x => { x with sync := x.sync.setBaton n b.1 }
  if b.2 then t.modPart p (·.bumpSy 8) else t

theorem State.incremented_frame (s : State) (p n : Nat) (v : Word) : { s.incremented p n v with parts := s.parts } = s := by
  unfold State.incremented
  dsimp only
  split <;> rfl

theorem State.incremented_part (s : State) (p n : Nat) (v : Word) : ∃ cnt, (s.incremented p n v).part p = { s.part p with
    sync := (s.part p).sync.setBaton n (satAdd ((s.part p).sync.baton n) v).1, syCnt := cnt } := by
  unfold State.incremented
  dsimp only
  split
  · rw [State.part_modPart_same, State.part_modPart_same]
    exact ⟨_, rfl⟩
  · rw [State.part_modPart_same]
    exact ⟨_, rfl⟩

/-- What an increment does after the baton is written: it releases the waits that it meets, and triggers (R252, R323, R324). -/
def State.incrementActs (u : State) (p n : Nat) (b0 b : Word) (dev : BitVec 16) : State :=
  let met := (u.part p).waiters.filter fun w =>
    match w.on with
    | .baton m want => m == n && decide (want.toNat ≤ b.toNat)
    | .bar _ _ => false
  let w := u.release p dev met
  let x := if n = (w.part p).sec.stepBaton.toNat then w.trigger p b0 b else w
  if n = (x.part p).sec.lossBaton.toNat then x.replayVerify p else x

theorem State.increment_eq (s : State) (p n : Nat) (v : Word) (dev : BitVec 16) : s.increment p n v dev =
    ((s.incremented p n v).photoEvent p s.lineTime dev).incrementActs p n ((s.part p).sync.baton n)
      ((satAdd ((s.part p).sync.baton n) v).1.setWidth 64) dev := by
  unfold State.increment State.incremented State.incrementActs
  dsimp only
  generalize satAdd ((s.part p).sync.baton n) v = q
  generalize (if q.2 = true then _ else _ : State) = t
  rw [show ∀ f, (s.modPart p f).lineTime = s.lineTime from fun _ => rfl] <;> rfl

/-- An increment that nothing waits for, and that is on no baton of a securing, does no more. -/
theorem State.incrementActs_quiet {u : State} {p n : Nat} (b0 b : Word) (dev : BitVec 16) (hw : (u.part p).waiters = [])
    (hstep : n ≠ (u.part p).sec.stepBaton.toNat) (hloss : n ≠ (u.part p).sec.lossBaton.toNat) : u.incrementActs p n b0 b dev = u := by
  unfold State.incrementActs
  dsimp only
  rw [hw, List.filter_nil, State.release, List.foldl_nil, if_neg hstep, if_neg hloss]

/-- An increment that nothing waits for, and that triggers nothing, is compared with the boundaries of windows, and that is all (R252, R309). -/
theorem State.increment_quiet {s : State} {p n : Nat} (v : Word) (dev : BitVec 16) (hw : (s.part p).waiters = [])
    (hstep : n ≠ (s.part p).sec.stepBaton.toNat) (hloss : n ≠ (s.part p).sec.lossBaton.toNat) :
    s.increment p n v dev = (s.incremented p n v).photoEvent p s.lineTime dev := by
  have hphoto := (s.incremented p n v).photoEvent_frame p s.lineTime dev
  obtain ⟨cnt, hpart⟩ := s.incremented_part p n v
  have hup : ((s.incremented p n v).photoEvent p s.lineTime dev).part p = (s.incremented p n v).part p :=
    (congrArg (fun x : State => x.part p) hphoto :)
  rw [State.increment_eq]
  refine State.incrementActs_quiet _ _ dev ?_ ?_ ?_ <;> rw [hup, hpart] <;> assumption

/-- The message of one core's sy.add on a flag-mode die is an increment of its value, and the core has its outcome. -/
theorem State.sendSync_add {s : State} {c p n : Nat} {v : Word} (h : (s.die (dieOf c)).sync = [⟨p, false, n, 0, [(c, v, none)]⟩]) :
    s.sendSync c = (((s.modDie (dieOf c) fun d => { d with sync := [] }).modPart p (·.bumpSy 0)).increment p n v s.devId).finishSy c 0 := by
  have hsync : s.syncOf c = some (0, ⟨p, false, n, 0, [(c, v, none)]⟩) := by
    simp [State.syncOf, h, listFind]
  have hsum : BitVec.ofNat 64 (min (0 + v.toNat) (2 ^ 64 - 1)) = v := by
    apply BitVec.eq_of_toNat_eq
    have := v.isLt
    rw [BitVec.toNat_ofNat]
    omega
  unfold State.sendSync
  rw [hsync]
  simp only [State.deliverSync, State.modDie, h, listDel, Bool.false_eq_true, if_false, List.foldl_cons, List.foldl_nil, hsum]
  rfl

/-- The sync instruction of a core that works has its outcome (R172). -/
theorem State.finishSy_core {s : State} {c : Nat} {e : Entry} (v : Word) (hw : (s.core c).works = true) (hq : (s.core c).syq = [e]) :
    s.finishSy c v = s.setCore c { s.core c with syq := [{ e with done := true, result := (opSyDest e.op).map fun d => (d, v) }] } := by
  unfold State.finishSy State.modCore
  simp only [hq, hw, Bool.not_true, Bool.false_eq_true, if_false]

/-! ## A hold that ends (R148, R326) -/

section Hold
variable {s : State} {c : CoreId}

theorem exec_updateHoldRelease (hw : (s.core c).works = true) : Gives (.updateHoldRelease c) s (s.upResume c) :=
  congrArg Host.Outcome.next (if_pos hw)

theorem Core.heldUpdate_none {k : Core} (h : k.up.hold = false ∨ ∀ e ∈ k.vxq, e.resume = none) : k.heldUpdate = none := by
  unfold Core.heldUpdate
  split
  · rfl
  · obtain h | h := h
    · simp_all
    · rw [List.findSome?_eq_none_iff]
      intro e he
      rw [h e he]
      split <;> rfl

theorem Core.heldUpdate_one {k : Core} {e : Entry} {r : UpResume} (hq : k.vxq = [e]) (hr : e.resume = some r) (hh : k.up.hold = true)
    (hd : e.done = false) (hf : e.faulted = false) : k.heldUpdate = some (e, r) := by
  simp [Core.heldUpdate, hh, hq, hr, hd, hf]

/-- A held instruction goes on from where it was, after at least one cycle (R148). -/
theorem State.upResume_held {e : Entry} {r : UpResume} (h : (s.core c).heldUpdate = some (e, r)) :
    ∃ m : Nat, 0 < m ∧ (∀ a b d, e.op = .upsetstep a b d → s.upResume c = (s.upCount c 5 m).tick.runSetstep c e r) ∧
      ∀ a b d f g sd, e.op = .upstep a b d f g sd → s.upResume c = (s.upCount c 5 m).tick.runUpstep c e sd r := by
  refine ⟨1 + Config.freeNat s.freeCtr, Nat.lt_add_right _ Nat.one_pos, fun a b d ho => ?_, fun a b d f g sd ho => ?_⟩ <;>
    simp only [State.upResume, h, ho]

end Hold

end Sys2Proof.Machine

/-!
O19: the completion of an engine's instruction, and the update instructions.
-/
namespace Sys2Proof.Machine

/-! ## O19, one part after the other -/

section Completes
variable {s : State} {c : CoreId} {g : Engine} {e : Entry} {pos : Nat}

theorem engineCompletes_other (hg : g ≠ .vx) (hw : (s.core c).works = true) (ha : (s.core c).aborting = false)
    (hq : ((s.core c).queue g)[pos]? = some e) (hdone : e.done = true) (hf : e.faulted = false) (hd : e.drops = 0)
    (ht : tstReg e.op = none) (hsync : s.syncOf c = none) :
    Gives (.engineInstructionComplete c g pos) s (s.setCore c ((s.core c).retire g pos e)) := by
  rw [← State.completeAt_other pos hg hd ha]
  exact exec_engineInstructionComplete (State.syncSent_none fun _ => hsync) hw hq hdone hf ht

/-- What a completion point of the vector engine leaves of its core. -/
theorem State.completeAt_vx (hd : e.drops = 0) (ha : (s.core c).aborting = false) :
    (s.completeAt c .vx pos e).mem = s.mem ∧ ∃ cnt up, (s.completeAt c .vx pos e).core c =
      { (s.core c).retire .vx pos e with up := up, vx := { ((s.core c).retire .vx pos e).vx with cnt := cnt } } := by
  obtain ⟨-, -, -, hab, -⟩ := (s.core c).retire_frame .vx pos hd
  obtain ⟨cnt, up, hcore⟩ := (s.setCore c ((s.core c).retire .vx pos e)).countVx_core c e
  have hmem := congrArg State.mem ((s.setCore c ((s.core c).retire .vx pos e)).countVx_frame c e)
  rw [State.core_setCore_same] at hcore
  have hv : s.completeAt c .vx pos e = (s.setCore c ((s.core c).retire .vx pos e)).countVx c e :=
    State.abortEnds_not_aborting ((congrArg Core.aborting hcore :).trans (hab.trans ha))
  rw [hv, hcore]
  exact ⟨hmem, cnt, up, rfl⟩

theorem engineCompletes_vector (hw : (s.core c).works = true) (ha : (s.core c).aborting = false)
    (hq : (s.core c).vxq[pos]? = some e) (hdone : e.done = true) (hf : e.faulted = false) (hd : e.drops = 0) (ht : tstReg e.op = none) :
    let k := s.core c
    ∃ t, Gives (.engineInstructionComplete c .vx pos) s t ∧ t.mem = s.mem ∧
      (t.core c).vxq = k.vxq.take pos ++ k.vxq.drop (pos + 1) ∧ (t.core c).mx = k.mx ∧ (t.core c).tiles = k.tiles ∧
      (t.core c).vx.draw = (if e.draws then k.vx.draw + 1 else k.vx.draw) ∧
      (∀ sa slot, e.op = .tload sa slot → tabGet none (t.core c).vx.slots slot.toNat = tabGet none k.vx.loading slot.toNat) ∧
      (∀ d v, e.result = some (d, v) → (t.core c).reg d = (if d = 0 then 0 else v) ∧ d.toNat ∉ (t.core c).pendS) := by
  intro k
  obtain ⟨hmx, htiles, -, -, hvx⟩ := k.retire_frame .vx pos hd
  obtain ⟨hmem, cnt, up, hcore⟩ := s.completeAt_vx (pos := pos) hd ha
  have hqueue : (k.retire .vx pos e).vxq = k.vxq.take pos ++ k.vxq.drop (pos + 1) := k.retire_queue .vx pos hd .vx
  refine ⟨s.completeAt c .vx pos e, exec_engineInstructionComplete (State.syncSent_none nofun) hw hq hdone hf ht, hmem, ?_⟩
  rw [hcore]
  refine ⟨hqueue, hmx, htiles, ?_, fun sa slot ho => ?_, fun d v hr => ?_⟩
  · exact (congrArg VxState.draw hvx).trans (k.vx.retired_draw e)
  · exact (congrArg (fun x : VxState => tabGet none x.slots slot.toNat) hvx).trans (k.vx.retired_tload ho)
  · obtain ⟨hreg, hpend⟩ := k.retire_result .vx pos hd hr
    exact ⟨(hreg d).trans (if_pos rfl), fun h => ((hpend _).1 h).2 rfl⟩

theorem engineCompletes_tst {u : State} {t : TReg} (hw : (s.core c).works = true)
    (hq : (s.core c).tmq[pos]? = some e) (hdone : e.done = true) (hf : e.faulted = false) (ht : tstReg e.op = some t) :
    let k := s.core c
    s.tstRows c (k.tile t.toNat) (rowAddr (e.args.getD 0 0) (e.args.getD 1 0) (indexOf k e.op))
      (List.range (k.tile t.toNat).cfg.rows.toNat) = (u, none) →
    Gives (.engineInstructionComplete c .tm pos) s (u.completeAt c .tm pos e) ∧
    (∀ x : State, (k.tile t.toNat).cfg.rows = 1 →
      s.store c (rowAddr (e.args.getD 0 0) (e.args.getD 1 0) (indexOf k e.op) 0)
        (memRead (k.tile t.toNat).data 0 (k.tile t.toNat).cfg.rowBytes ++ memRead (k.tile t.toNat).scales 0 (k.tile t.toNat).cfg.scaleBytes) =
        (x, .ok ()) → u = x) := by
  intro k hrows
  refine ⟨exec_engineInstructionComplete_tst hw hq hdone hf ht hrows, fun x hone hstore => ?_⟩
  rw [hone] at hrows
  refine State.tstRows_one hrows ?_
  rw [Tile.rowBytes, Nat.zero_mul, Nat.zero_mul]
  exact hstore

end Completes

theorem engineCompletes_starts {s u : State} {c : CoreId} {e : Entry} (h : Starts s c .vx e) :
    let n := (e.args.getD 1 0).toNat % 2 ^ 32
    let shards := (List.range n).filter fun j => decide (0 ≤ j)
    (∀ st sn sc sd acc, e.op = .upsq st sn sd false sc →
      (s.modUp c fun x => { x with run := 1 }).sqShards c (e.args.getD 0 0) (List.range n) (.fin ⟨false, 0, 0⟩) = (u, .ok acc) →
      Gives (.engineStart c .vx .clean) s
        ((u.modUp c fun x => { x with sq := rn acc }).entryDone c .vx e (some (sd, (rn acc).setWidth 64)))) ∧
    (∀ st sn sc sd acc v ds, e.op = .upsq st sn sd true sc →
      (s.modUp c fun x => { x with run := 1 }).cellTarget c ((e.args.getD 2 0).toNat % 2 ^ 48) = (v, .ok ds) →
      v.sqShards c (e.args.getD 0 0) (List.range n) (.fin ⟨false, 0, 0⟩) = (u, .ok acc) →
      Gives (.engineStart c .vx .clean) s
        (((u.sendNorm c ds (rn acc)).modUp c fun x => { x with sq := rn acc }).entryDone c .vx e (some (sd, (rn acc).setWidth 64)))) ∧
    (∀ a b d f g sd v bs r, e.op = .upstep a b d f g sd →
      (s.modUp c fun x => { x with run := 2, hold := false }).load c ((e.args.getD 4 0).toNat % 2 ^ 48 / 64 * 64) 64 = (v, .ok bs) →
      v.upShards c (e.args.getD 0 0) (upParOf (e.args.getD 2 0) ((e.args.getD 3 0).setWidth 32) bs) shards 0 = (u, .ok, r) →
      Gives (.engineStart c .vx .clean) s ((u.modUp c fun x => { x with notOk := BitVec.ofNat 32 r.count }).entryDone c .vx e
        (some (sd, BitVec.ofNat 64 r.count)))) ∧
    (∀ a b d i, e.op = .upsetstep a b d →
      (s.modUp c fun x => { x with run := 3, hold := false }).setShards c (e.args.getD 0 0) (e.args.getD 2 0) shards = (u, .ok, i) →
      Gives (.engineStart c .vx .clean) s (u.entryDone c .vx e none)) := by
  intro n shards
  refine ⟨fun st sn sc sd acc ho hs => ?_, fun st sn sc sd acc v ds ho hc hs => ?_, fun a b d f g sd v bs r ho hl hs => ?_,
    fun a b d i ho hs => ?_⟩ <;> refine (exec_engineStart_clean h).trans (congrArg Host.Outcome.next ?_) <;>
    simp only [State.startOp, ho]
  · exact State.startUpsq_alone hs
  · exact State.startUpsq_cell hc hs
  · exact State.runUpstep_start hl hs
  · exact State.runSetstep_done rfl (by rw [UpResume.rest_start]; exact hs)

/-- A shard takes the first row of Table 6.4 that applies (R140 to R145). -/
theorem engineCompletes_shard {s u : State} {c : CoreId} (p : UpPar) (h : Shard) :
    let status (code : BitVec 8) : Nat × List Byte := ((h.at_ + 44) % 2 ^ 48, [code])
    let updated := h.step = p.next ∧ h.cursor = 0 ∧ (h.status = 0 ∨ h.status = Code.frozenSkipped)
    (h.formatsOk = false → s.upWrite c [status Code.tileShape] = (u, .ok) → s.upShard c p h = (u, .ok, true)) ∧
    (h.formatsOk = true → updated → s.upShard c p h = (s.upCount c 3 1, .ok, false)) ∧
    (h.formatsOk = true → ¬ updated → h.step ≠ p.e → s.upWrite c [status Code.stepMismatch] = (u, .ok) →
      s.upShard c p h = (u.upCount c 1 1, .ok, true)) ∧
    (h.formatsOk = true → ¬ updated → h.step = p.e → p.c = none → s.upWrite c [status Code.poison] = (u, .ok) →
      s.upShard c p h = (u.upCount c 4 1, .ok, true)) :=
  ⟨State.upShard_shape, State.upShard_updated, State.upShard_mismatch, State.upShard_poison⟩

/-- The message of one core's sy.add is delivered: its baton has grown, the die holds no message, and its core has its outcome (R243). -/
theorem State.sendSync_delivered {s : State} {c p n : Nat} {v : Word} {e : Entry} (hw : (s.core c).works = true) (hq : (s.core c).syq = [e])
    (hsync : (s.die (dieOf c)).sync = [⟨p, false, n, 0, [(c, v, none)]⟩]) (hwait : (s.part p).waiters = [])
    (hstep : n ≠ (s.part p).sec.stepBaton.toNat) (hloss : n ≠ (s.part p).sec.lossBaton.toNat) :
    ((s.sendSync c).core c = { s.core c with syq := [{ e with done := true, result := (opSyDest e.op).map fun d => (d, 0) }] }) ∧
    ((s.sendSync c).die (dieOf c)).sync = [] ∧ (s.sendSync c).mem = s.mem ∧
    (((s.sendSync c).part p).sync.baton n).toNat = min (2 ^ 63 - 1) (((s.part p).sync.baton n).toNat + v.toNat) := by
  rw [State.sendSync_add hsync]
  -- the state once the message has left the die, and once its increment is applied
  have hy (y : State) (h : y = (s.modDie (dieOf c) fun d => { d with sync := [] }).modPart p (·.bumpSy 0)) :
      y.cores = s.cores ∧ y.mem = s.mem ∧ (y.die (dieOf c)).sync = [] ∧ ∃ cnt, y.part p = { s.part p with syCnt := cnt } := by
    subst h
    refine ⟨rfl, rfl, ?_, _, State.part_modPart_same _ _ _⟩
    rw [State.modPart_die, State.die, State.modDie, tabGet_tabPut_same]
  generalize (s.modDie (dieOf c) fun d => { d with sync := [] }).modPart p (·.bumpSy 0) = y at hy ⊢
  obtain ⟨hycores, hymem, hydie, cnt, hypart⟩ := hy y rfl
  rw [State.increment_quiet _ _ (by rw [hypart]; exact hwait) (by rw [hypart]; exact hstep) (by rw [hypart]; exact hloss)]
  have hphoto := (y.incremented p n v).photoEvent_frame p y.lineTime s.devId
  have hinc := y.incremented_frame p n v
  obtain ⟨cnt', hbaton⟩ := y.incremented_part p n v
  generalize (y.incremented p n v).photoEvent p y.lineTime s.devId = z at hphoto ⊢
  have hcore : z.core c = s.core c := (congrArg (fun x : State => x.core c) hphoto :).trans
    ((congrArg (fun x : State => x.core c) hinc :).trans (congrArg (tabGet Core.reset · c) hycores))
  rw [State.finishSy_core 0 (by rw [hcore]; exact hw) (by rw [hcore]; exact hq), State.core_setCore_same, hcore]
  refine ⟨rfl, ?_, ?_, ?_⟩
  · exact (congrArg (fun x : State => (x.die (dieOf c)).sync) hphoto :).trans
      ((congrArg (fun x : State => (x.die (dieOf c)).sync) hinc :).trans hydie)
  · exact (congrArg State.mem hphoto :).trans ((congrArg State.mem hinc :).trans hymem)
  · rw [State.setCore_part, show z.part p = (y.incremented p n v).part p from (congrArg (fun x : State => x.part p) hphoto :), hbaton, hypart]
    exact (Sync.baton_setBaton _ _ _).trans (satAdd_toNat _ _)

/-- A combined sy.add of one core, delivered when its completion is commanded (R243). -/
theorem engineCompletes_sync {s : State} {c : CoreId} {e : Entry} {b : BReg} {v sd : SReg} {p n : Nat} (hw : (s.core c).works = true)
    (ha : (s.core c).aborting = false) (hq : (s.core c).syq = [e]) (ho : e.op = .sadd b v sd) (hd : e.drops = 0) (hf : e.faulted = false)
    (hsync : (s.die (dieOf c)).sync = [⟨p, false, n, 0, [(c.val, e.args.getD 0 0, none)]⟩]) (hwait : (s.part p).waiters = [])
    (hstep : n ≠ (s.part p).sec.stepBaton.toNat) (hloss : n ≠ (s.part p).sec.lossBaton.toNat) :
    ∃ t, Gives (.engineInstructionComplete c .sy 0) s t ∧ (t.core c).syq = [] ∧ (t.die (dieOf c)).sync = [] ∧
      ((t.part p).sync.baton n).toNat = min (2 ^ 63 - 1) (((s.part p).sync.baton n).toNat + (e.args.getD 0 0).toNat) ∧
      (t.core c).reg sd = 0 ∧ sd.toNat ∉ (t.core c).pendS ∧ t.mem = s.mem := by
  obtain ⟨hcore, hdie, hmem, hbaton⟩ := State.sendSync_delivered hw hq hsync hwait hstep hloss
  have hsent : s.syncSent c .sy = s.sendSync c := if_pos (by rw [hw]; rfl)
  rw [show opSyDest e.op = some sd by rw [ho]; rfl] at hcore
  have hqueue : ((s.sendSync c).core c).syq = [{ e with done := true, result := some (sd, 0) }] := congrArg Core.syq hcore
  have hab : ((s.sendSync c).core c).aborting = false := (congrArg Core.aborting hcore).trans ha
  have hworks : ((s.sendSync c).core c).works = true := (congrArg Core.works hcore).trans hw
  have hdx : ({ e with done := true, result := some (sd, 0) } : Entry).drops = 0 := hd
  obtain ⟨hreg, hpend⟩ := ((s.sendSync c).core c).retire_result .sy 0 hdx rfl
  have hret := ((s.sendSync c).core c).retire_queue .sy 0 hdx .sy
  refine ⟨_, exec_engineInstructionComplete hsent hworks (congrArg (fun l : List Entry => l[0]?) hqueue) rfl hf (by rw [ho]; rfl), ?_⟩
  rw [State.completeAt_other 0 (by decide) hdx hab, State.core_setCore_same]
  refine ⟨hret.trans ?_, hdie, hbaton, (hreg sd).trans ?_, fun h => ((hpend _).1 h).2 rfl, hmem⟩
  · exact congrArg (fun l : List Entry => l.take 0 ++ l.drop 1) hqueue
  · rw [if_pos rfl, ite_self]

/-- A held update instruction, and none (R148, R326). -/
theorem engineCompletes_hold {s : State} {c : CoreId} {e : Entry} {r : UpResume} (hw : (s.core c).works = true) :
    (((s.core c).up.hold = false ∨ ∀ d ∈ (s.core c).vxq, d.resume = none) → Gives (.updateHoldRelease c) s s) ∧
    ((s.core c).vxq = [e] → e.resume = some r → (s.core c).up.hold = true → e.done = false → e.faulted = false →
      (∀ a b d, e.op = .upsetstep a b d → ∃ m : Nat, 0 < m ∧
        Gives (.updateHoldRelease c) s ((s.upCount c 5 m).tick.runSetstep c e r)) ∧
      (∀ a b d f g sd, e.op = .upstep a b d f g sd → ∃ m : Nat, 0 < m ∧
        Gives (.updateHoldRelease c) s ((s.upCount c 5 m).tick.runUpstep c e sd r)) ∧
      (∀ a b d, e.op = .upsetstep a b d → (e.args.getD 1 0).toNat % 2 ^ 32 ≤ r.shard → r.places = [] →
        ∃ t, Gives (.updateHoldRelease c) s t ∧ (t.core c).up.hold = false ∧ t.mem = s.mem ∧
          (t.core c).vxq = [{ e with started := true, done := true, result := none, resume := none }])) := by
  refine ⟨fun h => ?_, fun hq hr hh hd hf => ?_⟩
  · have hnone : s.upResume c = s := by rw [State.upResume, Core.heldUpdate_none h]
    exact (exec_updateHoldRelease hw).trans (congrArg Host.Outcome.next hnone)
  · obtain ⟨m, hm, hset, hstep⟩ := State.upResume_held (Core.heldUpdate_one hq hr hh hd hf)
    refine ⟨fun a b d ho => ⟨m, hm, hset a b d ho ▸ exec_updateHoldRelease hw⟩,
      fun a b d f g sd ho => ⟨m, hm, hstep a b d f g sd ho ▸ exec_updateHoldRelease hw⟩, fun a b d ho hle hp => ?_⟩
    have hrest : r.rest ((e.arg 1).toNat % 2 ^ 32) = [] := by
      have hnone : shardsFrom r.shard ((e.arg 1).toNat % 2 ^ 32) = [] := by
        refine List.filter_eq_nil_iff.2 fun j hj => ?_
        have := List.mem_range.1 hj
        have : (e.arg 1).toNat % 2 ^ 32 ≤ r.shard := hle
        simp only [decide_eq_true_eq]
        omega
      rw [UpResume.rest, hnone, List.filter_nil]
    refine ⟨_, hset a b d ho ▸ exec_updateHoldRelease hw, ?_⟩
    rw [State.runSetstep_done hp (by rw [hrest]; rfl), State.entryDone, State.core_modCore_same, State.modUp, State.core_modCore_same]
    have hcore : ((s.upCount c 5 m).tick.core c).vxq = (s.core c).vxq := by
      rw [State.tick_core, State.upCount, State.modUp, State.core_modCore_same]
    refine ⟨rfl, rfl, ?_⟩
    show List.map _ ((s.upCount c 5 m).tick.core c).vxq = _
    rw [hcore, hq, List.map_singleton, if_pos rfl]

/-- Settles O19: a completion takes the instruction out of its queue and gives SD its result; the update instructions, run from their
start or from a hold, end as their shards do. -/
theorem engineCompletes : Obligations.EngineCompletes := by
  unfold Obligations.EngineCompletes
  refine ⟨fun s c g e pos hg hw ha hq hdone hf _ hd ht hsync => ?_, fun s c e pos hw ha hq hdone hf hd ht =>
    engineCompletes_vector hw ha hq hdone hf hd ht, fun s u c e t pos hw _ hq hdone hf ht => engineCompletes_tst hw hq hdone hf ht,
    fun s u c e h => ?_, fun s c e b v sd p n hw ha hq ho hd _ hf _ hsync hwait hstep hloss =>
      engineCompletes_sync hw ha hq ho hd hf hsync hwait hstep hloss, fun s c e r hw => engineCompletes_hold hw⟩
  · obtain ⟨hmx, htiles, hdescs, -, -⟩ := (s.core c).retire_frame g pos hd
    refine ⟨_, engineCompletes_other hg hw ha hq hdone hf hd ht hsync, ((s.core c).retire_queue g pos hd g).trans (if_pos rfl),
      fun f hfg => ((s.core c).retire_queue g pos hd f).trans (if_neg hfg), hmx, htiles, hdescs,
      (s.core c).retire_noResult g pos hd, fun d v hr => ?_⟩
    obtain ⟨hreg, hpend⟩ := (s.core c).retire_result g pos hd hr
    exact ⟨(hreg d).trans (if_pos rfl), fun h => ((hpend _).1 h).2 rfl, fun r hne => (hreg r).trans (if_neg hne),
      fun r hne => (hpend r).trans (and_iff_left hne)⟩
  · obtain ⟨hsq, hcell, hstep, hset⟩ := engineCompletes_starts (u := u) h
    exact ⟨hsq, hcell, hstep, engineCompletes_shard, hset⟩

end Sys2Proof.Machine

/-!
O30: an ABORT completes by its number, and the statement lets a WAIT in progress hold the number that the ABORT will be given.
-/
namespace Sys2Proof.Machine

/-- An ABORT for partition 0 that asks for its record. -/
def abortHdr : CmdHdr := ⟨0, 2, 7, 0, false, none⟩

/-- A LAUNCH of core 0 in progress, the ring's command 0. -/
def launchedCmd : Cmd := ⟨0, 0x05, 2, 7, 0, .launch ⟨0, false, 0, [0], [0], true, 0⟩, 0⟩

/-- A host WAIT in progress, for baton 9 to reach 6, the ring's command 1. -/
def waitingCmd : Cmd := ⟨1, 0x0D, 2, 8, 0, .wait 9 6, 1⟩

/-- A RUNNING partition whose core 0 runs a kernel and executes nothing; both commands are in progress, and the ring's next command has the
number of the WAIT. -/
def numberTaken : State :=
  { State.reset with
    cores := [(0, { Core.reset with run := .running, logical := some 0, kernel := some ⟨0, 0, 0, 1, 0, false, 0⟩ })]
    parts := [(0, { Part.reset with
      state := .running, clusters := 1, enable := true, bound := some ⟨7, 0⟩, producer := 1, cmds := [launchedCmd, waitingCmd], nextCmd := 1
      waiters := [⟨.host 1, .baton 9 6, none⟩] })] }

/-- The ABORT ends at once, since core 0 executes nothing, and the command it ends first under its number is the WAIT. -/
theorem abort_ends_wait_of_same_number :
    (match exec (.abort abortHdr) numberTaken with
      | .next t => (t.part 0).cmds.isEmpty
      | _ => false) = true := by decide +kernel

/-- Refutes O30: a WAIT goes on at ABORT only when the ABORT is not given its number, which the statement does not ask for. In
`numberTaken` the WAIT in progress and the next command of the ring both have the number 1, so the ABORT that completes takes the WAIT with it. -/
theorem not_resumePreemptResetAbort : ¬ Obligations.ResumePreemptResetAbort := by
  unfold Obligations.ResumePreemptResetAbort
  rintro ⟨-, hlaunchWait, -⟩
  obtain ⟨habort, -⟩ := hlaunchWait numberTaken abortHdr launchedCmd waitingCmd ⟨0, false, 0, [0], [0], true, 0⟩ 9 6 none
    rfl (by decide) rfl rfl rfl (fun _ => rfl)
  obtain ⟨t, more, hgives, -, -, -, hwait, -⟩ := habort (by decide) (.inl rfl)
  have hempty := abort_ends_wait_of_same_number
  rw [show exec (.abort abortHdr) numberTaken = .next t from hgives] at hempty
  exact List.ne_nil_of_mem hwait (List.isEmpty_iff.1 hempty)

end Sys2Proof.Machine

/-!
What the end of a ring's command, an event of the log and a context boundary leave as it was, and the ends of saves, restores and resets (O31).
-/
namespace Sys2Proof.Machine

/-! ## A set of cores changed alike -/

theorem State.modCores_frame (s : State) (cs : List Nat) (f : Core → Core) : { s.modCores cs f with cores := s.cores } = s := by
  unfold State.modCores
  induction cs generalizing s with
  | nil => rfl
  | cons c cs ih => exact (congrArg (fun x : State => { x with cores := s.cores }) (ih (s.modCore c f)) :)

theorem State.core_modCores (s : State) {cs : List Nat} (f : Core → Core) (h : cs.Nodup) (c : Nat) :
    (s.modCores cs f).core c = if c ∈ cs then f (s.core c) else s.core c := by
  unfold State.modCores
  induction cs generalizing s with
  | nil => rfl
  | cons d cs ih =>
    obtain ⟨hd, hcs⟩ := List.nodup_cons.1 h
    rw [List.foldl_cons, ih _ hcs, State.modCore, State.core_setCore]
    by_cases hdc : d = c
    · subst hdc
      simp [hd]
    · simp [hdc, Ne.symm hdc]

theorem State.coresOf_nodup (s : State) (p : Nat) : (s.coresOf p).Nodup := List.nodup_range.filter _

/-! ## Commands that end, events and logical numbers -/

/-- `t` differs from `s` by no more than commands that end, events that are logged, and cores that change their logical numbers. -/
structure State.Bystands (s t : State) : Prop where
  mem : t.mem = s.mem
  sealedImages : t.sealed = s.sealed
  security : t.security = s.security
  power : t.power = s.power
  part : ∀ p, { t.part p with
    due := (s.part p).due, fullSince := (s.part p).fullSince, cnt := (s.part p).cnt, cmds := (s.part p).cmds } = s.part p
  core : ∀ c, { t.core c with logical := (s.core c).logical, former := (s.core c).former } = s.core c

theorem State.Bystands.refl (s : State) : s.Bystands s := ⟨rfl, rfl, rfl, rfl, fun _ => rfl, fun _ => rfl⟩

theorem State.Bystands.trans {s t u : State} (h : s.Bystands t) (k : t.Bystands u) : s.Bystands u where
  mem := k.mem.trans h.mem
  sealedImages := k.sealedImages.trans h.sealedImages
  security := k.security.trans h.security
  power := k.power.trans h.power
  part p := (congrArg (fun x : Part => { x with
    due := (s.part p).due, fullSince := (s.part p).fullSince, cnt := (s.part p).cnt, cmds := (s.part p).cmds }) (k.part p)).trans (h.part p)
  core c := (congrArg (fun x : Core => { x with logical := (s.core c).logical, former := (s.core c).former }) (k.core c)).trans (h.core c)

/-- What leaves the memory, the cores and the partitions alone. -/
theorem State.Bystands.of_tables {s t : State} (hm : t.mem = s.mem) (he : t.sealed = s.sealed) (hx : t.security = s.security)
    (hw : t.power = s.power) (hp : t.parts = s.parts) (hc : t.cores = s.cores) : s.Bystands t where
  mem := hm
  sealedImages := he
  security := hx
  power := hw
  part p := by rw [show t.part p = s.part p from congrArg (tabGet Part.reset · p) hp]
  core c := by rw [show t.core c = s.core c from congrArg (tabGet Core.reset · c) hc]

theorem State.modPart_bystands {s : State} {p : Nat} {f : Part → Part}
    (h : { f (s.part p) with due := (s.part p).due, fullSince := (s.part p).fullSince, cnt := (s.part p).cnt, cmds := (s.part p).cmds } = s.part p) :
    s.Bystands (s.modPart p f) where
  mem := rfl
  sealedImages := rfl
  security := rfl
  power := rfl
  core _ := rfl
  part q := by
    rw [State.part_modPart]
    split
    · rename_i hq
      rw [← hq]
      exact h
    · rfl

theorem State.modCore_bystands {s : State} {c : Nat} {f : Core → Core}
    (h : { f (s.core c) with logical := (s.core c).logical, former := (s.core c).former } = s.core c) : s.Bystands (s.modCore c f) where
  mem := rfl
  sealedImages := rfl
  security := rfl
  power := rfl
  part _ := rfl
  core d := by
    rw [State.core_modCore]
    split
    · rename_i hd
      rw [← hd]
      exact h
    · rfl

theorem State.interrupt_bystands (s : State) (hp : HostPort) (fn v : Nat) : s.Bystands (s.interrupt hp fn v) := by
  obtain h | ⟨f, h⟩ | ⟨m, h⟩ := s.interrupt_cases hp fn v <;> rw [h]
  · exact .refl s
  · unfold State.modPcie
    split <;> exact .of_tables rfl rfl rfl rfl rfl rfl
  · exact .of_tables rfl rfl rfl rfl rfl rfl

theorem Part.trackFull_frame (x : Part) (own : Word) : { x.trackFull own with fullSince := x.fullSince, cnt := x.cnt } = x := by
  unfold Part.trackFull
  split <;> rfl

theorem State.finish_bystands (s : State) (p : Nat) (i : BitVec 32) (op fl : BitVec 8) (tag : BitVec 16) (v : BitVec 8) (st : Code)
    (w : Word) : s.Bystands (s.finish p i op fl tag v st w) := by
  obtain h | h | h := s.finish_cases p i op fl tag v st w <;> rw [h]
  · exact .refl s
  · exact s.interrupt_bystands _ _ _
  · exact State.modPart_bystands
      (congrArg (fun y : Part => { y with due := (s.part p).due, cmds := (s.part p).cmds }) (Part.trackFull_frame _ s.lt.own) :)

/-- A command in progress that completes leaves the list. -/
theorem State.complete_bystands (s : State) (p i : Nat) (st : Code) (w : Word) : s.Bystands (s.complete p i st w) := by
  unfold State.complete
  split
  · exact .refl s
  · exact (State.modPart_bystands rfl).trans (State.finish_bystands ..)

theorem State.eventDue_bystands (s : State) (p : Nat) (st : Code) (i : BitVec 32) (w : Word) : s.Bystands (s.eventDue p st i w) := by
  have h := s.photoEvent_frame p s.lineTime s.devId
  have hphoto : s.Bystands (s.photoEvent p s.lineTime s.devId) :=
    .of_tables (congrArg State.mem h :) (congrArg State.sealed h :) (congrArg State.security h :) (congrArg State.power h :)
      (congrArg State.parts h :) (congrArg State.cores h :)
  unfold State.eventDue
  dsimp only
  split <;> exact hphoto.trans (State.modPart_bystands rfl)

theorem State.log_bystands (s : State) (k : Nat) (st : Code) (p : Option Nat) (a b : Nat) (w : BitVec 32) :
    s.Bystands (s.log k st p a b w) := by
  unfold State.log
  dsimp only
  generalize hu : (if (tabGet EvtEntry.zero s.twin.log s.twin.evtNext.toNat).valid = true then s.bumpTwin 7 else s) = u
  have hs : s.Bystands u := by
    subst hu
    split <;> exact .of_tables rfl rfl rfl rfl rfl rfl
  generalize ({ u.twin with log := _, evtNext := u.twin.evtNext + 1 } : Twin) = x
  have hlog : u.Bystands { u with twin := x } := .of_tables rfl rfl rfl rfl rfl rfl
  cases p with
  | none => exact hs.trans (hlog.trans ((State.interrupt_bystands _ _ _ _).trans (.of_tables rfl rfl rfl rfl rfl rfl)))
  | some p => exact hs.trans (hlog.trans (State.eventDue_bystands ..))

/-! ## Context boundaries (R337) -/

theorem State.mapSpare_bystands (s : State) (f : Nat) : s.Bystands (s.mapSpare f) := by
  have hgives (l : BitVec 8) (c : Nat) :
      s.Bystands (State.modCore (s.modCore f fun k => { k with former := none }) c fun k => { k with logical := some l }) :=
    (State.modCore_bystands rfl).trans (State.modCore_bystands rfl)
  unfold State.mapSpare
  split
  · rename_i l _ _
    dsimp only
    split
    · exact State.modCore_bystands rfl
    · rename_i c _
      have h := hgives l c
      generalize State.modCore (s.modCore f fun k => { k with former := none }) c (fun k => { k with logical := some l }) = u at h ⊢
      refine h.trans (.trans ?_ (State.log_bystands ..))
      exact .of_tables rfl rfl rfl rfl rfl rfl
  · exact .refl s

theorem State.boundary_bystands (s : State) (clusters : BitVec 32) : s.Bystands (s.boundary clusters) :=
  foldl_rel State.Bystands.refl .trans (fun t _ => foldl_rel State.Bystands.refl .trans State.mapSpare_bystands _ t) _ s

/-- With no core fenced a context boundary changes nothing. -/
theorem State.contextBoundary_works {s : State} (h : ∀ c : Nat, (s.core c).works = true) (p : Nat) : s.contextBoundary p = s := by
  have hmap (f : Nat) : s.mapSpare f = s := by
    unfold State.mapSpare
    rw [h f]
  have hstay {α : Type} (f : State → α → State) (hf : ∀ a, f s a = s) (l : List α) : l.foldl f s = s := by
    induction l with
    | nil => rfl
    | cons a l ih => rw [List.foldl_cons, hf, ih]
  exact hstay (fun s k => (clusterCores k).foldl State.mapSpare s) (fun k => hstay State.mapSpare hmap (clusterCores k)) _

end Sys2Proof.Machine

/-!
O31: what a save parks, what RESTORE brings back, and what a reset leaves.
-/
namespace Sys2Proof.Machine

/-! ## The record of a command (R189, R201) -/

theorem State.interrupt_frame (s : State) (hp : HostPort) (fn n : Nat) :
    { s.interrupt hp fn n with pcie0 := s.pcie0, pcie1 := s.pcie1, intrs := s.intrs } = s := by
  obtain h | ⟨f, h⟩ | ⟨m, h⟩ := s.interrupt_cases hp fn n <;> rw [h]
  unfold State.modPcie
  split <;> rfl

section Finish
variable (s : State) (p : Nat) (i : BitVec 32) (op fl : BitVec 8) (tag : BitVec 16) (v : BitVec 8) (st : Code) (w : Word)

/-- The end of a command changes its partition's page and the interrupts alone. -/
theorem State.finish_frame :
    { s.finish p i op fl tag v st w with parts := s.parts, pcie0 := s.pcie0, pcie1 := s.pcie1, intrs := s.intrs } = s := by
  obtain h | h | h := s.finish_cases p i op fl tag v st w <;> rw [h]
  · exact (congrArg (fun t : State => { t with parts := s.parts }) (s.interrupt_frame _ _ _) :)
  · rfl

/-- The commands in progress are as they were. -/
theorem State.finish_cmds : ((s.finish p i op fl tag v st w).part p).cmds = (s.part p).cmds := by
  obtain h | h | h := s.finish_cases p i op fl tag v st w <;> rw [h]
  · exact (congrArg (fun t : State => (t.part p).cmds) (s.interrupt_frame _ _ _) :)
  · rw [State.part_modPart_same]
    exact (congrArg Part.cmds (Part.trackFull_frame _ s.lt.own) :)

/-- A command that failed, or whose record is asked for, owes it when the rings are enabled. -/
theorem State.finish_owes (h : fl.getLsbD 1 = true) (he : (s.part p).enable = true) :
    ((s.finish p i op fl tag v st w).part p).due = (s.part p).due ++ [⟨false, ⟨tag, op, st, i, w, s.lt.now, false⟩, fl, v⟩] := by
  unfold State.finish
  rw [h, he, if_neg (by simp), if_neg (by decide), State.part_modPart_same]
  exact (congrArg Part.due (Part.trackFull_frame _ s.lt.own) :)

end Finish

/-- The one command in progress completes. -/
theorem State.complete_only {s : State} {p : Nat} {k : Cmd} (st : Code) (w : Word) (h : (s.part p).cmds = [k]) :
    s.complete p k.seq st w = (s.modPart p fun x => { x with cmds := [] }).finish p k.index k.opcode k.flags k.tag k.vector st w := by
  unfold State.complete State.modPart
  simp [h]

/-! ## A save (R56, R266) -/

theorem State.modCores_part (s : State) (cs : List Nat) (f : Core → Core) (q : Nat) : (s.modCores cs f).part q = s.part q :=
  (congrArg (fun x : State => x.part q) (s.modCores_frame cs f) :)

/-- Without a launch in progress no round ends. -/
theorem State.roundsEnd_none {s : State} {p : Nat} (h : (s.part p).launches = []) : s.roundsEnd p = s := by
  unfold State.roundsEnd
  rw [h]
  rfl

/-- `t` is `s` with its table of cores written out in another way. -/
def State.CoresAs (s t : State) : Prop := { t with cores := s.cores } = s ∧ ∀ c : Nat, t.core c = s.core c

theorem State.CoresAs.refl (s : State) : s.CoresAs s := ⟨rfl, fun _ => rfl⟩

theorem State.CoresAs.trans {s t u : State} (h : s.CoresAs t) (k : t.CoresAs u) : s.CoresAs u :=
  ⟨(congrArg (fun x : State => { x with cores := s.cores }) k.1).trans h.1, fun c => (k.2 c).trans (h.2 c)⟩

theorem State.flush_empty {s : State} {c : Nat} (h : (s.core c).l1 = L1.empty) : s.CoresAs (s.flush c) := by
  have hf : s.flush c = s.setCore c { s.core c with l1 := L1.empty } := by
    unfold State.flush
    rw [h]
    rfl
  rw [hf, ← h]
  refine ⟨rfl, fun d => ?_⟩
  rw [State.core_setCore]
  split
  · rename_i hd
    rw [hd]
  · rfl

/-- Cores with no line in L1 write none back (R56). -/
theorem State.flush_all_empty {s : State} {cs : List Nat} (h : ∀ c ∈ cs, (s.core c).l1 = L1.empty) :
    s.CoresAs (cs.foldl (fun s c => s.flush c) s) := by
  induction cs generalizing s with
  | nil => exact .refl s
  | cons c cs ih =>
    have hc := State.flush_empty (h c List.mem_cons_self)
    refine hc.trans (ih fun d hd => ?_)
    rw [hc.2]
    exact h d (List.mem_cons_of_mem c hd)

/-- What a save parks of the context of a partition that has no command left in progress but the PREEMPT. -/
def State.parkImage (u : State) (p : Nat) (ctx : Ctx) (cs : List Nat) : Parked :=
  ⟨ctx, u.savedState p [], cs.foldl (fun t c => tabPut t (u.core c).lg (u.core c)) [], (u.part p).sync, (u.part p).slots, [],
    (u.part p).waiters.filterMap u.waiterOut, (u.part p).tlb⟩

/-- What is left of a partition whose context is parked. -/
def Part.parkedAs (x : Part) (park : Parked) : Part :=
  { x with state := .idle, bound := none, slots := [], parked := some park, parkedKey := x.key, key := none, waiters := [], tlb := [],
           cmds := x.cmds.filter fun k => !k.kind.isLong }

/-- What is left of a core that is saved. -/
def Core.savedAway (k : Core) : Core := { k.emptied with run := .saved, mx := k.emptied.mx.noTags }

theorem State.sealImage_frame (s : State) (p : Nat) (key : Option (BitVec 256)) :
    { s.sealImage p key with sealed := s.sealed, freeCtr := s.freeCtr } = s := by
  unfold State.sealImage
  split <;> rfl

/-- The image is sealed under the key (R362). -/
theorem State.sealImage_sealed (s : State) (p : Nat) (key : Option (BitVec 256)) (k : BitVec 256) (h : key = some k) :
    tabGet none (s.sealImage p key).sealed p = some (k, s.freeCtr) := by
  subst h
  exact tabGet_tabPut_same none s.sealed p _

theorem exec_saveComplete {s u : State} {p : PartId} {ctx : Ctx} {k : Cmd} (hw : ∀ c : Nat, (s.core c).works = true)
    (hs : (s.part p).state = .quiescing) (hb : (s.part p).bound = some ctx) (hk : (s.part p).cmds = [k]) (hp : k.kind = .preempt)
    (hq : ∀ c ∈ s.coresOf p, (s.core c).quiet = true) (hu : (s.coresOf p).foldl (fun s c => s.flush c) s = u) (hup : u.part p = s.part p) :
    Gives (.saveComplete p) s (((((u.modCores (s.coresOf p) Core.savedAway).modPart p
      (·.parkedAs (u.parkImage p ctx (s.coresOf p)))).sealImage p (s.part p).key).complete p k.seq Code.ok
        (BitVec.ofNat 64 (sidingBytes (s.coresOf p).length)))) := by
  have hcs : ((s.coresOf p).filter fun c => (s.core c).works) = s.coresOf p := List.filter_eq_self.2 fun c _ => hw c
  have hany : ((s.coresOf p).any fun c => !(s.core c).quiet) = false := by
    rw [List.any_eq_false]
    intro c hc
    rw [hq c hc]
    decide
  have hkeep : ([k].filter fun k => k.kind.isLong) = [] := by simp [hp, CmdKind.isLong]
  have hleft : ([k].filter fun k => !k.kind.isLong) = [k] := by simp [hp, CmdKind.isLong]
  have hrounds : u.roundsEnd p = u := State.roundsEnd_none (by simp [Part.launches, hup, hk, hp])
  have hseal (t : State) : (t.sealImage p (s.part p).key).part p = t.part p := by
    unfold State.sealImage
    split <;> rfl
  show execSaveComplete p s = _
  unfold execSaveComplete
  dsimp only
  rw [hs, hb]
  dsimp only
  rw [hcs, hany, hk, hu, hkeep, List.map_nil, hrounds, hup]
  refine (if_neg ?_).trans ?_
  · rw [List.any_cons, hp]
    decide
  generalize hV : State.modPart (State.modCores u _ _) _ _ = v
  have hv : v = (u.modCores (s.coresOf p) Core.savedAway).modPart p (·.parkedAs (u.parkImage p ctx (s.coresOf p))) :=
    hV.symm.trans (by unfold State.parkImage; rw [hup]; rfl)
  have hcmds : ((v.sealImage p (s.part p).key).part p).cmds = [k] := by
    rw [hseal, hv, State.part_modPart_same, State.modCores_part, hup, Part.parkedAs, hk]
    exact hleft
  rw [← hv, hcmds]
  generalize v.sealImage p (s.part p).key = w
  split
  · rename_i m hm
    rw [show m = k by simpa [hp, eq_comm] using hm]
  · rename_i hm
    simp [hp] at hm

theorem tabGet_foldl_tabPut_other {α : Type} (d : α) {f : Nat → Nat} {g : Nat → α} {cs : List Nat} {n : Nat} (h : ∀ b ∈ cs, f b ≠ n) (t : Tab α) :
    tabGet d (cs.foldl (fun t c => tabPut t (f c) (g c)) t) n = tabGet d t n := by
  induction cs generalizing t with
  | nil => rfl
  | cons b cs ih =>
    rw [List.foldl_cons, ih fun a ha => h a (List.mem_cons_of_mem b ha)]
    exact tabGet_tabPut_other d t _ (h b List.mem_cons_self)

/-- A table filled under keys that are all different holds each value under its key. -/
theorem tabGet_foldl_tabPut {α : Type} (d : α) {f : Nat → Nat} {g : Nat → α} {cs : List Nat} {c : Nat} (hc : c ∈ cs)
    (hinj : ∀ a ∈ cs, f a = f c → a = c) (t : Tab α) : tabGet d (cs.foldl (fun t c => tabPut t (f c) (g c)) t) (f c) = g c := by
  induction cs generalizing t with
  | nil => simp at hc
  | cons b cs ih =>
    rw [List.foldl_cons]
    by_cases hcs : c ∈ cs
    · exact ih hcs (fun a ha => hinj a (List.mem_cons_of_mem b ha)) _
    · rw [tabGet_foldl_tabPut_other d fun a ha hf => hcs (hinj a (List.mem_cons_of_mem b ha) hf ▸ ha)]
      obtain rfl : c = b := (List.mem_cons.1 hc).resolve_right hcs
      exact tabGet_tabPut_same d t _ _

theorem State.CoresAs.waiterOut {s u : State} (h : s.CoresAs u) : u.waiterOut = s.waiterOut := by
  funext w
  unfold State.waiterOut
  simp only [h.2]

theorem State.CoresAs.coresOf {s u : State} (h : s.CoresAs u) (p : Nat) : u.coresOf p = s.coresOf p := by
  have hpart (c : Nat) : u.partOf c = s.partOf c := (congrArg (fun x : State => x.partOf c) h.1 :)
  unfold State.coresOf
  simp only [h.2, hpart]

/-- The state a save records, with no launch in progress (R196). -/
theorem State.savedState_nil (s : State) (p : Nat) :
    s.savedState p [] = if (s.coresOf p).any fun c => (s.core c).works && (s.core c).fault.valid then .faulted else .ready := rfl

/-- What a save parks (R196, R266). -/
theorem State.CoresAs.parkImage {s u : State} (h : s.CoresAs u) (p : Nat) (ctx : Ctx) :
    let y := u.parkImage p ctx (s.coresOf p)
    y.ctx = ctx ∧ y.sync = (s.part p).sync ∧ y.slots = (s.part p).slots ∧ y.waiters = (s.part p).waiters.filterMap s.waiterOut ∧ y.cmds = [] ∧
    y.state = (if (s.coresOf p).any fun c => (s.core c).works && (s.core c).fault.valid then .faulted else .ready) ∧
    ((∀ c ∈ s.coresOf p, (s.core c).logical.isSome = true) →
      (∀ c d : Nat, c ∈ s.coresOf p → d ∈ s.coresOf p → (s.core c).logical = (s.core d).logical → c = d) →
      ∀ c ∈ s.coresOf p, tabGet Core.reset y.cores (s.core c).lg = s.core c) := by
  have hpart : u.part p = s.part p := (congrArg (fun x : State => x.part p) h.1 :)
  refine ⟨rfl, congrArg Part.sync hpart, congrArg Part.slots hpart, ?_, rfl, ?_, fun hsome hinj c hc => ?_⟩
  · rw [State.parkImage, hpart, h.waiterOut]
  · rw [State.parkImage, State.savedState_nil, h.coresOf]
    simp only [h.2]
  · rw [← h.2 c]
    refine tabGet_foldl_tabPut (f := fun c => (u.core c).lg) (g := u.core) Core.reset hc (fun a ha hlg => hinj a c ha hc ?_) []
    obtain ⟨m, hm⟩ := Option.isSome_iff_exists.1 (hsome a ha)
    obtain ⟨n, hn⟩ := Option.isSome_iff_exists.1 (hsome c hc)
    simp only [h.2, Core.lg, hm, hn, Option.map_some, Option.getD_some] at hlg
    rw [hm, hn, BitVec.eq_of_toNat_eq hlg]

/-- A core that is saved, once it has nothing left to execute. -/
theorem Core.savedAway_run (k : Core) : k.savedAway.run = .saved ∧ k.savedAway.kernel = none := by
  refine ⟨rfl, ?_⟩
  unfold Core.savedAway Core.emptied
  split <;> rfl

theorem savesAndResetsEnd_save {s : State} {p : PartId} {ctx : Ctx} {k : Cmd} (hw : ∀ c : Nat, (s.core c).works = true) :
    let x := s.part p
    x.state = .quiescing → x.enable = true → x.bound = some ctx → x.cmds = [k] → k.kind = .preempt →
    (∀ c : Nat, c ∈ s.coresOf p → (s.core c).quiet = true ∧ (s.core c).l1 = L1.empty) →
    (∀ c : Nat, c ∈ s.coresOf p → (s.core c).logical.isSome = true) →
    (∀ c d : Nat, c ∈ s.coresOf p → d ∈ s.coresOf p → (s.core c).logical = (s.core d).logical → c = d) →
    ∃ t y, Gives (.saveComplete p) s t ∧ (t.part p).state = .idle ∧ (t.part p).bound = none ∧ (t.part p).slots = [] ∧
      (t.part p).cmds = [] ∧ (t.part p).parkedKey = x.key ∧ (t.part p).key = none ∧ t.mem = s.mem ∧
      (t.part p).parked = some y ∧ y.ctx = ctx ∧ y.sync = x.sync ∧ y.slots = x.slots ∧ y.waiters = x.waiters.filterMap s.waiterOut ∧ y.cmds = [] ∧
      (∀ key, x.key = some key → ∃ m, tabGet none t.sealed p = some (key, m)) ∧
      (k.flags.getLsbD 1 = true → (t.part p).due = x.due ++ [⟨false, ⟨k.tag, k.opcode, 0, k.index,
        BitVec.ofNat 64 ((s.coresOf p).length * (3136 * 1024) + 528 * 1024), s.lt.now, false⟩, k.flags, k.vector⟩]) ∧
      ((∃ c : Nat, c ∈ s.coresOf p ∧ (s.core c).fault.valid = true) → y.state = .faulted) ∧
      ((∀ c : Nat, c ∈ s.coresOf p → (s.core c).fault.valid = false) → y.state = .ready) ∧
      ∀ c : Nat, c ∈ s.coresOf p → tabGet Core.reset y.cores (s.core c).lg = s.core c ∧ (t.core c).run = .saved ∧
        (t.core c).kernel = none := by
  intro x hs he hb hk hp hq hsome hinj
  -- the cores with their empty L1 written back, the context parked, and the image sealed
  have hu := State.flush_all_empty fun c hc => (hq c hc).2
  generalize hfl : (s.coresOf p).foldl (fun s c => s.flush c) s = u at hu
  have hupart : u.part p = s.part p := (congrArg (fun x : State => x.part p) hu.1 :)
  have hgives := exec_saveComplete hw hs hb hk hp (fun c hc => (hq c hc).1) hfl hupart
  obtain ⟨hctx, hsync, hslots, hwait, hcmds, hstate, hcores⟩ := hu.parkImage p ctx
  generalize u.parkImage p ctx (s.coresOf p) = y at hgives hctx hsync hslots hwait hcmds hstate hcores
  generalize hv : (u.modCores (s.coresOf p) Core.savedAway).modPart p (·.parkedAs y) = v at hgives
  have hseal := v.sealImage_frame p (s.part p).key
  have hsealed := v.sealImage_sealed p (s.part p).key
  have hvpart : v.part p = x.parkedAs y := by rw [← hv, State.part_modPart_same, State.modCores_part, hupart]
  have hvcore (c : Nat) (hc : c ∈ s.coresOf p) : v.core c = (s.core c).savedAway := by
    rw [← hv, State.modPart_core, State.core_modCores _ _ (s.coresOf_nodup p), if_pos hc, hu.2]
  have hvframe : { v with cores := s.cores, parts := s.parts } = s := by
    rw [← hv]
    exact (congrArg (fun x : State => { x with cores := s.cores, parts := s.parts }) (u.modCores_frame _ _) :).trans
      (congrArg (fun x : State => { x with parts := s.parts }) hu.1 :)
  generalize v.sealImage p (s.part p).key = z at hgives hseal hsealed
  have hzpart : z.part p = x.parkedAs y := (congrArg (fun x : State => x.part p) hseal :).trans hvpart
  have hzcmds : (z.part p).cmds = [k] := by
    rw [hzpart, Part.parkedAs, hk]
    simp [hp, CmdKind.isLong]
  -- the PREEMPT completes
  rw [State.complete_only _ _ hzcmds] at hgives
  generalize hw' : z.modPart p (fun x => { x with cmds := [] }) = w at hgives
  have hwpart : w.part p = { x.parkedAs y with cmds := [] } := by rw [← hw', State.part_modPart_same, hzpart]
  have hwframe : { w with parts := z.parts } = z := by rw [← hw']; rfl
  have hby := w.finish_bystands p k.index k.opcode k.flags k.tag k.vector Code.ok (BitVec.ofNat 64 (sidingBytes (s.coresOf p).length))
  have hfin := w.finish_frame p k.index k.opcode k.flags k.tag k.vector Code.ok (BitVec.ofNat 64 (sidingBytes (s.coresOf p).length))
  have hpart := hby.part p
  rw [hwpart] at hpart
  refine ⟨_, y, hgives, (congrArg Part.state hpart :), (congrArg Part.bound hpart :), (congrArg Part.slots hpart :), ?_,
    (congrArg Part.parkedKey hpart :), (congrArg Part.key hpart :), ?_, (congrArg Part.parked hpart :), hctx, hsync, hslots, hwait, hcmds,
    fun key hkey => ⟨v.freeCtr, ?_⟩, fun hflag => ?_, fun ⟨c, hc, hfault⟩ => ?_, fun hfault => ?_, fun c hc => ⟨hcores hsome hinj c hc, ?_⟩⟩
  · rw [State.finish_cmds, hwpart]
  · exact hby.mem.trans ((congrArg State.mem hwframe :).trans ((congrArg State.mem hseal :).trans (congrArg State.mem hvframe :)))
  · rw [hby.sealedImages, show w.sealed = z.sealed from (congrArg State.sealed hwframe :)]
    exact hsealed key hkey
  · rw [State.finish_owes _ _ _ _ _ _ _ _ _ hflag (by rw [hwpart]; exact he), hwpart]
    have hlt : w.lt = s.lt := (congrArg State.lt hwframe :).trans ((congrArg State.lt hseal :).trans (congrArg State.lt hvframe :))
    rw [hlt]
    rfl
  · rw [hstate, if_pos]
    exact List.any_eq_true.2 ⟨c, hc, by rw [hw, hfault]; rfl⟩
  · rw [hstate, if_neg]
    simp only [List.any_eq_true, not_exists, not_and, Bool.and_eq_true]
    intro c hc _
    rw [hfault c hc]
    decide
  · have hcore : (w.finish p k.index k.opcode k.flags k.tag k.vector Code.ok (BitVec.ofNat 64 (sidingBytes (s.coresOf p).length))).core c =
        (s.core c).savedAway :=
      (congrArg (fun x : State => x.core c) hfin :).trans ((congrArg (fun x : State => x.core c) hwframe :).trans
        ((congrArg (fun x : State => x.core c) hseal :).trans (hvcore c hc)))
    rw [hcore]
    exact (s.core c).savedAway_run

/-! ## RESTORE (R56, R57, R196, R197) -/

theorem tabGet_filter_key {α : Type} (d : α) (t : Tab α) (f : Nat → Bool) (n : Nat) :
    tabGet d (t.filter fun x => f x.1) n = if f n = true then tabGet d t n else d := by
  induction t with
  | nil => simp [tabGet]
  | cons x t ih =>
    obtain ⟨k, v⟩ := x
    rw [List.filter_cons]
    by_cases hk : k = n
    · subst hk
      by_cases hf : f k = true <;> simp [hf, tabGet, ih]
    · split <;> simp [tabGet, hk, ih]

/-- A register of a bank that was gated is restored as zero (R57). -/
theorem Core.restored_tile (k saved : Core) (r : Nat) :
    (k.restored saved).tile r = if saved.powered.getLsbD (r / 8) = true then saved.tile r else Tile.zero :=
  tabGet_filter_key Tile.zero saved.tiles (fun n => saved.powered.getLsbD (n / 8)) r

/-- A parked context that returns to its partition. -/
def Part.restoredFrom (x : Part) (y : Parked) : Part :=
  { x with state := y.state, bound := some y.ctx, context := y.ctx.id, slots := y.slots, sync := y.sync, frozen := false,
           parked := none, key := x.parkedKey, parkedKey := none, cmds := x.cmds ++ y.cmds, tlb := y.tlb }

theorem State.reloadSlots_none {s : State} {c : Nat} (h : (s.core c).vx.slots = []) : s.reloadSlots c = s := by
  rw [State.reloadSlots, h]
  rfl

theorem exec_restore_one {s : State} {h : CmdHdr} {y : Parked} {n c : Nat} {k : Core} (hw : ∀ c : Nat, (s.core c).works = true)
    (ha : Accepts s h 0x09) (hs : (s.part h.part).state = .idle) (hp : (s.part h.part).parked = some y)
    (hkey : (s.part h.part).parkedKey.isSome = true) (hcores : y.cores = [(n, k)]) (hn : s.physical n = some c) (hslots : k.vx.slots = [])
    (hwait : y.waiters = []) :
    ∃ u : State, u.part h.part = ((s.taken h.part).part h.part).restoredFrom y ∧ u.core c = (s.core c).restored k ∧ u.mem = s.mem ∧
      Gives (.restore h) s (u.endCmd h 0x09 (s.part h.part).consumer Code.ok (BitVec.ofNat 64 y.state.code)) := by
  have hpart : (s.taken h.part).part h.part = _ := State.part_modPart_same s h.part _
  have hlegal : ((s.taken h.part).part h.part).canRestore = true := by
    rw [hpart]
    simp [Part.canRestore, hs, hp, hkey]
  refine ⟨(((s.taken h.part).modPart h.part (·.restoredFrom y)).modPart h.part fun x => { x with waiters := x.waiters ++ [] }).modCore c
    (·.restored k), ?_, ?_, rfl, ?_⟩
  · rw [State.modCore_part, State.part_modPart_same, State.part_modPart_same, List.append_nil]
  · rw [State.core_modCore_same]
    rfl
  · show execRestore h s = _
    refine (State.startCmd_acts ha hlegal).trans (congrArg Host.Outcome.next ?_)
    have hparked : ((s.taken h.part).part h.part).parked = some y := by rw [hpart]; exact hp
    dsimp only
    rw [hparked]
    dsimp only
    rw [State.contextBoundary_works (show ∀ c : Nat, ((s.taken h.part).core c).works = true from hw), hwait, hcores]
    simp only [List.filterMap_nil, List.foldl_cons, List.foldl_nil]
    generalize hv : State.modPart (State.modPart (s.taken h.part) _ _) _ _ = v
    have hphys : v.physical n = some c := by rw [← hv]; exact hn
    have hreload : ((v.modCore c (·.restored k)).core c).vx.slots = [] := by rw [State.core_modCore_same]; exact hslots
    rw [hphys]
    dsimp only
    rw [State.reloadSlots_none hreload, ← hv]
    rfl

theorem savesAndResetsEnd_restore {s : State} {h : CmdHdr} {y : Parked} {n c : Nat} {k : Core} (hw : ∀ c : Nat, (s.core c).works = true) :
    let p := h.part.val
    let x := s.part p
    Accepts s h 0x09 → x.state = .idle → x.parked = some y → x.parkedKey.isSome = true →
    y.cores = [(n, k)] → s.physical n = some c → k.vx.slots = [] → y.waiters = [] →
    ∃ t, Gives (.restore h) s t ∧ (t.part p).state = y.state ∧ (t.part p).bound = some y.ctx ∧ (t.part p).slots = y.slots ∧
      (t.part p).sync = y.sync ∧ (t.part p).frozen = false ∧ (t.part p).parked = none ∧ (t.part p).key = x.parkedKey ∧
      (t.part p).cmds = x.cmds ++ y.cmds ∧ t.mem = s.mem ∧ (t.core c).scalars = k.scalars ∧ (t.core c).preds = k.preds ∧
      (∀ r : Nat, k.powered.getLsbD (r / 8) = true → (t.core c).tile r = k.tile r) ∧
      (∀ r : Nat, k.powered.getLsbD (r / 8) = false → ((t.core c).tile r).data = [] ∧ ((t.core c).tile r).scales = []) ∧
      (t.core c).descs = k.descs ∧ (t.core c).handles = k.handles ∧ (t.core c).mx.acc = k.mx.acc ∧
      (t.core c).mx.terms = k.mx.terms ∧ (t.core c).kernel = k.kernel ∧ (t.core c).fault = k.fault ∧
      (t.core c).logical = (s.core c).logical := by
  intro p x ha hs hp hkey hcores hn hslots hwait
  obtain ⟨u, hupart, hucore, humem, hgives⟩ := exec_restore_one hw ha hs hp hkey hcores hn hslots hwait
  have htaken : (s.taken p).part p = _ := State.part_modPart_same s p _
  rw [htaken] at hupart
  have hby := u.finish_bystands p x.consumer 0x09 h.flags h.tag h.vector Code.ok (BitVec.ofNat 64 y.state.code)
  have hcmds := u.finish_cmds p x.consumer 0x09 h.flags h.tag h.vector Code.ok (BitVec.ofNat 64 y.state.code)
  have hfin := u.finish_frame p x.consumer 0x09 h.flags h.tag h.vector Code.ok (BitVec.ofNat 64 y.state.code)
  have hpart := hby.part p
  have hcore : (u.endCmd h 0x09 x.consumer Code.ok (BitVec.ofNat 64 y.state.code)).core c = (s.core c).restored k :=
    (congrArg (fun x : State => x.core c) hfin :).trans hucore
  rw [hupart] at hpart hcmds
  refine ⟨_, hgives, (congrArg Part.state hpart :), (congrArg Part.bound hpart :), (congrArg Part.slots hpart :), (congrArg Part.sync hpart :),
    (congrArg Part.frozen hpart :), (congrArg Part.parked hpart :), (congrArg Part.key hpart :), hcmds, hby.mem.trans humem, ?_⟩
  rw [hcore]
  refine ⟨rfl, rfl, fun r hr => ?_, fun r hr => ?_, rfl, rfl, rfl, rfl, rfl, rfl, rfl⟩
  · rw [Core.restored_tile, if_pos hr]
  · rw [Core.restored_tile, if_neg (by rw [hr]; decide)]
    exact ⟨rfl, rfl⟩

/-! ## The end of a reset (R196, R197) -/

/-- A core that works, after a reset. -/
def Core.wasReset (k : Core) : Core := if k.works then { k.emptied with run := .idle, l1 := L1.empty } else { k.emptied with run := .idle }

theorem Core.wasReset_works {k : Core} (h : k.works = true) : k.wasReset.run = .idle ∧ k.wasReset.kernel = none ∧ k.wasReset.l1 = L1.empty ∧
    k.wasReset.scalars = k.scalars := by
  simp [Core.wasReset, Core.emptied, h]

/-- What the end of a reset leaves of its partition. -/
def Part.wasReset (x : Part) : Part := { x with state := .idle, bound := none, slots := [], tlb := [], key := none }

/-- But for its context boundary and the record of its RESET, the end of a reset is this (R197). -/
theorem State.endReset_bystands (s : State) (p : Nat) :
    ((s.modCores (s.coresOf p) Core.wasReset).modPart p Part.wasReset).Bystands (s.endReset p) := by
  unfold State.endReset
  dsimp only
  generalize hu : State.contextBoundary (State.modPart (State.modCores s _ _) p _) p = u
  have hb : ((s.modCores (s.coresOf p) Core.wasReset).modPart p Part.wasReset).Bystands u := by
    rw [← hu]
    exact State.boundary_bystands _ _
  split
  · exact hb.trans (State.complete_bystands ..)
  · exact hb

theorem savesAndResetsEnd_reset {s : State} {p : PartId} (hwipe : (s.part p).wiping = false) (hs : (s.part p).state = .resetting)
    (hq : ∀ c : Nat, c ∈ s.coresOf p → (s.core c).executing = false) :
    ∃ t, Gives (.resetComplete p) s t ∧ (t.part p).state = .idle ∧ (t.part p).bound = none ∧ (t.part p).slots = [] ∧
      (t.part p).key = none ∧ (t.part p).sync = (s.part p).sync ∧ t.mem = s.mem ∧
      ∀ c : Nat, c ∈ s.coresOf p → (s.core c).works = true → (t.core c).run = .idle ∧ (t.core c).kernel = none ∧
        (t.core c).l1 = L1.empty ∧ (t.core c).scalars = (s.core c).scalars := by
  have hdone : s.resetDone p = true := by
    have hany : ((s.coresOf p).any fun c => (s.core c).executing) = false := List.any_eq_false.2 fun c hc => by rw [hq c hc]; decide
    rw [State.resetDone, hs, hany]
    rfl
  have hby := s.endReset_bystands p
  have hpart := hby.part p
  rw [State.part_modPart_same, State.modCores_part] at hpart
  refine ⟨s.endReset p, ?_, (congrArg Part.state hpart :), (congrArg Part.bound hpart :), (congrArg Part.slots hpart :),
    (congrArg Part.key hpart :), (congrArg Part.sync hpart :), hby.mem.trans (congrArg State.mem (s.modCores_frame _ _) :), fun c hc hw => ?_⟩
  · show execResetComplete p s = _
    exact if_neg (by rw [hwipe, hdone]; decide)
  · have hcore := hby.core c
    rw [State.modPart_core, State.core_modCores _ _ (s.coresOf_nodup p), if_pos hc] at hcore
    obtain ⟨hrun, hkernel, hl1, hscalars⟩ := Core.wasReset_works hw
    exact ⟨(congrArg Core.run hcore :).trans hrun, (congrArg Core.kernel hcore :).trans hkernel, (congrArg Core.l1 hcore :).trans hl1,
      (congrArg Core.scalars hcore :).trans hscalars⟩

/-- Settles O31: a save, a RESTORE and a reset end with the partition and its cores as they say. -/
theorem savesAndResetsEnd : Obligations.SavesAndResetsEnd := by
  unfold Obligations.SavesAndResetsEnd
  exact ⟨fun _ _ hw => ⟨fun _ _ => savesAndResetsEnd_save hw, fun _ _ _ _ => savesAndResetsEnd_restore hw⟩,
    fun _ _ => savesAndResetsEnd_reset⟩

end Sys2Proof.Machine

/-!
What the beginning of a wipe leaves of the security controller and of parked contexts (O56).
-/
namespace Sys2Proof.Machine

/-- `t` has the security controller of `s`, and the same contexts parked. -/
structure State.KeepsParked (s t : State) : Prop where
  security : t.security = s.security
  parked : ∀ p, (t.part p).parked = (s.part p).parked

namespace State.KeepsParked

theorem refl (s : State) : s.KeepsParked s := ⟨rfl, fun _ => rfl⟩

theorem trans {s t u : State} (h : s.KeepsParked t) (k : t.KeepsParked u) : s.KeepsParked u :=
  ⟨k.security.trans h.security, fun p => (k.parked p).trans (h.parked p)⟩

theorem of_tables {s t : State} (hx : t.security = s.security) (hp : t.parts = s.parts) : s.KeepsParked t :=
  ⟨hx, fun p => congrArg (fun x : Tab Part => (tabGet Part.reset x p).parked) hp⟩

theorem of_bystands {s t : State} (h : s.Bystands t) : s.KeepsParked t := ⟨h.security, fun p => (congrArg Part.parked (h.part p) :)⟩

theorem of_fold {α : Type} {f : State → α → State} (h : ∀ (s : State) (a : α), s.KeepsParked (f s a)) (l : List α) (s : State) : s.KeepsParked (l.foldl f s) :=
  foldl_rel refl trans h l s

end State.KeepsParked

theorem State.modPart_keepsParked (s : State) (p : Nat) {f : Part → Part} (h : (f (s.part p)).parked = (s.part p).parked) :
    s.KeepsParked (s.modPart p f) := by
  refine ⟨rfl, fun q => ?_⟩
  rw [State.part_modPart]
  split
  · rename_i hq
    rw [← hq, h]
  · rfl

theorem State.ticks_keepsParked (s : State) (n : Nat) : s.KeepsParked (s.ticks n) := .of_tables rfl rfl

theorem State.modCore_keepsParked (s : State) (c : Nat) (f : Core → Core) : s.KeepsParked (s.modCore c f) := .of_tables rfl rfl

theorem State.modCores_keepsParked (s : State) (cs : List Nat) (f : Core → Core) : s.KeepsParked (s.modCores cs f) :=
  .of_fold (fun t c => t.modCore_keepsParked c f) cs s

theorem State.complete_keepsParked (s : State) (p i : Nat) (st : Code) (w : Word) : s.KeepsParked (s.complete p i st w) :=
  .of_bystands (s.complete_bystands p i st w)

/-! ## Writes to device memory and rounds of reductions (R240 to R242) -/

theorem State.freshWritten_frame (s : State) (gs : List Nat) : { s.freshWritten gs with memStacks := s.memStacks } = s := by
  unfold State.freshWritten
  induction gs generalizing s with
  | nil => rfl
  | cons g gs ih =>
    rw [List.foldl_cons]
    refine (congrArg (fun x : State => { x with memStacks := s.memStacks }) (ih _) :).trans ?_
    split
    · split <;> rfl
    · rfl

theorem State.closeGroups_frame (s : State) (a : Nat) : { s.closeGroups a with dies := s.dies } = s := by
  unfold State.closeGroups
  split
  · rfl
  · dsimp only
    split <;> rfl

theorem State.closeGroups_keepsParked (s : State) (a : Nat) : s.KeepsParked (s.closeGroups a) :=
  .of_tables (congrArg State.security (s.closeGroups_frame a) :) (congrArg State.parts (s.closeGroups_frame a) :)

theorem State.applyCell_keepsParked (s : State) (x : Nat) (v : F32) (b : Bool) : s.KeepsParked (s.applyCell x v b) :=
  (s.closeGroups_keepsParked (cellAddr x)).trans (.of_tables rfl rfl)

theorem State.applyRanked_keepsParked (s : State) (k : Contribution) : s.KeepsParked (s.applyRanked k) :=
  (s.applyCell_keepsParked k.cell k.value k.poison).trans (.of_tables rfl rfl)

theorem State.applyHeld_keepsParked (x n : Nat) (s : State) : s.KeepsParked (s.applyHeld x n) := by
  induction n generalizing s with
  | zero => exact .refl s
  | succ n ih =>
    unfold State.applyHeld
    dsimp only
    split
    · exact .refl s
    · split
      · exact .refl s
      · refine .trans (.trans ?_ (State.applyRanked_keepsParked _ _)) (ih _)
        exact .of_tables rfl rfl

theorem State.cascade_keepsParked (s : State) (x : Nat) : s.KeepsParked (s.cascade x) := State.applyHeld_keepsParked _ _ _

theorem State.contribute_keepsParked (s : State) (who : Option Ranked) (x : Nat) (v : F32) (b : Bool) :
    s.KeepsParked (s.contribute who x v b) := by
  unfold State.contribute
  split
  · exact .of_tables rfl rfl
  · split
    · exact s.applyCell_keepsParked _ _ _
    · unfold State.offer
      dsimp only
      split
      · exact .of_tables rfl rfl
      · split
        · exact (s.applyRanked_keepsParked _).trans (State.cascade_keepsParked _ _)
        · split <;> exact .of_tables rfl rfl

theorem State.reduceWords_keepsParked (who : Option Ranked) (bytes : List (Nat × Byte)) (poison : Nat → Bool) (ws : List Nat) (s : State) :
    s.KeepsParked (s.reduceWords who bytes poison ws) := by
  induction ws generalizing s with
  | nil => exact .refl s
  | cons w ws ih =>
    unfold State.reduceWords
    dsimp only
    refine .trans ?_ (ih _)
    split
    · exact s.contribute_keepsParked _ _ _ _
    · exact .of_tables rfl rfl

theorem State.devWrite_keepsParked (s : State) (who : Option Ranked) (bytes : List (Nat × Byte)) (b : Bool) :
    s.KeepsParked (s.devWrite who bytes b) := by
  unfold State.devWrite State.granWrite
  split
  · exact .refl s
  · rename_i a _ _
    have hclose := s.closeGroups_keepsParked a
    dsimp only
    split
    · exact hclose.trans (State.reduceWords_keepsParked ..)
    · split
      · exact hclose.trans (.of_tables rfl rfl)
      · split
        · exact hclose
        · have h (gs : List Nat) := (s.closeGroups a).freshWritten_frame gs
          exact hclose.trans (.of_tables (congrArg State.security (h _) :) (congrArg State.parts (h _) :))

theorem State.endRounds_keepsParked (s : State) (ls : List LaunchId) : s.KeepsParked (s.endRounds ls) := by
  unfold State.endRounds
  split
  · exact .refl s
  · refine .of_fold (fun t n => ?_) _ s
    dsimp only
    refine .trans ?_ (.of_fold (fun u x => u.cascade_keepsParked x) _ _)
    exact .of_tables rfl rfl

/-! ## Commands, waits and generations that are lost (R197, R267, R328) -/

theorem State.launchesEnd_keepsParked (s : State) (p : Nat) (st : Code) : s.KeepsParked (s.launchesEnd p st) :=
  (s.endRounds_keepsParked _).trans (.of_fold (fun t _ => t.complete_keepsParked _ _ _ _) _ _)

theorem State.freePieces_keepsParked (p : Nat) (l : List (Nat × Nat)) (s : State) : s.KeepsParked (s.freePieces p l) := by
  induction l generalizing s with
  | nil => exact .refl s
  | cons x l ih =>
    obtain ⟨a, n⟩ := x
    unfold State.freePieces
    dsimp only
    refine .trans ?_ (ih _)
    split
    · exact (s.ticks_keepsParked n).trans (State.devWrite_keepsParked ..)
    · exact .refl s

theorem State.destUndefined_keepsParked (s : State) (p : Nat) (k : CmdKind) : s.KeepsParked (s.destUndefined p k) := by
  have hhost (t : State) (hp : HostPort) (a : Nat) (bs : List Byte) : t.KeepsParked (t.hostWrite hp a bs) := by
    unfold State.hostWrite
    split <;> exact .of_tables rfl rfl
  unfold State.destUndefined
  split
  · exact State.freePieces_keepsParked _ _ s
  · split
    · exact (s.ticks_keepsParked _).trans (hhost ..)
    · exact State.freePieces_keepsParked _ _ s
  · exact .refl s

theorem State.abandonGen_keepsParked (s : State) (p : Nat) (st : Code) : s.KeepsParked (s.abandonGen p st) := by
  unfold State.abandonGen
  split
  · exact .refl s
  · dsimp only
    refine .trans ?_ (.of_bystands (State.log_bystands ..))
    have hdrop : s.KeepsParked (s.dropGen p) := .of_fold (f := fun (s : State) n => s.modPort n fun x =>
      { x with waiting := x.waiting.filter fun k => match k.msg with | .twin r => !ofGeneration p r | _ => true }) (fun _ _ => .of_tables rfl rfl) _ s
    have hbump (t : State) : t.KeepsParked (t.bumpTwin 2) := .of_tables rfl rfl
    refine (hdrop.trans (State.modPart_keepsParked _ p ?_)).trans (hbump _)
    rfl

theorem State.syncLost_keepsParked (s : State) (p : Nat) (adds : Bool) : s.KeepsParked (s.syncLost p adds) := by
  refine .of_fold (fun t d => ?_) _ s
  split
  · exact .refl t
  · dsimp only
    refine .trans ?_ (.of_fold (fun u x => ?_) _ _)
    · exact .of_tables rfl rfl
    · exact (State.modPart_keepsParked u p (f := (·.bumpSy 6)) rfl).trans (State.modCore_keepsParked _ _ _)

theorem State.endWait_keepsParked (s : State) (p : Nat) (w : Waiter) (st : Code) : s.KeepsParked (s.endWait p w st) := by
  have hcount (t : State) : t.KeepsParked (if st = Code.timeout then t.modPart p (·.bumpSy 4) else if st = Code.ownerLost then
      t.modPart p (·.bumpSy 6) else t) := by
    split
    · exact t.modPart_keepsParked p rfl
    · split
      · exact t.modPart_keepsParked p rfl
      · exact .refl t
  have hleave : s.KeepsParked (s.modPart p fun x => { x with waiters := x.waiters.filter fun y => y != w }) := s.modPart_keepsParked p rfl
  unfold State.endWait
  dsimp only
  generalize hu : (if st = Code.timeout then _ else _ : State) = u
  have h : s.KeepsParked u := by
    rw [← hu]
    exact hleave.trans (hcount _)
  refine h.trans ?_
  split
  · refine .trans ?_ (State.modCore_keepsParked _ _ _)
    split
    · exact State.modPart_keepsParked _ p (f := (·.bumpSy 3)) rfl
    · exact .refl _
  · exact State.complete_keepsParked ..

theorem State.waitsLost_keepsParked (s : State) (p : Nat) : s.KeepsParked (s.waitsLost p) :=
  (s.syncLost_keepsParked p true).trans (.of_fold (fun t w => t.endWait_keepsParked p w _) _ _)

/-- The parked context is discarded, and the security controller is as it was (R267). -/
theorem State.discardParked_parked (s : State) (p : Nat) : (s.discardParked p).security = s.security ∧ ((s.discardParked p).part p).parked = none := by
  unfold State.discardParked
  split
  · rename_i h
    exact ⟨rfl, h⟩
  · rename_i k _
    have h : (s.modPart p fun x => { x with parked := none, parkedKey := none, lostB := k.ctx.id, lostBValid := true }).KeepsParked _ :=
      .of_fold (fun t m => .of_bystands (t.finish_bystands p m.index m.opcode m.flags m.tag m.vector Code.ownerLost
        (match m.kind with | .wait b _ => k.sync.baton b.toNat | _ => t.lineTime))) k.cmds _
    refine ⟨h.security, (h.parked p).trans ?_⟩
    rw [State.part_modPart_same]

theorem State.beginReset_discards (s : State) (p : Nat) : (s.beginReset p true).security = s.security ∧ ((s.beginReset p true).part p).parked = none := by
  obtain ⟨hx, hp⟩ := s.discardParked_parked p
  have hwaits := ((s.discardParked p).abandonGen_keepsParked p Code.ownerLost).trans (State.waitsLost_keepsParked _ p)
  have h : (s.discardParked p).KeepsParked (s.beginReset p true) := by
    unfold State.beginReset
    dsimp only
    rw [if_pos rfl]
    split
    · exact hwaits
    · generalize ((s.discardParked p).abandonGen p Code.ownerLost).waitsLost p = w at hwaits ⊢
      generalize hv : List.foldl _ (w.launchesEnd p Code.ownerLost) _ = v
      have hlost : w.KeepsParked v := by
        rw [← hv]
        exact (w.launchesEnd_keepsParked p Code.ownerLost).trans (.of_fold (fun t (k : Cmd) =>
          ((t.destUndefined_keepsParked p k.kind).trans (State.ticks_keepsParked _ 1)).trans (State.complete_keepsParked ..)) _ _)
      refine (hwaits.trans hlost).trans (.trans (State.modPart_keepsParked v p ?_) (State.modCores_keepsParked _ _ _))
      rfl
  exact ⟨h.security.trans hx, (h.parked p).trans hp⟩

/-- The wipe of a partition that is not ABSENT begins: it is RESETTING, and nothing of it is parked (R366). -/
theorem State.beginWipe_resetting {s : State} {p : Nat} (h : (s.part p).state ≠ .absent) :
    (s.beginWipe p).security = s.security ∧ ((s.beginWipe p).part p).state = .resetting ∧ ((s.beginWipe p).part p).wiping = true ∧
    ((s.beginWipe p).part p).parked = none := by
  have hlost (t : State) : t.KeepsParked (((t.part p).cmds.filter fun k => match k.kind with | .preempt => true | _ => false).foldl
      (fun s k => s.tick.complete p k.seq Code.ownerLost (Config.freeWord s.freeCtr)) t) :=
    .of_fold (fun u k => (u.ticks_keepsParked 1).trans (State.complete_keepsParked ..)) _ t
  have hbegin : ∃ u, u.security = s.security ∧ (u.part p).parked = none ∧
      u = if (s.part p).state = .resetting then s.discardParked p else s.beginReset p true := by
    split
    · obtain ⟨hx, hp⟩ := s.discardParked_parked p
      exact ⟨_, hx, hp, rfl⟩
    · obtain ⟨hx, hp⟩ := s.beginReset_discards p
      exact ⟨_, hx, hp, rfl⟩
  obtain ⟨u, hx, hp, hu⟩ := hbegin
  unfold State.beginWipe
  rw [if_neg h]
  dsimp only
  rw [← hu, State.part_modPart_same]
  exact ⟨(hlost u).security.trans hx, rfl, rfl, ((hlost u).parked p).trans hp⟩

end Sys2Proof.Machine

/-!
What a wipe writes to device memory, and what it leaves (R366; O56).
-/
namespace Sys2Proof.Machine

/-! ## Zeros -/

/-- `t` is `s` with zero at the addresses of `Z`, and no more than the free values, the counters and groups of reads of dies, the poison and the
replaced rows changed beside. -/
structure State.Zeroed (s t : State) (Z : Nat → Prop) : Prop where
  inside : ∀ a, Z a → memGet t.mem a = 0
  outside : ∀ a, ¬ Z a → memGet t.mem a = memGet s.mem a
  fenced : t.sliceFenced = s.sliceFenced
  frame : { t with mem := s.mem, poison := s.poison, dies := s.dies, memStacks := s.memStacks, freeCtr := s.freeCtr } = s

namespace State.Zeroed

theorem refl (s : State) : s.Zeroed s fun _ => False := ⟨fun _ h => h.elim, fun _ _ => rfl, rfl, rfl⟩

theorem trans {s t u : State} {Y Z : Nat → Prop} (h : s.Zeroed t Y) (k : t.Zeroed u Z) : s.Zeroed u fun a => Y a ∨ Z a where
  inside a ha := by
    by_cases hz : Z a
    · exact k.inside a hz
    · rw [k.outside a hz]
      exact h.inside a (ha.resolve_right hz)
  outside a ha := (k.outside a fun hz => ha (.inr hz)).trans (h.outside a fun hy => ha (.inl hy))
  fenced := k.fenced.trans h.fenced
  frame := (congrArg (fun x : State => { x with
    mem := s.mem, poison := s.poison, dies := s.dies, memStacks := s.memStacks, freeCtr := s.freeCtr }) k.frame :).trans h.frame

theorem congr {s t : State} {Y Z : Nat → Prop} (h : s.Zeroed t Y) (hz : ∀ a, Z a ↔ Y a) : s.Zeroed t Z :=
  ⟨fun a ha => h.inside a ((hz a).1 ha), fun a ha => h.outside a fun hy => ha ((hz a).2 hy), h.fenced, h.frame⟩

/-- Writes of zero, each to addresses that the slices fenced alone decide. -/
theorem of_fold {α : Type} {f : State → α → State} {F : Nat → Bool} {Z : α → Nat → Prop}
    (h : ∀ (s : State) (x : α), s.sliceFenced = F → s.Zeroed (f s x) (Z x)) (l : List α) (s : State) (hs : s.sliceFenced = F) :
    s.Zeroed (l.foldl f s) fun a => ∃ x ∈ l, Z x a := by
  induction l generalizing s with
  | nil => exact (refl s).congr fun a => by simp
  | cons x l ih =>
    have hx := h s x hs
    exact (hx.trans (ih (f s x) (hx.fenced.trans hs))).congr fun a => by simp

end State.Zeroed

/-- A change of the dies that keeps which slices are fenced. -/
theorem State.sliceFenced_congr {s t : State} (h : ∀ d, (t.die d).sliceFenced = (s.die d).sliceFenced) : t.sliceFenced = s.sliceFenced := by
  funext a
  unfold State.sliceFenced
  split
  · rw [h]
  · rfl

theorem tabGet_map {α : Type} (d : α) (f : α → α) (t : Tab α) (n : Nat) :
    tabGet d (t.map fun x => (x.1, f x.2)) n = tabGet d t n ∨ tabGet d (t.map fun x => (x.1, f x.2)) n = f (tabGet d t n) := by
  induction t with
  | nil => exact .inl rfl
  | cons x t ih =>
    obtain ⟨k, v⟩ := x
    simp only [List.map_cons, tabGet]
    split
    · exact .inr rfl
    · exact ih

theorem State.zeroBytes_zeroed (s : State) (a n : Nat) : s.Zeroed (s.zeroBytes a n) fun b => a ≤ b ∧ b < a + n := by
  obtain ⟨u, hu⟩ : ∃ u : State, u = { s with
    mem := memZero s.mem a n
    poison := setDelRun s.poison (a / 32) (n / 32)
    dies := s.dies.map fun x => (x.1, { x.2 with groups := x.2.groups.filter fun g => 128 * g.line < a || a + n ≤ 128 * g.line }) } := ⟨_, rfl⟩
  have h : s.Zeroed u fun b => a ≤ b ∧ b < a + n := by
    subst hu
    refine ⟨fun b hb => (memGet_memZero ..).trans (if_pos hb), fun b hb => (memGet_memZero ..).trans (if_neg hb),
      State.sliceFenced_congr fun d => ?_, rfl⟩
    obtain h | h := tabGet_map Die.reset (fun x => { x with groups := x.groups.filter fun g => 128 * g.line < a || a + n ≤ 128 * g.line }) s.dies d
    · exact (congrArg Die.sliceFenced h :)
    · exact (congrArg Die.sliceFenced h :)
  unfold State.zeroBytes
  dsimp only
  split
  · rw [← hu]
    exact h
  · rw [← hu]
    have hf := u.freshWritten_frame ((List.range (n / 32)).map (a / 32 + ·))
    generalize u.freshWritten ((List.range (n / 32)).map (a / 32 + ·)) = v at hf ⊢
    have hm : v.mem = u.mem := (congrArg State.mem hf :)
    refine ⟨fun b hb => ?_, fun b hb => ?_, ?_, ?_⟩
    · rw [hm, h.inside b hb]
    · rw [hm, h.outside b hb]
    · exact (congrArg State.sliceFenced hf :).trans h.fenced
    · exact (congrArg (fun x : State => { x with mem := s.mem, poison := s.poison, dies := s.dies, memStacks := s.memStacks, freeCtr := s.freeCtr }) hf :).trans h.frame

/-- A unit of slice scratch is zeroed, unless its slice is fenced (R247). -/
theorem State.zeroScratch_zeroed (s : State) (a : Nat) : s.Zeroed (s.zeroScratch a) fun b => s.sliceFenced a = false ∧ a ≤ b ∧ b < a + 2 ^ 21 := by
  unfold State.zeroScratch
  split
  · rename_i hf
    refine ⟨fun b hb => ?_, fun b _ => rfl, State.sliceFenced_congr fun d => ?_, rfl⟩
    · rw [hf] at hb
      exact absurd hb.1 (by decide)
    · rw [State.die, State.modDie, tabGet_tabPut]
      split
      · rename_i hd
        rw [← hd]
        rfl
      · rfl
  · rename_i hf
    exact (s.zeroBytes_zeroed a (2 ^ 21)).congr fun b => and_iff_right (by simpa using hf)

/-- The bytes of a grant that a wipe zeroes. -/
def Grant.zeroed (g : Grant) (fenced : Nat → Bool) (a : Nat) : Prop :=
  g.base ≤ a ∧ a < g.base + g.units * 2 ^ 21 ∧ (inScratch g.base = true → fenced (g.base + (a - g.base) / 2 ^ 21 * 2 ^ 21) = false)

theorem State.zeroGrant_zeroed {s : State} {F : Nat → Bool} (hs : s.sliceFenced = F) (g : Grant) : s.Zeroed (s.zeroGrant g) (g.zeroed F) := by
  unfold State.zeroGrant
  split
  · rename_i hg
    refine (State.Zeroed.of_fold (Z := fun i b => F (g.base + 2 ^ 21 * i) = false ∧ g.base + 2 ^ 21 * i ≤ b ∧ b < g.base + 2 ^ 21 * i + 2 ^ 21)
      (fun t i ht => ht ▸ t.zeroScratch_zeroed _) _ s hs).congr fun b => ?_
    simp only [List.mem_range, Grant.zeroed, hg, forall_const]
    constructor
    · rintro ⟨h1, h2, h3⟩
      refine ⟨(b - g.base) / 2 ^ 21, by omega, ?_, by omega, by omega⟩
      rw [Nat.mul_comm]
      exact h3
    · rintro ⟨i, hi, hF, h1, h2⟩
      have hdiv : (b - g.base) / 2 ^ 21 = i := by omega
      refine ⟨by omega, by omega, ?_⟩
      rw [hdiv, Nat.mul_comm]
      exact hF
  · rename_i hg
    exact (s.zeroBytes_zeroed g.base (g.units * 2 ^ 21)).congr fun b => by simp [Grant.zeroed, hg]

/-! ## The end of a partition's wipe (R366) -/

/-- The addresses that the wipe of a partition zeroes: its sidings, and its grants of near memory and of slice scratch. -/
def State.wipes (s : State) (p a : Nat) : Prop :=
  (sidings p ≤ a ∧ a < sidings p + 0x40000000) ∨
  ∃ g ∈ s.consist.grants, g.part = p ∧ (inNear g.base = true ∨ inScratch g.base = true) ∧ g.zeroed s.sliceFenced a

/-- The grants of a partition with zero in them. -/
def State.grantsZeroed (s : State) (p : Nat) : State :=
  (s.consist.grants.filter fun g => g.part == p && (inNear g.base || inScratch g.base)).foldl State.zeroGrant s

/-- The grants and the sidings of a partition with zero in them. -/
def State.zeroedFor (s : State) (p : Nat) : State := (s.grantsZeroed p).zeroBytes (sidings p) 0x40000000

theorem State.zeroedFor_zeroed (s : State) (p : Nat) : s.Zeroed (s.zeroedFor p) (s.wipes p) := by
  have hgrants := State.Zeroed.of_fold (fun t g ht => State.zeroGrant_zeroed ht g)
    (s.consist.grants.filter fun g => g.part == p && (inNear g.base || inScratch g.base)) s rfl
  refine (hgrants.trans (State.zeroBytes_zeroed _ (sidings p) 0x40000000)).congr fun a => ?_
  simp only [State.wipes, List.mem_filter, Bool.and_eq_true, Bool.or_eq_true, beq_iff_eq, and_assoc]
  exact or_comm

/-- The state before what the wipe was for takes hold. -/
theorem State.wiped_parts (s : State) (p : Nat) : ∃ v : State, v.mem = (s.zeroedFor p).mem ∧ v.security = s.security ∧ v.power = s.power ∧
    tabGet none v.sealed p = none ∧
    ((s.part p).state = .resetting → (v.part p).state = .idle ∧ (v.part p).bound = none) ∧
    s.wiped p = (v.modPart p fun x => { x with wiping := false, key := none, parkedKey := none, parked := none }).modSecurity
      fun x => { x with wipeLeft := setDel x.wipeLeft p } := by
  have hframe := (s.zeroedFor_zeroed p).frame
  obtain ⟨u, hu⟩ : ∃ u : State, u = { s.zeroedFor p with sealed := tabPut (s.grantsZeroed p).sealed p none } := ⟨_, rfl⟩
  have hmem : u.mem = (s.zeroedFor p).mem := by rw [hu]
  have hsec : u.security = s.security := hu ▸ (congrArg State.security hframe :)
  have hpow : u.power = s.power := hu ▸ (congrArg State.power hframe :)
  have hpart : u.part p = s.part p := hu ▸ (congrArg (fun x : State => x.part p) hframe :)
  have hseal : tabGet none u.sealed p = none := by
    rw [hu]
    exact tabGet_tabPut_same ..
  have hwiped : s.wiped p = ((if (u.part p).state = .resetting then u.endReset p else u).modPart p fun x =>
      { x with wiping := false, key := none, parkedKey := none, parked := none }).modSecurity fun x => { x with wipeLeft := setDel x.wipeLeft p } := by
    rw [hu]
    rfl
  rw [hpart] at hwiped
  by_cases hr : (s.part p).state = .resetting
  · rw [if_pos hr] at hwiped
    have hby := u.endReset_bystands p
    have hp := hby.part p
    rw [State.part_modPart_same] at hp
    have hcores := (u.modCores_frame (u.coresOf p) Core.wasReset)
    generalize u.modCores (u.coresOf p) Core.wasReset = w at hby hp hcores
    refine ⟨u.endReset p, ?_, ?_, ?_, ?_, fun _ => ⟨(congrArg Part.state hp :), (congrArg Part.bound hp :)⟩, hwiped⟩
    · exact hby.mem.trans ((congrArg State.mem hcores :).trans hmem)
    · exact hby.security.trans ((congrArg State.security hcores :).trans hsec)
    · exact hby.power.trans ((congrArg State.power hcores :).trans hpow)
    · rw [hby.sealedImages]
      exact (congrArg (fun x : State => tabGet none x.sealed p) hcores :).trans hseal
  · rw [if_neg hr] at hwiped
    exact ⟨u, hmem, hsec, hpow, hseal, fun h => absurd h hr, hwiped⟩

end Sys2Proof.Machine

/-!
Debug levels, challenges, wipes, lifecycle changes and a probe's control of cores (O56).
-/
namespace Sys2Proof.Machine

/-! ## Levels (R364) -/

theorem State.debugResume_frame (s : State) (c : Nat) : { s.debugResume c with cores := s.cores } = s := by
  unfold State.debugResume
  split <;> rfl

/-- A level that takes hold is the scope's, and beside it halted cores may resume. -/
theorem State.setLevel_frame (s : State) (scope : Nat) (level : BitVec 2) :
    { s.setLevel scope level with cores := s.cores } = s.modSecurity fun x => { x with levels := tabPut x.levels scope level } := by
  have hfold (l : List Nat) (t : State) : { l.foldl State.debugResume t with cores := t.cores } = t := by
    induction l generalizing t with
    | nil => rfl
    | cons c l ih =>
      exact (congrArg (fun x : State => { x with cores := t.cores }) (ih (t.debugResume c)) :).trans (t.debugResume_frame c)
  unfold State.setLevel
  dsimp only
  split
  · rfl
  · exact (hfold _ _ :)

theorem State.setLevel_security (s : State) (scope : Nat) (level : BitVec 2) :
    (s.setLevel scope level).security = { s.security with levels := tabPut s.security.levels scope level } :=
  (congrArg State.security (s.setLevel_frame scope level) :)

theorem State.setLevel_levelOf (s : State) (scope : Nat) (level : BitVec 2) (k : Nat) :
    (s.setLevel scope level).levelOf k = if scope = k then level else s.levelOf k := by
  rw [State.levelOf, State.setLevel_security]
  exact tabGet_tabPut _ _ _ _ _

/-! ## The end of a wipe (R366, R370) -/

/-- A raise whose wipe has ended is judged once more, and takes hold or not. -/
theorem State.afterWipe_level {u : State} {scope : Nat} {level : BitVec 2} (hw : u.security.wiping = some (.level scope level))
    (hl : u.security.wipeLeft = []) :
    u.afterWipe.security.wiping = none ∧ u.afterWipe.security.wipeLeft = [] ∧ u.afterWipe.security.dbgStatus = u.raiseCode level.toNat ∧
    u.afterWipe.levelOf scope = (if u.raiseCode level.toNat = 0 then level else u.levelOf scope) ∧ u.afterWipe.mem = u.mem ∧
    u.afterWipe.parts = u.parts ∧ u.afterWipe.sealed = u.sealed := by
  obtain ⟨v, hv⟩ : ∃ v, v = u.modSecurity fun x => { x with wiping := none, dbgPhase := 0 } := ⟨_, rfl⟩
  have hcode : v.raiseCode level.toNat = u.raiseCode level.toNat := by rw [hv]; rfl
  have ha : u.afterWipe = if u.raiseCode level.toNat != Code.ok then v.dbgStatus (u.raiseCode level.toNat)
      else (v.setLevel scope level).dbgStatus Code.ok := by
    unfold State.afterWipe
    rw [hw, hl]
    dsimp only
    rw [← hv, hcode]
  rw [ha]
  by_cases hc : u.raiseCode level.toNat = 0
  · have hne : (u.raiseCode level.toNat != Code.ok) = false := by rw [hc]; rfl
    have hframe := v.setLevel_frame scope level
    have hsec := v.setLevel_security scope level
    have hlevel := v.setLevel_levelOf scope level scope
    rw [hne, if_neg (by decide), if_pos hc, hc]
    generalize v.setLevel scope level = w at hframe hsec hlevel
    refine ⟨?_, ?_, rfl, hlevel.trans (if_pos rfl), ?_, ?_, ?_⟩
    · exact (congrArg Security.wiping hsec :).trans (by rw [hv]; rfl)
    · exact (congrArg Security.wipeLeft hsec :).trans (by rw [hv]; exact hl)
    · exact (congrArg State.mem hframe :).trans (by rw [hv]; rfl)
    · exact (congrArg State.parts hframe :).trans (by rw [hv]; rfl)
    · exact (congrArg State.sealed hframe :).trans (by rw [hv]; rfl)
  · have hne : (u.raiseCode level.toNat != Code.ok) = true := bne_iff_ne.2 hc
    rw [hne, if_pos rfl, if_neg hc, hv]
    exact ⟨rfl, hl, rfl, rfl, rfl, rfl, rfl⟩

/-- What Table 16.7 gives a raise hangs on the levels, the lifecycle state and the power states alone. -/
theorem State.raiseCode_congr {s t : State} (hl : t.security.levels = s.security.levels) (hc : t.security.lifecycle = s.security.lifecycle)
    (hp : t.power = s.power) (n : Nat) : t.raiseCode n = s.raiseCode n := by
  have hlevel (k : Nat) : t.levelOf k = s.levelOf k := congrArg (tabGet 0 · k) hl
  unfold State.raiseCode State.debugLevel
  simp only [hlevel, hc, hp]

theorem wipeComplete_level {s : State} {p : PartId} {level : BitVec 2} (hw : s.security.wiping = some (.level p.val level))
    (hl : s.security.wipeLeft = [p.val]) (he : s.wipeEnds p = true) :
    ∃ t, Gives (.wipeComplete p.val) s t ∧ t.security.wiping = none ∧ t.security.wipeLeft = [] ∧
      t.security.dbgStatus = s.raiseCode level.toNat ∧ t.levelOf p = (if s.raiseCode level.toNat = 0 then level else s.levelOf p) ∧
      ((s.part p).state = .resetting → (t.part p).state = .idle ∧ (t.part p).bound = none) ∧ (t.part p).wiping = false ∧
      (t.part p).parked = none ∧ (t.part p).key = none ∧ (t.part p).parkedKey = none ∧ (∀ i : Nat, i < 2 ^ 30 → t.sidingsByte p i = 0) ∧
      (∀ a : Nat, s.wipes p a → memGet t.mem a = 0) ∧ (∀ a : Nat, ¬ s.wipes p a → memGet t.mem a = memGet s.mem a) := by
  obtain ⟨v, hmem, hsec, hpow, hseal, hreset, hwiped⟩ := s.wiped_parts p
  obtain ⟨u, hu⟩ : ∃ u, u = s.wiped p := ⟨_, rfl⟩
  have husec : u.security = { s.security with wipeLeft := [] } := by
    rw [hu, hwiped]
    show { v.security with wipeLeft := setDel v.security.wipeLeft p } = _
    rw [hsec, hl]
    simp [setDel]
  have hupart : u.part p = { v.part p with wiping := false, key := none, parkedKey := none, parked := none } := by
    rw [hu, hwiped]
    exact State.part_modPart_same v p.val fun x => { x with wiping := false, key := none, parkedKey := none, parked := none }
  have humem : u.mem = (s.zeroedFor p).mem := by rw [hu, hwiped]; exact hmem
  have huseal : tabGet none u.sealed p = none := by rw [hu, hwiped]; exact hseal
  have hupow : u.power = s.power := by rw [hu, hwiped]; exact hpow
  have hcode := State.raiseCode_congr (s := s) (t := u) (by rw [husec]) (by rw [husec]) hupow level.toNat
  obtain ⟨h1, h2, h3, h4, h5, h6, h7⟩ := State.afterWipe_level (u := u) (by rw [husec]; exact hw) (by rw [husec])
  have hlevel : u.levelOf p = s.levelOf p := by rw [State.levelOf, husec]; rfl
  rw [hcode] at h3 h4
  rw [hlevel] at h4
  have hz := s.zeroedFor_zeroed p
  have htpart : u.afterWipe.part p = u.part p := congrArg (tabGet Part.reset · p.val) h6
  refine ⟨u.afterWipe, ?_, h1, h2, h3, h4, ?_, ?_⟩
  · show execWipeComplete p.val s = _
    unfold execWipeComplete
    rw [hw, hl, hu]
    simp [he]
  · rw [htpart, hupart]
    exact hreset
  · rw [htpart, hupart, h5, humem]
    refine ⟨rfl, rfl, rfl, rfl, fun i hi => ?_, hz.inside, hz.outside⟩
    rw [State.sidingsByte, h7, huseal]
    dsimp only
    rw [h5, humem]
    exact hz.inside _ (.inl (by omega))

/-! ## Levels, challenges and requests (R359, R364, R365) -/

/-- Lowering a level is answered at once; above the ceiling of a scope there is no challenge. -/
theorem debugAndLifecycle_requests (s : State) (scope : Fin 17) (level : BitVec 2) (p : PartId) :
    let x := s.security
    let ends (c : BitVec 8) : State := { s with security := { x with dbgStatus := c } }
    let on := s.power.state ≠ .off
    (¬ on → Gives (.dbgLevelWrite scope level) s s ∧ Gives .dbgChallenge s s ∧ Gives .dbgSubmit s s ∧ Gives .lifecycleChange s s) ∧
    (on → level.toNat ≤ (s.levelOf scope).toNat → ∃ t, Gives (.dbgLevelWrite scope level) s t ∧ t.levelOf scope = level ∧
      (∀ k : Nat, k ≠ scope.val → t.levelOf k = s.levelOf k) ∧ t.mem = s.mem ∧ t.parts = s.parts) ∧
    (x.lifecycle = .operational → (s.levelOf scope).toNat < level.toNat → Gives (.dbgLevelWrite scope level) s s) ∧
    (on → x.wiping ≠ none → Gives .dbgChallenge s (ends 1)) ∧
    (on → x.wiping = none → x.lifecycle = .operational → x.reqScope.toNat = p.val → (tabGet 0 x.maxLevels p).toNat < x.reqLevel.toNat →
      Gives .dbgChallenge s (ends 0x0F)) ∧
    (on → x.wiping = none → x.reqScope = 0xFF → ∃ t, Gives .dbgChallenge s t ∧
      t.security.chalFor = some (x.reqScope, x.reqLevel) ∧ t.security.chalEnd = ⟨s.lt.own + 60000000000, true⟩ ∧
      t.security.dbgStatus = 0 ∧ t.mem = s.mem ∧ t.parts = s.parts) ∧
    (x.chalFor ≠ none → s.comes x.chalEnd = true → ∃ t, Gives .challengeExpiry s t ∧ t.security.chalFor = none ∧ t.reached x.chalEnd = true ∧
      { t with lt := s.lt, security := x } = s) ∧
    (on → x.reqScope ≠ 0xFF → x.wiping ≠ none → Gives .dbgSubmit s (ends 1)) ∧
    (on → x.reqScope ≠ 0xFF → x.wiping = none → s.responseValid = false → Gives .dbgSubmit s (ends 0x0F)) := by
  intro x ends on
  have hwrite (t : State) (h : s.writeLevel scope level = t) : Gives (.dbgLevelWrite scope level) s t := congrArg Host.Outcome.next h
  have hsubmit (t : State) (hs : x.reqScope ≠ 0xFF) (h : s.submit = t) : Gives .dbgSubmit s t :=
    congrArg Host.Outcome.next ((if_neg hs).trans h)
  have hwiping (h : x.wiping ≠ none) : x.wiping.isSome = true := Option.isSome_iff_ne_none.2 h
  have hidle (h : x.wiping = none) : ¬ x.wiping.isSome = true := by rw [h]; decide
  refine ⟨fun hoff => ?_, fun hon hle => ?_, fun hop hlt => ?_, fun hon hw => ?_, fun hon hw hop hs hmax => ?_, fun hon hw hs => ?_,
    fun hc hcomes => ?_, fun hon hs hw => ?_, fun hon hs hw hr => ?_⟩
  · have hoff : s.power.state = .off := not_not.1 hoff
    have hsub : s.submit = s := if_pos hoff
    have hsame (b : Prop) [Decidable b] : (if b then s else s) = s := ite_self s
    refine ⟨hwrite s (if_pos hoff), congrArg Host.Outcome.next (if_pos hoff), congrArg Host.Outcome.next ?_, congrArg Host.Outcome.next ?_⟩ <;>
      rw [hsub] <;> exact hsame _
  · have hset : s.writeLevel scope level = s.setLevel scope level := by
      unfold State.writeLevel
      rw [if_neg hon, if_pos hle]
    have hframe := s.setLevel_frame scope level
    exact ⟨_, hwrite _ hset, (s.setLevel_levelOf scope level scope).trans (if_pos rfl),
      fun k hk => (s.setLevel_levelOf scope level k).trans (if_neg (Ne.symm hk)), (congrArg State.mem hframe :), (congrArg State.parts hframe :)⟩
  · refine hwrite s ?_
    unfold State.writeLevel
    rw [if_neg (Nat.not_le.2 hlt), show s.security.lifecycle = .operational from hop]
    exact ite_self s
  · exact congrArg Host.Outcome.next ((if_neg hon).trans (if_pos (hwiping hw)))
  · have hp := p.isLt
    have hne : x.reqScope ≠ 0xFF := fun h => by rw [h] at hs; simp at hs; omega
    have habove : s.aboveCeiling = true := by
      unfold State.aboveCeiling State.ceiling
      rw [show s.security.lifecycle = .operational from hop]
      dsimp only
      rw [show s.security.reqScope.toNat = p.val from hs, Bool.and_eq_true, decide_eq_true_eq, bne_iff_ne]
      exact ⟨hne, hmax⟩
    exact congrArg Host.Outcome.next ((if_neg hon).trans ((if_neg (hidle hw)).trans (if_pos habove)))
  · have habove : s.aboveCeiling = false := by
      unfold State.aboveCeiling
      dsimp only
      rw [show s.security.reqScope = 0xFF from hs]
      rfl
    refine ⟨_, congrArg Host.Outcome.next ((if_neg hon).trans ((if_neg (hidle hw)).trans (if_neg (by rw [habove]; decide)))), rfl, rfl, rfl, rfl, rfl⟩
  · have hpass := s.passTo_frame x.chalEnd
    have hcond : (s.security.chalFor.isSome && s.comes s.security.chalEnd) = true := by
      rw [hcomes, Bool.and_true]
      exact Option.isSome_iff_ne_none.2 hc
    exact ⟨_, congrArg Host.Outcome.next (if_pos hcond), rfl, s.passTo_reached x.chalEnd hcomes,
      (congrArg (fun y : State => { y with security := x }) hpass :)⟩
  · exact hsubmit _ hs ((if_neg hon).trans (if_pos (hwiping hw)))
  · refine hsubmit _ hs ((if_neg hon).trans ((if_neg (hidle hw)).trans ((if_neg hs).trans ?_)))
    unfold State.submitLevel
    rw [hr]
    exact if_pos rfl

/-- A raise with a valid response starts the wipe of its partition (R365, R366). -/
theorem debugAndLifecycle_raise {s : State} {p : PartId} (hon : s.power.state ≠ .off) (hs : s.security.reqScope.toNat = p.val)
    (hw : s.security.wiping = none) (hr : s.responseValid = true) (hop : s.security.lifecycle = .operational) (ha : s.isAbsent p = false)
    (hreq : s.security.reqLevel.toNat = 1) (hmax : (tabGet 0 s.security.maxLevels p).toNat = 1) (hd : s.debugLevel = 0) :
    ∃ t, Gives .dbgSubmit s t ∧ t.security.wiping = some (.level p.val 1) ∧ t.security.wipeLeft = [p.val] ∧ (t.part p).state = .resetting ∧
      (t.part p).wiping = true ∧ (t.part p).parked = none ∧ t.levelOf p = s.levelOf p := by
  have hp := p.isLt
  have hne : s.security.reqScope ≠ 0xFF#8 := fun h => by rw [h] at hs; simp at hs; omega
  have hstate : (s.part p).state ≠ .absent := fun h => by simp [State.isAbsent, h] at ha
  have habove : s.aboveCeiling = false := by
    unfold State.aboveCeiling State.ceiling
    rw [hop]
    dsimp only
    rw [hs, hmax, hreq]
    simp
  have hcode : s.raiseCode s.security.reqLevel.toNat = Code.ok := by
    unfold State.raiseCode combination
    rw [hd, hop, hreq]
    rfl
  have habsent : s.absentScope s.security.reqScope.toNat = false := by
    unfold State.absentScope
    rw [hs, ha, Bool.and_false]
  have hlevel : s.security.reqLevel.setWidth 2 = 1#2 := by
    apply BitVec.eq_of_toNat_eq
    rw [BitVec.toNat_setWidth, hreq]
    rfl
  have hstart : s.submit = s.startWipe [p.val] (.level p.val 1) := by
    unfold State.submit State.submitLevel
    rw [if_neg hon, hw, if_neg (by decide), if_neg hne]
    dsimp only
    rw [hr, habove, habsent, hcode, hreq, hs, if_neg (by decide), if_neg (by decide), if_neg (by decide), if_pos hp, hlevel]
    rfl
  obtain ⟨hsec, hst, hwipe, hparked⟩ := State.beginWipe_resetting hstate
  refine ⟨s.startWipe [p.val] (.level p.val 1), congrArg Host.Outcome.next ((if_neg hne).trans hstart), rfl, rfl, hst, hwipe, hparked, ?_⟩
  exact (congrArg (fun x : Security => tabGet 0 x.levels p.val) hsec :)

end Sys2Proof.Machine

/-!
O56: lifecycle changes, the wipe of a partition, and a probe's halt, resume and single step.
-/
namespace Sys2Proof.Machine

/-! ## Lifecycle changes (R359, R360) -/

/-- Capping the levels of a list of scopes at D0 changes no more than levels, and leaves those of the list at D0. -/
theorem State.capLevels_fold (l : List Nat) (s : State) :
    let t := l.foldl (fun s k => if (0 : BitVec 2).toNat < (s.levelOf k).toNat then s.setLevel k 0 else s) s
    { t with cores := s.cores, security := s.security } = s ∧ { t.security with levels := s.security.levels } = s.security ∧
    ∀ k, t.levelOf k = if k ∈ l then 0 else s.levelOf k := by
  induction l generalizing s with
  | nil => exact ⟨rfl, rfl, fun k => by simp⟩
  | cons j l ih =>
    obtain ⟨u, hu⟩ : ∃ u, u = if (0 : BitVec 2).toNat < (s.levelOf j).toNat then s.setLevel j 0 else s := ⟨_, rfl⟩
    have hstep : { u with cores := s.cores, security := s.security } = s ∧ { u.security with levels := s.security.levels } = s.security ∧
        ∀ k, u.levelOf k = if j = k then 0 else s.levelOf k := by
      rw [hu]
      split
      · refine ⟨?_, ?_, s.setLevel_levelOf j 0⟩
        · exact (congrArg (fun x : State => { x with security := s.security }) (s.setLevel_frame j 0) :)
        · rw [s.setLevel_security]
      · rename_i h
        refine ⟨rfl, rfl, fun k => ?_⟩
        split
        · rename_i hk
          rw [← hk]
          exact BitVec.eq_of_toNat_eq (Nat.le_zero.1 (Nat.not_lt.1 h))
        · rfl
    obtain ⟨hframe, hsec, hlevel⟩ := hstep
    obtain ⟨iframe, isec, ilevel⟩ := ih u
    rw [List.foldl_cons, ← hu]
    refine ⟨(congrArg (fun x : State => { x with cores := s.cores, security := s.security }) iframe :).trans hframe,
      (congrArg (fun x : Security => { x with levels := s.security.levels }) isec :).trans hsec, fun k => ?_⟩
    rw [ilevel, hlevel]
    by_cases hj : j = k <;> by_cases hk : k ∈ l <;> simp [hj, hk, Ne.symm]

theorem State.capLevels_zero (s : State) :
    { s.capLevels 0 with cores := s.cores, security := s.security } = s ∧
    { (s.capLevels 0).security with levels := s.security.levels } = s.security ∧ ∀ k < 17, (s.capLevels 0).levelOf k = 0 := by
  obtain ⟨hframe, hsec, hlevel⟩ := State.capLevels_fold (List.range 17) s
  rw [State.capLevels]
  exact ⟨hframe, hsec, fun k hk => (hlevel k).trans (if_pos (List.mem_range.2 hk))⟩

/-- A device that enters Operational from Provisioned: the levels are D0, and the keys stay (Table 16.2). -/
theorem State.enterLifecycle_operational {s : State} (h : s.security.lifecycle = .provisioned) : ∃ t, s.enterLifecycle .operational = t ∧
    t.security.lifecycle = .operational ∧ t.security.keys = s.security.keys ∧ t.mem = s.mem ∧ t.parts = s.parts ∧
    ∀ k : Nat, k < 17 → t.levelOf k = 0 := by
  obtain ⟨u, hl, hk, hm, hp, hu⟩ : ∃ u : State, u.security.lifecycle = .operational ∧ u.security.keys = s.security.keys ∧ u.mem = s.mem ∧
      u.parts = s.parts ∧ s.enterLifecycle .operational = u.capLevels 0 := by
    refine ⟨s.modSecurity fun x => { x with lifecycle := .operational, chalFor := none, dbgPhase := 0, dbgStatus := Code.ok },
      rfl, rfl, rfl, rfl, ?_⟩
    unfold State.enterLifecycle
    rw [h]
    rfl
  obtain ⟨hframe, hsec, hlevel⟩ := u.capLevels_zero
  generalize u.capLevels 0 = v at hu hframe hsec hlevel
  exact ⟨v, hu, (congrArg Security.lifecycle hsec :).trans hl, (congrArg Security.keys hsec :).trans hk, (congrArg State.mem hframe :).trans hm,
    (congrArg State.parts hframe :).trans hp, hlevel⟩

theorem debugAndLifecycle_lifecycle (s : State) :
    let x := s.security
    let ends (c : BitVec 8) : State := { s with security := { x with dbgStatus := c } }
    let on := s.power.state ≠ .off
    (x.reqScope ≠ 0xFF → Gives .lifecycleChange s s) ∧
    (on → x.reqScope = 0xFF → x.wiping = none → x.lifecycle = .provisioned → x.reqLevel = 2 → ∃ t, Gives .lifecycleChange s t ∧
      t.security.lifecycle = .operational ∧ t.security.keys = x.keys ∧ t.mem = s.mem ∧ t.parts = s.parts ∧
      ∀ k : Nat, k < 17 → t.levelOf k = 0) ∧
    (on → x.reqScope = 0xFF → x.wiping = none → x.lifecycle = .blank → x.reqLevel = 2 → Gives .lifecycleChange s (ends 1)) ∧
    (on → x.reqScope = 0xFF → x.wiping = none → x.lifecycle = .operational → x.reqLevel = 4 → s.responseValid = false →
      Gives .lifecycleChange s (ends 0x0F)) := by
  intro x ends on
  have hsubmit (hon : on) (hs : x.reqScope = 0xFF) (hw : x.wiping = none) : Gives .lifecycleChange s s.submitLifecycle := by
    refine congrArg Host.Outcome.next ((if_pos hs).trans ((if_neg hon).trans ((if_neg ?_).trans (if_pos hs))))
    rw [show s.security.wiping = none from hw]
    decide
  refine ⟨fun hs => congrArg Host.Outcome.next (if_neg hs), fun hon hs hw hl hr => ?_, fun hon hs hw hl hr => ?_, fun hon hs hw hl hr hv => ?_⟩
  · obtain ⟨t, ht, hfacts⟩ := State.enterLifecycle_operational hl
    refine ⟨t, (hsubmit hon hs hw).trans (congrArg Host.Outcome.next (.trans ?_ ht)), hfacts⟩
    unfold State.submitLifecycle
    dsimp only
    rw [show s.security.lifecycle = .provisioned from hl, show s.security.reqLevel = 2 from hr]
    rfl
  · refine (hsubmit hon hs hw).trans (congrArg Host.Outcome.next ?_)
    unfold State.submitLifecycle
    dsimp only
    rw [show s.security.lifecycle = .blank from hl, show s.security.reqLevel = 2 from hr]
    rfl
  · refine (hsubmit hon hs hw).trans (congrArg Host.Outcome.next ?_)
    unfold State.submitLifecycle
    dsimp only
    rw [show s.security.lifecycle = .operational from hl, show s.security.reqLevel = 4 from hr]
    show s.wipeInto .retired true = _
    unfold State.wipeInto
    rw [hv]
    rfl

/-! ## The wipe of a partition (R366) -/

theorem wipeComplete_idle {s : State} (p : Nat) (h : s.security.wiping = none) : Gives (.wipeComplete p) s s :=
  congrArg Host.Outcome.next (if_neg (by rw [h]; decide))

theorem debugAndLifecycle_wipe {s : State} {p : PartId} {level : BitVec 2} (hw : s.security.wiping = some (.level p.val level))
    (hl : s.security.wipeLeft = [p.val]) :
    (s.wipeEnds p = true → (s.part p).state = .absent → s.consist.grants = [] → ∃ t, Gives (.wipeComplete p.val) s t ∧
      t.security.wiping = none ∧ t.security.dbgStatus = s.raiseCode level.toNat ∧
      t.levelOf p = (if s.raiseCode level.toNat = 0 then level else s.levelOf p) ∧
      (t.part p).key = none ∧ (t.part p).parkedKey = none ∧ (∀ i : Nat, i < 2 ^ 30 → t.sidingsByte p i = 0) ∧
      (∀ a : Nat, memGet t.mem a = if 0x02DC00000000 + p.val * 2 ^ 30 ≤ a ∧ a < 0x02DC00000000 + (p.val + 1) * 2 ^ 30 then 0
        else memGet s.mem a)) ∧
    ((s.part p).state = .resetting → (s.part p).wiping = true → s.resetDone p = true →
      let zeroed (a : Nat) : Prop := (0x02DC00000000 + p.val * 2 ^ 30 ≤ a ∧ a < 0x02DC00000000 + (p.val + 1) * 2 ^ 30) ∨
        ∃ g ∈ s.consist.grants, g.part = p.val ∧ (inNear g.base = true ∨ inScratch g.base = true) ∧ g.base ≤ a ∧
          a < g.base + g.units * 2 ^ 21 ∧ (inScratch g.base = true → s.sliceFenced (g.base + (a - g.base) / 2 ^ 21 * 2 ^ 21) = false)
      ∃ t, Gives (.wipeComplete p.val) s t ∧ t.security.wiping = none ∧ t.security.wipeLeft = [] ∧
        t.security.dbgStatus = s.raiseCode level.toNat ∧ t.levelOf p = (if s.raiseCode level.toNat = 0 then level else s.levelOf p) ∧
        (t.part p).state = .idle ∧ (t.part p).wiping = false ∧ (t.part p).bound = none ∧ (t.part p).parked = none ∧
        (t.part p).key = none ∧ (t.part p).parkedKey = none ∧ (∀ i : Nat, i < 2 ^ 30 → t.sidingsByte p i = 0) ∧
        (∀ a : Nat, zeroed a → memGet t.mem a = 0) ∧ (∀ a : Nat, ¬ zeroed a → memGet t.mem a = memGet s.mem a)) := by
  have hsidings (a : Nat) : (sidings p ≤ a ∧ a < sidings p + 0x40000000) ↔
      (0x02DC00000000 + p.val * 2 ^ 30 ≤ a ∧ a < 0x02DC00000000 + (p.val + 1) * 2 ^ 30) := by
    unfold sidings
    omega
  refine ⟨fun he _ hg => ?_, fun hs _ hd => ?_⟩
  · obtain ⟨t, hgives, h1, -, h3, h4, -, -, -, hkey, hpkey, hbytes, hin, hout⟩ := wipeComplete_level hw hl he
    refine ⟨t, hgives, h1, h3, h4, hkey, hpkey, hbytes, fun a => ?_⟩
    have hwipes : s.wipes p a ↔ (sidings p ≤ a ∧ a < sidings p + 0x40000000) := by simp [State.wipes, hg]
    rw [hsidings] at hwipes
    split
    · rename_i h
      exact hin a (hwipes.2 h)
    · rename_i h
      exact hout a fun hz => h (hwipes.1 hz)
  · intro zeroed
    have he : s.wipeEnds p = true := by rw [State.wipeEnds, hd, Bool.or_true]
    obtain ⟨t, hgives, h1, h2, h3, h4, hreset, hwiping, hparked, hkey, hpkey, hbytes, hin, hout⟩ := wipeComplete_level hw hl he
    have hwipes (a : Nat) : s.wipes p a ↔ zeroed a := or_congr (hsidings a) Iff.rfl
    exact ⟨t, hgives, h1, h2, h3, h4, (hreset hs).1, hwiping, (hreset hs).2, hparked, hkey, hpkey, hbytes,
      fun a ha => hin a ((hwipes a).2 ha), fun a ha => hout a fun hz => ha ((hwipes a).1 hz)⟩

/-! ## A probe's control of a core (R55, R364) -/

theorem tabPut_tabPut {α : Type} (t : Tab α) (n : Nat) (v w : α) : tabPut (tabPut t n v) n w = tabPut t n w := by
  induction t with
  | nil => simp [tabPut]
  | cons x t ih =>
    obtain ⟨k, y⟩ := x
    by_cases hk : k = n
    · simp [tabPut, hk]
    · by_cases hn : n < k
      · simp [tabPut, hk, hn]
      · simp [tabPut, hk, hn, ih]

theorem State.setCore_setCore (s : State) (c : Nat) (k l : Core) : (s.setCore c k).setCore c l = s.setCore c l :=
  congrArg (fun t : Tab Core => { s with cores := t }) (tabPut_tabPut s.cores c k l)

theorem exec_debugHalt {s : State} {c : CoreId} (hd : s.underD3 c = true) (hh : (s.core c).halted = false) (hk : (s.core c).kernel ≠ none)
    (hr : (s.core c).run = .running) (hq : (s.core c).tmq = []) :
    Gives (.debugHalt c) s (s.setCore c { s.core c with halted := true, run := .debugHalt }) := by
  have hint : s.interruptCore c = s.setCore c { s.core c with halted := true } := by
    unfold State.interruptCore
    dsimp only
    rw [State.modCore, State.core_setCore_same]
    show List.foldl _ _ (s.core c).tmq = _
    rw [hq]
    rfl
  refine congrArg Host.Outcome.next ((if_pos ?_).trans ?_)
  · rw [hd, hh, hr, Option.isSome_iff_ne_none.2 hk]
    rfl
  · rw [hint, State.modCore, State.core_setCore_same, State.setCore_setCore]

/-- A core that a probe has halted, and that has issued a scalar instruction in a single step, is halted as it was. -/
theorem Core.haltedAgain_setReg {k : Core} (hh : k.halted = true) (hr : k.run = .debugHalt) (hk : k.kernel ≠ none) (d : SReg) (v : Word) :
    (({ k with halted := false, run := .running } : Core).pop.setReg d v).haltedAgain =
      { k with cycles := k.cycles + 1, platform := k.platform.drop 1 }.setReg d v := by
  have hsome : k.kernel.isNone = false := by rw [Option.isNone_eq_false_iff]; exact Option.isSome_iff_ne_none.2 hk
  have hagain (l : Core) (hl : l.kernel = k.kernel) (hrun : l.run = .running) : l.haltedAgain = { l with halted := k.halted, run := k.run } := by
    unfold Core.haltedAgain
    rw [hl, hsome, hrun, hh, hr]
    rfl
  by_cases hd : d = 0
  · rw [show ∀ l : Core, l.setReg d v = l from fun l => if_pos hd, show ∀ l : Core, l.setReg d v = l from fun l => if_pos hd]
    exact (hagain _ (by rfl) (by rfl)).trans rfl
  · rw [Core.setReg_of_ne_zero _ _ hd, Core.setReg_of_ne_zero _ _ hd]
    exact (hagain _ (by rfl) (by rfl)).trans rfl

/-- A single step of a core that a probe has halted is one attempt of its sequencer, after which it is halted again. -/
theorem exec_debugSingleStep_alu {s : State} {c : CoreId} {d a b : SReg} {n : Nat} (hd : s.underD3 c = true) (hp : s.probeHalted c = true)
    (hr : (s.core c).run = .debugHalt) (hf : (s.core c).fault.valid = false) (hk : (s.core c).kernel ≠ none) (ha : (s.core c).aborting = false)
    (hb : (s.core c).seqBusy = false) (hplat : (s.core c).platform.head? = some ⟨n, ⟨{ pred := 0, neg := false }, .alu .add d a b⟩⟩)
    (hpend : (s.core c).pendS = []) :
    ∃ t, Gives (.debugSingleStep c ⟨{ pred := 0, neg := false }, .alu .add d a b⟩) s t ∧
      t.core c = { s.core c with cycles := (s.core c).cycles + 1, platform := (s.core c).platform.drop 1 }.setReg d ((s.core c).reg a + (s.core c).reg b) ∧
      { t with cores := s.cores } = s := by
  obtain ⟨u, hu⟩ : ∃ u, u = s.setCore c { s.core c with halted := false, run := .running } := ⟨_, rfl⟩
  have hcore : u.core c = { s.core c with halted := false, run := .running } := by rw [hu, State.core_setCore_same]
  have hworks : (s.core c).works = true := by
    rw [State.underD3, Bool.and_eq_true] at hd
    exact hd.1
  have hhalted : (s.core c).halted = true := by
    simp only [State.probeHalted, Bool.and_eq_true] at hp
    exact hp.1.1.2
  have hissues : Issues u c ⟨{ pred := 0, neg := false }, .alu .add d a b⟩ n := by
    unfold Issues AtHead
    rw [hcore]
    refine ⟨⟨rfl, ?_, hb, hplat⟩, rfl, ?_⟩
    · show ((s.core c).works && true && true && !(s.core c).aborting && (s.core c).kernel.isSome) = true
      rw [hworks, ha, Option.isSome_iff_ne_none.2 hk]
      rfl
    · unfold Core.heldBy
      rw [if_neg]
      · rfl
      · rw [Core.touchesPending_iff]
        rintro ⟨r, -, hr⟩
        exact List.not_mem_nil (hpend ▸ hr)
  have hstep : stepOp c { pred := 0, neg := false } (.alu .add d a b) u =
      .next (u.modCore c fun k => k.pop.setReg d (k.reg a + k.reg b)) :=
    State.attempt_issues (fun _ => u.modCore c fun k => k.pop.setReg d (aluOp .add (k.reg a) (k.reg b))) hissues
  refine ⟨(u.modCore c fun k => k.pop.setReg d (k.reg a + k.reg b)).modCore c Core.haltedAgain, ?_, ?_, ?_⟩
  · show execDebugSingleStep c _ s = _
    unfold execDebugSingleStep
    dsimp only
    rw [if_neg (by rw [hd, hp, hr, hf]; decide), ← hu, hstep]
  · rw [State.core_modCore_same, State.core_modCore_same, hcore]
    exact Core.haltedAgain_setReg hhalted hr hk d _
  · rw [hu]
    rfl

theorem debugAndLifecycle_probe (s : State) (c : CoreId) (d a b : SReg) (n : Nat) :
    let k := s.core c
    let i : GOp := ⟨{ pred := 0, neg := false }, .alu .add d a b⟩
    (s.underD3 c = true → k.halted = false → k.kernel ≠ none → k.run = .running → k.tmq = [] →
      Gives (.debugHalt c) s (s.setCore c { k with halted := true, run := .debugHalt })) ∧
    (s.underD3 c = true → s.probeHalted c = true →
      Gives (.debugResume c) s (s.setCore c { k with halted := false, run := if k.fault.valid then .faulted else .running })) ∧
    (s.underD3 c = true → s.probeHalted c = true → k.run = .debugHalt → k.fault.valid = false → k.kernel ≠ none → k.aborting = false →
      k.seqBusy = false → k.platform.head? = some ⟨n, i⟩ → k.pendS = [] →
      ∃ t, Gives (.debugSingleStep c i) s t ∧ t.core c = { k with cycles := k.cycles + 1, platform := k.platform.drop 1 }.setReg d (k.reg a + k.reg b) ∧
        { t with cores := s.cores } = s) ∧
    (s.underD3 c = false → Gives (.debugHalt c) s s ∧ Gives (.debugResume c) s s ∧ Gives (.debugSingleStep c i) s s) := by
  intro k i
  refine ⟨exec_debugHalt, fun hd hp => congrArg Host.Outcome.next ((if_pos hd).trans (if_pos hp)), exec_debugSingleStep_alu, fun hd => ?_⟩
  refine ⟨congrArg Host.Outcome.next (if_neg ?_), congrArg Host.Outcome.next (if_neg ?_), if_pos ?_⟩
  · rw [hd]
    simp
  · rw [hd]
    decide
  · rw [hd]
    rfl

/-- Settles O56: levels, challenges, wipes, lifecycle changes and a probe's control of cores. -/
theorem debugAndLifecycle : Obligations.DebugAndLifecycle := by
  unfold Obligations.DebugAndLifecycle
  refine ⟨fun s scope level p => ?_, fun s c d a b n => debugAndLifecycle_probe s c d a b n⟩
  obtain ⟨h1, h2, h3, h4, h5, h6, h7, h8, h9⟩ := debugAndLifecycle_requests s scope level p
  obtain ⟨l1, l2, l3, l4⟩ := debugAndLifecycle_lifecycle s
  exact ⟨h1, h2, h3, h4, h5, h6, h7, h8, h9, fun hon hs hw hr hop ha hreq hmax hd => debugAndLifecycle_raise hon hs hw hr hop ha hreq hmax hd,
    fun hw hl => (debugAndLifecycle_wipe hw hl).1, fun hw hl => (debugAndLifecycle_wipe hw hl).2, wipeComplete_idle p, l1, l2, l3, l4⟩

end Sys2Proof.Machine

/-!
The results of the matrix array (O17): what a row of results leaves in the accumulators and the term counts, and what the rows of a step do.
-/
namespace Sys2Proof.Machine

/-! ## Accumulators and term counts (R75, R76) -/

theorem MxState.accAt_setAcc (m : MxState) (row v r : Nat) (x : F32) (c : Nat) (hv : v < 512) (hc : c < 512) :
    (m.setAcc row v x).accAt r c = if r = row ∧ c = v then x else m.accAt r c := by
  rw [MxState.accAt, MxState.setAcc, tabGet_tabSet]
  exact if_congr (by omega) rfl rfl

theorem MxState.termsAt_setTerms (m : MxState) (row q r : Nat) (x : BitVec 20) (p : Nat) (hq : q < 4) (hp : p < 4) :
    (m.setTerms row q x).termsAt r p = if r = row ∧ p = q then x else m.termsAt r p := by
  rw [MxState.termsAt, MxState.setTerms, tabGet_tabSet]
  exact if_congr (by omega) rfl rfl

theorem mem_quartersOf (col n q : Nat) : q ∈ quartersOf col n ↔ q < 4 ∧ col < 128 * q + 128 ∧ 128 * q < col + n := by
  simp [quartersOf]

/-- The term count of a row's quarter after results of the row, each worth `n` terms (R76). -/
def Core.countAfter (k : Core) (add : Bool) (n row q : Nat) : BitVec 20 :=
  if add then addTerms (k.mx.termsAt row q) n else BitVec.ofNat 20 n

/-- The accumulator after a result `v` of a row at a column (R60, R76, R97). -/
def Core.sumAfter (k : Core) (add : Bool) (n row c : Nat) (v : F32) : F32 :=
  let t := k.countAfter add n row (c / 128)
  if add then accAdd (if k.mx.stochastic t then .stoch (rng k.mx.seed k.mx.step 0 k.key row c t.toNat) else .nearest) (k.mx.accAt row c) v else v

/-- The core with other accumulators and term counts. -/
def Core.withSums (k z : Core) : Core := { k with mx := { k.mx with acc := z.mx.acc, terms := z.mx.terms } }

/-- From `k` to `z` results, `v row column`, have been written at `w` columns of the rows, each worth `n` terms, and nothing else
has changed (R60, R76, R97). -/
structure Core.Wrote (k z : Core) (rows : List Nat) (col w : Nat) (add : Bool) (n : Nat) (v : Nat → Nat → F32) : Prop where
  frame : z = k.withSums z
  accs : ∀ r c, c < 512 → z.mx.accAt r c =
    if r ∈ rows ∧ col ≤ c ∧ c < col + w then k.sumAfter add n r c (v r c) else k.mx.accAt r c
  terms : ∀ r p, p < 4 → z.mx.termsAt r p =
    if r ∈ rows ∧ col < 128 * p + 128 ∧ 128 * p < col + w then k.countAfter add n r p else k.mx.termsAt r p

theorem setTerms_fold_frame (row : Nat) (count : Nat → BitVec 20) (qs : List Nat) (m : MxState) :
    let z := qs.foldl (fun x q => x.setTerms row q (count q)) m
    z = { m with terms := z.terms } := by
  induction qs generalizing m with
  | nil => rfl
  | cons q qs ih => exact ih _

theorem termsAt_setTerms_fold (row : Nat) (count : Nat → BitVec 20) (qs : List Nat) (hq : ∀ q ∈ qs, q < 4) (m : MxState) (r : Nat) {p : Nat}
    (hp : p < 4) :
    (qs.foldl (fun x q => x.setTerms row q (count q)) m).termsAt r p = if r = row ∧ p ∈ qs then count p else m.termsAt r p := by
  induction qs generalizing m with
  | nil => simp
  | cons q qs ih =>
    rw [List.foldl_cons, ih fun a h => hq a (List.mem_cons_of_mem _ h), MxState.termsAt_setTerms _ _ _ _ _ _ (hq q List.mem_cons_self) hp]
    by_cases hr : r = row <;> by_cases hpq : p = q <;> by_cases hm : p ∈ qs <;> simp [hr, hpq, hm]

theorem setAcc_fold_frame (row : Nat) (f : Nat → F32) (cs : List Nat) (m : MxState) :
    let z := cs.foldl (fun x c => x.setAcc row c (f c)) m
    z = { m with acc := z.acc } := by
  induction cs generalizing m with
  | nil => rfl
  | cons c cs ih => exact ih _

theorem accAt_setAcc_fold (row : Nat) (f : Nat → F32) (cs : List Nat) (hi : ∀ c ∈ cs, c < 512) (m : MxState) (r : Nat) {c : Nat}
    (hc : c < 512) : (cs.foldl (fun x c => x.setAcc row c (f c)) m).accAt r c = if r = row ∧ c ∈ cs then f c else m.accAt r c := by
  induction cs generalizing m with
  | nil => simp
  | cons i cs ih =>
    rw [List.foldl_cons, ih fun a h => hi a (List.mem_cons_of_mem _ h), MxState.accAt_setAcc _ _ _ _ _ _ (hi i List.mem_cons_self) hc]
    by_cases hr : r = row <;> by_cases hpq : c = i <;> by_cases hm : c ∈ cs <;> simp [hr, hpq, hm]

/-- The accumulators after a fold depend on those before it alone. -/
theorem acc_setAcc_fold (row : Nat) (f : Nat → F32) (cs : List Nat) (m : MxState) :
    (cs.foldl (fun x c => x.setAcc row c (f c)) m).acc = cs.foldl (fun t c => tabSet f32Zero t (512 * row + c) (f c)) m.acc := by
  induction cs generalizing m with
  | nil => rfl
  | cons c cs ih => exact ih _

/-- accRow with its two folds over the quarters and the columns themselves. -/
theorem Core.accRow_eq (k : Core) (row col : Nat) (vs : List F32) (add : Bool) (n : Nat) :
    k.accRow row col vs add n = { k with
      mx := (List.range' col vs.length).foldl (fun x c => x.setAcc row c (k.sumAfter add n row c (vs.getD (c - col) 0)))
        ((quartersOf col vs.length).foldl (fun x q => x.setTerms row q (k.countAfter add n row q)) k.mx) } := by
  have hzip : (List.range vs.length).zip vs = (List.range vs.length).map fun i => (i, vs.getD i 0) := by
    refine List.ext_getElem (by simp) fun i _ h => ?_
    simp [List.getElem?_eq_getElem (show i < vs.length by simpa using h)]
  rw [List.range'_eq_map_range, List.foldl_map]
  simp only [Nat.add_sub_cancel_left]
  unfold Core.accRow
  dsimp only
  rw [hzip, List.foldl_map]
  rfl

/-- A row of results changes accumulators and term counts, and nothing else. -/
theorem Core.accRow_frame (k : Core) (row col : Nat) (vs : List F32) (add : Bool) (n : Nat) :
    k.accRow row col vs add n = k.withSums (k.accRow row col vs add n) := by
  rw [Core.accRow_eq]
  unfold Core.withSums
  dsimp only
  rw [setAcc_fold_frame row, setTerms_fold_frame row]

/-- Results that replace the accumulators come out alike wherever those were alike (R60). -/
theorem Core.accRow_set_acc {k l : Core} (h : l.mx.acc = k.mx.acc) (row col : Nat) (vs : List F32) (n : Nat) :
    (l.accRow row col vs false n).mx.acc = (k.accRow row col vs false n).mx.acc := by
  have acc (k : Core) : (k.accRow row col vs false n).mx.acc = (List.range' col vs.length).foldl
      (fun t c => tabSet f32Zero t (512 * row + c) (vs.getD (c - col) 0)) k.mx.acc := by
    rw [Core.accRow_eq]
    dsimp only
    rw [acc_setAcc_fold, setTerms_fold_frame row]
    rfl
  rw [acc, acc, h]

/-- A row of results reaches the accumulators of its columns, and counts in the quarters that these meet (R60, R76, R77). -/
theorem Core.accRow_wrote (k : Core) (row col : Nat) (vs : List F32) (add : Bool) (n : Nat) (hcol : col + vs.length ≤ 512) :
    k.Wrote (k.accRow row col vs add n) [row] col vs.length add n fun _ c => vs.getD (c - col) 0 := by
  refine ⟨k.accRow_frame row col vs add n, fun r c hc => ?_, fun r p hp => ?_⟩
  · have hcols : ∀ c ∈ List.range' col vs.length, c < 512 := fun c h => by
      have := List.mem_range'_1.1 h
      omega
    rw [Core.accRow_eq]
    dsimp only
    rw [accAt_setAcc_fold row _ _ hcols _ r hc, setTerms_fold_frame row]
    by_cases h : r = row <;> simp [h, MxState.accAt]
  · rw [Core.accRow_eq]
    dsimp only
    rw [setAcc_fold_frame row]
    refine (termsAt_setTerms_fold row _ _ (fun q h => ((mem_quartersOf ..).1 h).1) k.mx r hp).trans ?_
    by_cases h : r = row <;> simp [h, mem_quartersOf, hp]

/-- A row that has not been written counts and rounds as before. -/
theorem Core.Wrote.untouched {k z : Core} {rows : List Nat} {col w : Nat} {add : Bool} {n : Nat} {v : Nat → Nat → F32}
    (h : k.Wrote z rows col w add n v) {r : Nat} (hr : r ∉ rows) :
    (∀ p, p < 4 → z.countAfter add n r p = k.countAfter add n r p) ∧
    ∀ c x, c < 512 → z.sumAfter add n r c x = k.sumAfter add n r c x := by
  have terms (p : Nat) (hp : p < 4) : z.mx.termsAt r p = k.mx.termsAt r p := (h.terms r p hp).trans (if_neg fun h => hr h.1)
  have count (p : Nat) (hp : p < 4) : z.countAfter add n r p = k.countAfter add n r p := by
    rw [Core.countAfter, Core.countAfter, terms p hp]
  refine ⟨count, fun c x hc => ?_⟩
  have acc : z.mx.accAt r c = k.mx.accAt r c := (h.accs r c hc).trans (if_neg fun h => hr h.1)
  rw [Core.sumAfter, Core.sumAfter, count _ (by omega), acc, h.frame]
  rfl

/-- Results of other rows written after the first ones. -/
theorem Core.Wrote.append {k y z : Core} {rows rows' : List Nat} {col w : Nat} {add : Bool} {n : Nat} {v : Nat → Nat → F32}
    (h : k.Wrote y rows col w add n v) (h' : y.Wrote z rows' col w add n v) (hd : ∀ r ∈ rows', r ∉ rows) :
    k.Wrote z (rows ++ rows') col w add n v := by
  refine ⟨h'.frame.trans ((congrArg (·.withSums z) h.frame).trans rfl), fun r c hc => ?_, fun r p hp => ?_⟩
  · rw [h'.accs r c hc, h.accs r c hc]
    by_cases hr : r ∈ rows'
    · simp [hr, hd r hr, (h.untouched (hd r hr)).2 c _ hc]
    · simp [hr]
  · rw [h'.terms r p hp, h.terms r p hp]
    by_cases hr : r ∈ rows'
    · simp [hr, hd r hr, (h.untouched (hd r hr)).1 p hp]
    · simp [hr]

/-- The results matter where they are written. -/
theorem Core.Wrote.congr {k z : Core} {rows : List Nat} {col w : Nat} {add : Bool} {n : Nat} {v v' : Nat → Nat → F32}
    (h : k.Wrote z rows col w add n v) (hv : ∀ r c, r ∈ rows → col ≤ c → c < col + w → v r c = v' r c) :
    k.Wrote z rows col w add n v' := by
  refine ⟨h.frame, fun r c hc => (h.accs r c hc).trans ?_, h.terms⟩
  split
  · rename_i hw
    rw [hv r c hw.1 hw.2.1 hw.2.2]
  · rfl

/-- Rows of results that go to rows of their own (R60, R76, R77). -/
theorem Core.accRows_wrote {base col w : Nat} {x : Nat → List F32} (add : Bool) (n : Nat) (hx : ∀ i, (x i).length = w) (hcol : col + w ≤ 512)
    {rows : List Nat} (hn : rows.Nodup) (k : Core) :
    k.Wrote (rows.foldl (fun z i => z.accRow (base + i) col (x i) add n) k) (rows.map (base + ·)) col w add n
      fun r c => (x (r - base)).getD (c - col) 0 := by
  induction rows generalizing k with
  | nil => exact ⟨rfl, fun r c _ => by simp, fun r p _ => by simp⟩
  | cons i rows ih =>
    obtain ⟨hi, hn⟩ := List.nodup_cons.1 hn
    have first := k.accRow_wrote (base + i) col (x i) add n (by rw [hx]; exact hcol)
    rw [hx] at first
    refine (first.congr fun r c hr _ _ => ?_).append (ih hn _) fun r hr hr' => ?_
    · rw [List.mem_singleton.1 hr, Nat.add_sub_cancel_left]
    · obtain ⟨j, hj, rfl⟩ := List.mem_map.1 hr
      exact hi (by rwa [Nat.add_left_cancel (List.mem_singleton.1 hr')] at hj)

theorem stepRows_nodup (f4 : Bool) (total i : Nat) : (stepRows f4 total i).Nodup := by
  unfold stepRows
  split
  · split <;> simp
  · simp

/-- The rows of a step are one, or in F4 two in a row while the second exists (R62). -/
theorem mem_stepRows (cls total i row : Nat) : row ∈ stepRows (cls == 1) total i ↔
    (if cls = 1 then 2 * i else i) ≤ row ∧ row ≤ if cls = 1 ∧ 2 * i + 1 < total then 2 * i + 1 else if cls = 1 then 2 * i else i := by
  unfold stepRows
  by_cases hc : cls = 1 <;> by_cases ht : 2 * i + 1 < total <;> simp [hc, ht] <;> omega

theorem addTerms_toNat (t : BitVec 20) (n : Nat) : (addTerms t n).toNat = min (t.toNat + n) 0xFFFFF := by
  rw [addTerms, BitVec.toNat_ofNat]
  exact Nat.mod_eq_of_lt (by omega)

/-- The term count after a result, as a number (R76). -/
theorem Core.countAfter_toNat (k : Core) (add : Bool) {n : Nat} (hn : n < 2 ^ 20) (row q : Nat) :
    (k.countAfter add n row q).toNat = if add then min ((k.mx.termsAt row q).toNat + n) 0xFFFFF else n := by
  unfold Core.countAfter
  split
  · exact addTerms_toNat _ n
  · exact (BitVec.toNat_ofNat n 20).trans (Nat.mod_eq_of_lt hn)

/-- The dot product of a row of A with a column of B (R59, R65, R70). -/
theorem Core.dotRow_getD (k : Core) (a b : TReg) (cls : Nat) (tp : Bool) (split : Option Nat) (i : Nat) {cols n : Nat} (hn : n < cols) :
    (k.dotRow a b cls tp split i cols).getD n 0 = dot ((List.range 128).map fun j => (k.aElem a i j, k.bElem b cls tp split j n)) := by
  rw [Core.dotRow, List.getD_eq_getElem _ _ (by simpa using hn), List.getElem_map, List.getElem_range, List.zip_map_right, List.map_map,
    List.map_zip_eq_zipWith, List.zipWith_self]
  rfl

/-- What a step leaves, row by row and column by column, when its results are written. -/
theorem Core.Wrote.step {k z : Core} {cls total i base col w n : Nat} {add : Bool} {x : Nat → Nat → F32} (hn : n < 2 ^ 20)
    (h : k.Wrote z ((stepRows (cls == 1) total i).map (base + ·)) col w add n fun r c => x (r - base) (c - col)) :
    let first := if cls = 1 then 2 * i else i
    let last := if cls = 1 ∧ 2 * i + 1 < total then first + 1 else first
    let terms (row p : Nat) : Nat := if add then min ((k.mx.termsAt row p).toNat + n) 0xFFFFF else n
    let rnd (row c : Nat) : Rnd :=
      let t := terms row (c / 128)
      if k.mx.stochastic (BitVec.ofNat 20 t) then .stoch (rng k.mx.seed k.mx.step 0 k.key row c t) else .nearest
    (∀ row c : Nat, c < 512 → z.mx.accAt row c =
      if base + first ≤ row ∧ row ≤ base + last ∧ col ≤ c ∧ c < col + w then
        (if add then accAdd (rnd row c) (k.mx.accAt row c) (x (row - base) (c - col)) else x (row - base) (c - col))
      else k.mx.accAt row c) ∧
    (∀ row p : Nat, p < 4 → (z.mx.termsAt row p).toNat =
      if base + first ≤ row ∧ row ≤ base + last ∧ col < 128 * p + 128 ∧ 128 * p < col + w then terms row p
      else (k.mx.termsAt row p).toNat) ∧
    z = { k with mx := { k.mx with acc := z.mx.acc, terms := z.mx.terms } } := by
  intro first last terms rnd
  have hrow (r : Nat) : r ∈ (stepRows (cls == 1) total i).map (base + ·) ↔ base + first ≤ r ∧ r ≤ base + last := by
    have hlast : last = if cls = 1 ∧ 2 * i + 1 < total then 2 * i + 1 else if cls = 1 then 2 * i else i := by
      simp only [last, first]
      split_ifs <;> omega
    rw [List.mem_map, hlast]
    constructor
    · rintro ⟨j, hj, rfl⟩
      have := (mem_stepRows ..).1 hj
      omega
    · intro hr
      exact ⟨r - base, (mem_stepRows ..).2 (by omega), by omega⟩
  refine ⟨fun r c hc => (h.accs r c hc).trans (if_congr (by rw [hrow, and_assoc]) ?_ rfl), fun r p hp => ?_, h.frame⟩
  · have ht : k.countAfter add n r (c / 128) = BitVec.ofNat 20 (terms r (c / 128)) := by
      rw [← show (k.countAfter add n r (c / 128)).toNat = terms r (c / 128) from k.countAfter_toNat add hn r _,
        BitVec.ofNat_toNat, BitVec.setWidth_eq]
    have ht' : (BitVec.ofNat 20 (terms r (c / 128))).toNat = terms r (c / 128) := by
      rw [← ht]
      exact k.countAfter_toNat add hn r _
    unfold Core.sumAfter
    dsimp only
    rw [ht, ht']
  · rw [h.terms r p hp, apply_ite BitVec.toNat, k.countAfter_toNat add hn]
    exact if_congr (by rw [hrow, and_assoc]) rfl rfl

/-- Steps that write `xs row` for each of their rows, of which each element is `x row column` (R59 to R73). -/
theorem Core.rows_step {k z : Core} {cls total i base col w n : Nat} {add : Bool} {xs : Nat → List F32} {x : Nat → Nat → F32}
    (hz : z = (stepRows (cls == 1) total i).foldl (fun z r => z.accRow (base + r) col (xs r) add n) k) (hw : ∀ r, (xs r).length = w)
    (hx : ∀ r c, c < w → (xs r).getD c 0 = x r c) (hcol : col + w ≤ 512) :
    k.Wrote z ((stepRows (cls == 1) total i).map (base + ·)) col w add n fun r c => x (r - base) (c - col) := by
  rw [hz]
  exact (Core.accRows_wrote add n hw hcol (stepRows_nodup _ _ _) k).congr fun r c _ h h' => hx _ _ (by omega)

theorem Core.dotRow_length (k : Core) (a b : TReg) (cls : Nat) (tp : Bool) (split : Option Nat) (i cols : Nat) :
    (k.dotRow a b cls tp split i cols).length = cols := by
  simp [Core.dotRow]

/-- A step of an mx.mm (R59 to R63). -/
theorem Core.writeStep_mm (k : Core) (a b : TReg) (alen : BitVec 3) (base : BitVec 10) (add tp half : Bool) (q i : Nat) :
    let c := k.opClass (.mm a alen b base add tp half)
    k.Wrote (k.writeStep (.mm a alen b base add tp half) q i) ((stepRows (c == 1) (k.runRows a alen) i).map (base.toNat + ·))
      (if c = 2 then 256 * half.toNat else 0) (if c = 2 then 256 else 512) add 128
      fun r n => dot ((List.range 128).map fun j => (k.aElem a (r - base.toNat) j,
        k.bElem b c tp none j (n - if c = 2 then 256 * half.toNat else 0))) := by
  intro c
  have hh : half.toNat ≤ 1 := Bool.toNat_le half
  refine Core.rows_step (x := fun r n => dot ((List.range 128).map fun j => (k.aElem a r j, k.bElem b c tp none j n))) ?_
    (fun r => k.dotRow_length a b c tp none r _) (fun r n hn => k.dotRow_getD a b c tp none r hn) (by split <;> omega)
  unfold Core.writeStep
  dsimp only
  split_ifs <;> rfl

/-- A step of quarter q of an mx.mmq (R70, R71). -/
theorem Core.writeStep_mmq (k : Core) (b : TReg) (mask : BitVec 4) (add tp half : Bool) (q0 q1 q2 q3 : QRun) {q : Nat} (hq : q < 4) (i : Nat) :
    let c := k.opClass (.mmq mask b add tp half q0 q1 q2 q3)
    let r := quarterRun q q0 q1 q2 q3
    k.Wrote (k.writeStep (.mmq mask b add tp half q0 q1 q2 q3) q i) ((stepRows (c == 1) (k.runRows r.a r.alen) i).map (r.base.toNat + ·))
      (if c = 2 then 128 * q + 64 * half.toNat else 128 * q) (if c = 2 then 64 else 128) add 128
      fun i n => dot ((List.range 128).map fun j =>
        (k.aElem r.a (i - r.base.toNat) j, k.bElem b c tp (some q) j (n - if c = 2 then 128 * q + 64 * half.toNat else 128 * q))) := by
  intro c r
  have hh : half.toNat ≤ 1 := Bool.toNat_le half
  refine Core.rows_step (x := fun i n => dot ((List.range 128).map fun j => (k.aElem r.a i j, k.bElem b c tp (some q) j n))) ?_
    (fun i => k.dotRow_length r.a b c tp (some q) i _) (fun i n hn => k.dotRow_getD r.a b c tp (some q) i hn) (by split <;> omega)
  unfold Core.writeStep
  dsimp only
  split_ifs <;> rfl

/-- A step of an mx.ew (R73). -/
theorem Core.writeStep_ew (k : Core) (x y : TReg) (base : BitVec 10) (add half : Bool) (q i : Nat) :
    let c := k.opClass (.ew x y base add half)
    k.Wrote (k.writeStep (.ew x y base add half) q i) ((stepRows (c == 1) (k.tile x.toNat).cfg.rows.toNat i).map (base.toNat + ·))
      (if c = 2 then 256 * half.toNat else 0) (if c = 2 then 256 else 512) add 1
      fun r n => dot [((k.tile x.toNat).elem (r - base.toNat) (n - if c = 2 then 256 * half.toNat else 0),
        (k.tile y.toNat).elem (r - base.toNat) (n - if c = 2 then 256 * half.toNat else 0))] := by
  intro c
  have hh : half.toNat ≤ 1 := Bool.toNat_le half
  refine Core.rows_step (x := fun r n => dot [((k.tile x.toNat).elem r n, (k.tile y.toNat).elem r n)])
    (xs := fun r => (List.range (if c = 2 then 256 else 512)).map fun n => dot [((k.tile x.toNat).elem r n, (k.tile y.toNat).elem r n)]) ?_
    (fun r => by rw [List.length_map, List.length_range]) (fun r n hn => ?_) (by split <;> omega)
  · unfold Core.writeStep
    dsimp only
    split_ifs <;> rfl
  · rw [List.getD_eq_getElem _ _ (by simpa using hn), List.getElem_map, List.getElem_range]

/-- Settles O17: each step writes its rows of dot products, one after the other, and the rows are as many as its class says. -/
theorem dotProducts : Obligations.DotProducts := by
  intro k b add tp half i gives
  refine ⟨fun a alen base => ?_, fun q0 q1 q2 q3 mask q hq => ?_, fun x y base => ?_⟩
  · exact Core.Wrote.step (x := fun r n => dot ((List.range 128).map fun j => (k.aElem a r j, k.bElem b _ tp none j n))) (by decide)
      (k.writeStep_mm a b alen base add tp half 0 i)
  · exact Core.Wrote.step (x := fun i n => dot ((List.range 128).map fun j =>
        (k.aElem (quarterRun q q0 q1 q2 q3).a i j, k.bElem b _ tp (some q) j n))) (by decide)
      (k.writeStep_mmq b mask add tp half q0 q1 q2 q3 hq i)
  · exact Core.Wrote.step (x := fun r n => dot [((k.tile x.toNat).elem r n, (k.tile y.toNat).elem r n)]) (by decide)
      (k.writeStep_ew x y base add half 0 i)

end Sys2Proof.Machine

/-!
The events of the matrix array (O18): starts, B loads, row reads, cycles, results and fused stores.
-/
namespace Sys2Proof.Machine

/-! ## Starts of array instructions, of B loads and of fused stores (R67, R68, R81, R85) -/

/-- The array instruction is in progress with its buffer, on what the core has become (R81). -/
def State.feeds (s : State) (c : Nat) (e : Entry) (k : Core) (buf : Option (Fin 2)) (rows : Tab QJob) : State :=
  (s.setCore c { k with mx := { k.mx with jobs := k.mx.jobs ++ [⟨e.seq, e.op, k.mx.clk, buf, rows⟩] } }).entryRuns c .mx e

/-- An array instruction of a legal shape that uses no B feeds at once (R81). -/
theorem State.startArray_alone {s : State} {c : Nat} {e : Entry} (hs : (s.core c).arrayShape e.op = true) (hb : bOf e.op = none) :
    s.startArray c e = s.feeds c e (s.core c) none ((s.core c).jobQuarters e.op) := by
  simp only [State.startArray, hs, hb]
  rfl

/-- One that uses a B feeds with the buffer that it takes (R67, R81). -/
theorem State.startArray_group {s : State} {c : Nat} {e : Entry} {b : TReg} {tp split : Bool} (hs : (s.core c).arrayShape e.op = true)
    (hb : bOf e.op = some (b, tp, split)) :
    s.startArray c e = s.feeds c e ((s.core c).takeBuffer b tp split).1 ((s.core c).takeBuffer b tp split).2 ((s.core c).jobQuarters e.op) := by
  simp only [State.startArray, hs, hb]
  rfl

/-- The buffer that holds the group, or is being loaded with it, is taken (R67). -/
theorem Core.takeBuffer_there {k : Core} {b : TReg} {tp split : Bool} {x : Fin 2}
    (h : k.mx.match_ b tp split = some x ∨ (k.mx.match_ b tp split = none ∧ k.mx.loadOf b tp split = some x)) :
    k.takeBuffer b tp split = ({ k with mx := { k.mx with lastBuf := x } }, some x) := by
  unfold Core.takeBuffer
  rcases h with h | ⟨h, h'⟩
  · simp only [h]
  · simp only [h, h']

/-- A group that is nowhere is loaded into the other buffer, once no other group is being loaded (R67). -/
theorem Core.takeBuffer_absent {k : Core} {b : TReg} {tp split : Bool} (hm : k.mx.match_ b tp split = none) (hl : k.mx.loadOf b tp split = none) :
    k.takeBuffer b tp split = if k.mx.isLoading then (k, none) else
      ({ k.beginLoad (otherBuf k.mx.lastBuf) b tp split true with
        mx := { (k.beginLoad (otherBuf k.mx.lastBuf) b tp split true).mx with lastBuf := otherBuf k.mx.lastBuf } },
      some (otherBuf k.mx.lastBuf)) := by
  simp only [Core.takeBuffer, hm, hl]

/-- The engine runs an array instruction by starting it in the array. -/
theorem State.startOp_array {s : State} {c : Nat} {e : Entry} (h : isArray e.op = true) : s.startOp c .mx e = s.startArray c e := by
  unfold isArray at h
  split at h
  case h_5 => cases h
  all_goals
    rename_i ho
    rw [State.startOp, ho]

theorem isArray_of_bOf {op : Op} {b : TReg} {tp split : Bool} (h : bOf op = some (b, tp, split)) : isArray op = true := by
  unfold bOf at h
  split at h
  · rfl
  · rfl
  · cases h

section Starts
variable {s : State} {c : CoreId} {e : Entry}

/-- An mx.ew and an mx.accld feed at once, and an mx.mm or mx.mmq with the buffer that it takes or waits for (R67, R81). -/
theorem arrayEvents_array (h : Starts s c .mx e) (hs : (s.core c).arrayShape e.op = true) :
    let k := s.core c
    (isArray e.op = true → bOf e.op = none → Gives (.engineStart c .mx .clean) s (s.feeds c e k none (k.jobQuarters e.op))) ∧
    (∀ r tp split, bOf e.op = some (r, tp, split) →
      let own := otherBuf k.mx.lastBuf
      (∀ x, (k.mx.match_ r tp split = some x ∨ (k.mx.match_ r tp split = none ∧ k.mx.loadOf r tp split = some x)) →
        Gives (.engineStart c .mx .clean) s (s.feeds c e { k with mx := { k.mx with lastBuf := x } } (some x) (k.jobQuarters e.op))) ∧
      (k.mx.match_ r tp split = none → k.mx.loadOf r tp split = none → k.mx.isLoading = false →
        Gives (.engineStart c .mx .clean) s (s.feeds c e { k with mx :=
          { k.mx.setBuf own ⟨false, true, tp, split, r, (k.tile r.toNat).cfg.format, true⟩ with
            cnt := bump k.mx.cnt 6 1, lastBuf := own } } (some own) (k.jobQuarters e.op))) ∧
      (k.mx.match_ r tp split = none → k.mx.loadOf r tp split = none → k.mx.isLoading = true →
        Gives (.engineStart c .mx .clean) s (s.feeds c e k none (k.jobQuarters e.op)))) := by
  refine ⟨fun ha hb => ?_, fun r tp split hb => ?_⟩
  · rw [← State.startArray_alone hs hb, ← State.startOp_array ha]
    exact exec_engineStart_clean h
  · have group := (exec_engineStart_clean h).trans
      (congrArg Host.Outcome.next ((State.startOp_array (isArray_of_bOf hb)).trans (State.startArray_group hs hb)))
    refine ⟨fun x hx => ?_, fun hm hl hi => ?_, fun hm hl hi => ?_⟩
    · rwa [Core.takeBuffer_there hx] at group
    · rwa [Core.takeBuffer_absent hm hl, hi] at group
    · rwa [Core.takeBuffer_absent hm hl, hi] at group

/-- An mx.ldb is done when its group is there, waits when it is being loaded, and loads it otherwise (R68). -/
theorem arrayEvents_ldb {r : TReg} {tp split : Bool} (h : Starts s c .mx e) (ho : e.op = .ldb r tp split)
    (hs : (s.core c).arrayShape e.op = true) :
    let k := s.core c
    ((k.mx.match_ r tp split).isSome = true → Gives (.engineStart c .mx .clean) s (s.entryDone c .mx e none)) ∧
    (k.mx.match_ r tp split = none → (k.mx.loadOf r tp split).isSome = true →
      Gives (.engineStart c .mx .clean) s (s.entryRuns c .mx e)) ∧
    (k.mx.match_ r tp split = none → k.mx.loadOf r tp split = none →
      Gives (.engineStart c .mx .clean) s ((s.setCore c { k with mx :=
        { k.mx.setBuf (otherBuf k.mx.lastBuf) ⟨false, true, tp, split, r, (k.tile r.toNat).cfg.format, false⟩ with
          cnt := bump k.mx.cnt 7 1 } }).entryRuns c .mx e)) := by
  have start : Gives (.engineStart c .mx .clean) s (s.startLdb c e r tp split) :=
    (exec_engineStart_clean h).trans (congrArg Host.Outcome.next (by rw [State.startOp, ho]))
  unfold State.startLdb at start
  simp only [hs] at start
  refine ⟨fun hm => ?_, fun hm hl => ?_, fun hm hl => ?_⟩
  · rwa [hm] at start
  · rwa [hm, hl] at start
  · rwa [hm, hl] at start

/-- An mx.st whose rows are all stored runs to its completion (R85, R87). -/
theorem arrayEvents_mst {x y : SReg} {base : BitVec 10} {rows : BitVec 11} {col : BitVec 5} {cols : BitVec 6} {fmt : BitVec 4}
    {rnd xp clr : Bool} {u : State} (h : Starts s c .mx e) (ho : e.op = .mst x y base rows col cols fmt rnd xp clr)
    (hs : mstShape base.toNat rows.toNat col.toNat cols.toNat fmt xp = true)
    (hr : s.mstRows c (fun i => ((e.args.getD 0 0).toNat + i * (e.args.getD 1 0).toNat) % 2 ^ 48)
      ((s.core c).mstRow base.toNat rows.toNat (16 * col.toNat) (16 * cols.toNat) fmt rnd xp)
      (List.range (if xp then 16 * cols.toNat else rows.toNat)) = (u, none)) :
    Gives (.engineStart c .mx .clean) s (u.entryRuns c .mx e) := by
  have start : Gives (.engineStart c .mx .clean) s (s.startMst c e base rows col cols fmt rnd xp) :=
    (exec_engineStart_clean h).trans (congrArg Host.Outcome.next (by rw [State.startOp, ho]))
  refine start.trans (congrArg Host.Outcome.next ?_)
  unfold State.startMst
  rw [if_neg (by rw [hs]; decide)]
  change (match s.mstRows c (fun i => ((e.args.getD 0 0).toNat + i * (e.args.getD 1 0).toNat) % 2 ^ 48) _ _ with
    | (s, none) => s.entryRuns c .mx e
    | (s, some (i, status, a)) => s.entryFaults c .mx e status (some (0, i)) (some a)) = _
  rw [hr]

end Starts

/-! ## B loads that complete (R66, R68) -/

theorem MxState.buf_setBuf_same (m : MxState) (b : Fin 2) (x : BBuf) : (m.setBuf b x).buf b = x := tabGet_tabPut_same ..

/-- Without an instruction in progress, a completing load changes the buffer and the mx.ldb that wait for it (R66, R68). -/
theorem Core.loadComplete_idle {k : Core} {b : Fin 2} (hl : (k.mx.buf b).loading = true) (hj : k.mx.jobs = []) :
    k.loadComplete b = { k with
      mx := k.mx.setBuf b { k.mx.buf b with loading := false, valid := true }
      mxq := k.mxq.map fun e => if e.started && waitsForLoad (k.mx.buf b) e.op then { e with done := true } else e } := by
  unfold Core.loadComplete
  rw [if_neg (by rw [hl]; decide)]
  have : (k.mx.setBuf b { k.mx.buf b with loading := false, valid := true }).jobs = [] := hj
  simp only [this, List.find?_nil]

/-- A word without content changes the data of one register, eight bytes of it at most (R248). -/
theorem State.spoilTile_effect (s : State) (c t lo n : Nat) : ∃ a,
    { (s.spoilTile c t lo n).core c with tiles := (s.core c).tiles } = s.core c ∧
    (∀ q, q ≠ t → ((s.spoilTile c t lo n).core c).tile q = (s.core c).tile q) ∧
    { ((s.spoilTile c t lo n).core c).tile t with data := ((s.core c).tile t).data } = (s.core c).tile t ∧
    (∀ i, i < a ∨ a + 8 ≤ i → memGet (((s.spoilTile c t lo n).core c).tile t).data i = memGet ((s.core c).tile t).data i) := by
  unfold State.spoilTile
  split
  · exact ⟨0, rfl, fun _ _ => rfl, rfl, fun _ _ => rfl⟩
  · refine ⟨lo + 8 * (Config.freeNat s.freeCtr % max (n / 8) 1), ?_⟩
    rw [State.ticks_core, State.core_modCore_same]
    refine ⟨rfl, fun q hq => ?_, ?_, fun i hi => ?_⟩
    · rw [Core.tile_setTile, if_neg hq.symm]
    · rw [Core.tile_setTile, if_pos rfl]
    · rw [Core.tile_setTile, if_pos rfl]
      exact memGet_memWrite_outside _ _ _ _ (by simpa [State.freeBytes] using hi)

section Loads
variable {s : State} {c : CoreId} {b : Fin 2}

theorem exec_bLoadComplete (hw : (s.core c).works = true) (hl : ((s.core c).mx.buf b).loading = true) (ecc : Ecc) :
    let r := ((s.core c).mx.buf b).first.toNat + Config.freeNat s.freeCtr % 4
    let t := if ecc = .uncorrectable then s.tick.spoilTile c r 0 ((s.core c).tile r).cfg.dataBytes else s
    Gives (.bLoadComplete c b ecc) s ((t.modCore c fun k => k.loadComplete b).sramError (.coreBank c) ecc) := by
  show execBLoadComplete c b ecc s = _
  unfold execBLoadComplete
  dsimp only
  rw [if_neg (by rw [hw, hl]; decide)]

/-- A load that completes: its tag, the mx.ldb that wait for it, and nothing else of the accumulators and registers (R66, R68). -/
theorem arrayEvents_load (hw : (s.core c).works = true) (hl : ((s.core c).mx.buf b).loading = true) (hj : (s.core c).mx.jobs = []) :
    let k := s.core c
    ∃ t, Gives (.bLoadComplete c b .clean) s t ∧ ((t.core c).mx.buf b).valid = true ∧ ((t.core c).mx.buf b).loading = false ∧
      ((t.core c).mx.buf b).first = (k.mx.buf b).first ∧ (t.core c).mx.acc = k.mx.acc ∧ (t.core c).tiles = k.tiles ∧
      (∀ (e : Entry) (r : TReg) (tp split : Bool), e ∈ k.mxq → e.op = .ldb r tp split → e.started = true →
        (k.mx.buf b).tagged r tp split = true → { e with done := true } ∈ (t.core c).mxq) ∧
      Gives (.bLoadComplete c b .corrected) s (t.startTest (.coreBank c) false) := by
  refine ⟨_, exec_bLoadComplete hw hl .clean, ?_⟩
  rw [show ∀ t : State, t.sramError (.coreBank c) .clean = t from fun _ => rfl, if_neg (by decide), State.core_modCore_same,
    Core.loadComplete_idle hl hj, MxState.buf_setBuf_same]
  refine ⟨rfl, rfl, rfl, rfl, rfl, fun e r tp split he ho hst ht => List.mem_map.2 ⟨e, he, ?_⟩, exec_bLoadComplete hw hl .corrected⟩
  rw [hst, ho, show waitsForLoad _ (.ldb r tp split) = true from ht]
  rfl

/-- An error in the group that cannot be corrected leaves a word of one of its registers without content (R248, R334). -/
theorem arrayEvents_load_error (hw : (s.core c).works = true) (hl : ((s.core c).mx.buf b).loading = true) (hj : (s.core c).mx.jobs = []) :
    let k := s.core c
    ∃ (u : State) (r lo : Nat), Gives (.bLoadComplete c b .uncorrectable) s (u.startTest (.coreBank c) true) ∧
      (k.mx.buf b).first.toNat ≤ r ∧ r < (k.mx.buf b).first.toNat + 4 ∧ (∀ q : Nat, q ≠ r → (u.core c).tile q = k.tile q) ∧
      ((u.core c).tile r).cfg = (k.tile r).cfg ∧ ((u.core c).tile r).scales = (k.tile r).scales ∧
      (∀ i : Nat, (i < lo ∨ lo + 8 ≤ i) → memGet ((u.core c).tile r).data i = memGet (k.tile r).data i) ∧
      (u.core c).mx.acc = k.mx.acc ∧ ((u.core c).mx.buf b).valid = true := by
  have hgives := exec_bLoadComplete hw hl .uncorrectable
  generalize hr : ((s.core c).mx.buf b).first.toNat + Config.freeNat s.freeCtr % 4 = r at hgives
  dsimp only at hgives
  rw [if_pos rfl] at hgives
  obtain ⟨lo, frame, others, cfg, bytes⟩ := s.tick.spoilTile_effect c r 0 ((s.core c).tile r).cfg.dataBytes
  generalize s.tick.spoilTile c r 0 ((s.core c).tile r).cfg.dataBytes = v at *
  have hmx : (v.core c).mx = (s.core c).mx := (congrArg Core.mx frame :)
  have hcore : (v.modCore c fun k => k.loadComplete b).core c = _ :=
    (State.core_modCore_same ..).trans (Core.loadComplete_idle (k := v.core c) (by rw [hmx]; exact hl) (by rw [hmx]; exact hj))
  refine ⟨_, r, lo, hgives, by omega, by omega, ?_⟩
  rw [hcore]
  refine ⟨others, (congrArg Tile.cfg cfg :), (congrArg Tile.scales cfg :), bytes, (congrArg MxState.acc hmx :), ?_⟩
  rw [MxState.buf_setBuf_same]

end Loads

end Sys2Proof.Machine

/-!
The ports of the array, its results and the events of one instruction (O18).
-/
namespace Sys2Proof.Machine

/-! ## The ports (R80) -/

/-- The state with the ports' runs and grants of another. -/
def MxState.withPorts (m z : MxState) : MxState := { m with runs := z.runs, grants := z.grants }

/-- Nothing but the ports differs. -/
def MxState.OnlyPorts (m z : MxState) : Prop := z = m.withPorts z

theorem MxState.OnlyPorts.refl (m : MxState) : m.OnlyPorts m := rfl

theorem MxState.OnlyPorts.trans {m y z : MxState} (h : m.OnlyPorts y) (h' : y.OnlyPorts z) : m.OnlyPorts z :=
  Eq.trans h' ((congrArg (MxState.withPorts · z) (show y = m.withPorts y from h)).trans rfl)

theorem MxState.onlyPorts_decide (m : MxState) (port : Nat) (all : List Nat) : m.OnlyPorts (m.decide_ port all) := by
  unfold MxState.decide_
  split
  · rfl
  · split <;> rfl

theorem MxState.request_onlyPorts (m : MxState) (port me : Nat) (rivals : List Nat) : m.OnlyPorts (m.request port me rivals).1 := by
  unfold MxState.request
  dsimp only
  split
  · exact (m.onlyPorts_decide port _).trans rfl
  · exact m.onlyPorts_decide port _

theorem MxState.requestAll_onlyPorts (me : Nat) (rivals : Nat → List Nat) (ports : List Nat) (m : MxState) :
    m.OnlyPorts (m.requestAll me rivals ports).1 := by
  induction ports generalizing m with
  | nil => rfl
  | cons p ps ih => exact (m.request_onlyPorts p me (rivals p)).trans (ih _)

/-- Without rivals, a port that has decided nothing in this cycle grants its requester (R80). -/
theorem MxState.request_alone {m : MxState} {port me : Nat} (h : (tabGet (0, 16) m.grants port).1 ≠ m.clk) (hme : me < 16) :
    m.request port me [] = ({ m with
      runs := nextRuns m.runs port [me]
      grants := tabPut (tabPut m.grants port (m.clk, me)) port (m.clk, 8) }, true) := by
  have none : m.winner port = none := by
    show (if (decide ((tabGet (0, 16) m.grants port).2 < 16) && (tabGet (0, 16) m.grants port).1 == m.clk) = true then _ else none) = none
    rw [beq_false_of_ne h, Bool.and_false]
    rfl
  have decided : m.decide_ port [me] = { m with runs := nextRuns m.runs port [me], grants := tabPut m.grants port (m.clk, me) } := by
    unfold MxState.decide_
    rw [none]
    simp [wins]
  have won : (m.decide_ port [me]).winner port = some me := by
    rw [decided]
    simp [MxState.winner, hme]
  unfold MxState.request
  dsimp only [List.filter_nil]
  rw [won, if_pos (beq_self_eq_true _), decided]

/-- A request for several ports of which none has decided anything, without rivals (R80). -/
theorem MxState.requestAll_alone {me : Nat} (hme : me < 16) {rivals : Nat → List Nat} (hr : ∀ p, rivals p = []) {ports : List Nat}
    (hn : ports.Nodup) {m : MxState} (hg : ∀ p ∈ ports, (tabGet (0, 16) m.grants p).1 ≠ m.clk) : (m.requestAll me rivals ports).2 = true := by
  induction ports generalizing m with
  | nil => rfl
  | cons p ps ih =>
    obtain ⟨hp, hn⟩ := List.nodup_cons.1 hn
    unfold MxState.requestAll
    dsimp only
    rw [hr p, MxState.request_alone (hg p List.mem_cons_self) hme, Bool.true_and]
    refine ih hn fun q hq => ?_
    have hpq : p ≠ q := fun h => hp (h ▸ hq)
    dsimp only
    rw [tabGet_tabPut_other _ _ _ hpq, tabGet_tabPut_other _ _ _ hpq]
    exact hg q (List.mem_cons_of_mem _ hq)

/-- Nobody else asks when none is named and none has been refused (R80). -/
theorem Core.others_none {k : Core} (h : ∀ i : Nat, tabGet 0 k.mx.runs i = 0) (port : Nat) : k.others port [] = [] := by
  simp [Core.others, h]

/-! ## Results (R60, R78, R80, R83) -/

/-- The registers, accumulators and term counts are the same. -/
def Core.SameSums (k l : Core) : Prop := l.tiles = k.tiles ∧ l.mx.acc = k.mx.acc ∧ l.mx.terms = k.mx.terms

theorem Core.SameSums.refl (k : Core) : k.SameSums k := ⟨rfl, rfl, rfl⟩

theorem Core.SameSums.trans {k l m : Core} (h : k.SameSums l) (h' : l.SameSums m) : k.SameSums m :=
  ⟨h'.1.trans h.1, h'.2.1.trans h.2.1, h'.2.2.trans h.2.2⟩

theorem Core.sameSums_of_onlyPorts {k : Core} {m : MxState} (h : k.mx.OnlyPorts m) : k.SameSums { k with mx := m } :=
  ⟨rfl, (congrArg MxState.acc h :), (congrArg MxState.terms h :)⟩

/-- What the other quarters' ports decide changes no accumulator (R83). -/
theorem Core.settle_sameSums (j : ArrayJob) (rivals : List Requester) (k : Core) (q : Nat) : k.SameSums (k.settle j rivals q) := by
  have ports : k.mx.OnlyPorts ((k.resultPorts j q).foldl (fun m port => m.decide_ port (q :: (k.others port rivals).filter (· != q))) k.mx) :=
    foldl_rel MxState.OnlyPorts.refl MxState.OnlyPorts.trans (fun m port => m.onlyPorts_decide port _) _ _
  unfold Core.settle
  dsimp only
  split
  · exact Core.sameSums_of_onlyPorts ports
  · exact (Core.sameSums_of_onlyPorts ports).trans ⟨rfl, rfl, rfl⟩

/-- A step's results leave the tile registers. -/
theorem Core.writeStep_tiles (k : Core) (op : Op) (q : Fin 4) (i : Nat) : (k.writeStep op q.val i).tiles = k.tiles := by
  cases op
  case mm a alen b base add tp half => exact (congrArg Core.tiles (k.writeStep_mm a b alen base add tp half q.val i).frame :)
  case mmq mask b add tp half q0 q1 q2 q3 => exact (congrArg Core.tiles (k.writeStep_mmq b mask add tp half q0 q1 q2 q3 q.isLt i).frame :)
  case ew x y base add half => exact (congrArg Core.tiles (k.writeStep_ew x y base add half q.val i).frame :)
  all_goals rfl

/-- The result of a quarter whose ports are won: it is written, and the last one ends the instruction (R60, R78, R80). -/
def Core.landed (k : Core) (j : ArrayJob) (q : Nat) : Core :=
  let k := k.writeStep j.op q (j.at q).written
  let m := k.mx.modJob j.seq q fun p => { p with written := p.written + 1, wroteAt := some k.mx.clk }
  let k : Core := { k with mx := { m with wrote := true } }
  if k.mx.jobs.any fun i => i.seq == j.seq && i.quarters.all fun x => decide (x.2.rows ≤ x.2.written) then
    Core.modEntry { k with mx := { k.mx with jobs := k.mx.jobs.filter fun i => i.seq != j.seq } } .mx j.seq fun x => { x with done := true }
  else k

theorem Core.landed_sameSums (k : Core) (j : ArrayJob) (q : Nat) : (k.writeStep j.op q (j.at q).written).SameSums (k.landed j q) := by
  unfold Core.landed
  dsimp only
  split <;> exact ⟨rfl, rfl, rfl⟩

/-- What comes of a due result once its ports and those of the quarters that move with it have decided: it is refused, held with them, or
written (R80, R83). -/
def Core.decided (k : Core) (j : ArrayJob) (q : Nat) (bound : List Nat) (asked : MxState × Bool) : Core :=
  if !asked.2 then { k with mx := asked.1.modJob j.seq q fun p => { p with accRefused := true } }
  else if bound.any asked.1.refused then { k with mx := asked.1 }
  else Core.landed { k with mx := asked.1 } j q

theorem Core.decided_written {k : Core} {j : ArrayJob} {q : Nat} {bound : List Nat} {asked : MxState × Bool} (hw : asked.2 = true)
    (hb : bound.any asked.1.refused = false) : k.decided j q bound asked = Core.landed { k with mx := asked.1 } j q := by
  rw [Core.decided, hw, hb]
  rfl

theorem Core.decided_held {k : Core} {j : ArrayJob} {q : Nat} {bound : List Nat} {asked : MxState × Bool}
    (h : asked.2 = false ∨ bound.any asked.1.refused = true) : Core.SameSums { k with mx := asked.1 } (k.decided j q bound asked) := by
  unfold Core.decided
  split
  · exact ⟨rfl, rfl, rfl⟩
  · rename_i hw
    rw [if_pos (h.resolve_left fun h' => hw (by rw [h']; rfl))]
    exact Core.SameSums.refl _

theorem Core.landed_jobs (k : Core) (j : ArrayJob) (q : Nat) :
    let z := k.writeStep j.op q (j.at q).written
    let js := (z.mx.modJob j.seq q fun p => { p with written := p.written + 1, wroteAt := some z.mx.clk }).jobs
    (k.landed j q).mx.jobs =
      if js.any fun i => i.seq == j.seq && i.quarters.all fun x => decide (x.2.rows ≤ x.2.written)
      then js.filter fun i => i.seq != j.seq else js := by
  unfold Core.landed
  dsimp only
  split <;> rfl

/-- The due result of a quarter that moves asks for its ports after the quarters that move with it (R80, R83). -/
theorem Core.resultWrite_eq {k : Core} {j : ArrayJob} {q : Fin 4} (rivals : List Requester) (hw : k.mx.writing = some j)
    (hm : k.resultMoves j q.val = true) :
    let z := (k.bound j q.val).foldl (fun z p => z.settle j rivals p) k
    k.resultWrite q rivals = z.decided j q.val (k.bound j q.val)
      (z.mx.requestAll (jobKey j q.val) (fun port => z.others port rivals) (z.resultPorts j q.val)) := by
  unfold Core.resultWrite
  rw [hw]
  dsimp only
  rw [if_neg (by rw [hm]; decide)]
  rfl

/-- The core before its ports decide has the registers, accumulators and term counts of the one that asks. -/
theorem Core.asked_sameSums (k : Core) (j : ArrayJob) (rivals : List Requester) (bound : List Nat) (me : Nat) (ports : List Nat) :
    let z := bound.foldl (fun z p => z.settle j rivals p) k
    k.SameSums { z with mx := (z.mx.requestAll me (fun port => z.others port rivals) ports).1 } :=
  (foldl_rel Core.SameSums.refl Core.SameSums.trans (fun k q => k.settle_sameSums j rivals q) bound k).trans
    (Core.sameSums_of_onlyPorts (MxState.requestAll_onlyPorts ..))

theorem exec_accResultWrite {s : State} {c : CoreId} (hw : (s.core c).works = true) (q : Fin 4) (rivals : List Requester) :
    Gives (.accResultWrite c q rivals) s (s.modCore c fun k => k.resultWrite q rivals) :=
  congrArg Host.Outcome.next (if_pos hw)

/-- A result that is due moves unless a quarter that moves with it is frozen (R83). -/
theorem Core.resultMoves_of {k : Core} {j : ArrayJob} {q : Nat} (hq : q < 4) (hr : (j.at q).written < (j.at q).rows) (hd : k.resultDue j q = true)
    (hm : ∀ i : Nat, i < 4 → isSplit j.op = false ∨ i = q → k.moves i (k.category i false) = true) : k.resultMoves j q = true := by
  rw [Core.resultMoves, decide_eq_true hr, hd, Bool.true_and, Bool.true_and, List.all_eq_true]
  intro i hi
  unfold ArrayJob.span at hi
  split at hi
  · obtain rfl := List.mem_singleton.1 hi
    exact hm i hq (.inr rfl)
  · rename_i hs
    exact hm i (by fin_cases hi <;> decide) (.inl (Bool.eq_false_of_not_eq_true hs))

theorem arrayEvents_result {s : State} {c : CoreId} (hw : (s.core c).works = true) {q : Fin 4} {j : ArrayJob} {rivals : List Requester}
    (hj : (s.core c).mx.writing = some j) (hr : (j.at q.val).written < (j.at q.val).rows) (hd : (s.core c).resultDue j q.val = true)
    (hm : ∀ i : Nat, i < 4 → isSplit j.op = false ∨ i = q.val → (s.core c).moves i ((s.core c).category i false) = true) :
    let k := s.core c
    let bound := k.bound j q.val
    let z := bound.foldl (fun z p => z.settle j rivals p) k
    let asked := z.mx.requestAll (jobKey j q.val) (fun port => z.others port rivals) (z.resultPorts j q.val)
    ∃ t, Gives (.accResultWrite c q rivals) s t ∧ (t.core c).tiles = k.tiles ∧
      (asked.2 = true → bound.any asked.1.refused = false →
        (t.core c).mx.acc = (Core.writeStep { z with mx := asked.1 } j.op q.val (j.at q.val).written).mx.acc ∧
        (t.core c).mx.terms = (Core.writeStep { z with mx := asked.1 } j.op q.val (j.at q.val).written).mx.terms) ∧
      (asked.2 = false ∨ bound.any asked.1.refused = true → (t.core c).mx.acc = k.mx.acc ∧ (t.core c).mx.terms = k.mx.terms) := by
  intro k bound z asked
  have eq : k.resultWrite q rivals = z.decided j q.val bound asked := Core.resultWrite_eq rivals hj (Core.resultMoves_of q.isLt hr hd hm)
  have same : k.SameSums { z with mx := asked.1 } := k.asked_sameSums j rivals bound _ _
  refine ⟨_, exec_accResultWrite hw q rivals, ?_⟩
  rw [State.core_modCore_same, eq]
  have written (hwon : asked.2 = true) (hb : bound.any asked.1.refused = false) :
      (Core.writeStep { z with mx := asked.1 } j.op q.val (j.at q.val).written).SameSums (z.decided j q.val bound asked) := by
    rw [Core.decided_written hwon hb]
    exact Core.landed_sameSums ..
  have held (h : asked.2 = false ∨ bound.any asked.1.refused = true) : k.SameSums (z.decided j q.val bound asked) :=
    same.trans (Core.decided_held h)
  refine ⟨?_, fun hwon hb => (written hwon hb).2, fun h => (held h).2⟩
  by_cases h : asked.2 = true ∧ bound.any asked.1.refused = false
  · exact (written h.1 h.2).1.trans ((Core.writeStep_tiles _ _ _ _).trans same.1)
  · refine (held ?_).1
    cases hwon : asked.2
    · exact .inl rfl
    · exact .inr (Bool.eq_true_of_not_eq_false fun hb => h ⟨hwon, hb⟩)

/-! ## The copy of a register (R78) -/

/-- A quarter that takes part, before its first row. -/
def QJob.fresh (rows : Nat) : QJob := { QJob.none with rows := rows }

/-- A quarter of one row, which has been read. -/
def QJob.readOne (clk f : Nat) : QJob := { QJob.none with rows := 1, reads := [(clk, f)] }

/-- An mx.accld in progress, with what its one quarter has done. -/
def accldJob (n start : Nat) (r : TReg) (base : BitVec 10) (col : BitVec 5) (p : QJob) : ArrayJob :=
  ⟨n, .accld r base col, start, none, [(0, p)]⟩

section Accld
variable {k : Core} {n start : Nat} {r : TReg} {base : BitVec 10} {col : BitVec 5} {p : QJob}

theorem accldJob_at (q : Nat) : (accldJob n start r base col p).at q = p := rfl

/-- Its progress changes, in whatever quarter the event names. -/
theorem MxState.modJob_accld {m : MxState} (h : m.jobs = [accldJob n start r base col p]) (q : Nat) (f : QJob → QJob) :
    (m.modJob n q f).jobs = [accldJob n start r base col (f p)] := by
  unfold MxState.modJob
  rw [h]
  simp [accldJob, jobKey, isSplit]

/-- It passes no row through the array, so each quarter idles (R78, R84). -/
theorem Core.category_accld (h : k.mx.jobs = [accldJob n start r base col p]) (q : Nat) (w : Bool) : k.category q w = .idle := by
  have : k.mx.current q = none := by
    unfold MxState.current MxState.passing
    rw [h]
    rfl
  unfold Core.category
  rw [this]

/-- A row that is read, in a cycle in which nobody else asks for the bank's port (R78, R80). -/
theorem Core.rowRead_accld {q : Fin 4} {rows : Nat} (hrows : 0 < rows) (hs : start < k.mx.clk)
    (hg : (tabGet (0, 16) k.mx.grants (r.toNat / 8)).1 ≠ k.mx.clk) (hr : ∀ i : Nat, tabGet 0 k.mx.runs i = 0)
    (hj : k.mx.jobs = [accldJob n start r base col (.fresh rows)]) :
    k.mx.feeding q.val = some (accldJob n start r base col (.fresh rows)) ∧
    (k.rowRead q []).tiles = k.tiles ∧
    (k.rowRead q []).mx.jobs = [accldJob n start r base col { QJob.fresh rows with reads := [(k.mx.clk, k.mx.clk)], lastAsk := some k.mx.clk }] := by
  have feeds : k.mx.feeding q.val = some (accldJob n start r base col (.fresh rows)) := by
    unfold MxState.feeding
    rw [hj, List.find?_cons_of_pos]
    rw [accldJob_at]
    simp [accldJob, hs, QJob.fresh, QJob.none, hrows]
  have asked := MxState.request_alone (me := 0) hg (by decide)
  refine ⟨feeds, ?_⟩
  unfold Core.rowRead
  rw [feeds]
  dsimp only
  rw [if_neg (by exact Bool.false_ne_true)]
  simp only [Core.stepBanks, accldJob, jobKey, isSplit, Core.others_none hr, Bool.false_eq_true, if_false, asked]
  refine ⟨trivial, (MxState.modJob_accld (p := QJob.fresh rows) ?_ q.val _).trans rfl⟩
  exact hj

theorem Core.current_accld (h : k.mx.jobs = [accldJob n start r base col p]) (q : Nat) : k.mx.current q = none := by
  unfold MxState.current MxState.passing
  rw [h]
  rfl

/-- The write ports of its row's sub-banks are different ones (R75). -/
theorem Core.resultPorts_accld_nodup (q : Nat) : (k.resultPorts (accldJob n start r base col p) q).Nodup := by
  have inj (x : Nat) : Function.Injective fun i : Nat => 32 + (x % 4 * 4 + i) := fun a b h => by
    dsimp only at h
    omega
  simpa [Core.resultPorts, Core.resultPlace, accldJob, isAccld, Function.comp_def] using
    ((List.nodup_range.filter _).map (inj (base.toNat + ((accldJob n start r base col p).at q).written)) :
      ((quartersOf (16 * col.toNat) (k.tile r.toNat).cfg.rowElems).map _).Nodup)

/-- The last copy ends the instruction (R78). -/
theorem Core.landed_accld_jobs (hj : k.mx.jobs = [accldJob n start r base col p]) (hp : p.rows ≤ p.written + 1) (q : Nat) :
    (k.landed (accldJob n start r base col p) q).mx.jobs = [] := by
  have before : (k.writeStep (accldJob n start r base col p).op q ((accldJob n start r base col p).at q).written).mx.jobs =
      [accldJob n start r base col p] := (congrArg (fun k : Core => k.mx.jobs) (Core.accRow_frame ..)).trans hj
  rw [Core.landed_jobs, show (accldJob n start r base col p).seq = n from rfl, MxState.modJob_accld before]
  simp [accldJob, hp]

/-- The copy of a row, in a cycle in which nobody else asks for the sub-banks' ports: the last one ends the instruction (R78, R80). -/
theorem Core.resultWrite_accld {q : Fin 4} {clk f : Nat} (hg : ∀ port : Nat, (tabGet (0, 16) k.mx.grants port).1 ≠ k.mx.clk)
    (hr : ∀ i : Nat, tabGet 0 k.mx.runs i = 0)
    (hj : k.mx.jobs = [accldJob n start r base col (.readOne clk f)]) :
    (k.resultWrite q []).mx.jobs = [] ∧ (k.resultWrite q []).mx.acc = (Core.writeStep k (.accld r base col) q.val 0).mx.acc := by
  have due : k.resultMoves (accldJob n start r base col (.readOne clk f)) q.val = true :=
    Core.resultMoves_of q.isLt (by exact Nat.one_pos) (by rfl) fun i _ _ => by rw [Core.category_accld hj]; rfl
  have writes : k.mx.writing = some (accldJob n start r base col (.readOne clk f)) := by
    unfold MxState.writing
    rw [hj]
    rfl
  have alone : k.bound (accldJob n start r base col (.readOne clk f)) q.val = [] := by
    unfold Core.bound
    rw [Core.current_accld hj]
  have eq : k.resultWrite q [] = k.decided (accldJob n start r base col (.readOne clk f)) q.val []
      (k.mx.requestAll 0 (fun port => k.others port [])
    (k.resultPorts (accldJob n start r base col (.readOne clk f)) q.val)) := by
    have := Core.resultWrite_eq [] writes due
    rwa [alone] at this
  have won := MxState.requestAll_alone (m := k.mx) (me := 0) (by decide) (fun port => Core.others_none hr port)
    (Core.resultPorts_accld_nodup (k := k) (n := n) (start := start) (r := r) (base := base) (col := col) (p := .readOne clk f) q.val)
    fun p _ => hg p
  have ports := MxState.requestAll_onlyPorts 0 (fun port => k.others port [])
    (k.resultPorts (accldJob n start r base col (.readOne clk f)) q.val) k.mx
  generalize k.mx.requestAll 0 _ _ = asked at eq won ports
  rw [eq, Core.decided_written won rfl]
  refine ⟨Core.landed_accld_jobs ?_ (by exact Nat.le_refl 1) _, (Core.landed_sameSums ..).2.1.trans ?_⟩
  · exact (congrArg MxState.jobs ports).trans hj
  · exact Core.accRow_set_acc (congrArg MxState.acc ports :) ..

end Accld

/-! ## The feeder's events -/

/-- The steps that an instruction in progress has read in a quarter; 0 when it is over. -/
def MxState.readsOf (m : MxState) (j : ArrayJob) (q : Nat) : Nat := (m.jobs.find? fun i => i.seq == j.seq).elim 0 fun i => (i.at q).reads.length

theorem MxState.readsOf_one {m : MxState} {i j : ArrayJob} (hj : m.jobs = [i]) (hs : i.seq = j.seq) (q : Nat) :
    m.readsOf j q = (i.at q).reads.length := by
  unfold MxState.readsOf
  rw [hj, List.find?_cons_of_pos (by rw [hs]; exact beq_self_eq_true _)]
  rfl

section Events
variable {s : State} {c : CoreId}

/-- The feeder reads a row: an error in it starts the test of the bank (R248, R334). -/
theorem exec_aRowRead (hw : (s.core c).works = true) {q : Fin 4} {rivals : List Requester} {j : ArrayJob}
    (hf : (s.core c).mx.feeding q.val = some j)
    (hr : ((s.core c).rowRead q rivals).mx.readsOf j q.val ≠ (s.core c).mx.readsOf j q.val) (ecc : Ecc) :
    let k := s.core c
    let t := s.setCore c (k.rowRead q rivals)
    let x := k.stepRow j.op q.val (k.mx.readsOf j q.val)
    let n := (k.tile x.1).cfg.rowBytes
    Gives (.aRowRead c q rivals ecc) s ((if ecc = .uncorrectable then t.spoilTile c x.1 (x.2 * n) n else t).sramError (.coreBank c) ecc) := by
  show execARowRead c q rivals ecc s = _
  unfold execARowRead
  dsimp only
  rw [if_neg (by rw [hw]; decide), hf]
  dsimp only
  rw [State.core_setCore_same]
  exact if_neg hr

/-- A row that is read, and an error in it (R78, R80, R248, R334). -/
theorem arrayEvents_read (hw : (s.core c).works = true) {q : Fin 4} {n rows start : Nat} {r : TReg} {base : BitVec 10} {col : BitVec 5}
    (hrows : 0 < rows) (hs : start < (s.core c).mx.clk) (hg : (tabGet (0, 16) (s.core c).mx.grants (r.toNat / 8)).1 ≠ (s.core c).mx.clk)
    (hr : ∀ i : Nat, tabGet 0 (s.core c).mx.runs i = 0)
    (hj : (s.core c).mx.jobs = [⟨n, .accld r base col, start, none, [(0, { QJob.none with rows := rows })]⟩]) :
    let k := s.core c
    ∃ t, Gives (.aRowRead c q [] .clean) s t ∧ (t.core c).mx.jobs = [⟨n, .accld r base col, start, none,
      [(0, { QJob.none with rows := rows, reads := [(k.mx.clk, k.mx.clk)], lastAsk := some k.mx.clk })]⟩] ∧
      Gives (.aRowRead c q [] .corrected) s (t.startTest (.coreBank c) false) ∧
      ∃ (u : State) (lo : Nat), Gives (.aRowRead c q [] .uncorrectable) s (u.startTest (.coreBank c) true) ∧
        (u.core c).mx = (t.core c).mx ∧ (∀ p : Nat, p ≠ r.toNat → (u.core c).tile p = k.tile p) ∧
        (∀ i : Nat, (i < lo ∨ lo + 8 ≤ i) → memGet ((u.core c).tile r.toNat).data i = memGet (k.tile r.toNat).data i) := by
  intro k
  obtain ⟨feeds, tiles, jobs⟩ := Core.rowRead_accld (q := q) hrows hs hg hr hj
  have before : (s.core c).mx.readsOf (accldJob n start r base col (.fresh rows)) q.val = 0 := MxState.readsOf_one hj rfl q.val
  have after : ((s.core c).rowRead q []).mx.readsOf (accldJob n start r base col (.fresh rows)) q.val = 1 := MxState.readsOf_one jobs rfl q.val
  have gives := exec_aRowRead hw feeds (by rw [after, before]; decide)
  dsimp only at gives
  rw [before] at gives
  obtain ⟨lo, frame, others, -, bytes⟩ := (s.setCore c (k.rowRead q [])).spoilTile_effect c r.toNat
    (0 * (k.tile r.toNat).cfg.rowBytes) (k.tile r.toNat).cfg.rowBytes
  rw [State.core_setCore_same] at frame others bytes
  have tile (p : Nat) : (k.rowRead q []).tile p = k.tile p := congrArg (tabGet Tile.zero · p) tiles
  refine ⟨_, gives .clean, ?_, gives .corrected, _, lo, gives .uncorrectable, ?_, fun p hp => ?_, fun i hi => ?_⟩
  · exact (congrArg (fun k : Core => k.mx.jobs) (State.core_setCore_same ..)).trans jobs
  · exact (congrArg Core.mx frame :).trans (congrArg Core.mx (State.core_setCore_same ..).symm)
  · exact (others p hp).trans (tile p)
  · exact (bytes i hi).trans (by rw [tile])

/-- The copy of the one row of an mx.accld (R78). -/
theorem arrayEvents_copy (hw : (s.core c).works = true) {q : Fin 4} {n start clk f : Nat} {r : TReg} {base : BitVec 10} {col : BitVec 5}
    (hg : ∀ port : Nat, (tabGet (0, 16) (s.core c).mx.grants port).1 ≠ (s.core c).mx.clk) (hr : ∀ i : Nat, tabGet 0 (s.core c).mx.runs i = 0)
    (hj : (s.core c).mx.jobs = [⟨n, .accld r base col, start, none, [(0, { QJob.none with rows := 1, reads := [(clk, f)] })]⟩]) :
    let k := s.core c
    ∃ t, Gives (.accResultWrite c q []) s t ∧ (t.core c).mx.jobs = [] ∧
      ((t.core c).mx.acc = (k.accRow (base.toNat + 0) (16 * col.toNat)
        ((List.range (k.tile r.toNat).cfg.rowElems).map fun j =>
          BitVec.ofNat 32 (codeAt (k.tile r.toNat).data 5 (0 * (k.tile r.toNat).cfg.rowBytes) j))
        false 1).mx.acc) := by
  refine ⟨_, exec_accResultWrite hw q [], ?_⟩
  rw [State.core_modCore_same]
  exact Core.resultWrite_accld hg hr hj

/-- A fused store without CLEAR is done with its last row, and an error in what it reads is stored as it then is (R87, R88, R248). -/
theorem arrayEvents_store (hw : (s.core c).works = true) {e : Entry} {x y : SReg} {base : BitVec 10} {rows : BitVec 11} {col : BitVec 5}
    {cols : BitVec 6} {fmt : BitVec 4} {rnd xp : Bool} (hq : (s.core c).mxq = [e]) (ho : e.op = .mst x y base rows col cols fmt rnd xp false)
    (hs : e.started = true) (hd : e.done = false) (hf : e.faulted = false) :
    let t := s.setCore c { s.core c with mxq := [{ e with done := true }] }
    Gives (.fusedStoreComplete c .clean) s t ∧ Gives (.fusedStoreComplete c .corrected) s (t.startTest (.core c) false) ∧
    Gives (.fusedStoreComplete c .uncorrectable) s ((match s.mstSpoiled c e with
      | (u, none) => u.modCore c fun k => k.storeComplete
      | (u, some (i, st, a)) => u.entryFaults c .mx e st (some (0, i)) (some a)).startTest (.core c) true) := by
  intro t
  have found : (s.core c).mxq.find? (fun e => isStore e.op && e.started && !e.done && !e.faulted) = some e := by
    rw [hq]
    exact List.find?_cons_of_pos (by rw [ho, hs, hd, hf]; rfl)
  have done : s.modCore c (fun k => k.storeComplete) = t := by
    refine congrArg (s.setCore c) ?_
    show (s.core c).storeComplete = _
    unfold Core.storeComplete
    rw [found]
    dsimp only
    rw [ho]
    show Core.setQueue _ .mx _ = _
    rw [show (s.core c).queue .mx = [e] from hq]
    simp [Core.setQueue, ho]
  have gives (ecc : Ecc) : Gives (.fusedStoreComplete c ecc) s
      (match if ecc = .uncorrectable then s.mstSpoiled c e else (s, none) with
      | (s, none) => (s.modCore c fun k => k.storeComplete).sramError (.core c) ecc
      | (s, some (i, status, a)) => (s.entryFaults c .mx e status (some (0, i)) (some a)).sramError (.core c) ecc) := by
    show execFusedStoreComplete c ecc s = _
    unfold execFusedStoreComplete
    dsimp only
    rw [found]
    dsimp only
    rw [if_neg (by rw [hw]; decide)]
    generalize (if ecc = .uncorrectable then s.mstSpoiled c e else (s, none)) = x
    obtain ⟨u, _ | ⟨i, st, a⟩⟩ := x <;> rfl
  refine ⟨(gives .clean).trans (by rw [← done]; rfl), (gives .corrected).trans (by rw [← done]; rfl), (gives .uncorrectable).trans ?_⟩
  rw [if_pos rfl]
  split <;> rfl

end Events

end Sys2Proof.Machine

/-!
The cycles of the array (O18).
-/
namespace Sys2Proof.Machine

/-! ## A cycle of the array (R81, R83, R84) -/

/-- A quarter lets its next row enter, or pays for an mx.ew whose rows lie in one bank (R74, R81). -/
def Core.enterRow (k : Core) (w : Bool) (m : MxState) (q : Nat) : MxState :=
  match k.mx.current q with
  | some j =>
    if k.counted q w == Cycle.active && !k.blocked j q && jobKey j q == q then
      m.modJob j.seq q fun p => { p with enteredAt := p.enteredAt ++ [tabGet 0 k.mx.unfrozen (clockKey j q)] }
    else if k.counted q w == Cycle.aBank && jobKey j q == q then m.modJob j.seq q fun p => { p with paid := p.enteredAt.length + 1 }
    else m
  | none => m

/-- A quarter's part in a cycle: it counts its category, a row enters, and time passes unless it is frozen. -/
def Core.quarterCycle (k : Core) (w : Bool) (m : MxState) (q : Nat) : MxState :=
  let m := k.enterRow w { m with cnt := bump m.cnt (k.counted q w).counter 1 } q
  if k.moves q (k.counted q w) then m.tick q else m

/-- The state of the array when its four quarters are through. -/
def Core.quarters (k : Core) (w : Bool) : MxState := [0, 1, 2, 3].foldl (k.quarterCycle w) k.mx

theorem MxState.closePorts_onlyPorts (m : MxState) (others : Nat → List Nat) : m.OnlyPorts (m.closePorts others) :=
  (congrArg (fun x : MxState => { x with runs := (m.closePorts others).runs, grants := (m.closePorts others).grants })
    (m.closePorts_frame others) :)

/-- A quarter of an instruction that has no result refused in a cycle is as it was. -/
def ArrayJob.settled (j : ArrayJob) : ArrayJob := { j with quarters := j.quarters.map fun x => (x.1, { x.2 with accRefused := false }) }

/-- A cycle is the quarters' parts and the ports' end, after which the next cycle begins with no result refused. -/
theorem Core.arrayCycle_mx (k : Core) (withheld : Bool) (asks : List (Fin 48 × Requester)) :
    let m := k.quarters (withheld && !k.mx.wrote)
    let z := (k.arrayCycle withheld asks).mx
    z.clk = m.clk + 1 ∧ z.cnt = m.cnt ∧ z.acc = m.acc ∧ z.jobs = m.jobs.map ArrayJob.settled := by
  intro m z
  obtain ⟨y, hy, hclk, hcnt, hacc, hjobs⟩ : ∃ y,
      MxState.OnlyPorts (if [0, 1, 2, 3].all fun q => k.moves q (k.counted q (withheld && !k.mx.wrote)) then m.tick 4 else m) y ∧
      z.clk = y.clk + 1 ∧ z.cnt = y.cnt ∧ z.acc = y.acc ∧ z.jobs = y.jobs.map ArrayJob.settled :=
    ⟨_, MxState.closePorts_onlyPorts _ _, rfl, rfl, rfl, rfl⟩
  rw [hclk, hcnt, hacc, hjobs]
  split at hy <;> rw [hy] <;> exact ⟨rfl, rfl, rfl, rfl⟩

/-- A row that enters, or a freeze that is paid, changes the instructions in progress alone. -/
theorem Core.enterRow_frame (k : Core) (w : Bool) (m : MxState) (q : Nat) : k.enterRow w m q = { m with jobs := (k.enterRow w m q).jobs } := by
  unfold Core.enterRow
  split
  · split
    · rfl
    · split <;> rfl
  · rfl

/-- A quarter's part counts one cycle of its category, and changes no accumulator (R84). -/
theorem Core.quarterCycle_frame (k : Core) (w : Bool) (m : MxState) (q : Nat) :
    let z := k.quarterCycle w m q
    z.clk = m.clk ∧ z.cnt = bump m.cnt (k.counted q w).counter 1 ∧ z.acc = m.acc ∧
    z.jobs = (k.enterRow w { m with cnt := bump m.cnt (k.counted q w).counter 1 } q).jobs := by
  unfold Core.quarterCycle
  dsimp only
  rw [k.enterRow_frame w]
  split <;> exact ⟨rfl, rfl, rfl, rfl⟩

theorem Core.quarters_frame (k : Core) (w : Bool) : (k.quarters w).clk = k.mx.clk ∧ (k.quarters w).acc = k.mx.acc :=
  foldl_rel (R := fun a b : MxState => b.clk = a.clk ∧ b.acc = a.acc) (fun _ => ⟨rfl, rfl⟩) (fun h h' => ⟨h'.1.trans h.1, h'.2.trans h.2⟩)
    (fun m q => ⟨(k.quarterCycle_frame w m q).1, (k.quarterCycle_frame w m q).2.2.1⟩) _ _

/-- Four quarters that count one category count it four times (R84). -/
theorem Core.quarters_cnt {k : Core} {w : Bool} {x : Cycle} (hc : ∀ q : Nat, k.counted q w = x) (i : Nat) :
    tabGet 0 (k.quarters w).cnt i = if i = x.counter then tabGet 0 k.mx.cnt i + 4 else tabGet 0 k.mx.cnt i := by
  have each (m : MxState) (q : Nat) : tabGet 0 (k.quarterCycle w m q).cnt i = if i = x.counter then tabGet 0 m.cnt i + 1 else tabGet 0 m.cnt i := by
    rw [(k.quarterCycle_frame w m q).2.1, hc, bump, tabGet_tabPut]
    by_cases h : i = x.counter
    · rw [if_pos h, if_pos h.symm, h]
      rfl
    · rw [if_neg h, if_neg (Ne.symm h)]
  unfold Core.quarters
  simp only [List.foldl_cons, List.foldl_nil, each]
  split
  · simp only [BitVec.add_assoc]
    rfl
  · rfl

/-- The instructions in progress stay as they are through a cycle in which no row enters. -/
theorem Core.quarters_jobs_same {k : Core} {w : Bool} (h : ∀ (m : MxState) (q : Nat), k.enterRow w m q = m) : (k.quarters w).jobs = k.mx.jobs :=
  foldl_rel (R := fun a b : MxState => b.jobs = a.jobs) (fun _ => rfl) (fun h h' => h'.trans h)
    (fun m q => (k.quarterCycle_frame w m q).2.2.2.trans (by rw [h])) _ _

section Events
variable {s : State} {c : CoreId}

theorem exec_aRowEnter (hw : (s.core c).works = true) (withheld : Bool) (asks : List (Fin 48 × Requester)) :
    Gives (.aRowEnter c withheld asks) s
      (s.modCore c fun k => k.arrayCycle (withheld && s.power.withhold.toNat + s.power.thermalW.toNat != 0) asks) :=
  congrArg Host.Outcome.next (if_pos hw)

/-- A cycle of an array without an instruction is IDLE in each quarter (R84). -/
theorem arrayEvents_idle (hw : (s.core c).works = true) (hj : (s.core c).mx.jobs = []) (withheld : Bool) (asks : List (Fin 48 × Requester)) :
    let k := s.core c
    ∃ t, Gives (.aRowEnter c withheld asks) s t ∧ (t.core c).mx.clk = k.mx.clk + 1 ∧
      tabGet 0 (t.core c).mx.cnt 1 = tabGet 0 k.mx.cnt 1 + 4 ∧ (∀ i : Nat, i ≠ 1 → tabGet 0 (t.core c).mx.cnt i = tabGet 0 k.mx.cnt i) ∧
      (t.core c).mx.acc = k.mx.acc := by
  intro k
  refine ⟨_, exec_aRowEnter hw withheld asks, ?_⟩
  rw [State.core_modCore_same]
  generalize (withheld && _) = w
  obtain ⟨hclk, hcnt, hacc, -⟩ := k.arrayCycle_mx w asks
  have current (q : Nat) : k.mx.current q = none := by
    unfold MxState.current MxState.passing
    rw [hj]
    rfl
  have counted (q : Nat) : k.counted q (w && !k.mx.wrote) = .idle := by
    unfold Core.counted Core.category
    rw [current]
  obtain ⟨qclk, qacc⟩ := k.quarters_frame (w && !k.mx.wrote)
  have cnt := Core.quarters_cnt counted
  rw [hclk, hcnt, hacc, qclk, qacc]
  exact ⟨rfl, (cnt 1).trans (if_pos rfl), fun i hi => (cnt i).trans (if_neg hi), rfl⟩

end Events

/-! ## A cycle in which an instruction of the whole array is in progress -/

/-- An instruction of the whole array in progress, with what it has done. -/
def wholeJob (n : Nat) (op : Op) (start : Nat) (buf : Option (Fin 2)) (p : QJob) : ArrayJob := ⟨n, op, start, buf, [(0, p)]⟩

section Whole
variable {k : Core} {n start : Nat} {op : Op} {buf : Option (Fin 2)} {p : QJob} (hs : isSplit op = false)
  (hj : k.mx.jobs = [wholeJob n op start buf p])
include hs

theorem wholeJob_jobKey (q : Nat) : jobKey (wholeJob n op start buf p) q = 0 := by
  unfold jobKey
  rw [show (wholeJob n op start buf p).op = op from rfl, hs]
  rfl

theorem wholeJob_clockKey (q : Nat) : clockKey (wholeJob n op start buf p) q = 4 := by
  unfold clockKey
  rw [show (wholeJob n op start buf p).op = op from rfl, hs]
  rfl

theorem wholeJob_at (q : Nat) : (wholeJob n op start buf p).at q = p := by
  unfold ArrayJob.at
  rw [wholeJob_jobKey hs]
  rfl

theorem wholeJob_takes (q : Nat) : (wholeJob n op start buf p).takes q = true := by
  unfold ArrayJob.takes
  rw [show (wholeJob n op start buf p).op = op from rfl, hs]
  rfl

omit hs in
theorem wholeJob_settled (hp : p.accRefused = false) : (wholeJob n op start buf p).settled = wholeJob n op start buf p := by
  show wholeJob n op start buf { p with accRefused := false } = _
  rw [← hp]

include hj

/-- Each quarter is its. -/
theorem Core.current_whole (ha : isAccld op = false) (q : Nat) : k.mx.current q = some (wholeJob n op start buf p) := by
  have passing : k.mx.passing = [wholeJob n op start buf p] := by
    unfold MxState.passing
    rw [hj, List.filter_cons_of_pos (by rw [show (wholeJob n op start buf p).op = op from rfl, ha]; rfl)]
    rfl
  unfold MxState.current
  rw [passing]
  dsimp only
  cases he : (wholeJob n op start buf p).entered
  · rw [List.find?_cons_of_pos (by rw [he]; rfl)]
    exact if_pos (by rw [show (wholeJob n op start buf p).op = op from rfl, hs]; rfl)
  · rw [List.find?_cons_of_neg (by rw [he]; decide)]
    exact List.find?_cons_of_pos (wholeJob_takes hs q)

/-- No quarter has a result refused while it has none. -/
theorem MxState.refused_whole (hp : p.accRefused = false) (q : Nat) : k.mx.refused q = false := by
  unfold MxState.refused
  rw [hj]
  simp [wholeJob_at hs, hp]

theorem MxState.modJob_whole (q : Nat) (f : QJob → QJob) {m : MxState} (hm : m.jobs = k.mx.jobs) :
    (m.modJob n q f).jobs = [wholeJob n op start buf (f p)] := by
  have key := wholeJob_jobKey (n := n) (start := start) (buf := buf) (p := p) hs q
  unfold MxState.modJob
  rw [hm, hj]
  simp only [List.map_cons, List.map_nil, key]
  exact congrArg (fun j => [j]) (if_pos rfl)

/-- While cycles are withheld each quarter's cycle is withheld (R84). -/
theorem Core.counted_whole_cap (ha : isAccld op = false) (q : Nat) : k.counted q true = .cap := by
  have category : k.category q true = .cap := by
    unfold Core.category
    rw [Core.current_whole hs hj ha]
    rfl
  unfold Core.counted
  rw [category, Core.current_whole hs hj ha]
  rfl

/-- Each quarter's cycle is active when the next row is ready, read in time, and its B is loaded (R81, R84). -/
theorem Core.counted_whole_active (ha : isAccld op = false) (hb : ∀ q i : Nat, (k.stepBanks op q i).2 = none)
    (hw : k.bWaits (wholeJob n op start buf p) = false) (he : p.enteredAt = []) (hr : 0 < p.rows) (hp : p.accRefused = false) {u f : Nat}
    (hu : p.reads.head? = some (u, f)) (ht : u + 4 ≤ k.mx.clk + 1) (q : Nat) :
    k.counted q false = .active ∧ k.blocked (wholeJob n op start buf p) q = false := by
  have at_ := wholeJob_at (n := n) (start := start) (buf := buf) (p := p) hs
  have first : p.reads[p.enteredAt.length]? = some (u, f) := by
    rw [he, ← hu, List.head?_eq_getElem?]
    rfl
  have free (i : Nat) : k.occupied i = false := by
    unfold Core.occupied MxState.passing
    rw [hj, List.any_eq_false]
    intro x hx
    obtain rfl := List.mem_singleton.1 (List.mem_of_mem_filter hx)
    simp [at_, he]
  have unblocked : k.blocked (wholeJob n op start buf p) q = false := by
    unfold Core.blocked
    simp [free]
  have toEnter : (wholeJob n op start buf p).toEnter q = true := by
    simp [ArrayJob.toEnter, at_, he, hr]
  have ready : (wholeJob n op start buf p).ready q k.mx.clk = true := by
    simp [ArrayJob.ready, at_, first, ht]
  have notLate : (wholeJob n op start buf p).lateByRefusal q k.mx.clk = false := by
    simp [ArrayJob.lateByRefusal, at_, first]
    omega
  have notOwes : k.owes (wholeJob n op start buf p) q = false := by
    show (_ && ((k.stepBanks op q _).2 == some (k.stepBanks op q _).1)) = false
    rw [hb]
    exact Bool.and_false _
  have category : k.category q false = .active := by
    unfold Core.category
    rw [Core.current_whole hs hj ha]
    simp [hw, unblocked, toEnter, ready, notLate, notOwes]
  refine ⟨?_, unblocked⟩
  unfold Core.counted
  rw [category, Core.current_whole hs hj ha]
  have refused (i : Nat) : k.mx.refused i = false := MxState.refused_whole hs hj hp i
  simp [refused]

/-- In a cycle that is active everywhere its next row enters once, in the quarter that stands for all (R81). -/
theorem Core.quarters_jobs_active (ha : isAccld op = false)
    (hc : ∀ q : Nat, k.counted q false = .active ∧ k.blocked (wholeJob n op start buf p) q = false) :
    (k.quarters false).jobs = [wholeJob n op start buf { p with enteredAt := p.enteredAt ++ [tabGet 0 k.mx.unfrozen 4] }] := by
  have key := wholeJob_jobKey (n := n) (start := start) (buf := buf) (p := p) hs
  have enters (m : MxState) : k.enterRow false m 0 =
      m.modJob n 0 fun p => { p with enteredAt := p.enteredAt ++ [tabGet 0 k.mx.unfrozen 4] } := by
    unfold Core.enterRow
    rw [Core.current_whole hs hj ha]
    dsimp only
    rw [(hc 0).1, (hc 0).2, key, wholeJob_clockKey hs]
    rfl
  have stays (m : MxState) {q : Nat} (hq : q ≠ 0) : (k.quarterCycle false m q).jobs = m.jobs := by
    rw [(k.quarterCycle_frame false m q).2.2.2]
    unfold Core.enterRow
    rw [Core.current_whole hs hj ha]
    dsimp only
    rw [(hc q).1, key, beq_false_of_ne hq.symm, Bool.and_false, if_neg Bool.false_ne_true, Bool.and_false, if_neg Bool.false_ne_true]
  unfold Core.quarters
  rw [List.foldl_cons, List.foldl_cons, List.foldl_cons, List.foldl_cons, List.foldl_nil, stays _ (by decide), stays _ (by decide),
    stays _ (by decide), (k.quarterCycle_frame false k.mx 0).2.2.2, enters]
  exact MxState.modJob_whole hs hj 0 _ rfl

end Whole

section WholeEvents
variable {s : State} {c : CoreId} {n start : Nat} {op : Op} {buf : Option (Fin 2)} {p : QJob} (hs : isSplit op = false) (ha : isAccld op = false)
  (hw : (s.core c).works = true) (hj : (s.core c).mx.jobs = [wholeJob n op start buf p]) (hp : p.accRefused = false)
include hs ha hw hj hp

/-- Its next row enters, and each quarter counts ACTIVE (R81, R84). -/
theorem arrayEvents_enter (hb : ∀ q i : Nat, ((s.core c).stepBanks op q i).2 = none)
    (hbw : (s.core c).bWaits (wholeJob n op start buf p) = false) (he : p.enteredAt = []) (hr : 0 < p.rows) {u f : Nat}
    (hu : p.reads.head? = some (u, f)) (ht : u + 4 ≤ (s.core c).mx.clk + 1) (asks : List (Fin 48 × Requester)) :
    let k := s.core c
    ∃ t, Gives (.aRowEnter c false asks) s t ∧ (t.core c).mx.clk = k.mx.clk + 1 ∧
      (t.core c).mx.jobs = [wholeJob n op start buf { p with enteredAt := [tabGet 0 k.mx.unfrozen 4] }] ∧
      tabGet 0 (t.core c).mx.cnt 0 = tabGet 0 k.mx.cnt 0 + 4 ∧ (∀ i : Nat, i ≠ 0 → tabGet 0 (t.core c).mx.cnt i = tabGet 0 k.mx.cnt i) ∧
      (t.core c).mx.acc = k.mx.acc := by
  intro k
  refine ⟨_, exec_aRowEnter hw false asks, ?_⟩
  rw [State.core_modCore_same, Bool.false_and]
  obtain ⟨hclk, hcnt, hacc, hjobs⟩ := k.arrayCycle_mx false asks
  have active (q : Nat) := Core.counted_whole_active hs hj ha hb hbw he hr hp hu ht q
  obtain ⟨qclk, qacc⟩ := k.quarters_frame false
  have cnt := Core.quarters_cnt fun q => (active q).1
  rw [Bool.false_and] at hclk hcnt hacc hjobs
  rw [hclk, hcnt, hacc, hjobs, qclk, qacc, Core.quarters_jobs_active hs hj ha active, he]
  exact ⟨rfl, congrArg (fun j => [j]) (wholeJob_settled hp), (cnt 0).trans (if_pos rfl), fun i hi => (cnt i).trans (if_neg hi), rfl⟩

/-- While cycles are withheld no row enters, and each quarter counts CAP (R84). -/
theorem arrayEvents_cap (hwr : (s.core c).mx.wrote = false) (hwh : s.power.withhold ≠ 0 ∨ s.power.thermalW ≠ 0)
    (asks : List (Fin 48 × Requester)) :
    let k := s.core c
    ∃ t, Gives (.aRowEnter c true asks) s t ∧ (t.core c).mx.jobs = [wholeJob n op start buf p] ∧
      tabGet 0 (t.core c).mx.cnt 2 = tabGet 0 k.mx.cnt 2 + 4 ∧ (∀ i : Nat, i ≠ 2 → tabGet 0 (t.core c).mx.cnt i = tabGet 0 k.mx.cnt i) ∧
      (t.core c).mx.acc = k.mx.acc := by
  intro k
  refine ⟨_, exec_aRowEnter hw true asks, ?_⟩
  have withheld : (true && s.power.withhold.toNat + s.power.thermalW.toNat != 0) = true := by
    rw [Bool.true_and, bne_iff_ne]
    bv_omega
  rw [State.core_modCore_same, withheld]
  obtain ⟨-, hcnt, hacc, hjobs⟩ := k.arrayCycle_mx true asks
  rw [hwr, show (true && !false) = true from rfl] at hcnt hacc hjobs
  have cap := Core.counted_whole_cap hs hj ha
  have cnt := Core.quarters_cnt cap
  have stays (m : MxState) (q : Nat) : k.enterRow true m q = m := by
    unfold Core.enterRow
    rw [Core.current_whole hs hj ha, cap]
    rfl
  rw [hcnt, hacc, hjobs, (k.quarters_frame true).2, Core.quarters_jobs_same stays, hj]
  exact ⟨congrArg (fun j => [j]) (wholeJob_settled hp), (cnt 2).trans (if_pos rfl), fun i hi => (cnt i).trans (if_neg hi), rfl⟩

end WholeEvents

/-! ## O18 -/

/-- Settles O18: each event of the array, one after the other. -/
theorem arrayEvents : Obligations.ArrayEvents := by
  intro s c q b hw k
  refine ⟨fun hl hj => arrayEvents_load hw hl hj, fun hl hj => arrayEvents_load_error hw hl hj, fun e h => ⟨?_, ?_, ?_, ?_, ?_⟩,
    fun j rivals hj hr hd hm => arrayEvents_result hw hj hr hd hm,
    fun n rows start r base col hr hs hg hruns hj => arrayEvents_read hw hr hs hg hruns hj,
    fun withheld asks hj => arrayEvents_idle hw hj withheld asks,
    fun n start a alen r base add tp half p hj hp => ⟨fun he hr hl ⟨u, f, hu, ht⟩ asks => ?_, fun hwh hwr asks => ?_⟩,
    fun n start clk f r base col hg hruns hj => arrayEvents_copy hw hg hruns hj,
    fun e x y base rows col cols fmt rnd xp hq ho hs hd hf => arrayEvents_store hw hq ho hs hd hf⟩
  · intro x y base add half ho hs
    have rows : k.jobQuarters e.op = [(0, { QJob.none with rows := stepsOf (k.opClass e.op == 1) (k.tile x.toNat).cfg.rows.toNat })] := by
      rw [ho]
      rfl
    have := (arrayEvents_array h hs).1 (by rw [ho]; rfl) (by rw [ho]; rfl)
    rwa [rows] at this
  · intro r base col ho hs
    have rows : k.jobQuarters e.op = [(0, { QJob.none with rows := (k.tile r.toNat).cfg.rows.toNat })] := by
      rw [ho]
      rfl
    have := (arrayEvents_array h hs).1 (by rw [ho]; rfl) (by rw [ho]; rfl)
    rwa [rows] at this
  · exact fun r tp split hb hs => (arrayEvents_array h hs).2 r tp split hb
  · exact fun r tp split ho hs => arrayEvents_ldb h ho hs
  · exact fun x y base rows col cols fmt rnd xp clr u ho hs hr => arrayEvents_mst h ho hs hr
  · exact arrayEvents_enter (op := .mm a alen r base add tp half) rfl rfl hw hj hp (fun _ _ => rfl) hl he hr hu ht asks
  · exact arrayEvents_cap (op := .mm a alen r base add tp half) rfl rfl hw hj hp hwr hwh asks

end Sys2Proof.Machine

/-!
The starts of engine instructions (O14). Its last part lets no tm.ingest end at its start, but a read request that no path lets through ends it
there with FENCED (R247; log entry 12): `State.ingestData` asks `State.hostReaches`, and the statement does not.
-/
namespace Sys2Proof.Machine

/-- A tm.ingest of the elements of descriptor 1 to those of descriptor 0, without a transform, as it waits in its queue. -/
def fencedIngest : Entry :=
  { seq := 0, index := 0, op := .ingest 0 1 false 0 0 2, args := [], started := false, done := false, faulted := false, result := none,
    drops := 0, draws := false, resume := none }

/-- A descriptor of one element of 4 bytes at address `a`, inside its bounds. -/
def oneElement (a : Nat) : BitVec 512 := BitVec.ofNat 512 (a + 2 * 2 ^ 48 + 2 ^ 50 + 2 ^ (64 + 40))

/-- Core 0 is about to start the ingest, in a RUNNING partition, and the junctions beside its own, 1 and 2 on the ring of its die, are
fenced: no path leads to the I/O die. -/
def fencedIngestState : State :=
  { State.reset with
    parts := [(0, { Part.reset with state := .running, clusters := 1, enable := true })]
    cores := [(0, { Core.reset with
      run := .running, logical := some 0, kernel := some ⟨0, 0, 0, 1, 0, false, 0⟩, tmq := [fencedIngest],
      descs := [(0, oneElement 64), (1, oneElement 128)] })]
    fabric := { State.reset.fabric with fenced := [1, 2] } }

theorem fencedIngest_starts : Starts fencedIngestState 0 .tm fencedIngest := by decide

/-- The destination has an element, and its source index lies in the source's bounds: the ingest needs host data. -/
theorem fencedIngest_needs_host :
    let dst := descOf ((fencedIngestState.core 0).desc 0)
    let src := descOf ((fencedIngestState.core 0).desc 1)
    0 < dst.count ∧ src.inside (ingestIndex src 0 (dst.index 0)) = true := by decide +kernel

theorem fencedIngest_host_unreachable : fencedIngestState.hostReaches 0 = false := by decide +kernel

/-- No transfer is under way after the start. -/
theorem fencedIngest_ends {t : State} (h : Gives (.engineStart 0 .tm .clean) fencedIngestState t) : (t.core 0).xferTm = none := by
  have ends : (match exec (.engineStart 0 .tm .clean) fencedIngestState with
      | .next u => (u.core 0).xferTm.isNone
      | _ => false) = true := by decide +kernel
  rw [h] at ends
  exact Option.isNone_iff_eq_none.mp ends

/-- Refutes O14: the last part holds for every state, but a tm.ingest that needs host data when no path leads to its host port ends with
FENCED at its start, and leaves no transfer that waits for the host. -/
theorem not_engineStarts : ¬ Obligations.EngineStarts := by
  unfold Obligations.EngineStarts
  rintro ⟨-, -, -, -, -, ingest⟩
  obtain ⟨hcount, hinside⟩ := fencedIngest_needs_host
  obtain ⟨t, y, ht, hy, -⟩ :=
    ingest fencedIngestState 0 fencedIngest 0 1 false 0 0 2 rfl fencedIngest_starts (by decide) hcount hinside
  exact absurd (hy.symm.trans (fencedIngest_ends ht)) (Option.some_ne_none y)

end Sys2Proof.Machine

/-!
The vector engine's results (O16): what rows of results leave in an accumulator window, what each element-wise instruction writes at its start,
and the start of a row instruction.
-/
namespace Sys2Proof.Machine

/-! ## Rows of results (R113) -/

theorem zip_range_map {α : Type} (n : Nat) (f : Nat → α) :
    (List.range n).zip ((List.range n).map f) = (List.range n).map fun r => (r, f r) := by
  simpa using List.zip_map' (f := id) (g := f) (l := List.range n)

/-- Rows of results are written one after the other. -/
theorem Core.putRows_map (k : Core) (w0 w1 : Window) (d : VSel) (n : Nat) (row : Nat → List (F32 × Rnd)) :
    k.putRows w0 w1 d ((List.range n).map row) = (List.range n).foldl (fun x r => x.putRow w0 w1 d r (row r)) k := by
  rw [Core.putRows, List.length_map, List.length_range, zip_range_map, List.foldl_map]

/-- One row more is written onto the rows before it. -/
theorem Core.putRows_succ (k : Core) (w0 w1 : Window) (d : VSel) (n : Nat) (row : Nat → List (F32 × Rnd)) :
    k.putRows w0 w1 d ((List.range (n + 1)).map row) = (k.putRows w0 w1 d ((List.range n).map row)).putRow w0 w1 d n (row n) := by
  rw [Core.putRows_map, Core.putRows_map, List.range_succ, List.foldl_append]
  rfl

/-! ## Results in an accumulator window (R112) -/

/-- From `k` to `z` the first `n` rows of a window have been given `v row element` in `m` elements each, and nothing else has changed. -/
structure Core.Fills (k z : Core) (w : Window) (n m : Nat) (v : Nat → Nat → F32) : Prop where
  frame : z = { k with mx := { k.mx with acc := z.mx.acc } }
  accs : ∀ row c, c < 512 → z.mx.accAt row c =
    if w.base.toNat ≤ row ∧ row < w.base.toNat + n ∧ 16 * w.col16.toNat ≤ c ∧ c < 16 * w.col16.toNat + m then
      v (row - w.base.toNat) (c - 16 * w.col16.toNat)
    else k.mx.accAt row c

/-- A row of results goes to consecutive columns of its accumulator row. -/
theorem Core.putAccRow_map (k : Core) (w : Window) (r m : Nat) (v : Nat → F32) :
    k.putAccRow w r ((List.range m).map v) = { k with
      mx := (List.range' (16 * w.col16.toNat) m).foldl
        (fun x c => x.setAcc (w.base.toNat + r) c (v (c - 16 * w.col16.toNat))) k.mx } := by
  rw [setAcc_fold_frame, acc_setAcc_fold, List.range'_eq_map_range, List.foldl_map]
  simp only [Nat.add_sub_cancel_left]
  rw [Core.putAccRow, List.length_map, List.length_range, zip_range_map, List.foldl_map]

theorem Core.accAt_putAccRow (k : Core) (w : Window) (r m : Nat) (v : Nat → F32) (hm : 16 * w.col16.toNat + m ≤ 512) (row : Nat) {c : Nat}
    (hc : c < 512) :
    (k.putAccRow w r ((List.range m).map v)).mx.accAt row c =
      if row = w.base.toNat + r ∧ 16 * w.col16.toNat ≤ c ∧ c < 16 * w.col16.toNat + m then v (c - 16 * w.col16.toNat)
      else k.mx.accAt row c := by
  rw [Core.putAccRow_map]
  refine (accAt_setAcc_fold _ _ _ (fun i hi => ?_) k.mx row hc).trans (if_congr (and_congr_right' List.mem_range'_1) rfl rfl)
  have := List.mem_range'_1.1 hi
  omega

/-- A row after those that are written already fills the window further. -/
theorem Core.Fills.row {k z : Core} {w : Window} {n m : Nat} {v : Nat → Nat → F32} (h : k.Fills z w n m v)
    (hm : 16 * w.col16.toNat + m ≤ 512) : k.Fills (z.putAccRow w n ((List.range m).map (v n))) w (n + 1) m v := by
  refine ⟨congrArg (fun z : Core => z.putAccRow w n ((List.range m).map (v n))) h.frame, fun row c hc => ?_⟩
  rw [z.accAt_putAccRow w n m (v n) hm row hc, h.accs row c hc]
  by_cases hrow : row = w.base.toNat + n
  · subst hrow
    simp
  · rw [if_neg (fun hr => hrow hr.1)]
    exact if_congr (by omega) rfl rfl

/-- Rows of results written to the first window fill it. -/
theorem Core.putRows_fills (k : Core) (w0 w1 : Window) (n m : Nat) (res : Nat → Nat → F32 × Rnd) (hm : 16 * w0.col16.toNat + m ≤ 512) :
    k.Fills (k.putRows w0 w1 .win0 ((List.range n).map fun r => (List.range m).map (res r))) w0 n m fun r i => (res r i).1 := by
  induction n with
  | zero => exact ⟨rfl, fun row c _ => (if_neg (by omega)).symm⟩
  | succ n ih =>
    rw [Core.putRows_succ, Core.putRow, List.map_map]
    exact ih.row hm

/-- The accumulators of the window by their numbers, and those outside it. -/
theorem Core.Fills.tabGet_acc {k z : Core} {w : Window} {n m : Nat} {v : Nat → Nat → F32} (h : k.Fills z w n m v)
    (hm : 16 * w.col16.toNat + m ≤ 512) :
    (∀ r i : Nat, r < n → i < m → tabGet 0 z.mx.acc (512 * (w.base.toNat + r) + (16 * w.col16.toNat + i)) = v r i) ∧
    (∀ a : Nat, (a / 512 < w.base.toNat ∨ w.base.toNat + n ≤ a / 512 ∨ a % 512 < 16 * w.col16.toNat ∨ 16 * w.col16.toNat + m ≤ a % 512) →
      tabGet 0 z.mx.acc a = tabGet 0 k.mx.acc a) := by
  refine ⟨fun r i hr hi => ?_, fun a ha => ?_⟩
  · refine (h.accs (w.base.toNat + r) (16 * w.col16.toNat + i) (by omega)).trans ?_
    rw [if_pos (by omega), Nat.add_sub_cancel_left, Nat.add_sub_cancel_left]
  · have out := h.accs (a / 512) (a % 512) (Nat.mod_lt _ (by decide))
    rw [if_neg (by omega), MxState.accAt, MxState.accAt, Nat.div_add_mod] at out
    exact out

/-! ## Legal shapes (R112) -/

theorem windowInside_columns {w : Window} (h : windowInside w = true) : 16 * w.col16.toNat + 16 * w.cols16.toNat ≤ 512 := by
  simp only [windowInside, Bool.and_eq_true, decide_eq_true_eq] at h
  exact h.2

/-- The destination of a legal shape is a legal operand. -/
theorem Core.vecShape_selOk {k : Core} {w0 w1 : Window} {d : VSel} {srcs : List VSel} {u32 packed : Bool}
    (h : k.vecShape w0 w1 d srcs u32 packed = true) : k.selOk w0 w1 false d = true := by
  simp only [Core.vecShape, Bool.and_eq_true] at h
  exact h.1.1.1

/-- A window that is a legal operand lies inside the accumulators. -/
theorem Core.selOk_window {k : Core} {w0 w1 w : Window} {d : VSel} {u32 : Bool} (h : k.selOk w0 w1 u32 d = true)
    (hw : selWindow w0 w1 d = some w) : windowInside w = true := by
  simp only [Core.selOk, hw, Bool.and_eq_true] at h
  exact h.1.1

/-- PACKED is for tile registers alone (R112). -/
theorem Core.vecShape_packed_window {k : Core} {w0 w1 : Window} {srcs : List VSel} {u32 packed : Bool}
    (h : k.vecShape w0 w1 .win0 srcs u32 packed = true) : packed = false := by
  cases packed with
  | false => rfl
  | true => simp [Core.vecShape] at h

/-! ## The results of vx.add to vx.cvt (R113, R116) -/

section RunVec
variable (k : Core) (e : Entry) (f : VecFn) {v : VecOps} {n m : Nat}

/-- The exact result of an element of vx.add to vx.cvt. -/
def Core.exactAt (v : VecOps) (r i : Nat) : Num :=
  vecExact f (k.selElem e v.w0 v.w1 v.s1 r i) (k.selElem e v.w0 v.w1 v.s2 r i) (k.selElem e v.w0 v.w1 v.s3 r i)

theorem Core.runVec_plain (hp : v.packed = false) (hd : k.selDims v.w0 v.w1 v.d = some (n, m)) :
    k.runVec e f v = k.putRows v.w0 v.w1 v.d ((List.range n).map fun r => (List.range m).map fun i =>
      if k.selFormat v.d = 5 then (roundF32 (k.vxRnd v.rnd (k.drawOf e) r i) (k.exactAt e f v r i), .nearest)
      else (rn (k.exactAt e f v r i), k.vxRnd v.rnd (k.drawOf e) r i)) := by
  unfold Core.runVec
  rw [hd]
  cases h : v.d with
  | tile t =>
    simp only [hp, Bool.false_eq_true, if_false, Core.toFp32, beq_iff_eq]
    rfl
  | win0 => rfl
  | win1 => rfl
  | scalar x => rfl

theorem Core.runVec_packed {t : TReg} (hp : v.packed = true) (ht : v.d = .tile t) (hd : k.selDims v.w0 v.w1 v.d = some (n, m)) :
    k.runVec e f v = ((List.range n).zip ((List.range n).map fun r => packCodes 4 ((List.range m).map fun i =>
      w16Code (k.vxRnd v.rnd (k.drawOf e) r i) (k.exactAt e f v r i)))).foldl (fun x p => x.putTileRow t.toNat p.1 p.2 []) k := by
  unfold Core.runVec
  rw [hd]
  simp only [ht, hp, if_true]
  rfl

end RunVec

/-- The results of vx.add to vx.cvt fill an accumulator window, each rounded once to FP32. -/
theorem Core.runVec_fills (k : Core) (e : Entry) (f : VecFn) {v : VecOps} (hd : v.d = .win0)
    (hs : k.vecShape v.w0 v.w1 .win0 (v.sources f) (f == .cvt) v.packed = true) :
    k.Fills (k.runVec e f v) v.w0 v.w0.rows.toNat (16 * v.w0.cols16.toNat) fun r i =>
      roundF32 (k.vxRnd v.rnd (k.drawOf e) r i) (k.exactAt e f v r i) := by
  rw [k.runVec_plain e f (Core.vecShape_packed_window hs) (by rw [hd]; rfl), hd]
  exact k.putRows_fills v.w0 v.w1 _ _ _ (windowInside_columns (Core.selOk_window (Core.vecShape_selOk hs) rfl))

/-! ## The results of the unary and gradient instructions, and of vx.rand (R116, R117, R124, R127) -/

theorem Core.runMap_eq (k : Core) (e : Entry) {w0 w1 : Window} {d : VSel} {n m : Nat} (rnd : Bool) (res : Nat → Nat → F32)
    (hd : k.selDims w0 w1 d = some (n, m)) :
    k.runMap e w0 w1 d rnd res =
      k.putRows w0 w1 d ((List.range n).map fun r => (List.range m).map fun i => (res r i, k.vxRnd rnd (k.drawOf e) r i)) := by
  rw [Core.runMap, hd]
  rfl

theorem Core.selCount_eq {k : Core} {w0 w1 : Window} {d : VSel} {n m : Nat} (hd : k.selDims w0 w1 d = some (n, m)) :
    k.selCount w0 w1 d = n * m := by
  rw [Core.selCount, hd]
  rfl

/-! ## Starts (R112, R126, R128) -/

section Starts
variable {s : State} {c : CoreId} {e : Entry}

/-- vx.add to vx.cvt of a legal shape are done with their results. -/
theorem exec_engineStart_vec {f : VecFn} {v : VecOps} (h : Starts s c .vx e) (ho : e.op = .vec f v)
    (hs : (s.core c).vecShape v.w0 v.w1 v.d (v.sources f) (f == .cvt) v.packed = true) :
    Gives (.engineStart c .vx .clean) s ((s.setCore c ((s.core c).runVec e f v)).entryDone c .vx e none) := by
  refine (exec_engineStart_clean h).trans (congrArg Host.Outcome.next ?_)
  simp [State.startOp, ho, State.startVec, hs]

section Map
variable {d : VSel} {rnd : Bool} {w0 w1 : Window} {n m : Nat} (h : Starts s c .vx e) (hd : (s.core c).selDims w0 w1 d = some (n, m))
include h hd

/-- An instruction that gives each element an FP32 result and counts it as a lookup is done with its results converted. -/
theorem exec_engineStart_map (res : Nat → Nat → F32)
    (hop : s.startOp c .vx e = (s.setCore c (((s.core c).runMap e w0 w1 d rnd res).lookups ((s.core c).selCount w0 w1 d))).entryDone
      c .vx e none) :
    let k := s.core c
    let z := k.putRows w0 w1 d ((List.range n).map fun r => (List.range m).map fun i => (res r i, k.vxRnd rnd (k.drawOf e) r i))
    Gives (.engineStart c .vx .clean) s ((s.setCore c (z.lookups (n * m))).entryDone c .vx e none) := by
  rw [Core.runMap_eq _ e rnd res hd, Core.selCount_eq hd] at hop
  exact (exec_engineStart_clean h).trans (congrArg Host.Outcome.next hop)

/-- vx.rand is done with its random values, which are converted to nearest (R117). -/
theorem exec_engineStart_rand {u : Bool} (ho : e.op = .rand d u w0 w1) (hs : (s.core c).vecShape w0 w1 d [] false false = true) :
    let k := s.core c
    Gives (.engineStart c .vx .clean) s ((s.setCore c (k.putRows w0 w1 d ((List.range n).map fun r => (List.range m).map fun i =>
      (rn (.fin ⟨false, k.vxRand 3 (k.drawOf e) r i, -24⟩), .nearest)))).entryDone c .vx e none) := by
  refine (exec_engineStart_clean h).trans (congrArg Host.Outcome.next ?_)
  rw [State.startOp, ho]
  simp only [State.startRand, hs, Bool.not_true, Bool.false_eq_true, if_false, Core.runMap_eq _ e false _ hd]
  rfl

end Map

/-- A row instruction whose streams are read and whose output rows are stored counts its exponentials and is done (R128, R133). -/
theorem exec_engineStart_row {u v : State} {f : RowFn} {r : RowOps} {vs : List (List Num)} (h : Starts s c .vx e) (ho : e.op = .row f r)
    (hs : rowShape e f r = true) (hr : s.streams c (rowN e) ((rowStreams e f r).1 ++ (rowStreams e f r).2) = (u, .ok vs))
    (hw : u.storeRows c ((rowResults e f r vs).1.map fun o => (o.1, (u.core c).rowOut e r o.2)) = (v, none)) :
    Gives (.engineStart c .vx .clean) s ((v.modCore c (·.lookups (rowResults e f r vs).2)).entryDone c .vx e none) := by
  refine (exec_engineStart_clean h).trans (congrArg Host.Outcome.next ?_)
  simp [State.startOp, ho, State.startRow, hs, hr, hw]

end Starts

/-! ## O16 -/

/-- The results of vx.add to vx.cvt in an accumulator window, and what they leave. -/
theorem elementWise_window {s : State} {c : CoreId} {e : Entry} {f : VecFn} {v : VecOps} (ho : e.op = .vec f v)
    (h : Starts s c .vx e) (hd : v.d = .win0)
    (hs : (s.core c).vecShape v.w0 v.w1 .win0 (v.sources f) (f == .cvt) v.packed = true) :
    let k := s.core c
    let cols := 16 * v.w0.cols16.toNat
    ∃ m : Tab F32, Gives (.engineStart c .vx .clean) s ((s.setCore c { k with mx := { k.mx with acc := m } }).entryDone c .vx e none) ∧
      (∀ r i : Nat, r < v.w0.rows.toNat → i < cols → tabGet 0 m (512 * (v.w0.base.toNat + r) + (16 * v.w0.col16.toNat + i)) =
        roundF32 (k.vxRnd v.rnd (k.drawOf e) r i) (k.exactAt e f v r i)) ∧
      (∀ n : Nat, (n / 512 < v.w0.base.toNat ∨ v.w0.base.toNat + v.w0.rows.toNat ≤ n / 512 ∨ n % 512 < 16 * v.w0.col16.toNat ∨
        16 * v.w0.col16.toNat + cols ≤ n % 512) → tabGet 0 m n = tabGet 0 k.mx.acc n) := by
  intro k cols
  have fills := k.runVec_fills e f hd hs
  refine ⟨(k.runVec e f v).mx.acc, ?_,
    fills.tabGet_acc (windowInside_columns (Core.selOk_window (Core.vecShape_selOk hs) rfl))⟩
  rw [← fills.frame]
  exact exec_engineStart_vec h ho (by rw [hd]; exact hs)

/-- Settles O16: the results fill the destination row by row from the values before them, and each start writes them and is done. -/
theorem elementWise : Obligations.ElementWise := by
  unfold Obligations.ElementWise
  refine ⟨fun s c e f v ho h hd hs => ?_, fun s c e d s1 s2 rnd w0 w1 n m h hd => ⟨?_, ?_, ?_, ?_, ?_, ?_⟩, ?_⟩
  · obtain ⟨m, gives, inside, outside⟩ := elementWise_window ho h hd hs
    refine ⟨m, gives, fun r i hr hi => (inside r i hr hi).trans ?_, outside⟩
    cases f <;> rfl
  · rintro f v ho rfl rfl rfl rfl hp hs
    have := exec_engineStart_vec h ho (by rw [hp]; exact hs)
    rwa [Core.runVec_plain _ _ _ hp hd] at this
  · rintro f v t ho hv rfl rfl rfl rfl hp hs
    rw [← hv] at hs hd
    have := exec_engineStart_vec h ho (by rw [hp]; exact hs)
    rwa [Core.runVec_packed _ _ _ hp hv hd] at this
  · exact fun slot T ho hs ht => exec_engineStart_map h hd _ (by simp [State.startOp, ho, State.startAct, hs, ht])
  · exact fun pair T ho hs ht => exec_engineStart_map h hd _ (by simp [State.startOp, ho, State.startActd, hs, ht])
  · exact fun f ho hs => exec_engineStart_map h hd (fun r i => fixFn f ((s.core c).selElem e w0 w1 s1 r i))
      (by simp [State.startOp, ho, State.startFn, hs])
  · exact fun u ho hs => exec_engineStart_rand h hd ho hs
  · exact fun s u v c e f r vs ho h hs hr hw => exec_engineStart_row h ho hs hr hw

end Sys2Proof.Machine

/-!
The words of the kernel instructions (O59): fields that hold their values read back as they were packed, and so do the operands of every
instruction, group by group as the decoder takes the bits apart.
-/
namespace Sys2Proof.Machine

/-! ## Fields -/

/-- A field holds its value. -/
def Fits (f : Nat × Nat) : Prop := f.2 < 2 ^ f.1

@[simp] theorem fits_toNat {w : Nat} (x : BitVec w) : Fits (w, x.toNat) := x.isLt

@[simp] theorem fits_zero (w : Nat) : Fits (w, 0) := Nat.two_pow_pos w

@[simp] theorem fits_one : Fits (1, 1) := Nat.one_lt_two

@[simp] theorem fits_flag (b : Bool) : Fits (1, flag b) := b.toNat_lt

@[simp] theorem fits_mod (w n : Nat) : Fits (w, n % 2 ^ w) := Nat.mod_lt _ (Nat.two_pow_pos w)

/-- The upper bits of a value. -/
@[simp] theorem fits_upper {w : Nat} (x : BitVec (w + 5)) : Fits (5, x.toNat / 2 ^ w) :=
  Nat.div_lt_of_lt_mul (by rw [← pow_add]; exact x.isLt)

@[simp] theorem fits_code (s : VSel) : Fits (8, VSel.code s) := by
  unfold Fits VSel.code
  cases s <;> dsimp only <;> omega

@[simp] theorem fits_fixCode (f : FixFn) : Fits (3, fixCode f) := by
  unfold Fits
  cases f <;> decide

@[simp] theorem unpackBits_nil (n : Nat) : unpackBits [] n = [] := rfl

/-- The lowest field is read and the others remain. -/
@[simp] theorem unpackBits_packBits_cons {w v : Nat} (ws : List Nat) (t : List (Nat × Nat)) (h : Fits (w, v)) :
    unpackBits (w :: ws) (packBits ((w, v) :: t)) = v :: unpackBits ws (packBits t) := by
  have hv : v < 2 ^ w := h
  rw [unpackBits, packBits, Nat.add_mul_mod_self_left, Nat.mod_eq_of_lt hv, Nat.add_mul_div_left _ _ (Nat.two_pow_pos w),
    Nat.div_eq_of_lt hv, Nat.zero_add]

/-- Fields that hold their values are read as they were packed. -/
theorem unpackBits_packBits {fs : List (Nat × Nat)} (h : ∀ f ∈ fs, Fits f) : unpackBits (fs.map Prod.fst) (packBits fs) = fs.map Prod.snd := by
  induction fs with
  | nil => rfl
  | cons f fs ih =>
    obtain ⟨hf, hfs⟩ := List.forall_mem_cons.1 h
    rw [List.map_cons, unpackBits_packBits_cons _ _ hf, ih hfs]
    rfl

/-- Fields within their bits fill no more bits than they have. -/
theorem packBits_lt {fs : List (Nat × Nat)} (h : ∀ f ∈ fs, Fits f) : packBits fs < 2 ^ (fs.map Prod.fst).sum := by
  induction fs with
  | nil => decide
  | cons f fs ih =>
    obtain ⟨w, v⟩ := f
    obtain ⟨hv, hfs⟩ := List.forall_mem_cons.1 h
    have hv : v < 2 ^ w := hv
    have ht := ih hfs
    rw [packBits, List.map_cons, List.sum_cons, pow_add]
    calc v + 2 ^ w * packBits fs < 2 ^ w * (packBits fs + 1) := by rw [Nat.mul_succ]; omega
      _ ≤ _ := Nat.mul_le_mul_left _ ht

/-- Fields at the front are one field of all their bits. -/
theorem packBits_append (fs gs : List (Nat × Nat)) : packBits (fs ++ gs) = packBits (((fs.map Prod.fst).sum, packBits fs) :: gs) := by
  induction fs with
  | nil => simp [packBits]
  | cons f fs ih =>
    obtain ⟨w, v⟩ := f
    simp only [List.cons_append, packBits, ih, List.map_cons, List.sum_cons, pow_add]
    ring

/-- Bits that are 0 are so in any two parts. -/
theorem packBits_zero_split (a b : Nat) (t : List (Nat × Nat)) : packBits ((a + b, 0) :: t) = packBits ((a, 0) :: (b, 0) :: t) := by
  simp only [packBits, pow_add]
  ring

/-- And in any three. -/
theorem packBits_zero_split3 (a b c : Nat) (t : List (Nat × Nat)) :
    packBits ((a + b + c, 0) :: t) = packBits ((a, 0) :: (b, 0) :: (c, 0) :: t) := by
  simp only [packBits, pow_add]
  ring

/-! ## Operands of one field -/

@[simp] theorem fv_toNat {w : Nat} (x : BitVec w) : (fv x.toNat : BitVec w) = x := by simp [fv]

@[simp] theorem fb_flag (b : Bool) : fb (flag b) = b := by cases b <;> rfl

@[simp] theorem vselOf_code (s : VSel) : vselOf (VSel.code s) = s := by
  cases s with
  | tile t =>
    have h : t.toNat / 64 % 4 = 0 := by omega
    simp [vselOf, VSel.code, h]
  | win0 => rfl
  | win1 => rfl
  | scalar r =>
    have h : (0xC0 + r.toNat) / 64 % 4 = 3 := by omega
    have hr : BitVec.ofNat 5 (0xC0 + r.toNat) = r := by
      apply BitVec.eq_of_toNat_eq
      simp only [BitVec.toNat_ofNat]
      omega
    simp [vselOf, VSel.code, h, hr]

/-- The 40-bit immediate of a comparison stands in two fields. -/
@[simp] theorem fv_split (v : BitVec 40) : (fv (v.toNat % 2 ^ 35 + 2 ^ 35 * (v.toNat / 2 ^ 35)) : BitVec 40) = v := by
  rw [Nat.mod_add_div, fv_toNat]

/-- The short form of an immediate holds its 39 low bits. -/
@[simp] theorem fv_low (v : Word) : (fv (v.toNat % 2 ^ 39) : BitVec 39) = v.setWidth 39 := by
  apply BitVec.eq_of_toNat_eq
  simp [fv, BitVec.toNat_setWidth]

/-! ## Operations of a class -/

@[simp] theorem aluOfMinor_aluMinor (f : AluFn) : aluOfMinor (aluMinor f) = f := by cases f <;> rfl
@[simp] theorem immOfMinor_immMinor (f : ImmFn) : immOfMinor (immMinor f) = f := by cases f <;> rfl
@[simp] theorem cmpOfMinor_cmpMinor (f : CmpFn) : cmpOfMinor (cmpMinor f) = f := by cases f <;> rfl
@[simp] theorem predOfMinor_predMinor (f : PredFn) : predOfMinor (predMinor f) = f := by cases f <;> rfl
@[simp] theorem vecOfMinor_vecMinor (f : VecFn) : vecOfMinor (vecMinor f) = f := by cases f <;> rfl
@[simp] theorem fixOfCode_fixCode (f : FixFn) : fixOfCode (fixCode f) = some f := by cases f <;> rfl
@[simp] theorem rowOfMinor_rowMinor (f : RowFn) : rowOfMinor (rowMinor f) = f := by cases f <;> rfl

/-- No two-source operation has the MINOR of a conversion. -/
@[simp] theorem aluMinor_ne_conv (f : AluFn) : aluMinor f ≠ 0x13 ∧ aluMinor f ≠ 0x14 := by cases f <;> decide

@[simp] theorem cmpMinor_lt (f : CmpFn) : cmpMinor f < 0x10 := by cases f <;> decide
@[simp] theorem predMinor_not_lt (f : PredFn) : ¬ predMinor f < 0x10 := by cases f <;> decide

/-- Every instruction's MAJOR and MINOR are assigned. -/
theorem opcodeAssigned_opcodeOf (op : Op) : opcodeAssigned (opcodeOf op).1 (opcodeOf op).2 = true := by
  cases op with
  | alu f => cases f <;> rfl
  | conv f => cases f <;> rfl
  | immOp f => cases f <;> rfl
  | cmp f => cases f <;> rfl
  | pred f => cases f <;> rfl
  | vec f => cases f <;> rfl
  | row f => cases f <;> rfl
  | _ => rfl

/-- An assigned MAJOR and an assigned MINOR have 5 bits. -/
theorem fits_of_opcodeAssigned {major minor : Nat} (h : opcodeAssigned major minor = true) : Fits (5, major) ∧ Fits (5, minor) := by
  change major < 2 ^ 5 ∧ minor < 2 ^ 5
  unfold opcodeAssigned at h
  split at h <;> simp at h <;> omega

/-! ## The operand fields (Tables 7.4 to 7.10) -/

theorem operandFields_fit (x : Bool) (op : Op) : ∀ f ∈ operandFields x op, Fits f := by
  cases op with
  | cmp f pd a b => cases b <;> simp [operandFields, -Nat.reducePow]
  | immOp f d a imm => cases x <;> simp [operandFields, -Nat.reducePow]
  | _ => simp [operandFields]

/-- The operands take bits 48:0. -/
theorem operandFields_width (x : Bool) (op : Op) : ((operandFields x op).map Prod.fst).sum = 49 := by
  cases op with
  | cmp f pd a b => cases b <;> rfl
  | _ => rfl

/-! ## The extension word -/

theorem extFields_fit (op : Op) : ∀ f ∈ extFields op, Fits f := by
  cases op <;> simp [extFields, windowFields]

theorem extFields_width (op : Op) : ((extFields op).map Prod.fst).sum ≤ 64 := by
  cases op <;> simp [extFields, windowFields]

/-- A window is read from its 32 bits, whatever stands above them. -/
theorem windowOf_packBits (w : Window) (n : Nat) : windowOf (packBits (windowFields w) + 2 ^ 32 * n) = w := by
  obtain ⟨base, rows, col16, cols16⟩ := w
  simp only [windowOf, windowFields, packBits, Window.mk.injEq, ← BitVec.toNat_inj, BitVec.toNat_ofNat]
  omega

/-- The two windows of an extension word. -/
theorem windowOf_ext (w0 w1 : Window) :
    windowOf (packBits (windowFields w0 ++ windowFields w1)) = w0 ∧ windowOf (packBits (windowFields w0 ++ windowFields w1) / 2 ^ 32) = w1 := by
  have hlt : packBits (windowFields w0) < 2 ^ 32 := packBits_lt (fs := windowFields w0) (by simp [windowFields])
  have happ : packBits (windowFields w0 ++ windowFields w1) = packBits (windowFields w0) + 2 ^ 32 * packBits (windowFields w1) :=
    packBits_append _ _
  rw [happ, windowOf_packBits, Nat.add_mul_div_left _ _ (by decide), Nat.div_eq_of_lt hlt, Nat.zero_add]
  exact ⟨rfl, by simpa using windowOf_packBits w1 0⟩

/-- The extension word that the decoder reads: 0 where there is none. -/
def extRead (x : Bool) (op : Op) : Nat := if x then packBits (extFields op) else 0

/-- An instruction whose selectors name no window has none in its operands (R163), and one that names some reads both. -/
theorem windowOf_read {sels : List VSel} {w0 w1 : Window} {x : Bool} (hw : windowsWf sels w0 w1 = true)
    (hx : x = sels.any VSel.isWindow) :
    let e := if x then packBits (windowFields w0 ++ windowFields w1) else 0
    windowOf e = w0 ∧ windowOf (e / 2 ^ 32) = w1 := by
  cases x with
  | true => exact windowOf_ext w0 w1
  | false =>
    have hno : ∀ v ∈ sels, v.isWindow = false := by simpa using hx.symm
    have h0 : VSel.win0 ∉ sels := fun h => by simpa [VSel.isWindow] using hno _ h
    have h1 : VSel.win1 ∉ sels := fun h => by simpa [VSel.isWindow] using hno _ h
    have hz : w0 = Window.zero ∧ w1 = Window.zero := by simpa [windowsWf, h0, h1] using hw
    rw [hz.1, hz.2]
    exact ⟨rfl, rfl⟩

/-! ## Decoding -/

/-- The selectors and the windows of an instruction that has some. -/
def windowOperands : Op → Option (List VSel × Window × Window)
  | .vec f v => some (v.d :: v.sources f, v.w0, v.w1)
  | .act d s _ _ w0 w1 => some ([d, s], w0, w1)
  | .actd d g y _ _ w0 w1 => some ([d, g, y], w0, w1)
  | .fn _ d s _ w0 w1 => some ([d, s], w0, w1)
  | .rand d _ w0 w1 => some ([d], w0, w1)
  | _ => none

/-- A window that no selector of a well-formed instruction names is 0 (R163). -/
theorem windowsWf_of_wf {op : Op} {sels : List VSel} {w0 w1 : Window} (hw : op.wf = true)
    (ho : windowOperands op = some (sels, w0, w1)) : windowsWf sels w0 w1 = true := by
  cases op <;> simp only [windowOperands, Option.some.injEq, Prod.mk.injEq, reduceCtorEq] at ho <;> obtain ⟨rfl, rfl, rfl⟩ := ho <;>
    simp only [Op.wf, VecOps.wf, Bool.and_eq_true] at hw
  case fn | rand => exact hw.2
  case vec | act => exact hw.1.2
  case actd => exact hw.1.1.2

/-- The operands of a well-formed instruction are decoded from its fields, whatever its class. Where a class reads fields that one of its
instructions does not use, the unused bits are taken apart as the class takes them. -/
theorem decodeFields_operandFields {x : Bool} {op : Op} (hw : op.wf = true) (hx : ∀ b, needsExt op = some b → x = b)
    (hi : x = false → ∀ f d a imm, op = .immOp f d a imm → imm = (imm.setWidth 39).signExtend 64) :
    decodeFields (opcodeOf op).1 (opcodeOf op).2 (packBits (operandFields x op)) (extRead x op) x = some op := by
  cases op with
  | immOp f d a imm =>
    cases x with
    | false => simp [decodeFields, opcodeOf, operandFields, -Nat.reducePow, ← hi rfl f d a imm rfl]
    | true =>
      have he : extRead true (.immOp f d a imm) = imm.toNat := by simp [extRead, extFields, packBits]
      simp [decodeFields, opcodeOf, operandFields, he]
  | cmp f pd a b => cases b <;> simp [decodeFields, opcodeOf, operandFields, -Nat.reducePow]
  | conv f d a => cases f <;> simp [decodeFields, opcodeOf, operandFields, convMinor]
  | br off =>
    have h17 : packBits [(17, 0)] = packBits [(12, 0), (5, 0)] := packBits_zero_split 12 5 []
    simp [decodeFields, opcodeOf, operandFields, h17]
  | endK =>
    rw [operandFields, packBits_zero_split3 32 12 5]
    simp [decodeFields, opcodeOf]
  | nopK | fence =>
    rw [operandFields, packBits_zero_split3 8 36 5]
    simp [decodeFields, opcodeOf]
  | tld | tst =>
    rw [operandFields, packBits_zero_split 27 6]
    simp [decodeFields, opcodeOf]
  | dld | dst =>
    rw [operandFields, packBits_zero_split 37 3]
    simp [decodeFields, opcodeOf]
  | sbind | sread =>
    rw [operandFields, packBits_zero_split3 30 5 5]
    simp [decodeFields, opcodeOf]
  | sadd =>
    rw [operandFields, packBits_zero_split 30 5]
    simp [decodeFields, opcodeOf]
  | mmq =>
    obtain rfl : x = true := hx true rfl
    simp [decodeFields, opcodeOf, operandFields, extRead, extFields, quarterOf]
  | row =>
    obtain rfl : x = true := hx true rfl
    simp [decodeFields, opcodeOf, operandFields, extRead, extFields]
  | vec | act | actd | fn =>
    obtain ⟨h0, h1⟩ := windowOf_read (windowsWf_of_wf hw rfl) (hx _ rfl)
    simp [decodeFields, opcodeOf, operandFields, extRead, extFields, h0, h1, -Nat.reducePow]
  | rand d =>
    obtain ⟨h0, h1⟩ := windowOf_read (windowsWf_of_wf hw rfl) ((hx _ rfl).trans (Bool.or_false d.isWindow).symm)
    simp [decodeFields, opcodeOf, operandFields, extRead, extFields, h0, h1, -Nat.reducePow]
  | _ => simp [decodeFields, opcodeOf, operandFields]

/-- The fields of a first word: the operands below, and the guard, X, MINOR and MAJOR (Table 7.2). -/
def firstFields (x : Bool) (i : GOp) : List (Nat × Nat) :=
  [(49, packBits (operandFields x i.op)), (3, i.g.pred.toNat), (1, flag i.g.neg), (1, flag x), (5, (opcodeOf i.op).2), (5, (opcodeOf i.op).1)]

theorem encodeOp_first (x : Bool) (i : GOp) : (encodeOp x i).1 = packBits (firstFields x i) :=
  (packBits_append _ _).trans (by rw [operandFields_width]; rfl)

theorem firstFields_fit (x : Bool) (i : GOp) : ∀ f ∈ firstFields x i, Fits f := by
  obtain ⟨hmajor, hminor⟩ := fits_of_opcodeAssigned (opcodeAssigned_opcodeOf i.op)
  have hop : Fits (49, packBits (operandFields x i.op)) := by
    have h := packBits_lt (operandFields_fit x i.op)
    rwa [operandFields_width] at h
  rw [firstFields]
  simp only [List.forall_mem_cons]
  exact ⟨hop, fits_toNat _, fits_flag _, fits_flag _, hminor, hmajor, by simp⟩

theorem unpackBits_encodeOp (x : Bool) (i : GOp) :
    unpackBits [49, 3, 1, 1, 5, 5] (encodeOp x i).1 = (firstFields x i).map Prod.snd := by
  rw [encodeOp_first]
  exact unpackBits_packBits (firstFields_fit x i)

theorem encodeOp_lt (x : Bool) (i : GOp) : (encodeOp x i).1 < 2 ^ 64 := by
  rw [encodeOp_first]
  exact packBits_lt (firstFields_fit x i)

theorem encodeOp_ext_getD (x : Bool) (i : GOp) : (encodeOp x i).2.getD 0 = extRead x i.op := by
  cases x <;> rfl

theorem extFields_lt (op : Op) : packBits (extFields op) < 2 ^ 64 :=
  (packBits_lt (extFields_fit op)).trans_le (Nat.pow_le_pow_right (by decide) (extFields_width op))

/-- The words of a well-formed instruction pass the checks 4 to 6 of Table 7.14, and are read as the instruction. -/
theorem decodeOp_encodeOp {x : Bool} {i : GOp} (hw : i.op.wf = true) (hx : ∀ b, needsExt i.op = some b → x = b)
    (hi : x = false → ∀ f d a imm, i.op = .immOp f d a imm → imm = (imm.setWidth 39).signExtend 64) :
    decodeOp (encodeOp x i).1 (encodeOp x i).2 = some i := by
  unfold decodeOp
  simp only [unpackBits_encodeOp, firstFields, List.map_cons, List.map_nil, encodeOp_ext_getD, opcodeAssigned_opcodeOf, Bool.not_true,
    Bool.false_eq_true, if_false, fb_flag, fv_toNat, decodeFields_operandFields hw hx hi]
  cases h : needsExt i.op with
  | none => simp [hw]
  | some b => simp [hw, hx b h]

/-! ## O59 -/

/-- Settles O59: the fields of each word hold their values, so the decoder takes the same values apart, and what it reads encodes as the words. -/
theorem kernelWordsDecode : Obligations.KernelWordsDecode := by
  unfold Obligations.KernelWordsDecode
  intro x i hw hx hi w
  refine ⟨decodeOp_encodeOp hw hx hi, encodeOp_lt x i, ?_, fun e he => ?_⟩
  · cases x <;> rfl
  · cases x with
    | false => cases he
    | true =>
      cases he
      exact extFields_lt i.op

end Sys2Proof.Machine

/-!
The sequencer's own instructions: registers, scalar and predicate results and system values (O3, O4, O5, O7).
-/
namespace Sys2Proof.Machine

/-! ## Registers (R150) -/

theorem Core.reg_zero (k : Core) : k.reg 0 = 0 := if_pos rfl

theorem Core.pred_zero (k : Core) : k.pred 0 = true := if_pos rfl

theorem Core.setReg_zero (k : Core) (v : Word) : k.setReg 0 v = k := if_pos rfl

theorem Core.setPred_zero (k : Core) (v : Bool) : k.setPred 0 v = k := if_pos rfl

theorem Core.pred_setPred (k : Core) (p q : PReg) (v : Bool) :
    (k.setPred p v).pred q = if q = 0 then true else if q = p then v else k.pred q := by
  by_cases hq : q = 0
  · rw [hq, Core.pred_zero, if_pos rfl]
  by_cases hp : p = 0
  · rw [hp, Core.setPred_zero, if_neg hq, if_neg hq]
  · simp only [Core.setPred, Core.pred, hp, hq, if_false, tabGet_tabPut, BitVec.toNat_inj, eq_comm]

/-! ## O3 -/

/-- Settles O3: s0 and p0 are no entries of the register tables; every other register is. -/
theorem hardwiredRegisters : Obligations.HardwiredRegisters := by
  unfold Obligations.HardwiredRegisters
  intro k r q v x y b
  refine ⟨k.reg_zero, k.pred_zero, k.setReg_zero v, k.setPred_zero b, ?_, k.pred_setPred x y b⟩
  rw [Core.reg_setReg]
  by_cases hq : q = 0
  · subst hq
    rw [if_pos rfl, k.reg_zero]
    by_cases hr : 0 = r
    · rw [if_pos hr, if_pos hr.symm]
    · rw [if_neg hr]
  · rw [if_neg hq]
    by_cases hr : q = r
    · rw [if_pos hr, if_pos hr, if_neg (hr ▸ hq)]
    · rw [if_neg hr, if_neg hr]

/-! ## Results (R156, R157) -/

/-- The upper half of the product of two unsigned words. -/
theorem aluOp_mulhu (a b : Word) : aluOp .mulhu a b = ((a.setWidth 128 * b.setWidth 128) >>> 64).setWidth 64 := by
  have hlt : a.toNat * b.toNat < 2 ^ 128 := (Nat.mul_lt_mul'' a.isLt b.isLt).trans_eq (pow_add 2 64 64).symm
  apply BitVec.eq_of_toNat_eq
  simp only [aluOp, BitVec.toNat_ofNat, BitVec.toNat_setWidth, BitVec.toNat_ushiftRight, BitVec.toNat_mul, Nat.shiftRight_eq_div_pow]
  rw [Nat.mod_eq_of_lt (a := a.toNat) (by omega), Nat.mod_eq_of_lt (a := b.toNat) (by omega), Nat.mod_eq_of_lt hlt]

theorem ite_slt {α : Type} (a b : Word) (x y : α) : (if a.slt b then x else y) = if a.toInt < b.toInt then x else y := by
  simp only [BitVec.slt, decide_eq_true_eq]

theorem ite_ult {α : Type} (a b : Word) (x y : α) : (if a.ult b then x else y) = if a.toNat < b.toNat then x else y := by
  simp only [BitVec.ult, decide_eq_true_eq]

theorem cmpOp_ne (a b : Word) : cmpOp .ne a b = decide (a ≠ b) := by
  simp only [cmpOp, bne, beq_eq_decide, decide_not]

theorem cmpOp_ge (a b : Word) : cmpOp .ge a b = decide (b.toInt ≤ a.toInt) := by
  simp only [cmpOp, BitVec.slt, ← decide_not, not_lt]

theorem cmpOp_geu (a b : Word) : cmpOp .geu a b = decide (b.toNat ≤ a.toNat) := by
  simp only [cmpOp, BitVec.ult, ← decide_not, not_lt]

section Issue
variable {s : State} {c : CoreId} {g : Guard} {op : Op} {n : Nat} {i : Instr}

/-- A scalar instruction that issues takes its cycle, leaves the platform queue and writes SD. -/
theorem gives_scalar {d : SReg} {v : Core → Word} {w : Word} (hx : exec i s = s.scalar c g op d v) (hv : v (s.core c) = w)
    (h : Issues s c ⟨g, op⟩ n) : Gives i s (s.setCore c ((s.core c).pop.setReg d w)) :=
  hx.trans ((State.attempt_issues _ h).trans (by rw [State.modCore, hv]))

/-- So does one that writes PD. -/
theorem gives_predicate {d : PReg} {v : Core → Bool} {w : Bool} (hx : exec i s = s.predicate c g op d v) (hv : v (s.core c) = w)
    (h : Issues s c ⟨g, op⟩ n) : Gives i s (s.setCore c ((s.core c).pop.setPred d w)) :=
  hx.trans ((State.attempt_issues _ h).trans (by rw [State.modCore, hv]))

end Issue

/-! ## O4 -/

/-- Settles O4: each instruction is one scalar issue with the result of its operation. -/
theorem scalarResults : Obligations.ScalarResults := by
  unfold Obligations.ScalarResults
  refine ⟨fun s c g d a b n => ?_, fun s c g d a imm n => ?_⟩
  · intro k x y f does
    exact ⟨gives_scalar rfl rfl, gives_scalar rfl rfl, gives_scalar rfl rfl, gives_scalar rfl (aluOp_mulhu x y), gives_scalar rfl rfl,
      gives_scalar rfl rfl, gives_scalar rfl rfl, gives_scalar rfl rfl, gives_scalar rfl rfl, gives_scalar rfl rfl,
      gives_scalar rfl (ite_slt x y x y), gives_scalar rfl (ite_slt x y y x), gives_scalar rfl (ite_ult x y x y),
      gives_scalar rfl (ite_ult x y y x), gives_scalar rfl rfl, gives_scalar rfl rfl, gives_scalar rfl rfl⟩
  · intro k x does
    exact ⟨gives_scalar rfl rfl, gives_scalar rfl rfl, gives_scalar rfl rfl, gives_scalar rfl rfl, gives_scalar rfl rfl, gives_scalar rfl rfl,
      gives_scalar rfl rfl, gives_scalar rfl rfl, gives_scalar rfl rfl⟩

/-! ## O5 -/

/-- Settles O5: each instruction is one issue that writes PD. -/
theorem predicateResults : Obligations.PredicateResults := by
  unfold Obligations.PredicateResults
  intro s c g pd pa pb a b n k x y u v fx fy does
  have hy : k.cmpSrc b = y := by cases b <;> rfl
  refine ⟨gives_predicate rfl ?_, gives_predicate rfl ?_, gives_predicate rfl ?_, gives_predicate rfl ?_, gives_predicate rfl ?_,
    gives_predicate rfl ?_, gives_predicate rfl ?_, gives_predicate rfl ?_, gives_predicate rfl ?_, gives_predicate rfl rfl,
    gives_predicate rfl rfl, gives_predicate rfl rfl, gives_predicate rfl rfl⟩
  all_goals rw [hy]
  · rfl
  · exact cmpOp_ne x y
  · rfl
  · exact cmpOp_ge x y
  · rfl
  · exact cmpOp_geu x y
  · rfl
  · rfl
  · rfl

/-! ## System values (R160) -/

section System
variable {s : State} {c : CoreId} {g : Guard} {sd : SReg} {sel : BitVec 8} {n : Nat}

/-- sq.rdsys of any selector but 7 writes its value and changes nothing else. -/
theorem gives_sqRdsys {v : Word} (hs : sel ≠ 7) (hv : s.sysValue c sel = v) (h : Issues s c ⟨g, .rdsys sd sel⟩ n) :
    Gives (.sqRdsys c g sd sel) s (s.setCore c ((s.core c).pop.setReg sd v)) := by
  show execSqRdsys c g sd sel s = _
  unfold execSqRdsys
  rw [State.attempt_issues _ h, if_neg hs, hv, State.modCore]

/-- sq.rdsys of the cycle count advances the count to what it has read. -/
theorem gives_sqRdsys_cycles (h : Issues s c ⟨g, .rdsys sd 7⟩ n) :
    Gives (.sqRdsys c g sd 7) s (s.setCore c { (s.core c).pop.setReg sd ((s.core c).cyclesNow s.freeCtr) with
      cycles := (s.core c).cyclesNow s.freeCtr + 1 }).tick := by
  show execSqRdsys c g sd 7 s = _
  unfold execSqRdsys
  rw [State.attempt_issues _ h, if_pos rfl, State.modCore, State.core_modCore_same, State.modCore, State.setCore_setCore]
  rfl

end System

theorem put_zero (v : Nat) : put 0 v = BitVec.ofNat 64 v := by rw [put, pow_zero, Nat.mul_one]

/-- The values of the selectors 0 to 3 and 6, which hang on the core's kernel, number and partition. -/
theorem State.sysValue_kernel {s : State} {c : CoreId} {r : KernelRef} (h : (s.core c).kernel = some r) :
    s.sysValue c 1 = BitVec.ofNat 64 r.rank ∧ s.sysValue c 2 = BitVec.ofNat 64 r.size ∧ s.sysValue c 6 = r.arg := by
  have hrank : s.sysValue c 1 = put 0 (((s.core c).kernel.map (·.rank)).getD 0) := rfl
  have hsize : s.sysValue c 2 = put 0 (((s.core c).kernel.map (·.size)).getD 0) := rfl
  have harg : s.sysValue c 6 = ((s.core c).kernel.map (·.arg)).getD 0 := rfl
  rw [hrank, hsize, harg, h]
  exact ⟨put_zero _, put_zero _, rfl⟩

theorem State.sysValue_logical {s : State} {c : CoreId} {l : BitVec 8} (h : (s.core c).logical = some l) :
    s.sysValue c 0 = l.setWidth 64 := by
  have hv : s.sysValue c 0 = put 0 (((s.core c).logical.map BitVec.toNat).getD 0) := rfl
  rw [hv, h, put_zero]
  exact BitVec.ofNat_toNat 64 l

theorem State.sysValue_partition {s : State} {c : CoreId} {p : Nat} (h : s.partOf c = some p) : s.sysValue c 3 = BitVec.ofNat 64 p := by
  have hv : s.sysValue c 3 = put 0 ((s.partOf c).getD 0) := rfl
  rw [hv, h]
  exact put_zero p

/-! ## O7 -/

/-- Settles O7: the value of each row of Table 7.5. -/
theorem systemValues : Obligations.SystemValues := by
  unfold Obligations.SystemValues
  intro s c g sd sel n k k1 does gives
  refine ⟨fun r hr => ?_, fun l hl => ?_, fun p hp => ?_, ?_, ?_, ?_, ?_, ?_, ?_⟩
  · obtain ⟨hrank, hsize, harg⟩ := State.sysValue_kernel hr
    refine ⟨?_, ?_, ?_⟩ <;> rintro rfl
    · exact gives_sqRdsys (by decide) hrank
    · exact gives_sqRdsys (by decide) hsize
    · exact gives_sqRdsys (by decide) harg
  · rintro rfl
    exact gives_sqRdsys (by decide) (State.sysValue_logical hl)
  · rintro rfl
    exact gives_sqRdsys (by decide) (State.sysValue_partition hp)
  · rintro rfl
    exact gives_sqRdsys (by decide) rfl
  · rintro rfl
    exact gives_sqRdsys (by decide) rfl
  · rintro rfl
    exact ⟨_, gives_sqRdsys_cycles⟩
  · rintro rfl
    exact gives_sqRdsys (by decide) rfl
  · rintro rfl
    exact gives_sqRdsys (by decide) rfl
  · rintro rfl
    exact gives_sqRdsys (by decide) rfl

end Sys2Proof.Machine

/-!
Control of a kernel: branches, the fence and the end, and what they leave of the core (O6).
-/
namespace Sys2Proof.Machine

/-! ## Writes to device memory (R237, R240 to R242) -/

/-- What a write to device memory changes: the memory, the poison, the dies and the counts of the stacks. -/
def State.OnlyMemory (s t : State) : Prop := { t with mem := s.mem, poison := s.poison, dies := s.dies, memStacks := s.memStacks } = s

namespace State.OnlyMemory

theorem refl (s : State) : s.OnlyMemory s := rfl

theorem trans {s t u : State} (h : s.OnlyMemory t) (k : t.OnlyMemory u) : s.OnlyMemory u :=
  (congrArg (fun x : State => { x with mem := s.mem, poison := s.poison, dies := s.dies, memStacks := s.memStacks }) k :).trans h

theorem of_fold {α : Type} {f : State → α → State} (h : ∀ (s : State) (a : α), s.OnlyMemory (f s a)) (l : List α) (s : State) :
    s.OnlyMemory (l.foldl f s) :=
  foldl_rel refl trans h l s

theorem cores {s t : State} (h : s.OnlyMemory t) : t.cores = s.cores := (congrArg State.cores h :)

theorem lt {s t : State} (h : s.OnlyMemory t) : t.lt = s.lt := (congrArg State.lt h :)

end State.OnlyMemory

theorem State.closeGroups_onlyMemory (s : State) (a : Nat) : s.OnlyMemory (s.closeGroups a) :=
  (congrArg (fun x : State => { x with mem := s.mem, poison := s.poison, memStacks := s.memStacks }) (s.closeGroups_frame a) :)

theorem State.freshWritten_onlyMemory (s : State) (gs : List Nat) : s.OnlyMemory (s.freshWritten gs) :=
  (congrArg (fun x : State => { x with mem := s.mem, poison := s.poison, dies := s.dies }) (s.freshWritten_frame gs) :)

theorem State.applyCell_onlyMemory (s : State) (x : Nat) (v : F32) (b : Bool) : s.OnlyMemory (s.applyCell x v b) :=
  (s.closeGroups_onlyMemory (cellAddr x)).trans rfl

theorem State.applyRanked_onlyMemory (s : State) (k : Contribution) : s.OnlyMemory (s.applyRanked k) :=
  (s.applyCell_onlyMemory k.cell k.value k.poison).trans rfl

theorem State.applyHeld_onlyMemory (x n : Nat) (s : State) : s.OnlyMemory (s.applyHeld x n) := by
  induction n generalizing s with
  | zero => exact .refl s
  | succ n ih =>
    unfold State.applyHeld
    dsimp only
    split
    · exact .refl s
    · split
      · exact .refl s
      · refine .trans (.trans ?_ (State.applyRanked_onlyMemory _ _)) (ih _)
        rfl

theorem State.cascade_onlyMemory (s : State) (x : Nat) : s.OnlyMemory (s.cascade x) := State.applyHeld_onlyMemory _ _ _

theorem State.offer_onlyMemory (s : State) (k : Contribution) : s.OnlyMemory (s.offer k) := by
  unfold State.offer
  dsimp only
  split
  · rfl
  · split
    · exact (s.applyRanked_onlyMemory _).trans (State.cascade_onlyMemory _ _)
    · split <;> rfl

theorem State.contribute_onlyMemory (s : State) (who : Option Ranked) (x : Nat) (v : F32) (b : Bool) :
    s.OnlyMemory (s.contribute who x v b) := by
  unfold State.contribute
  split
  · rfl
  · cases who with
    | none => exact s.applyCell_onlyMemory _ _ _
    | some r => exact s.offer_onlyMemory _

theorem State.reduceWords_onlyMemory (who : Option Ranked) (bytes : List (Nat × Byte)) (poison : Nat → Bool) (ws : List Nat) (s : State) :
    s.OnlyMemory (s.reduceWords who bytes poison ws) := by
  induction ws generalizing s with
  | nil => exact .refl s
  | cons w ws ih =>
    unfold State.reduceWords
    dsimp only
    refine .trans ?_ (ih _)
    split
    · exact s.contribute_onlyMemory _ _ _ _
    · rfl

theorem State.granWrite_onlyMemory (s : State) (who : Option Ranked) (bytes : List (Nat × Byte)) (poison : Nat → Bool) :
    s.OnlyMemory (s.granWrite who bytes poison) := by
  unfold State.granWrite
  split
  · exact .refl s
  · rename_i a _ _
    have hclose := s.closeGroups_onlyMemory a
    dsimp only
    split
    · exact hclose.trans (State.reduceWords_onlyMemory ..)
    · split
      · exact hclose.trans rfl
      · split
        · exact hclose
        · exact (hclose.trans (State.freshWritten_onlyMemory _ _)).trans rfl

theorem State.endRounds_onlyMemory (s : State) (ls : List LaunchId) : s.OnlyMemory (s.endRounds ls) := by
  unfold State.endRounds
  split
  · exact .refl s
  · refine .of_fold (fun t n => ?_) _ s
    refine .trans ?_ (.of_fold (fun u x => u.cascade_onlyMemory x) _ _)
    rfl

/-! ## L1 is written back (R237) -/

/-- Of a core, nothing but L1 changes, and no time passes. -/
structure State.OnlyL1 (c : Nat) (s t : State) : Prop where
  lt : t.lt = s.lt
  core : { t.core c with l1 := (s.core c).l1 } = s.core c

theorem State.OnlyL1.refl {c : Nat} (s : State) : State.OnlyL1 c s s := ⟨rfl, rfl⟩

theorem State.OnlyL1.trans {c : Nat} {s t u : State} (h : State.OnlyL1 c s t) (k : State.OnlyL1 c t u) : State.OnlyL1 c s u :=
  ⟨k.lt.trans h.lt, (congrArg (fun x : Core => { x with l1 := (s.core c).l1 }) k.core :).trans h.core⟩

theorem State.writeBack_onlyL1 (c : Nat) (s : State) (line : Nat) : State.OnlyL1 c s (s.writeBack c line) := by
  unfold State.writeBack
  dsimp only
  generalize hu : (if s.coreReaches c (128 * line) = true then _ else s : State) = u
  have hm : s.OnlyMemory u := by
    rw [← hu]
    split
    · exact s.granWrite_onlyMemory _ _ _
    · exact .refl s
  refine ⟨hm.lt, ?_⟩
  rw [State.core_modCore_same, show u.core c = s.core c from congrArg (tabGet Core.reset · c) hm.cores]

/-- After a flush the core is as it was, with an empty L1. -/
theorem State.flush_core (s : State) (c : Nat) : (s.flush c).core c = { s.core c with l1 := L1.empty } ∧ (s.flush c).lt = s.lt := by
  have h := (⟨rfl, rfl⟩ : State.OnlyL1 c s (s.ticks (s.core c).l1.lines.length)).trans
    (foldl_rel State.OnlyL1.refl .trans (State.writeBack_onlyL1 c)
      (freeOrder (s.core c).l1.lines.length s.freeCtr (s.core c).l1.lines) _)
  refine ⟨?_, h.lt⟩
  rw [State.flush, State.core_modCore_same]
  exact (congrArg (fun x : Core => { x with l1 := L1.empty }) h.core :)

/-! ## The end of a kernel (R158, R193) -/

/-- The cores are as they were, and no time has passed. -/
def State.SameCores (s t : State) : Prop := t.cores = s.cores ∧ t.lt = s.lt

theorem State.SameCores.refl (s : State) : s.SameCores s := ⟨rfl, rfl⟩

theorem State.SameCores.trans {s t u : State} (h : s.SameCores t) (k : t.SameCores u) : s.SameCores u :=
  ⟨k.1.trans h.1, k.2.trans h.2⟩

theorem State.complete_sameCores (s : State) (p i : Nat) (st : Code) (w : Word) : s.SameCores (s.complete p i st w) := by
  unfold State.complete
  split
  · exact .refl s
  · rename_i k _
    have h := (s.modPart p fun x => { x with cmds := x.cmds.filter fun k => k.seq != i }).finish_frame p k.index k.opcode k.flags k.tag
      k.vector st w
    exact ⟨(congrArg State.cores h :), (congrArg State.lt h :)⟩

theorem State.settle_sameCores (s : State) (p : Nat) : s.SameCores (s.settle p) := by
  unfold State.settle
  dsimp only
  split <;> exact ⟨rfl, rfl⟩

/-- The end of a kernel empties its core; the rest of it concerns the partition and the rounds of reductions. -/
theorem State.kernelEnds_sameCores (s : State) (c : Nat) :
    (s.modCore c fun k => { k.emptied with run := .idle }).SameCores (s.kernelEnds c) := by
  unfold State.kernelEnds
  dsimp only
  split
  · split
    · rename_i kr p _ _ _
      generalize hu : State.modPart _ p _ = u
      have hsame : (s.modCore c fun k => { k.emptied with run := .idle }).SameCores u := by
        rw [← hu]
        exact ⟨rfl, rfl⟩
      have hrounds := u.endRounds_onlyMemory [⟨p, kr.cmd⟩]
      exact hsame.trans ((State.SameCores.trans ⟨hrounds.cores, hrounds.lt⟩ (State.complete_sameCores _ _ _ _ _)).trans
        (State.settle_sameCores _ _))
    · exact ⟨rfl, rfl⟩
  · exact .refl _

/-- A core that works and whose kernel ends is idle and empty, with its registers as they were. -/
theorem Core.emptied_works {k : Core} (h : k.works = true) : k.emptied.kernel = none ∧ k.emptied.platform = [] ∧
    k.emptied.l1 = k.l1 ∧ k.emptied.scalars = k.scalars ∧ k.emptied.tiles = k.tiles := by
  unfold Core.emptied
  rw [h]
  exact ⟨rfl, rfl, rfl, rfl, rfl⟩

theorem State.kernelEnds_core {s : State} {c : Nat} (h : (s.core c).works = true) :
    ((s.kernelEnds c).core c).run = .idle ∧ ((s.kernelEnds c).core c).kernel = none ∧ ((s.kernelEnds c).core c).platform = [] ∧
    ((s.kernelEnds c).core c).l1 = (s.core c).l1 ∧ ((s.kernelEnds c).core c).scalars = (s.core c).scalars ∧
    ((s.kernelEnds c).core c).tiles = (s.core c).tiles ∧ (s.kernelEnds c).lt = s.lt := by
  obtain ⟨hcores, hlt⟩ := s.kernelEnds_sameCores c
  have hcore : (s.kernelEnds c).core c = { (s.core c).emptied with run := .idle } :=
    (congrArg (tabGet Core.reset · c) hcores).trans (s.core_modCore_same c _)
  obtain ⟨hk, hp, hl, hs, ht⟩ := Core.emptied_works h
  rw [hcore]
  exact ⟨rfl, hk, hp, hl, hs, ht, hlt⟩

/-! ## O6 -/

section Issue
variable {s : State} {c : CoreId} {g : Guard} {n : Nat}

/-- sq.fence and sq.end issue with no instruction in an engine (R39). -/
theorem Issues.entries_empty {op : Op} (ho : op = .fence ∨ op = .endK) (h : Issues s c ⟨g, op⟩ n) : (s.core c).entries = [] := by
  by_contra he
  have := h.2.2.symm.trans (Core.heldBy_fence ho he)
  cases this

/-- sq.loop counts SA down, and goes on behind itself at 0 (R158). -/
theorem gives_sqLoop {sa : SReg} {off : BitVec 32} (h : Issues s c ⟨g, .loop sa off⟩ n) :
    Gives (.sqLoop c g sa off) s (s.setCore c (if (s.core c).reg sa = 1 then (s.core c).pop.setReg sa 0
      else ((s.core c).pop.setReg sa ((s.core c).reg sa - 1)).jump (n + off.toInt))) := by
  show execSqLoop c g sa off s = _
  unfold execSqLoop
  rw [State.attempt_issues _ h, State.modCore]
  dsimp only
  by_cases h1 : (s.core c).reg sa = 1
  · rw [h1, if_pos (by decide), if_pos rfl]
    rfl
  · rw [if_neg (fun h0 => h1 (sub_eq_zero.1 h0)), if_neg h1]

end Issue

/-- Settles O6: a branch empties the platform queue; the fence and the end flush L1, and the end leaves an idle core. -/
theorem controlFlow : Obligations.ControlFlow := by
  unfold Obligations.ControlFlow
  refine ⟨fun s c g sa off n => ?_, fun s c g n => ?_⟩
  · intro k k1 goes
    exact ⟨fun h => State.attempt_issues (fun i => s.modCore c fun k => k.pop.jump (i + off.toInt)) h,
      fun h hp => State.attempt_guarded (fun i => s.modCore c fun k => k.pop.jump (i + off.toInt)) h (by simp [Core.guard, k, hp]),
      gives_sqLoop, fun h => State.attempt_issues (fun _ => s.modCore c Core.pop) h⟩
  · intro k k1
    refine ⟨fun h => ⟨h.entries_empty (.inl rfl), _, State.attempt_issues (fun _ => (s.modCore c Core.popBusy).flush c) h, rfl, ?_⟩,
      fun h hw => ⟨h.entries_empty (.inr rfl), _, State.attempt_issues (fun _ => ((s.modCore c Core.pop).flush c).kernelEnds c) h, rfl, ?_⟩⟩
    · obtain ⟨hcore, hlt⟩ := (s.modCore c Core.popBusy).flush_core c
      rw [hcore, hlt, State.core_modCore_same]
      exact ⟨rfl, rfl, rfl, rfl, rfl, rfl⟩
    · obtain ⟨hcore, hlt⟩ := (s.modCore c Core.pop).flush_core c
      rw [State.core_modCore_same] at hcore
      have hworks : (((s.modCore c Core.pop).flush c).core c).works = true := by rw [hcore]; exact hw
      obtain ⟨hrun, hkernel, hplatform, hl1, hscalars, htiles, hend⟩ := State.kernelEnds_core hworks
      rw [hrun, hkernel, hplatform, hl1, hscalars, htiles, hend, hcore, hlt]
      exact ⟨rfl, rfl, rfl, rfl, rfl, rfl, rfl⟩

end Sys2Proof.Machine

/-!
LAUNCH: the cores of a mask start their kernel, each ranked by its logical number (O28).
-/
namespace Sys2Proof.Machine

/-! ## Logical numbers (R15) -/

/-- The core that holds a logical number. -/
theorem State.logical_of_physical {s : State} {n c : Nat} (h : s.physical n = some c) :
    ∃ l : BitVec 8, (s.core c).logical = some l ∧ l.toNat = n := by
  have hf := List.find?_some h
  split at hf
  · rename_i l hl
    exact ⟨l, hl, by simpa using hf⟩
  · cases hf

theorem State.lg_of_physical {s : State} {n c : Nat} (h : s.physical n = some c) : (s.core c).lg = n := by
  obtain ⟨l, hl, hn⟩ := State.logical_of_physical h
  rw [Core.lg, hl]
  exact hn

/-- No core holds two numbers. -/
theorem State.physical_inj {s : State} {n m c : Nat} (hn : s.physical n = some c) (hm : s.physical m = some c) : n = m :=
  (State.lg_of_physical hn).symm.trans (State.lg_of_physical hm)

theorem State.physical_congr {s t : State} (h : ∀ c, (t.core c).logical = (s.core c).logical) (n : Nat) : t.physical n = s.physical n := by
  simp only [State.physical, h]

theorem mem_maskCores {mask : BitVec 256} {n : Nat} : n ∈ maskCores mask ↔ mask.getLsbD n = true := by
  rw [maskCores, List.mem_filter, List.mem_range]
  exact ⟨And.right, fun h => ⟨BitVec.lt_of_getLsbD h, h⟩⟩

theorem maskCores_nodup (mask : BitVec 256) : (maskCores mask).Nodup := List.nodup_range.filter _

/-! ## A core at the start of a kernel (R58, R79, R151) -/

section Launched
variable (k : Core) (r : KernelRef)

/-- The scalars that R151 sets. -/
theorem Core.launched_scalars : (k.launched r).reg 1 = r.arg ∧ (k.launched r).reg 2 = BitVec.ofNat 64 r.rank ∧
    (k.launched r).reg 3 = BitVec.ofNat 64 r.size ∧ (k.launched r).reg 4 = BitVec.ofNat 64 k.lg := ⟨rfl, rfl, rfl, rfl⟩

/-- Every other scalar is 0. -/
theorem Core.launched_scalar_zero {q : SReg} (h : 4 < q.toNat) : (k.launched r).reg q = 0 := by
  have hget : tabGet 0 (launchScalars r k.lg) q.toNat = 0 := by
    rw [launchScalars]
    simp [tabGet, show 1 ≠ q.toNat by omega, show 2 ≠ q.toNat by omega, show 3 ≠ q.toNat by omega, show 4 ≠ q.toNat by omega]
  unfold Core.reg
  split
  · rfl
  · exact hget

/-- Every predicate but p0 is 0. -/
theorem Core.launched_pred {q : PReg} (h : q ≠ 0) : (k.launched r).pred q = false := if_neg h

end Launched

/-! ## The cores of a launch (R151, R193) -/

/-- The kernel that the core of a rank runs. -/
def LaunchInfo.kernel (l : LaunchInfo) (seq r : Nat) : KernelRef := ⟨seq, l.slot, r, l.cores.length, l.arg, l.det, 0⟩

/-- `t` is `s` after the cores of the first `m` ranks have started. -/
structure State.Started (s : State) (seq : Nat) (l : LaunchInfo) (m : Nat) (t : State) : Prop where
  rest : { t with cores := s.cores } = s
  logical : ∀ c, (t.core c).logical = (s.core c).logical
  begun : ∀ r n c, r < m → l.cores[r]? = some n → s.physical n = some c → t.core c = (s.core c).launched (l.kernel seq r)
  others : ∀ c, (∀ r n, r < m → l.cores[r]? = some n → s.physical n ≠ some c) → t.core c = s.core c

/-- The core of a rank starts. -/
def State.startRank (seq : Nat) (l : LaunchInfo) (s : State) (r : Nat) : State :=
  match s.physical (l.cores.getD r 0) with
  | none => s
  | some c => s.modCore c fun k => k.launched (l.kernel seq r)

theorem State.startCores_eq (s : State) (seq : Nat) (l : LaunchInfo) :
    s.startCores seq l = (List.range l.cores.length).foldl (State.startRank seq l) s := rfl

theorem State.Started.next {s t : State} {seq m : Nat} {l : LaunchInfo} (h : s.Started seq l m t) (hd : l.cores.Nodup)
    (hm : m < l.cores.length) : s.Started seq l (m + 1) (State.startRank seq l t m) := by
  have hget : l.cores[m]? = some l.cores[m] := List.getElem?_eq_getElem hm
  have hnum : l.cores.getD m 0 = l.cores[m] := List.getD_eq_getElem _ _ hm
  have hphys : t.physical l.cores[m] = s.physical l.cores[m] := State.physical_congr h.logical _
  unfold State.startRank
  rw [hnum, hphys]
  cases hp : s.physical l.cores[m] with
  | none =>
    refine ⟨h.rest, h.logical, fun r n c hr hn hc => h.begun r n c ?_ hn hc, fun c hc => h.others c fun r n hr => hc r n (by omega)⟩
    rcases Nat.lt_succ_iff_lt_or_eq.1 hr with hr | rfl
    · exact hr
    · rw [hget, Option.some.injEq] at hn
      rw [← hn, hp] at hc
      cases hc
  | some c0 =>
    have hc0 : t.core c0 = s.core c0 := h.others c0 fun r n hr hn hc => by
      have he : l.cores[r]? = l.cores[m]? := by rw [hn, hget, State.physical_inj hc hp]
      exact hr.ne ((List.getElem?_inj (hr.trans hm) hd).1 he)
    dsimp only
    refine ⟨h.rest, fun c => ?_, fun r n c hr hn hc => ?_, fun c hc => ?_⟩
    · rw [State.core_modCore]
      split
      · rename_i he
        rw [← he]
        exact h.logical c0
      · exact h.logical c
    · rw [State.core_modCore]
      by_cases he : c0 = c
      · subst he
        have hnm : l.cores[r]? = l.cores[m]? := by rw [hn, hget, State.physical_inj hc hp]
        have hlen : r < l.cores.length := by omega
        rw [if_pos rfl, hc0, (List.getElem?_inj hlen hd).1 hnm]
      · rw [if_neg he]
        rcases Nat.lt_succ_iff_lt_or_eq.1 hr with hr | rfl
        · exact h.begun r n c hr hn hc
        · rw [hget, Option.some.injEq] at hn
          rw [← hn, hp, Option.some.injEq] at hc
          exact absurd hc he
    · have hne : c0 ≠ c := fun he => hc m l.cores[m] (by omega) hget (he ▸ hp)
      rw [State.core_modCore_other _ _ hne]
      exact h.others c fun r n hr => hc r n (by omega)

/-- Every core of a launch starts with its rank, and no other core changes. -/
theorem State.startCores_started (s : State) (seq : Nat) {l : LaunchInfo} (hd : l.cores.Nodup) :
    s.Started seq l l.cores.length (s.startCores seq l) := by
  rw [State.startCores_eq]
  suffices h : ∀ m ≤ l.cores.length, s.Started seq l m ((List.range m).foldl (State.startRank seq l) s) from h _ le_rfl
  intro m
  induction m with
  | zero => exact fun _ => ⟨rfl, fun _ => rfl, fun _ _ _ h => absurd h (Nat.not_lt_zero _), fun _ _ => rfl⟩
  | succ m ih =>
    intro hm
    rw [List.range_succ, List.foldl_append]
    exact (ih (by omega)).next hd hm

/-! ## The command (R191, R193) -/

theorem State.insidePart_congr {s t : State} (hf : t.fuses = s.fuses) (hc : t.consist = s.consist) {p : Nat}
    (hp : (t.part p).clusters = (s.part p).clusters) (n : Nat) : t.insidePart p n = s.insidePart p n := by
  simp only [State.insidePart, State.numbering, hf, hc, hp]

/-- Taking a command of a ring leaves the cores and all that says where a logical number lies. -/
theorem State.taken_insidePart (s : State) (p q n : Nat) : (s.taken p).insidePart q n = s.insidePart q n := by
  refine State.insidePart_congr (s := s) (t := s.taken p) rfl rfl ?_ n
  rw [State.taken, State.part_modPart]
  split
  · rename_i h
    rw [h]
  · rfl

/-- No core of a launch is fenced. -/
theorem State.maskFenced_eq_false {s : State} {cores : List Nat}
    (h : ∀ n ∈ cores, ∃ c : Nat, s.physical n = some c ∧ (s.core c).works = true) : s.maskFenced cores = false := by
  rw [State.maskFenced, List.any_eq_false]
  intro n hn
  obtain ⟨c, hc, hw⟩ := h n hn
  simp [hc, hw]

/-- The cores of a launch are idle, and no earlier launch is pending (R193). -/
theorem State.coresIdle_eq_true {s : State} {p seq : Nat} {cores : List Nat}
    (h : ∀ n ∈ cores, ∃ c : Nat, s.physical n = some c ∧ (s.core c).kernel = none)
    (hl : ∀ m ∈ (s.part p).cmds, ∀ l, m.kind = .launch l → l.started = true) : s.coresIdle p seq cores = true := by
  rw [State.coresIdle, Bool.and_eq_true, List.all_eq_true, List.all_eq_true]
  refine ⟨fun n hn => ?_, fun m hm => ?_⟩
  · obtain ⟨c, hc, hk⟩ := h n hn
    simp [hc, hk]
  · have hmem := List.takeWhile_sublist _ |>.mem hm
    split
    · rename_i l hk
      rw [hl m hmem l hk, Bool.true_or]
    · rfl

/-- What LAUNCH gives before its cores start: the partition is RUNNING and the LAUNCH in progress. -/
def State.launching (s : State) (h : CmdHdr) (i : BitVec 32) (l : LaunchInfo) : State :=
  (s.modPart h.part.val fun x => { x with state := .running }).addCmd h 0x05 i (.launch l)

theorem State.launching_part (s : State) (h : CmdHdr) (i : BitVec 32) (l : LaunchInfo) :
    (s.launching h i l).part h.part.val = { s.part h.part.val with
      state := .running, nextCmd := (s.part h.part.val).nextCmd + 1,
      cmds := (s.part h.part.val).cmds ++ [⟨i, 0x05, h.flags, h.tag, h.vector, .launch l, (s.part h.part.val).nextCmd⟩] } := by
  rw [State.launching, State.addCmd, State.part_modPart_same, State.part_modPart_same]

/-- The LAUNCH of a well-formed record whose cores are idle starts them at once. -/
theorem exec_launch_starts {s : State} {h : CmdHdr} {slot : BitVec 8} {det : Bool} {arg : Word} {mask : BitVec 256}
    (ha : Accepts s h 0x05) (hpay : (Instr.launch h slot det arg mask).payloadOk = true)
    (hst : (s.part h.part.val).state = .ready ∨ (s.part h.part.val).state = .running)
    (hslot : (tabGet none (s.part h.part.val).slots slot.toNat).isSome = true)
    (hcores : ∀ n : Nat, mask.getLsbD n = true → s.insidePart h.part.val n = true ∧
      ∃ c : Nat, s.physical n = some c ∧ (s.core c).works = true ∧ (s.core c).kernel = none)
    (hcmds : ∀ m ∈ (s.part h.part.val).cmds, ∀ l, m.kind = .launch l → l.started = true)
    {l : LaunchInfo} (hl : l = ⟨slot.toNat, det, arg, maskCores mask, maskCores mask, true, 0⟩) :
    Gives (.launch h slot det arg mask) s
      (((s.taken h.part.val).launching h (s.part h.part.val).consumer l).startCores (s.part h.part.val).nextCmd l) := by
  obtain ⟨⟨hslot64, hmask⟩, harg⟩ : (slot.toNat < 64 ∧ mask ≠ 0) ∧ arg.toNat % 64 = 0 := by simpa [Instr.payloadOk] using hpay
  have hbad : (decide (64 ≤ slot.toNat) || decide (mask = 0) || arg.toNat % 64 != 0) = false := by
    rw [decide_eq_false (Nat.not_le.2 hslot64), decide_eq_false hmask, harg]
    rfl
  have hpart : (s.taken h.part.val).part h.part.val =
      { s.part h.part.val with
        consumer := (s.part h.part.val).consumer + 1, cnt := tabPut (s.part h.part.val).cnt 0 (tabGet 0 (s.part h.part.val).cnt 0 + 1) } := by
    rw [State.taken, State.part_modPart_same]
  have hlegal : (fun x : Part => (x.state == .ready || x.state == .running) && (tabGet none x.slots slot.toNat).isSome)
      ((s.taken h.part.val).part h.part.val) = true := by
    rw [hpart]
    simp [hst, hslot]
  have hinside : ((maskCores mask).any fun n => !(s.taken h.part.val).insidePart h.part.val n) = false := by
    rw [List.any_eq_false]
    intro n hn
    rw [State.taken_insidePart, (hcores n (mem_maskCores.1 hn)).1]
    decide
  have hfenced : (s.taken h.part.val).maskFenced (maskCores mask) = false := State.maskFenced_eq_false fun n hn => by
    obtain ⟨-, c, hc, hw, -⟩ := hcores n (mem_maskCores.1 hn)
    exact ⟨c, hc, hw⟩
  have hidle : (s.taken h.part.val).coresIdle h.part.val ((s.taken h.part.val).part h.part.val).nextCmd (maskCores mask) = true := by
    refine State.coresIdle_eq_true (fun n hn => ?_) (by rw [hpart]; exact hcmds)
    obtain ⟨-, c, hc, -, hk⟩ := hcores n (mem_maskCores.1 hn)
    exact ⟨c, hc, hk⟩
  show execLaunch h slot det arg mask s = _
  unfold execLaunch
  rw [hbad, State.startCmd_acts ha hlegal]
  dsimp only
  rw [hinside, hfenced, hidle, hpart, hl]
  rfl

/-! ## O28 -/

/-- Settles O28: the launch acts at once, and each core that it starts is the core at the start of the kernel of its rank. -/
theorem launchStarts : Obligations.LaunchStarts := by
  unfold Obligations.LaunchStarts
  intro s h slot det arg mask p x i ha hpay hst hslot hcores hcmds
  generalize hl : (⟨slot.toNat, det, arg, maskCores mask, maskCores mask, true, 0⟩ : LaunchInfo) = l
  have hgives := exec_launch_starts ha hpay hst hslot hcores hcmds hl.symm
  have hlc : l.cores = maskCores mask := by rw [← hl]
  generalize hu : (s.taken p).launching h x.consumer l = u at hgives
  have hucore (c : Nat) : u.core c = s.core c := by rw [← hu]; rfl
  have huphys (n : Nat) : u.physical n = s.physical n := State.physical_congr (fun c => by rw [hucore]) n
  obtain ⟨hrest, -, hbegun, hothers⟩ := u.startCores_started x.nextCmd (l := l) (hlc ▸ maskCores_nodup mask)
  generalize u.startCores x.nextCmd l = t at hgives hrest hbegun hothers
  have hpart : t.part p = u.part p := (congrArg (fun y : State => y.part p) hrest :)
  have hmem : t.mem = u.mem := (congrArg State.mem hrest :)
  have hupart : u.part p = _ := hu ▸ State.launching_part (s.taken p) h x.consumer l
  rw [State.taken, State.part_modPart_same] at hupart
  refine ⟨t, hgives, by rw [hpart, hupart], ?_, by rw [hpart, hupart], fun r n c hr hc => ?_, fun c hc => ?_⟩
  · rw [hmem, ← hu]
    rfl
  · have hlt : r < l.cores.length := hlc ▸ (List.getElem?_eq_some_iff.1 hr).1
    have hcore := hbegun r n c hlt (hlc ▸ hr) ((huphys n).trans hc)
    rw [hucore] at hcore
    obtain ⟨harg, hrank, hsize, hlg⟩ := (s.core c).launched_scalars (l.kernel x.nextCmd r)
    rw [hcore]
    refine ⟨rfl, ?_, ?_, hrank, ?_, ?_, fun q => Core.launched_scalar_zero _ _, fun q => Core.launched_pred _ _, fun d => rfl, fun b => rfl,
      fun q => rfl, rfl, rfl, rfl, rfl, rfl⟩
    · rw [← hl]
      rfl
    · rw [harg, ← hl]
      rfl
    · rw [hsize, LaunchInfo.kernel, hlc]
    · rw [hlg, State.lg_of_physical hc]
  · rw [hothers c fun r n _ hn hc' => ?_, hucore]
    rw [hlc] at hn
    exact hc n (mem_maskCores.1 (List.mem_of_getElem? hn)) ((huphys n).symm.trans hc')

end Sys2Proof.Machine

/-!
What stops the device: a command goes on, and an attempt to issue an instruction with a reserved field value faults (O11).
-/
namespace Sys2Proof.Machine

/-- An attempt to issue a well-formed instruction goes on, and one to issue another stops by name. -/
theorem State.attempt_answers (s : State) (c : CoreId) (x : GOp) (act : Nat → State) :
    (∃ t, s.attempt c x act = .next t) ∨ (x.op.wf = false ∧ s.attempt c x act = .fault .illFormed) := by
  obtain h | h | ⟨m, h⟩ | h | ⟨n, -, h⟩ := s.attempt_cases c x act
  · exact .inr h
  · exact .inl ⟨_, h⟩
  · exact .inl ⟨_, h⟩
  · exact .inl ⟨_, h⟩
  · exact .inl ⟨_, h⟩

/-- A probe's single step is an attempt, too (R364). -/
theorem stepOp_attempt (c : CoreId) (g : Guard) (op : Op) (s : State) : ∃ act, stepOp c g op s = s.attempt c ⟨g, op⟩ act := by
  cases op <;>
    dsimp only [stepOp, engineOf, execSqBr, execSqLoop, execSqEnd, execSqLd, execSqSt, execSqNop, execSqFence, execSqRdsys, execTcfg,
      execTmIngest, State.alu, State.conv, State.immediate, State.compare, State.predOps, State.scalar, State.predicate,
      State.engineIssue] <;>
    exact ⟨_, rfl⟩

/-- A step of a probe goes on as its attempt does; a core that is not halted makes none. -/
theorem exec_debugSingleStep_answers (c : CoreId) (x : GOp) (s : State) : (∃ t, exec (.debugSingleStep c x) s = .next t) ∨
    (x.op.wf = false ∧ exec (.debugSingleStep c x) s = .fault .illFormed) := by
  dsimp only [exec, execDebugSingleStep]
  split
  · exact .inl ⟨_, rfl⟩
  · generalize s.setCore c _ = u
    obtain ⟨act, ha⟩ := stepOp_attempt c x.g x.op u
    rw [ha]
    obtain ⟨t, h⟩ | ⟨hw, h⟩ := u.attempt_answers c ⟨x.g, x.op⟩ act
    · rw [h]
      exact .inl ⟨_, rfl⟩
    · rw [h]
      exact .inr ⟨hw, rfl⟩

/-- Every command but the issue of a kernel instruction and a probe's step goes on: a ring's command starts or waits, some events have one
outcome, and of the others each branch gives a next state. -/
theorem exec_event_next {i : Instr} (hi : i.issued = none) (hd : ∀ c x, i ≠ .debugSingleStep c x) (s : State) :
    ∃ t, exec i s = .next t := by
  cases i
  case debugSingleStep c x => exact absurd rfl (hd c x)
  case nop | bind | unbind | load | unload | launch | resume | abort | preempt | restore | reset | copy | signal | wait | timestamp =>
    dsimp only [exec, execNop, execBind, execUnbind, execLoad, execUnload, execLaunch, execResume, execAbort, execPreempt, execRestore,
      execReset, execCopy, execSignal, execWait, execTimestamp]
    exact s.startCmd_next _ _ _ _ _
  case aRowEnter | accResultWrite | updateHoldRelease | completionRecordWrite | eventRecordWrite | ringCfgWrite | partRestart |
      preemptNow | resetNow | partCntClr | registerWrite | coreStallClr | mxCntClr | vxCntClr | upCntClr | xbCntClr | syCntClr |
      portCntClr | ltCntClr | secCntClr | pwrCntClr | xlatInval | xlatInvalDone | sliceWrite | reduceRetry | patrolScrub | linkRetrain |
      retrainTimeout | portRetrain | capLevelUpdate | write | write64 | read | readData | inc | ack | nack | beaconSend | beaconReceive |
      holdoverEntry | unlockTimeout | ltNowRead | timetableArm | timetableCancel | timetableCopyReceive | timetableFire | powerStep |
      abandon | secRestore | restoreOlder | pairLostTimeout | clVerify | clApply | clPersist | marginPlanStart | ageHoursPlan | pwrGo |
      powerStepComplete | thermalTrip | vin48Fail | refclkFail | pwrbrkNChange | i3cReadRequest | i3cWriteRequest | i3cAddressAssign |
      keyWrite | keyRevoke | attGo | dbgLevelWrite | dbgChallenge | dbgSubmit | lifecycleChange | challengeExpiry | wipeComplete |
      debugHalt | debugResume | extest | idcode | samplePreload | dbgacc | bypass | configurationRequest | msixTableWrite |
      laserInputReturn | peerPortDown | rosterPublish =>
    exact ⟨_, rfl⟩
  case bankWakeComplete | engineStart | engineInstructionComplete | bLoadComplete | aRowRead | fusedStoreComplete |
      ingestReadCompletion | ingestCompletionTimeout | waitTimeout | platformWordArrival | ringDb | cqDb | translationComplete |
      launchDeferredStart | saveComplete | resetComplete | copyComplete | consumerMirrorWrite | vfFunctionLevelReset | bar4Write |
      l1EvictionWriteback | sliceRead | reduceContribution | flowHoldRelease | selfTestRun | selfTestComplete | dataFlitReceive |
      controlFlitReceive | trainingFlitReceive | replayTimeout | laserInputLoss | transferAckTimeout | prelockTransferTimeout |
      longLineRecordReceive | rosterReceive | rosterApply | rosterGraceExpiry | lockAchieved | backupTakeover | secureWindowEnd |
      generationStageAdvance | unitCopied | lossWaitTimeout | generationCommit | twinRecordReceive | restoreComplete | applyComplete |
      persistComplete | resetNAssert | resetNRise | fusesLoaded | nearMemoryZeroDone | farMemoryZeroDone | bootImageApply |
      marginPlanComplete | capUpdate | thermalWithholdStep | vaux12Fail | attestationComplete | sequencerInstructionComplete |
      consistChecksComplete =>
    dsimp only [exec, execBankWakeComplete, execEngineStart, execEngineInstructionComplete, execBLoadComplete, execARowRead,
      execFusedStoreComplete, execIngestReadCompletion, execIngestCompletionTimeout, execWaitTimeout, execPlatformWordArrival, execRingDb,
      execCqDb, execTranslationComplete, execLaunchDeferredStart, execSaveComplete, execResetComplete, execCopyComplete,
      execConsumerMirrorWrite, execVfFunctionLevelReset, execBar4Write, execL1EvictionWriteback, execSliceRead, execReduceContribution,
      execFlowHoldRelease, execSelfTestRun, execSelfTestComplete, execDataFlitReceive, execControlFlitReceive, execTrainingFlitReceive,
      execReplayTimeout, execLaserInputLoss, execTransferAckTimeout, execPrelockTransferTimeout, execLongLineRecordReceive,
      execRosterReceive, execRosterApply, execRosterGraceExpiry, execLockAchieved, execBackupTakeover, execSecureWindowEnd,
      execGenerationStageAdvance, execUnitCopied, execLossWaitTimeout, execGenerationCommit, execTwinRecordReceive, execRestoreComplete,
      execApplyComplete, execPersistComplete, execResetNAssert, execResetNRise, execFusesLoaded, execNearMemoryZeroDone,
      execFarMemoryZeroDone, execBootImageApply, execMarginPlanComplete, execCapUpdate, execThermalWithholdStep, execVaux12Fail,
      execAttestationComplete, execSequencerInstructionComplete, execConsistChecksComplete]
    repeat' split
    all_goals exact ⟨_, rfl⟩
  all_goals cases hi

/-- A command goes on, or it is the issue of an ill-formed instruction and stops by name. -/
theorem exec_answers (i : Instr) (s : State) : (∃ t, exec i s = .next t) ∨ (i.wf = false ∧ exec i s = .fault .illFormed) := by
  cases hi : i.issued with
  | some p =>
    obtain ⟨c, x⟩ := p
    obtain ⟨act, ha⟩ := exec_issued hi s
    have hwf : i.wf = x.op.wf := by simp only [Instr.wf, hi]
    rw [ha, hwf]
    exact s.attempt_answers c x act
  | none =>
    by_cases hd : ∃ c x, i = .debugSingleStep c x
    · obtain ⟨c, x, rfl⟩ := hd
      exact exec_debugSingleStep_answers c x s
    · exact .inl (exec_event_next hi (fun c x h => hd ⟨c, x, h⟩) s)

/-! ## O11 -/

/-- Settles O11: every command goes on but the ill-formed, which the attempt rejects before it looks at the state. -/
theorem onlyIllFormedStops : Obligations.OnlyIllFormedStops := by
  unfold Obligations.OnlyIllFormedStops
  intro i s
  refine ⟨fun hw => ?_, fun r hr => ?_, fun c x hi hw => ?_⟩
  · obtain h | ⟨hi, -⟩ := exec_answers i s
    · exact h
    · rw [hw] at hi
      cases hi
  · obtain ⟨t, h⟩ | ⟨-, h⟩ := exec_answers i s
    · cases h.symm.trans hr
    · cases h.symm.trans hr
  · obtain ⟨act, ha⟩ := exec_issued hi s
    exact ha.trans (State.attempt_illFormed act hw)

end Sys2Proof.Machine

/-!
The doorbells of a ring: what a write of RING_DB and of CQ_DB leaves of its partition (R183, R187 to R189; O22, O23).
-/
namespace Sys2Proof.Machine

/-! ## Updates of a partition -/

theorem State.setPart_setPart (s : State) (p : Nat) (x y : Part) : (s.setPart p x).setPart p y = s.setPart p y :=
  congrArg (fun t => { s with parts := t }) (tabPut_tabPut s.parts p x y)

theorem State.modPart_modPart (s : State) (p : Nat) (f g : Part → Part) : (s.modPart p f).modPart p g = s.modPart p fun x => g (f x) := by
  rw [State.modPart, State.part_modPart_same]
  exact s.setPart_setPart p _ _

theorem State.part_setPart_same (s : State) (p : Nat) (x : Part) : (s.setPart p x).part p = x := by
  rw [State.part_setPart, if_pos rfl]

/-! ## RING_DB (R183, R187) -/

/-- The write of a producer is an overrun (R187). -/
def Part.overruns (x : Part) (v : BitVec 32) : Prop :=
  2 ^ x.sizeLog2.toNat < (v - x.producer).toNat ∨ 2 ^ x.sizeLog2.toNat < (v - x.consumer).toNat

section Doorbells
variable {s : State} {p : PartId} {hp : HostPort} {v : BitVec 32}

theorem exec_ringDb_dropped (h : s.doorbellTaken p hp = false) : Gives (.ringDb p hp v) s (s.setPart p ((s.part p).bump 4)) := by
  change execRingDb p hp v s = _
  rw [execRingDb, h]
  rfl

theorem Part.overruns_iff {x : Part} : (decide (x.ringSize < (v - x.producer).toNat) || decide (x.ringSize < (v - x.consumer).toNat)) = true ↔
    x.overruns v := by
  rw [Bool.or_eq_true, decide_eq_true_eq, decide_eq_true_eq]
  rfl

/-- What a doorbell that is taken leaves of its partition (R187). -/
theorem exec_ringDb_taken (h : s.doorbellTaken p hp = true) : Gives (.ringDb p hp v) s (s.modPart p fun x =>
    if decide (x.ringSize < (v - x.producer).toNat) || decide (x.ringSize < (v - x.consumer).toNat) then
      if x.halted then x.bump 2 else { x.bump 2 with halted := true, haltStatus := Code.queueOverrun, haltIndex := x.producer }
    else { x with producer := v }) := by
  change execRingDb p hp v s = _
  rw [execRingDb, h]
  rfl

theorem exec_ringDb_accepted (h : s.doorbellTaken p hp = true) (hv : ¬ (s.part p).overruns v) :
    Gives (.ringDb p hp v) s (s.setPart p { s.part p with producer := v }) := by
  refine (exec_ringDb_taken h).trans ?_
  rw [State.modPart, if_neg (Part.overruns_iff.not.2 hv)]

theorem exec_ringDb_overrun (h : s.doorbellTaken p hp = true) (hv : (s.part p).overruns v) :
    Gives (.ringDb p hp v) s (s.setPart p (if (s.part p).halted then (s.part p).bump 2
      else { (s.part p).bump 2 with halted := true, haltStatus := Code.queueOverrun, haltIndex := (s.part p).producer })) := by
  refine (exec_ringDb_taken h).trans ?_
  rw [State.modPart, if_pos (Part.overruns_iff.2 hv)]

theorem State.doorbellTaken_iff : s.doorbellTaken p hp = true ↔
    s.isAbsent p = false ∧ (s.part p).enable = true ∧ (s.part p).host = hp := by
  simp [State.doorbellTaken, and_assoc]

theorem State.doorbellTaken_not (h : (s.part p).state = .absent ∨ (s.part p).enable = false ∨ (s.part p).host ≠ hp) :
    s.doorbellTaken p hp = false := by
  rw [Bool.eq_false_iff]
  intro ht
  obtain ⟨ha, he, hh⟩ := State.doorbellTaken_iff.1 ht
  obtain h | h | h := h
  · simp [State.isAbsent, h] at ha
  · simp [h] at he
  · exact h hh

/-- A producer that the mirror allows is no overrun, since the mirror is never ahead of the consumer (R187). -/
theorem Part.not_overruns_of_mirror {x : Part} (hc : (x.consumer - x.mirror).toNat ≤ (x.producer - x.mirror).toNat)
    (hp : (x.producer - x.mirror).toNat ≤ (v - x.mirror).toNat) (hv : (v - x.mirror).toNat ≤ 2 ^ x.sizeLog2.toNat) : ¬ x.overruns v := by
  unfold Part.overruns
  generalize 2 ^ x.sizeLog2.toNat = n at *
  bv_omega

theorem exec_partRestart (h : (s.part p).host = hp) : Gives (.partRestart p hp) s (s.setPart p { s.part p with halted := false }) := by
  change execPartRestart p hp s = _
  simp [execPartRestart, State.partCtrl, h, State.modPart]

theorem State.ringReady_halted {h : CmdHdr} {op : BitVec 8} (hh : (s.part h.part).halted = true) : s.ringReady h op = false := by
  simp [State.ringReady, hh]

/-- An accepted producer on a halted ring starts nothing until RESTART has cleared the halt (R187, R203). -/
theorem exec_ringDb_halted (h : s.doorbellTaken p hp = true) (hh : (s.part p).halted = true) :
    let u := s.setPart p { s.part p with producer := v }
    (∀ h op, h.part = p → u.ringReady h op = false) ∧
    Gives (.partRestart p hp) u (s.setPart p { s.part p with producer := v, halted := false }) := by
  intro u
  have hu : u.part p = { s.part p with producer := v } := s.part_setPart_same p _
  refine ⟨fun h op he => ?_, ?_⟩
  · subst he
    exact State.ringReady_halted (by rw [hu]; exact hh)
  · refine (exec_partRestart (by rw [hu]; exact (State.doorbellTaken_iff.1 h).2.2)).trans ?_
    rw [hu, State.setPart_setPart]

end Doorbells

/-! ## O22 -/

/-- Settles O22: a write is dropped, accepted or an overrun, and each leaves its partition as stated. -/
theorem ringDoorbell : Obligations.RingDoorbell := by
  unfold Obligations.RingDoorbell
  intro s p hp v
  refine ⟨exec_ringDb_accepted, fun h _ => exec_ringDb_halted h, Part.not_overruns_of_mirror, fun h hv hh => ?_, fun h hv hh => ?_,
    fun h => exec_ringDb_dropped (State.doorbellTaken_not h)⟩
  · refine (exec_ringDb_overrun h hv).trans ?_
    rw [if_neg (by simp [hh])]
    rfl
  · refine (exec_ringDb_overrun h hv).trans ?_
    rw [if_pos hh]
    rfl

/-! ## CQ_DB (R188, R189) -/

section CompletionDoorbell
variable {s : State} {p : PartId} {hp : HostPort} {v : BitVec 32}

theorem exec_cqDb_taken (h : s.doorbellTaken p hp = true) : Gives (.cqDb p hp v) s (s.modPart p fun x =>
    if (x.cqProducer - v).toNat ≤ x.cqSize then x.slotsFree v s.lt.now s.lt.own else x.bump 2) := by
  change execCqDb p hp v s = _
  rw [execCqDb, h]
  rfl

theorem exec_cqDb_accepted (h : s.doorbellTaken p hp = true) (hv : ((s.part p).cqProducer - v).toNat ≤ (s.part p).cqSize) :
    Gives (.cqDb p hp v) s (s.setPart p ((s.part p).slotsFree v s.lt.now s.lt.own)) := by
  refine (exec_cqDb_taken h).trans ?_
  rw [State.modPart, if_pos hv]

theorem exec_cqDb_discarded (h : s.doorbellTaken p hp = true) (hv : (s.part p).cqSize < ((s.part p).cqProducer - v).toNat) :
    Gives (.cqDb p hp v) s (s.setPart p ((s.part p).bump 2)) := by
  refine (exec_cqDb_taken h).trans ?_
  rw [State.modPart, if_neg (Nat.not_le.2 hv)]

end CompletionDoorbell

section SlotsFree
variable (x : Part) (v : BitVec 32) (now own : Word)

/-- A record that waits at a place, once slots have come free: a command's that has one now bears the Line Time of this moment (R189, R201). -/
def Part.stamped (i : Nat) (d : Due) : Due :=
  if d.isEvent = false ∧ x.freeSlots ≤ i ∧ i < Part.freeSlots { x with cqConsumer := v }
  then { d with rec_ := { d.rec_ with lineTime := now } } else d

/-- The partition with the slots free, before the wait for a slot is followed up. -/
def Part.freed : Part := { x with cqConsumer := v, due := x.due.mapIdx fun i d => x.stamped v now i d }

theorem Part.slotsFree_eq : x.slotsFree v now own = (x.freed v now).trackFull own := by
  have hz : ((List.range x.due.length).zip x.due).map (fun q => x.stamped v now q.1 q.2) = x.due.mapIdx fun i d => x.stamped v now i d := by
    apply List.ext_getElem <;> simp
  unfold Part.slotsFree Part.freed
  rw [← hz]
  simp only [Part.stamped, Bool.and_eq_true, Bool.not_eq_true', decide_eq_true_eq, and_assoc]

theorem Part.stamped_isEvent (i : Nat) (d : Due) : (x.stamped v now i d).isEvent = d.isEvent := by
  unfold Part.stamped
  split <;> rfl

theorem Part.slotsFree_due : (x.slotsFree v now own).due = x.due.mapIdx fun i d => x.stamped v now i d := by
  rw [Part.slotsFree_eq]
  exact (congrArg Part.due (Part.trackFull_frame (x.freed v now) own) :)

theorem Part.slotsFree_frame :
    { x.slotsFree v now own with cqConsumer := x.cqConsumer, due := x.due, fullSince := x.fullSince, cnt := x.cnt } = x := by
  rw [Part.slotsFree_eq]
  exact (congrArg (fun y : Part => { y with cqConsumer := x.cqConsumer, due := x.due }) (Part.trackFull_frame (x.freed v now) own) :)

theorem Part.slotsFree_cqConsumer : (x.slotsFree v now own).cqConsumer = v := by
  rw [Part.slotsFree_eq]
  exact (congrArg Part.cqConsumer (Part.trackFull_frame (x.freed v now) own) :)

/-- With no command left that waits, none of those due awaits a slot. -/
theorem Part.freed_slotAwaited (h : ∀ d ∈ x.due.drop (Part.freeSlots { x with cqConsumer := v }), d.isEvent = true) :
    (x.freed v now).slotAwaited = false := by
  change ((x.due.mapIdx fun i d => x.stamped v now i d).drop (Part.freeSlots { x with cqConsumer := v })).any (fun d => !d.isEvent) = false
  rw [List.any_eq_false]
  intro d hd
  obtain ⟨i, hi, rfl⟩ := List.getElem_of_mem hd
  simp only [List.getElem_drop, List.getElem_mapIdx, Part.stamped_isEvent]
  simp only [List.length_drop, List.length_mapIdx] at hi
  rw [h _ (List.mem_iff_getElem.2 ⟨i, by simpa using hi, List.getElem_drop ..⟩)]
  decide

theorem Part.trackFull_ends {x : Part} {t : Word} (hs : x.fullSince = some t) (ha : x.slotAwaited = false) (own : Word) :
    x.trackFull own = { x with fullSince := none, cnt := Machine.bump x.cnt 3 ((own - t).toNat / 1000) } := by
  rw [Part.trackFull, ha, hs]

end SlotsFree

/-! ## O23 -/

/-- Settles O23: the records due, one after the other, are those of before, and those that have a slot now are stamped. -/
theorem completionDoorbell : Obligations.CompletionDoorbell := by
  unfold Obligations.CompletionDoorbell
  intro s p hp v h x room
  refine ⟨fun hv => ⟨x.slotsFree v s.lt.now s.lt.own, exec_cqDb_accepted h hv, x.slotsFree_frame .., x.slotsFree_cqConsumer .., ?_,
    fun i d hd => ?_, fun t ht hd => ?_⟩, exec_cqDb_discarded h⟩
  · rw [x.slotsFree_due, List.length_mapIdx]
  · rw [x.slotsFree_due, List.getElem?_mapIdx, hd, Option.map_some, Part.stamped]
    by_cases hc : d.isEvent = false ∧ room x.cqConsumer ≤ i ∧ i < room v
    · rw [if_pos hc]
      exact congrArg some (if_pos hc)
    · rw [if_neg hc]
      exact congrArg some (if_neg hc)
  · rw [x.slotsFree_eq, Part.trackFull_ends (x := x.freed v s.lt.now) ht (x.freed_slotAwaited v s.lt.now hd)]
    exact ⟨rfl, rfl⟩

end Sys2Proof.Machine

/-!
Commands of a ring from their start to their record (R190, R192, R193, R195, R201): those that do not start, that are malformed or illegal in
the state, that complete at once, and that complete later (O24, O25).
-/
namespace Sys2Proof.Machine

/-! ## How a command completes (R183, R201, R202) -/

section Finish
variable {s : State} {p : Nat} (i : BitVec 32) (op : BitVec 8) {fl : BitVec 8} (tag : BitVec 16) (v : BitVec 8) {st : Code} (w : Word)

theorem finishesSilently_eq_false (h : st ≠ 0 ∨ fl.getLsbD 1 = true) : (decide (st = Code.ok) && !fl.getLsbD 1) = false := by
  obtain h | h := h
  · rw [decide_eq_false (p := st = Code.ok) h, Bool.false_and]
  · rw [h, Bool.not_true, Bool.and_false]

theorem State.finish_disabled (h : st ≠ 0 ∨ fl.getLsbD 1 = true) (he : (s.part p).enable = false) :
    s.finish p i op fl tag v st w = s := by
  rw [State.finish, finishesSilently_eq_false h, he]
  rfl

theorem State.finish_record (h : st ≠ 0 ∨ fl.getLsbD 1 = true) (he : (s.part p).enable = true) :
    s.finish p i op fl tag v st w = s.modPart p fun x => Part.trackFull
      { x with due := x.due ++ [⟨false, ⟨tag, op, st, i, w, s.lt.now, false⟩, fl, v⟩] } s.lt.own := by
  rw [State.finish, finishesSilently_eq_false h, he]
  rfl

theorem State.finish_silent (h1 : fl.getLsbD 1 = false) (h2 : fl.getLsbD 2 = false) : s.finish p i op fl tag v 0 w = s := by
  rw [State.finish, h1, h2]
  rfl

theorem State.finish_interrupts (h1 : fl.getLsbD 1 = false) (h2 : fl.getLsbD 2 = true) :
    s.finish p i op fl tag v 0 w = s.partInterrupt p v.toNat := by
  rw [State.finish, h1, h2]
  rfl

/-- A command in progress leaves those in progress, and finishes. -/
theorem State.complete_found {k : Cmd} (h : (s.part p).cmds.find? (fun m => m.seq == k.seq) = some k) (st : Code) :
    s.complete p k.seq st w = (s.modPart p fun x => { x with cmds := x.cmds.filter fun m => m.seq != k.seq }).finish
      p k.index k.opcode k.flags k.tag k.vector st w := by
  rw [State.complete, h]

end Finish

section Header
variable {s : State} {h : CmdHdr} (op : BitVec 8) (i : BitVec 32)

/-- A command that completes at once and owes a record (R201). -/
theorem State.endCmd_owes {st : Code} (hf : st ≠ 0 ∨ h.flags.getLsbD 1 = true) (he : (s.part h.part).enable = true) (w : Word) :
    s.endCmd h op i st w = s.owes h op i st w :=
  State.finish_record i op h.tag h.vector w hf he

/-- A refused command owes a record whatever its flags (R195, R201). -/
theorem State.refuseCmd_owes {st : Code} (hst : st ≠ 0) (he : (s.part h.part).enable = true) :
    ∃ info, s.refuseCmd h op i st = s.tick.owes h op i st info :=
  ⟨_, State.finish_record (s := s.tick) i op h.tag h.vector _ (.inl hst) he⟩

end Header

/-! ## The start of a command (R190, R192, R195) -/

/-- A ring that takes a command has its rings enabled. -/
theorem State.enable_of_ringReady {s : State} {h : CmdHdr} {op : BitVec 8} (hr : s.ringReady h op = true) :
    (s.part h.part).enable = true := by
  simp only [State.ringReady, Bool.and_eq_true] at hr
  obtain ⟨⟨⟨⟨⟨⟨⟨⟨-, he⟩, -⟩, -⟩, -⟩, -⟩, -⟩, -⟩, -⟩ := hr
  exact he

theorem State.taken_part (s : State) (p : Nat) : (s.taken p).part p = { s.part p with
    consumer := (s.part p).consumer + 1, cnt := tabPut (s.part p).cnt 0 (tabGet 0 (s.part p).cnt 0 + 1) } :=
  s.part_modPart_same p _

theorem State.taken_enable {s : State} {h : CmdHdr} {op : BitVec 8} (hr : s.ringReady h op = true) :
    ((s.taken h.part).part h.part).enable = true := by
  rw [State.taken_part]
  exact State.enable_of_ringReady hr

section Start
variable {s : State} {h : CmdHdr} {op : BitVec 8} {bad : Bool} {legal : Part → Bool} {act : State → BitVec 32 → State}

/-- A malformed command completes with TRANSLATE_ERROR and does nothing else (R190). -/
theorem State.startCmd_malformed (hr : s.ringReady h (h.badOp.getD op) = true)
    (hm : h.reserved = true ∨ h.badOp.isSome = true ∨ 16 ≤ h.flags.toNat ∨ bad = true) :
    ∃ info, s.startCmd h op bad legal act =
      .next ((s.taken h.part).tick.owes h (h.badOp.getD op) (s.part h.part).consumer Code.translateError info) := by
  obtain ⟨info, hi⟩ := State.refuseCmd_owes (s := s.taken h.part) (h.badOp.getD op) (s.part h.part).consumer
    (show Code.translateError ≠ 0 by decide) (State.taken_enable hr)
  have hc : (h.reserved || h.badOp.isSome || decide (16 ≤ h.flags.toNat) || bad) = true := by
    simpa [or_assoc] using hm
  refine ⟨info, ?_⟩
  rw [← hi, State.startCmd]
  simp only [hr, hc, Bool.not_true, Bool.false_eq_true, if_false, if_true]
  rfl

/-- A command that is illegal in the state completes with WRONG_STATE, which is counted (R195). -/
theorem State.startCmd_wrongState (ha : Accepts s h op) (hl : legal ((s.taken h.part).part h.part) = false) :
    ∃ info, s.startCmd h op false legal act = .next (((s.taken h.part).modPart h.part fun x =>
      { x with cnt := tabPut x.cnt 1 (tabGet 0 x.cnt 1 + 1) }).tick.owes h op (s.part h.part).consumer 0x01 info) := by
  have he : (((s.taken h.part).modPart h.part (·.bump 1)).part h.part).enable = true := by
    rw [State.part_modPart_same]
    exact State.taken_enable ha.1
  obtain ⟨info, hi⟩ := State.refuseCmd_owes op (s.part h.part).consumer (show Code.wrongState ≠ 0 by decide) he
  exact ⟨info, (State.startCmd_illegal ha hl).trans (congrArg Host.Outcome.next hi)⟩

end Start

/-- The states of its partition in which a ring's command is legal (Table 8.4, R195). -/
def commandLegal : Instr → Part → Bool
  | .bind .., x => x.state == .idle
  | .unbind _, x => x.state == .ready
  | .load _ slot .., x | .unload _ slot, x => x.state.isBound && !x.slotUsed slot.toNat
  | .launch _ slot .., x => (x.state == .ready || x.state == .running) && (tabGet none x.slots slot.toNat).isSome
  | .resume _, x => x.state == .faulted
  | .abort _, x => x.state == .running || x.state == .faulted
  | .preempt _, x => x.canPreempt
  | .restore _, x => x.canRestore
  | .reset .., x => x.state == .idle || x.state.isBound
  | .copy .., x | .wait .., x => x.state.isBound
  | .signal _ _ ctx _, x => (x.state.isBound && x.boundIs ctx) || x.parkedIs ctx
  | _, _ => true

/-- Every command of a ring goes through the shared start, which checks its payload as Table 8.3 has it and its state (R190, R195). -/
theorem exec_command {i : Instr} {h : CmdHdr} {op : BitVec 8} (hi : i.command = some (h, op)) (s : State) :
    ∃ act, exec i s = s.startCmd h op (!i.payloadOk) (commandLegal i) act := by
  cases i <;> simp only [Instr.command, reduceCtorEq, Option.some.injEq, Prod.mk.injEq] at hi <;> obtain ⟨rfl, rfl⟩ := hi
  case load slot _ _ code _ _ =>
    have hbad : (decide (64 ≤ slot.toNat) || code.toNat % 4096 != 0) = !(decide (slot.toNat < 64) && decide (code.toNat % 4096 = 0)) := by
      grind
    dsimp only [exec, execLoad, Instr.payloadOk]
    rw [hbad]
    exact ⟨_, rfl⟩
  case unload slot =>
    have hbad : decide (64 ≤ slot.toNat) = !decide (slot.toNat < 64) := by grind
    dsimp only [exec, execUnload, Instr.payloadOk]
    rw [hbad]
    exact ⟨_, rfl⟩
  case launch slot _ arg mask =>
    have hbad : (decide (64 ≤ slot.toNat) || decide (mask = 0) || arg.toNat % 64 != 0) =
        !(decide (slot.toNat < 64) && mask != 0 && decide (arg.toNat % 64 = 0)) := by
      grind
    dsimp only [exec, execLaunch, Instr.payloadOk]
    rw [hbad]
    exact ⟨_, rfl⟩
  case copy dir _ _ bytes _ =>
    have hbad : (decide (3 ≤ dir.toNat) || decide (bytes = 0) || decide (2 ^ 40 < bytes.toNat)) =
        !(decide (dir.toNat < 3) && bytes != 0 && decide (bytes.toNat ≤ 2 ^ 40)) := by
      grind
    dsimp only [exec, execCopy, Instr.payloadOk]
    rw [hbad]
    exact ⟨_, rfl⟩
  all_goals
    dsimp only [exec, execNop, execTimestamp, execBind, execUnbind, execResume, execAbort, execPreempt, execRestore, execReset, execSignal,
      execWait]
    exact ⟨_, rfl⟩

/-- The W entries of Table 8.4 are among the states in which a command is illegal. -/
theorem commandLegal_of_wrongIn {i : Instr} {h : CmdHdr} {op : BitVec 8} (hi : i.command = some (h, op)) {x : Part}
    (hw : wrongIn op x.state = true) : commandLegal i x = false := by
  cases i <;> simp only [Instr.command, reduceCtorEq, Option.some.injEq, Prod.mk.injEq] at hi <;> obtain ⟨rfl, rfl⟩ := hi
  all_goals
    simp only [commandLegal, Part.canPreempt, Part.canRestore]
    revert hw
    cases x.state <;> simp [wrongIn, PState.isBound]

section Refused
variable {s : State} {i : Instr} {h : CmdHdr} {op : BitVec 8}

theorem exec_notReady (hi : i.command = some (h, op)) (hb : h.badOp = none) (hr : s.ringReady h op = false) : Gives i s s := by
  obtain ⟨act, he⟩ := exec_command hi s
  exact he.trans (State.startCmd_notReady (by rw [hb]; exact hr))

theorem exec_malformed (hi : i.command = some (h, op)) (hr : s.ringReady h (h.badOp.getD op) = true)
    (hm : h.reserved = true ∨ h.badOp.isSome = true ∨ 16 ≤ h.flags.toNat ∨ i.payloadOk = false) :
    ∃ info, Gives i s ((s.taken h.part).tick.owes h (h.badOp.getD op) (s.part h.part).consumer Code.translateError info) := by
  obtain ⟨act, he⟩ := exec_command hi s
  simp only [Gives, he]
  exact State.startCmd_malformed hr (by simpa using hm)

theorem exec_wrongState (hi : i.command = some (h, op)) (ha : Accepts s h op) (hp : i.payloadOk = true)
    (hw : wrongIn op (s.part h.part).state = true) : ∃ info, Gives i s (((s.taken h.part).modPart h.part fun x =>
      { x with cnt := tabPut x.cnt 1 (tabGet 0 x.cnt 1 + 1) }).tick.owes h op (s.part h.part).consumer 0x01 info) := by
  obtain ⟨act, he⟩ := exec_command hi s
  simp only [Gives, he, hp]
  exact State.startCmd_wrongState ha (commandLegal_of_wrongIn hi (by rw [State.taken_part]; exact hw))

end Refused

/-! ## Records of a ring (Tables 8.2, 8.3) -/

theorem payloadFields_inside (n : Nat) : ∀ f ∈ payloadFields n, 8 ≤ f.1 ∧ f.1 + f.2 ≤ 56 := by
  unfold payloadFields
  split <;> simp

/-- A byte behind the header that no payload reaches is reserved (R190). -/
theorem recordReserved_of_byte {bs : List Byte} {o : Nat} (ho : 5 ≤ o ∧ o < 8 ∨ 56 ≤ o ∧ o < 64) (hb : bs.getD o 0 ≠ 0) :
    recordReserved bs = true := by
  have hfields : ((payloadFields (recordByte bs 0).toNat).any fun f => decide (f.1 ≤ o) && decide (o < f.1 + f.2)) = false := by
    rw [List.any_eq_false]
    intro f hf
    have := payloadFields_inside _ f hf
    rw [Bool.and_eq_true, decide_eq_true_eq, decide_eq_true_eq]
    omega
  have hany : ((List.range 64).any fun o => !(decide (o < 5) || (payloadFields (recordByte bs 0).toNat).any fun f =>
      decide (f.1 ≤ o) && decide (o < f.1 + f.2)) && recordByte bs o != 0) = true := by
    rw [List.any_eq_true]
    refine ⟨o, List.mem_range.2 (by omega), ?_⟩
    rw [hfields, decide_eq_false (by omega : ¬ o < 5)]
    simpa [recordByte] using hb
  rw [recordReserved]
  simp only [hany, Bool.true_or]

/-- The command of a record has the record's header, and its opcode or, of a reserved one, none of its own (R190). -/
theorem commandOf_command (p : PartId) (bs host : List Byte) :
    ∃ op, (commandOf p bs host).command = some (headerOf p bs, op) ∧ (headerOf p bs).badOp.getD op = recordByte bs 0 := by
  have hop {op : BitVec 8} (h : (recordByte bs 0).toNat = op.toNat) : (headerOf p bs).badOp.getD op = recordByte bs 0 := by
    unfold headerOf
    dsimp only
    split
    · rfl
    · exact (BitVec.eq_of_toNat_eq h).symm
  unfold commandOf
  dsimp only
  split
  case h_15 =>
    refine ⟨_, rfl, ?_⟩
    by_cases hz : 0x0F ≤ (recordByte bs 0).toNat
    · rw [headerOf, if_pos hz]
      rfl
    · simp only [imp_false] at *
      exact hop (op := 0) (show (recordByte bs 0).toNat = 0 by omega)
  all_goals
    rename_i heq
    exact ⟨_, rfl, hop heq⟩

/-! ## O24 -/

/-- Settles O24: every command goes through the shared start, which refuses what is malformed and then what its state does not allow. -/
theorem refusedCommands : Obligations.RefusedCommands := by
  unfold Obligations.RefusedCommands
  refine ⟨fun s p bs host => ?_, fun bs ⟨o, ho, hb⟩ => recordReserved_of_byte ho hb, fun s i h op hi hb => ?_⟩
  · intro h op hm hr
    obtain ⟨k, hk, hop⟩ := commandOf_command p bs host
    have hmal : h.reserved = true ∨ h.badOp.isSome = true := by
      obtain hm | hm := hm
      · exact .inr (by rw [show h.badOp = some op from if_pos hm]; rfl)
      · exact .inl hm
    obtain ⟨info, hg⟩ := exec_malformed (s := s) hk (by rw [hop]; exact hr) (hmal.imp_right .inl)
    rw [hop] at hg
    exact ⟨info, hg⟩
  · have hget : h.badOp.getD op = op := by rw [hb]; rfl
    have hmal := exec_malformed (s := s) hi
    rw [hget] at hmal
    exact ⟨exec_notReady hi hb, fun hr hm => hmal hr (hm.imp_right fun hf => .inr (.inl hf)),
      fun ha hp => hmal ha.1 (.inr (.inr (.inr hp))), exec_wrongState hi⟩

/-! ## O25 -/

theorem exec_nop {s : State} {h : CmdHdr} (ha : Accepts s h 0x00) :
    Gives (.nop h) s ((s.taken h.part).endCmd h 0x00 (s.part h.part).consumer 0 0) := by
  change execNop h s = _
  rw [execNop, State.startCmd_acts ha rfl]
  rfl

theorem exec_timestamp {s : State} {h : CmdHdr} (ha : Accepts s h 0x0E) :
    Gives (.timestamp h) s ((s.taken h.part).endCmd h 0x0E (s.part h.part).consumer 0 s.lt.now) := by
  change execTimestamp h s = _
  rw [execTimestamp, State.startCmd_acts ha rfl]
  rfl

/-- Settles O25: what a command's end leaves depends on its status, on COMPLETE and INTERRUPT, and on ENABLE. -/
theorem commandsComplete : Obligations.CommandsComplete := by
  unfold Obligations.CommandsComplete
  refine ⟨fun s h => ?_, fun s p k status info hk => ?_⟩
  · have howes {op : BitVec 8} (ha : Accepts s h op) (h1 : h.flags.getLsbD 1 = true) (w : Word) :
        (s.taken h.part).endCmd h op (s.part h.part).consumer 0 w = (s.taken h.part).owes h op (s.part h.part).consumer 0 w :=
      State.endCmd_owes op _ (.inr h1) (State.taken_enable ha.1) w
    have hsilent (op : BitVec 8) (h1 : h.flags.getLsbD 1 = false) (h2 : h.flags.getLsbD 2 = false) (w : Word) :
        (s.taken h.part).endCmd h op (s.part h.part).consumer 0 w = s.taken h.part :=
      State.finish_silent _ op h.tag h.vector w h1 h2
    refine ⟨fun ha h1 => ?_, fun ha h1 h2 => ?_, fun ha h1 => ?_, fun ha h1 h2 => ?_⟩
    · exact (exec_nop ha).trans (by rw [howes ha h1])
    · exact (exec_nop ha).trans (by rw [hsilent _ h1 h2])
    · exact (exec_timestamp ha).trans (by rw [howes ha h1])
    · exact (exec_timestamp ha).trans (by rw [hsilent _ h1 h2])
  · intro u
    have hen : (u.part p).enable = (s.part p).enable := (congrArg Part.enable (s.part_modPart_same p _) :)
    have hend (st : Code) : s.complete p k.seq st info = u.finish p k.index k.opcode k.flags k.tag k.vector st info :=
      State.complete_found info hk st
    refine ⟨fun hf he => ?_, fun hf he => ?_, fun h1 h2 => ?_, fun h1 h2 => ?_⟩
    · rw [hend, State.finish_disabled _ _ _ _ _ hf (hen.trans he)]
    · rw [hend, State.finish_record _ _ _ _ _ hf (hen.trans he)]
      rfl
    · rw [hend, State.finish_silent _ _ _ _ _ h1 h2]
    · rw [hend, State.finish_interrupts _ _ _ _ _ h1 h2]

end Sys2Proof.Machine

/-!
BIND and UNBIND, and the loading of a kernel: LOAD, its translation, and UNLOAD (R191, R193, R197, R234, R250; O26, O27).
-/
namespace Sys2Proof.Machine

/-! ## BIND and UNBIND -/

/-- A partition to which a context has been bound with a fresh key (R197, R234, R250). -/
def Part.boundTo (x : Part) (ctx : BitVec 16) (root : Word) (key : BitVec 256) : Part :=
  { x.noCached with
    state := .ready, bound := some ⟨ctx, root⟩, slots := [], sync := Sync.zero, frozen := false, context := ctx, key := some key,
    lostAValid := x.lostAValid && x.lostA != ctx, lostBValid := x.lostBValid && x.lostB != ctx }

/-- A partition whose context has been unbound (R197). -/
def Part.unbound (x : Part) : Part := { x.noCached with state := .idle, bound := none, slots := [], key := none }

section Bind
variable {s : State} {h : CmdHdr}

theorem exec_bind {ctx : BitVec 16} {root : Word} (ha : Accepts s h 0x01) (hs : (s.part h.part).state = .idle) :
    Gives (.bind h ctx root) s (((((s.taken h.part).ticks 4).modPart h.part fun x => x.boundTo ctx root (freshKey s.freeCtr)).contextBoundary
      h.part).endCmd h 0x01 (s.part h.part).consumer 0 0) := by
  change execBind h ctx root s = _
  have hlegal : (fun x : Part => x.state == .idle) ((s.taken h.part).part h.part) = true := by
    rw [State.taken_part]
    simp [hs]
  rw [execBind, State.startCmd_acts ha hlegal]
  rfl

theorem State.abandonGen_none {p : Nat} (h : (s.part p).sec.gen = none) (st : Code) : s.abandonGen p st = s := by
  rw [State.abandonGen, h]
  rfl

theorem exec_unbind (ha : Accepts s h 0x02) (hs : (s.part h.part).state = .ready) (hg : (s.part h.part).sec.gen = none) :
    Gives (.unbind h) s (((s.taken h.part).modPart h.part Part.unbound).endCmd h 0x02 (s.part h.part).consumer 0 0) := by
  change execUnbind h s = _
  have hlegal : (fun x : Part => x.state == .ready) ((s.taken h.part).part h.part) = true := by
    rw [State.taken_part]
    simp [hs]
  have hgen : (s.taken h.part).abandonGen h.part Code.ownerLost = s.taken h.part :=
    State.abandonGen_none (by rw [State.taken_part]; exact hg) _
  rw [execUnbind, State.startCmd_acts ha hlegal]
  dsimp only
  rw [hgen]
  rfl

end Bind

/-! ## O26 -/

/-- Settles O26: the partition is the one bound or unbound, but for what the context boundary and the command's record leave. -/
theorem bindAndUnbind : Obligations.BindAndUnbind := by
  unfold Obligations.BindAndUnbind
  intro s h ctx root p x
  refine ⟨fun ha hs => ⟨_, exec_bind ha hs, ?_⟩, fun ha hs hg => ⟨_, exec_unbind ha hs hg, ?_⟩⟩
  · obtain ⟨u, hu⟩ : ∃ u, u = ((s.taken p).ticks 4).modPart p fun x => x.boundTo ctx root (freshKey s.freeCtr) := ⟨_, rfl⟩
    have hby : u.Bystands ((u.contextBoundary p).endCmd h 0x01 x.consumer 0 0) :=
      (u.boundary_bystands _).trans (State.finish_bystands ..)
    have hp := hby.part p
    have hup : u.part p = ((s.taken p).part p).boundTo ctx root (freshKey s.freeCtr) := by
      rw [hu, State.part_modPart_same]
      rfl
    rw [hup, State.taken_part] at hp
    rw [← hu]
    refine ⟨(congrArg Part.state hp :), (congrArg Part.bound hp :), (congrArg Part.slots hp :), (congrArg Part.sync hp :),
      (congrArg Part.tlb hp :), (congrArg Part.frozen hp :), (congrArg Part.consumer hp :), (congrArg Part.parked hp :), ?_, fun q hq => ?_⟩
    · rw [hby.mem, hu]
      rfl
    · have hother : u.part q = s.part q := by
        rw [hu, State.part_modPart_other _ _ (Ne.symm hq)]
        change (s.taken p).part q = s.part q
        exact State.part_modPart_other s _ (Ne.symm hq)
      exact (congrArg Part.state (hby.part q) :).trans (congrArg Part.state hother)
  · obtain ⟨u, hu⟩ : ∃ u, u = (s.taken p).modPart p Part.unbound := ⟨_, rfl⟩
    have hp := (u.finish_bystands p x.consumer 0x02 h.flags h.tag h.vector 0 0).part p
    have hf := u.finish_frame p x.consumer 0x02 h.flags h.tag h.vector 0 0
    have hup : u.part p = ((s.taken p).part p).unbound := by rw [hu, State.part_modPart_same]
    rw [hup, State.taken_part] at hp
    rw [← hu]
    refine ⟨(congrArg Part.state hp :), (congrArg Part.bound hp :), (congrArg Part.slots hp :), (congrArg Part.tlb hp :),
      (congrArg Part.consumer hp :), (congrArg Part.parked hp :), (congrArg Part.waiters hp :), ?_, ?_⟩
    · exact (congrArg State.mem hf :).trans (by rw [hu]; rfl)
    · exact (congrArg State.cores hf :).trans (by rw [hu]; rfl)

/-! ## LOAD and UNLOAD (R191, R195) -/

/-- The state with a slot of a partition unloaded. -/
def State.unloaded (s : State) (p slot : Nat) : State := s.modPart p fun x => { x with slots := tabPut x.slots slot none }

section Load
variable {s : State} {h : CmdHdr} {slot : BitVec 8}

/-- A slot that no launch uses may be loaded and unloaded in a state with a context (R195). -/
theorem State.slotFree_legal (hs : (s.part h.part).state = .ready ∨ (s.part h.part).state = .running ∨ (s.part h.part).state = .faulted)
    (hu : (s.part h.part).slotUsed slot.toNat = false) :
    (fun x : Part => x.state.isBound && !x.slotUsed slot.toNat) ((s.taken h.part).part h.part) = true := by
  have hused : Part.slotUsed ((s.taken h.part).part h.part) slot.toNat = false := by
    rw [State.taken_part]
    exact hu
  have hstate : ((s.taken h.part).part h.part).state = (s.part h.part).state := by rw [State.taken_part]
  dsimp only
  rw [hused, hstate]
  obtain hs | hs | hs := hs <;> rw [hs] <;> rfl

theorem exec_load_host {src code : Word} {codeBytes : BitVec 32} {image : List Byte} (ha : Accepts s h 0x03)
    (hs : (s.part h.part).state = .ready ∨ (s.part h.part).state = .running ∨ (s.part h.part).state = .faulted) (hslot : slot.toNat < 64)
    (hu : (s.part h.part).slotUsed slot.toNat = false) (hc : code.toNat % 4096 = 0) :
    Gives (.load h slot true src code codeBytes image) s (((s.taken h.part).unloaded h.part slot.toNat).addCmd h 0x03
      (s.part h.part).consumer (.load slot.toNat code codeBytes.toNat image)) := by
  change execLoad h slot true src code codeBytes image s = _
  have hbad : (decide (64 ≤ slot.toNat) || code.toNat % 4096 != 0) = false := by
    rw [decide_eq_false (Nat.not_le.2 hslot), hc]
    rfl
  rw [execLoad, hbad, State.startCmd_acts ha (State.slotFree_legal hs hu)]
  rfl

theorem exec_unload (ha : Accepts s h 0x04)
    (hs : (s.part h.part).state = .ready ∨ (s.part h.part).state = .running ∨ (s.part h.part).state = .faulted) (hslot : slot.toNat < 64)
    (hu : (s.part h.part).slotUsed slot.toNat = false) :
    Gives (.unload h slot) s (((s.taken h.part).unloaded h.part slot.toNat).endCmd h 0x04 (s.part h.part).consumer 0 0) := by
  change execUnload h slot s = _
  rw [execUnload, decide_eq_false (Nat.not_le.2 hslot), State.startCmd_acts ha (State.slotFree_legal hs hu)]
  rfl

end Load

/-! ## The end of a translation (R191) -/

/-- INFO of a LOAD holds the bytes used in its upper half. -/
theorem loadInfo_used (index : BitVec 32) (n : Nat) : (loadInfo index n).toNat / 2 ^ 32 = n % 2 ^ 32 := by
  have hi : index.toNat < 2 ^ 32 := index.isLt
  rw [loadInfo, BitVec.toNat_or, ← Nat.shiftRight_eq_div_pow, Nat.shiftRight_or_distrib, put, BitVec.toNat_ofNat, BitVec.toNat_setWidth,
    Nat.shiftRight_eq_div_pow, Nat.shiftRight_eq_div_pow, Nat.mod_eq_of_lt (by omega : index.toNat < 2 ^ 64),
    Nat.div_eq_of_lt hi, Nat.or_zero]
  omega

theorem loadInfo_unused (index : BitVec 32) : loadInfo index 0 = index.setWidth 64 := by
  simp [loadInfo, put]

/-- A loaded kernel has code, and no more of it than R191 allows. -/
theorem codeUsed_bounds (wc : Nat) : 1 ≤ codeUsed wc ∧ codeUsed wc ≤ 16 * wc + 4096 := by
  unfold codeUsed
  omega

section Translation
variable {s : State} {p : PartId} {k : Cmd} {slot : Nat} {code : Word} {codeBytes : Nat} {image : List Byte}

/-- The code area of the one LOAD in progress is too small for its words (R191). -/
theorem exec_translationComplete_short (hc : (s.part p).cmds = [k]) (hk : k.kind = .load slot code codeBytes image)
    (hr : codeBytes < 16 * imageNat image 12 4 + 4096) :
    Gives (.translationComplete p) s (s.loadFails p k slot Code.translateError noIndex) := by
  change execTranslationComplete p s = _
  simp only [execTranslationComplete, hc, List.find?_cons, hk, if_pos hr]

/-- The translator rejects its image. -/
theorem exec_translationComplete_rejected (hc : (s.part p).cmds = [k]) (hk : k.kind = .load slot code codeBytes image)
    (hr : 16 * imageNat image 12 4 + 4096 ≤ codeBytes) {status : Code} {index : BitVec 32} (ht : s.translate image = .error (status, index)) :
    Gives (.translationComplete p) s (s.loadFails p k slot status index) := by
  change execTranslationComplete p s = _
  simp only [execTranslationComplete, hc, List.find?_cons, hk, if_neg (Nat.not_lt.2 hr), ht]

/-- Its code is written, and the slot is loaded. -/
theorem exec_translationComplete_loaded (hc : (s.part p).cmds = [k]) (hk : k.kind = .load slot code codeBytes image)
    (hr : 16 * imageNat image 12 4 + 4096 ≤ codeBytes) {ops : List GOp} (ht : s.translate image = .ok ops) {n : Nat} {u : State}
    (hn : n = codeUsed (imageNat image 12 4))
    (hw : (s.ticks (n + 1)).ctxWrite p (code.toNat % 2 ^ 48) (s.freeBytes n) false = (u, .ok ())) :
    Gives (.translationComplete p) s ((u.modPart p fun x =>
      { x with slots := tabPut x.slots slot (some ⟨ops, code, n, imageArgBytes image⟩) }).complete
      p k.seq 0 (loadInfo ((Config.freeWord (s.freeCtr + n)).setWidth 32) n)) := by
  subst hn
  change execTranslationComplete p s = _
  simp only [execTranslationComplete, hc, List.find?_cons, hk, if_neg (Nat.not_lt.2 hr), ht, hw]
  rfl

theorem State.loadFails_eq (st : Code) (index : BitVec 32) :
    s.loadFails p k slot st index = (s.unloaded p slot).complete p k.seq st (index.setWidth 64) := by
  rw [State.loadFails, loadInfo_unused]
  rfl

end Translation

/-! ## O27 -/

/-- Settles O27: a LOAD and an UNLOAD of a slot that may be loaded act at once, and a translation ends in one of three ways. -/
theorem loadAndUnload : Obligations.LoadAndUnload := by
  unfold Obligations.LoadAndUnload
  intro s h slot src code codeBytes image p x room empty idle
  refine ⟨fun ha ⟨hs, hslot, hu⟩ hc => exec_load_host ha hs hslot hu hc, fun ha ⟨hs, hslot, hu⟩ h1 => ?_, fun k hcmds hk => ?_⟩
  · refine (exec_unload ha hs hslot hu).trans (congrArg Host.Outcome.next (State.endCmd_owes _ _ (.inr h1) ?_ _))
    rw [State.unloaded, State.part_modPart_same]
    exact State.taken_enable ha.1
  · refine ⟨fun hr => ?_, fun status idx hr ht => ?_, fun ops n u hr ht hn hw => ?_⟩
    · refine (exec_translationComplete_short (p := h.part) hcmds hk hr).trans ?_
      rw [State.loadFails_eq]
      rfl
    · refine (exec_translationComplete_rejected (p := h.part) hcmds hk hr ht).trans ?_
      rw [State.loadFails_eq]
      rfl
    · obtain ⟨h1, h2⟩ := codeUsed_bounds (imageNat image 12 4)
      exact ⟨hn ▸ h1, hn ▸ h2, _, loadInfo_used _ _, exec_translationComplete_loaded hcmds hk hr ht hn hw⟩

end Sys2Proof.Machine

/-!
COPY, SIGNAL and WAIT of a ring (R193, R195, R252, R261; O32).
-/
namespace Sys2Proof.Machine

/-! ## COPY (R193) -/

/-- A state in which a context is bound (Table 8.4). -/
theorem PState.isBound_of {st : PState} (h : st = .ready ∨ st = .running ∨ st = .faulted) : st.isBound = true := by
  obtain rfl | rfl | rfl := h <;> rfl

theorem State.taken_state (s : State) (p : Nat) : ((s.taken p).part p).state = (s.part p).state := by rw [State.taken_part]

theorem exec_copy {s : State} {h : CmdHdr} {dir : BitVec 8} {src dst bytes : Word} {data : List Byte} (ha : Accepts s h 0x0B)
    (hb : (s.part h.part).state.isBound = true) (hp : Instr.payloadOk (.copy h dir src dst bytes data) = true) :
    Gives (.copy h dir src dst bytes data) s
      ((s.taken h.part).addCmd h 0x0B (s.part h.part).consumer (.copy dir.toNat src dst bytes.toNat data)) := by
  change execCopy h dir src dst bytes data s = _
  have hbad : (decide (3 ≤ dir.toNat) || decide (bytes = 0) || decide (2 ^ 40 < bytes.toNat)) = false := by
    simp only [Instr.payloadOk, Bool.and_eq_true, decide_eq_true_eq, bne_iff_ne] at hp
    obtain ⟨⟨hdir, hbytes⟩, hmax⟩ := hp
    rw [decide_eq_false (Nat.not_le.2 hdir), decide_eq_false hbytes, decide_eq_false (Nat.not_lt.2 hmax)]
    rfl
  rw [execCopy, hbad, State.startCmd_acts ha (hb ▸ congrArg PState.isBound (s.taken_state _))]

/-- Bytes within one granule are one piece (R193). -/
theorem piecesOf_one {a n : Nat} (hn : 0 < n) (hg : a % 32 + n ≤ 32) (ha : a < 2 ^ 48) : piecesOf a n = [(a, n)] := by
  unfold piecesOf
  rw [pieces, if_neg (Nat.ne_of_gt hn)]
  dsimp only
  rw [Nat.mod_eq_of_lt ha, Nat.min_eq_left (by omega), Nat.sub_self, pieces, if_pos rfl]

/-- A COPY from the host within one granule completes with the bytes it has written (R193). -/
theorem exec_copyComplete_granule {s u : State} {p : PartId} {k : Cmd} {src dst : Word} {data : List Byte} (hc : (s.part p).cmds = [k])
    (hk : k.kind = .copy 0 src dst data.length data) (hd : data ≠ []) (hg : dst.toNat % 32 + data.length ≤ 32) (ha : dst.toNat < 2 ^ 48)
    (hw : s.ctxWrite p dst.toNat data false = (u, .ok ())) :
    Gives (.copyComplete p) s (u.complete p k.seq 0 (BitVec.ofNat 64 data.length)) := by
  change execCopyComplete p s = _
  have hfree : s.freeBytes (data.length - data.length) = [] := by
    rw [Nat.sub_self]
    rfl
  have hticks : s.ticks (data.length - data.length) = s := by
    rw [Nat.sub_self]
    rfl
  simp only [execCopyComplete, hc, List.find?_cons, hk, hfree, List.append_nil, hticks, if_true, (by decide : (0 : Nat) ≠ 1), if_false,
    piecesOf_one (List.length_pos_iff.2 hd) hg ha, State.copyPieces, List.drop_zero, List.take_length, Nat.add_zero, Nat.mod_eq_of_lt ha, hw,
    Nat.zero_add]
  rfl

/-! ## SIGNAL (R195, R252) -/

/-- SIGNALS counted, the baton incremented, and the increment compared with the window boundaries (R252, R309). -/
def State.signalled (s : State) (p n : Nat) (v : Word) : State :=
  ((s.modPart p (·.bumpSy 0)).incremented p n v).photoEvent p s.lineTime s.devId

theorem Sync.baton_setBaton_other (y : Sync) (b : BitVec 63) {n m : Nat} (h : m ≠ n) : (y.setBaton n b).baton m = y.baton m :=
  congrArg (BitVec.setWidth 64) (tabGet_tabPut_other _ _ _ h.symm)

section Signal
variable (s : State) (p n : Nat) (v : Word)

theorem State.signalled_photoAs : (s.signalled p n v).photoAs ((s.modPart p (·.bumpSy 0)).incremented p n v) =
    (s.modPart p (·.bumpSy 0)).incremented p n v :=
  State.photoEvent_frame ..

/-- A signal changes its partition's sync state only. -/
theorem State.signalled_part : ∃ cnt, (s.signalled p n v).part p = { s.part p with
    sync := (s.part p).sync.setBaton n (satAdd ((s.part p).sync.baton n) v).1, syCnt := cnt } := by
  obtain ⟨cnt, hc⟩ := (s.modPart p (·.bumpSy 0)).incremented_part p n v
  refine ⟨cnt, (congrArg (fun x : State => x.part p) (s.signalled_photoAs p n v) :).trans (hc.trans ?_)⟩
  rw [State.part_modPart_same]
  rfl

theorem State.signalled_mem : (s.signalled p n v).mem = s.mem :=
  (congrArg State.mem (s.signalled_photoAs p n v) :).trans (congrArg State.mem ((s.modPart p (·.bumpSy 0)).incremented_frame p n v) :)

theorem State.signalled_now : (s.signalled p n v).lt.now = s.lt.now :=
  (congrArg (fun x : State => x.lt.now) (s.signalled_photoAs p n v) :).trans
    (congrArg (fun x : State => x.lt.now) ((s.modPart p (·.bumpSy 0)).incremented_frame p n v) :)

theorem State.signalled_baton : ∃ cnt b, (s.signalled p n v).part p = { s.part p with sync := b, syCnt := cnt } ∧
    (b.baton n).toNat = min (2 ^ 63 - 1) (((s.part p).sync.baton n).toNat + v.toNat) ∧
    ∀ m, m ≠ n → b.baton m = (s.part p).sync.baton m := by
  obtain ⟨cnt, hc⟩ := s.signalled_part p n v
  refine ⟨cnt, _, hc, ?_, fun m hm => ?_⟩
  · rw [Sync.baton_setBaton, satAdd_toNat]
  · exact Sync.baton_setBaton_other _ _ hm

end Signal

section Ring
variable {s : State} {h : CmdHdr} {baton : BitVec 16} {v : Word}

/-- A SIGNAL of the bound context on a baton that no waiter and no trigger awaits. -/
theorem exec_signal_bound {b : Ctx} (ha : Accepts s h 0x0C) (hb : (s.part h.part).state.isBound = true)
    (hctx : (s.part h.part).bound = some b) (hw : (s.part h.part).waiters = []) (hstep : baton ≠ (s.part h.part).sec.stepBaton)
    (hloss : baton ≠ (s.part h.part).sec.lossBaton) :
    Gives (.signal h baton b.id v) s (((s.taken h.part).signalled h.part baton.toNat v).endCmd h 0x0C (s.part h.part).consumer 0
      ((((s.taken h.part).signalled h.part baton.toNat v).part h.part).sync.baton baton.toNat)) := by
  change execSignal h baton b.id v s = _
  have hboundIs : Part.boundIs ((s.taken h.part).part h.part) b.id = true := by
    rw [State.taken_part]
    simp [Part.boundIs, hctx]
  have hlegal : ((((s.taken h.part).part h.part).state.isBound && Part.boundIs ((s.taken h.part).part h.part) b.id) ||
      Part.parkedIs ((s.taken h.part).part h.part) b.id) = true := by
    rw [State.taken_state, hb, hboundIs]
    rfl
  have hquiet := State.increment_quiet (s := (s.taken h.part).modPart h.part (·.bumpSy 0)) (p := h.part)
    (n := baton.toNat) v (s.taken h.part).devId
    (by rw [State.part_modPart_same, State.taken_part]; exact hw)
    (by rw [State.part_modPart_same, State.taken_part]; exact fun e => hstep (BitVec.eq_of_toNat_eq e))
    (by rw [State.part_modPart_same, State.taken_part]; exact fun e => hloss (BitVec.eq_of_toNat_eq e))
  have hsignal : (s.taken h.part).signal h.part baton.toNat b.id v = ((s.taken h.part).signalled h.part baton.toNat v,
      (((s.taken h.part).signalled h.part baton.toNat v).part h.part).sync.baton baton.toNat) := by
    rw [State.signal, if_pos hboundIs]
    exact congrArg (fun u : State => (u, (u.part h.part).sync.baton baton.toNat)) hquiet
  rw [execSignal, State.startCmd_acts ha hlegal, hsignal]
  rfl

/-! ## WAIT (R261) -/

theorem State.waitDeadline_zero (s : State) : s.waitDeadline 0 = none := by
  simp [State.waitDeadline]

/-- A command in progress with a waiter of its own. -/
theorem State.addCmd_addWaiter (s : State) (h : CmdHdr) (op : BitVec 8) (i : BitVec 32) (k : CmdKind) (on : WaitOn) (d : Option Deadline) :
    (s.addCmd h op i k).addWaiter h.part ⟨.host (s.part h.part).nextCmd, on, d⟩ = s.modPart h.part fun y => { y with
      cmds := y.cmds ++ [⟨i, op, h.flags, h.tag, h.vector, k, y.nextCmd⟩], nextCmd := y.nextCmd + 1,
      waiters := y.waiters ++ [⟨.host y.nextCmd, on, d⟩] } := by
  rw [State.addWaiter, State.addCmd, State.modPart_modPart]
  rfl

theorem exec_wait {timeout : Word} (ha : Accepts s h 0x0D) (hb : (s.part h.part).state.isBound = true) :
    (v.toNat ≤ ((s.part h.part).sync.baton baton.toNat).toNat → Gives (.wait h baton v timeout) s
      ((s.taken h.part).endCmd h 0x0D (s.part h.part).consumer 0 ((s.part h.part).sync.baton baton.toNat))) ∧
    (((s.part h.part).sync.baton baton.toNat).toNat < v.toNat → Gives (.wait h baton v timeout) s
      (((s.taken h.part).addCmd h 0x0D (s.part h.part).consumer (.wait baton v)).addWaiter h.part
        ⟨.host ((s.taken h.part).part h.part).nextCmd, .baton baton.toNat v,
          ((s.taken h.part).addCmd h 0x0D (s.part h.part).consumer (.wait baton v)).waitDeadline timeout⟩)) := by
  change (_ → execWait h baton v timeout s = _) ∧ (_ → execWait h baton v timeout s = _)
  have hsync : ((s.taken h.part).part h.part).sync = (s.part h.part).sync := by rw [State.taken_part]
  rw [execWait, State.startCmd_acts ha (hb ▸ congrArg PState.isBound (s.taken_state _))]
  dsimp only
  rw [hsync]
  exact ⟨fun hle => congrArg Host.Outcome.next (if_pos hle), fun hlt => congrArg Host.Outcome.next (if_neg (Nat.not_le.2 hlt))⟩

end Ring

/-! ## O32 -/

/-- Settles O32: each of the three goes through the shared start; a COPY within one granule is one write, and a baton is compared once. -/
theorem copySignalWait : Obligations.CopySignalWait := by
  unfold Obligations.CopySignalWait
  intro s h p x j bound
  refine ⟨fun dir src dst bytes data ha hb hp => exec_copy ha (PState.isBound_of hb) hp,
    fun k src dst data u hc hk hd hg hdst hw => exec_copyComplete_granule hc hk hd hg hdst hw,
    fun baton b v ha hb hctx hw hstep hloss h1 => ⟨_, exec_signal_bound ha (PState.isBound_of hb) hctx hw hstep hloss, ?_⟩,
    fun baton v timeout ha hb => ⟨fun hle h1 => ?_, fun hlt ht => ?_⟩⟩
  · obtain ⟨t, ht⟩ : ∃ t, t = (s.taken p).signalled p baton.toNat v := ⟨_, rfl⟩
    obtain ⟨cnt, y, hpart, hbaton, hothers⟩ := (s.taken p).signalled_baton p baton.toNat v
    have hmem := (s.taken p).signalled_mem p baton.toNat v
    have hnow := (s.taken p).signalled_now p baton.toNat v
    rw [State.taken_part] at hpart hbaton hothers
    rw [← ht] at hpart hmem hnow ⊢
    have he : (t.part p).enable = true := by
      rw [hpart]
      exact State.enable_of_ringReady ha.1
    obtain ⟨w, hw⟩ : ∃ w, w = (t.part p).sync.baton baton.toNat := ⟨_, rfl⟩
    have hby : t.Bystands (t.endCmd h 0x0C j 0 w) := State.finish_bystands ..
    have hsync : ((t.endCmd h 0x0C j 0 w).part p).sync = y := (congrArg Part.sync (hby.part p) :).trans (congrArg Part.sync hpart)
    have hdue := (State.finish_owes t p j 0x0C h.flags h.tag h.vector 0 w h1 he).trans (congrArg (fun z : Part => z.due ++ _) hpart)
    rw [← hw, hsync]
    refine ⟨hbaton, hothers, hby.mem.trans hmem, hdue.trans ?_⟩
    rw [hw, hnow, hpart]
    rfl
  · exact ((exec_wait ha (PState.isBound_of hb)).1 hle).trans
      (congrArg Host.Outcome.next (State.endCmd_owes _ _ (.inr h1) (State.taken_enable ha.1) _))
  · subst ht
    refine ((exec_wait ha (PState.isBound_of hb)).2 hlt).trans (congrArg Host.Outcome.next ?_)
    rw [State.waitDeadline_zero, State.addCmd_addWaiter]

end Sys2Proof.Machine

/-!
Completion records, the consumer mirror and interrupts (R185, R189, R199, R201 to R203, R205; O33).
-/
namespace Sys2Proof.Machine

/-! ## The bytes of a record (Table 8.7) -/

theorem leBytes_length (n v : Nat) : (leBytes n v).length = n := by
  induction n generalizing v with
  | zero => rfl
  | succ n ih => rw [leBytes, List.length_cons, ih]

theorem leBytes_getElem (n v i : Nat) (h : i < (leBytes n v).length) : ((leBytes n v)[i]).toNat = v / 256 ^ i % 256 := by
  induction n generalizing v i with
  | zero => exact absurd h (Nat.not_lt_zero i)
  | succ n ih =>
    cases i with
    | zero => simp [leBytes]
    | succ i =>
      simp only [leBytes, List.getElem_cons_succ]
      rw [ih, Nat.div_div_eq_div_mul, Nat.pow_succ']

theorem CqRec.bytes_length (r : CqRec) : r.bytes.length = 32 := by
  simp only [CqRec.bytes, List.length_append, leBytes_length, List.length_cons, List.length_nil]

/-- Table 8.7, byte by byte. -/
theorem CqRec.bytes_getElem (r : CqRec) (i : Nat) (h : i < r.bytes.length) : (r.bytes[i]).toNat =
    (if i < 2 then r.tag.toNat / 256 ^ i
     else if i = 2 then r.opcode.toNat
     else if i = 3 then r.status.toNat
     else if i < 8 then r.index.toNat / 256 ^ (i - 4)
     else if i < 16 then r.info.toNat / 256 ^ (i - 8)
     else if i < 24 then r.lineTime.toNat / 256 ^ (i - 16)
     else if i = 28 then r.phase.toNat
     else 0) % 256 := by
  have hi : i < 32 := r.bytes_length ▸ h
  have hcode : [r.opcode, r.status] = leBytes 1 r.opcode.toNat ++ leBytes 1 r.status.toNat := by simp [leBytes]
  simp only [CqRec.bytes, hcode, List.getElem_append, List.length_append, leBytes_length]
  split_ifs <;> simp only [leBytes_getElem] <;> try omega
  · rename_i h2
    rw [h2, Nat.sub_self, Nat.pow_zero, Nat.div_one]
  · rename_i h3
    rw [h3, Nat.pow_zero, Nat.div_one]
  · rw [Nat.zero_div]
  · rename_i h28
    rw [h28, Nat.pow_zero, Nat.div_one]
  · have hphase := r.phase.toNat_le
    have hpow : 256 ≤ 256 ^ (i - (2 + (1 + 1) + 4 + 8 + 8 + 4)) := Nat.le_self_pow (by omega) 256
    rw [Nat.div_eq_of_lt (by omega)]

theorem memGet_memWrite_leBytes (m : Mem) (a n v i : Nat) (h : i < n) :
    (memGet (memWrite m a (leBytes n v)) (a + i)).toNat = v / 256 ^ i % 256 := by
  rw [memGet_memWrite_inside _ _ _ _ ((leBytes_length n v).symm ▸ h : i < (leBytes n v).length), leBytes_getElem]

/-! ## Writes to the memory of a host (R183, R205) -/

/-- The memory of the host on a port. -/
def State.hostOut (s : State) (hp : HostPort) : Mem := if hp = 0 then s.hostOut0 else s.hostOut1

/-- The memory of the host on the other port. -/
def State.otherOut (s : State) (hp : HostPort) : Mem := if hp = 0 then s.hostOut1 else s.hostOut0

theorem State.hostOut_congr {s t : State} (hp : HostPort) (h0 : t.hostOut0 = s.hostOut0) (h1 : t.hostOut1 = s.hostOut1) :
    t.hostOut hp = s.hostOut hp ∧ t.otherOut hp = s.otherOut hp := by
  rw [State.hostOut, State.hostOut, State.otherOut, State.otherOut, h0, h1]
  exact ⟨rfl, rfl⟩

section HostWrite
variable (s : State) (hp : HostPort) (a : Nat) (bs : List Byte)

theorem State.hostOut_hostWrite : (s.hostWrite hp a bs).hostOut hp = memWrite (s.hostOut hp) a bs := by
  unfold State.hostWrite State.hostOut
  split <;> rfl

theorem State.otherOut_hostWrite : (s.hostWrite hp a bs).otherOut hp = s.otherOut hp := by
  unfold State.hostWrite State.otherOut
  split <;> rfl

theorem State.hostWrite_frame : { s.hostWrite hp a bs with hostOut0 := s.hostOut0, hostOut1 := s.hostOut1 } = s := by
  unfold State.hostWrite
  split <;> rfl

end HostWrite

/-! ## Interrupts (R202, R205) -/

section Interrupt
variable {s : State} {hp : HostPort} {fn : Nat} (v : Nat)

theorem State.pcie_modPcie (s : State) (hp : HostPort) (f : Pcie → Pcie) : (s.modPcie hp f).pcie hp = f (s.pcie hp) := by
  unfold State.modPcie State.pcie
  split <;> rfl

theorem State.modPcie_intrs (s : State) (hp : HostPort) (f : Pcie → Pcie) : (s.modPcie hp f).intrs = s.intrs := by
  unfold State.modPcie
  split <;> rfl

/-- MSI-X is disabled. -/
theorem State.interrupt_off (h : setHas (s.pcie hp).msixOn fn = false) : s.interrupt hp fn v = s := by
  rw [State.interrupt, h]
  rfl

/-- The vector or the function is masked. -/
theorem State.interrupt_masked (h : setHas (s.pcie hp).msixOn fn = true)
    (hm : setHas (s.pcie hp).maskAll fn = true ∨ setHas (s.pcie hp).unmasked (4096 * fn + v % (if fn = 0 then 256 else 112)) = false) :
    s.interrupt hp fn v =
      s.modPcie hp fun x => { x with pending := setAdd x.pending (4096 * fn + v % (if fn = 0 then 256 else 112)) } := by
  have hc : (setHas (s.pcie hp).maskAll fn || !setHas (s.pcie hp).unmasked (4096 * fn + v % (if fn = 0 then 256 else 112))) = true := by
    obtain hm | hm := hm <;> rw [hm]
    · rfl
    · exact Bool.or_true _
  rw [State.interrupt, h]
  exact if_pos hc

theorem State.interrupt_sent (h : setHas (s.pcie hp).msixOn fn = true) (hm : setHas (s.pcie hp).maskAll fn = false)
    (hu : setHas (s.pcie hp).unmasked (4096 * fn + v % (if fn = 0 then 256 else 112)) = true) :
    s.interrupt hp fn v = { s with intrs := s.intrs ++ [⟨hp, fn, v % (if fn = 0 then 256 else 112)⟩] } := by
  rw [State.interrupt, h, hm, hu]
  rfl

end Interrupt

/-- Interrupts hang on the functions of the ports and the interrupts so far. -/
theorem State.interrupt_congr {s t : State} (hp : HostPort) (fn v : Nat) (hi : t.intrs = s.intrs) (h0 : t.pcie0 = s.pcie0)
    (h1 : t.pcie1 = s.pcie1) : (t.interrupt hp fn v).intrs = (s.interrupt hp fn v).intrs ∧
      (t.interrupt hp fn v).pcie0 = (s.interrupt hp fn v).pcie0 ∧ (t.interrupt hp fn v).pcie1 = (s.interrupt hp fn v).pcie1 := by
  have hx : t.pcie hp = s.pcie hp := by rw [State.pcie, State.pcie, h0, h1]
  unfold State.interrupt
  rw [hx]
  dsimp only
  generalize v % (if fn = 0 then 256 else 112) = w
  split
  · exact ⟨hi, h0, h1⟩
  · split
    · unfold State.modPcie
      split
      · exact ⟨hi, congrArg (fun x : Pcie => { x with pending := setAdd x.pending (4096 * fn + w) }) h0, h1⟩
      · exact ⟨hi, h0, congrArg (fun x : Pcie => { x with pending := setAdd x.pending (4096 * fn + w) }) h1⟩
    · exact ⟨congrArg (· ++ [⟨hp, fn, w⟩]) hi, h0, h1⟩

/-- Those of a partition hang on the port that owns it, too. -/
theorem State.partInterrupt_congr {s t : State} {p : Nat} (v : Nat) (hi : t.intrs = s.intrs) (h0 : t.pcie0 = s.pcie0) (h1 : t.pcie1 = s.pcie1)
    (hh : (t.part p).host = (s.part p).host) : (t.partInterrupt p v).intrs = (s.partInterrupt p v).intrs ∧
      (t.partInterrupt p v).pcie0 = (s.partInterrupt p v).pcie0 ∧ (t.partInterrupt p v).pcie1 = (s.partInterrupt p v).pcie1 := by
  have hx : t.pcie (s.part p).host = s.pcie (s.part p).host := by rw [State.pcie, State.pcie, h0, h1]
  rw [State.partInterrupt, State.partInterrupt, hh, hx]
  exact State.interrupt_congr _ _ _ hi h0 h1

/-! ## The write of a record (R199, R201 to R203) -/

/-- The address of the slot of CQ_PRODUCER. -/
def Part.slotAddr (x : Part) : Nat := x.cqBase.toNat + 32 * (x.cqProducer.toNat % x.cqSize)

/-- A record with PHASE as of the pass over the completion ring (R201). -/
def Part.phased (x : Part) (r : CqRec) : CqRec := { r with phase := x.cqProducer.toNat / x.cqSize % 2 == 0 }

theorem Part.phased_phase (x : Part) (r : CqRec) : (x.phased r).phase.toNat = 1 - x.cqProducer.toNat / 2 ^ x.cqLog2.toNat % 2 := by
  change (x.cqProducer.toNat / 2 ^ x.cqLog2.toNat % 2 == 0).toNat = _
  obtain h | h := Nat.mod_two_eq_zero_or_one (x.cqProducer.toNat / 2 ^ x.cqLog2.toNat) <;> rw [h] <;> rfl

/-- A record written to the slot of CQ_PRODUCER. -/
def State.recordPut (s : State) (p : Nat) (r : CqRec) (rest : List Due) : State :=
  ((s.hostWrite (s.part p).host (s.part p).slotAddr r.bytes).traced [.record p r]).modPart p fun x =>
    { x with due := rest, cqProducer := x.cqProducer + 1 }

/-- The completion of a command is compared with the window boundaries (R309). -/
def State.recordCompared (s : State) (p : Nat) (event : Bool) (r : CqRec) : State :=
  if event then s else s.photoEvent p r.lineTime s.devId

/-- The interrupt of a record (R199, R202). -/
def State.recordInterrupts (s : State) (p : Nat) (event : Bool) (d : Due) : State :=
  if event || d.flags.getLsbD 2 then s.partInterrupt p d.vector.toNat else s

theorem State.recordInterrupts_eq (s : State) (p : Nat) (event : Bool) (d : Due) : s.recordInterrupts p event d =
    if event = true ∨ d.flags.getLsbD 2 = true then s.partInterrupt p d.vector.toNat else s := by
  simp only [State.recordInterrupts, Bool.or_eq_true]

/-- A failed command with HALT halts a ring that is not halted (R203). -/
def State.recordHalts (s : State) (p : Nat) (event : Bool) (d : Due) : State :=
  if !event && d.flags.getLsbD 0 && d.rec_.status != Code.ok then
    s.modPart p fun x => if x.halted then x else { x with halted := true, haltStatus := d.rec_.status, haltIndex := d.rec_.index }
  else s

/-- What follows the write of a record. -/
def State.recordFollowed (s : State) (p : Nat) (event : Bool) (d : Due) (r : CqRec) : State :=
  ((s.recordCompared p event r).recordInterrupts p event d).recordHalts p event d

/-- The record at the head of those due is written to a free slot. -/
theorem State.writeRecord_free {s : State} {p : Nat} {d : Due} {rest : List Due} {event : Bool} (hd : (s.part p).due = d :: rest)
    (he : d.isEvent = event) (hen : (s.part p).enable = true)
    (hfree : ((s.part p).cqProducer - (s.part p).cqConsumer).toNat < 2 ^ (s.part p).cqLog2.toNat) :
    s.writeRecord p event = (s.recordPut p ((s.part p).phased d.rec_) rest).recordFollowed p event d ((s.part p).phased d.rec_) := by
  have hskip : (d.isEvent != event || !(s.part p).enable ||
      decide ((s.part p).cqSize ≤ ((s.part p).cqProducer - (s.part p).cqConsumer).toNat)) = false := by
    rw [he, hen, Part.cqSize, decide_eq_false (Nat.not_le.2 hfree), bne_self_eq_false]
    rfl
  rw [State.writeRecord, hd]
  dsimp only
  rw [hskip]
  rfl

section Parts
variable (s : State) (p : Nat) (event : Bool) (d : Due) (r : CqRec) (rest : List Due)

theorem State.recordPut_frame : { s.recordPut p r rest with
    parts := s.parts, trace := s.trace, hostOut0 := s.hostOut0, hostOut1 := s.hostOut1 } = s := by
  rw [State.recordPut, State.traced, State.hostWrite]
  split <;> rfl

theorem State.traced_part (l : List TraceItem) : (s.traced l).part p = s.part p :=
  have hpart (l : List TraceItem) : ({ s with trace := l } : State).part p = s.part p := rfl
  hpart _

theorem State.traced_hostOut (l : List TraceItem) (hp : HostPort) :
    (s.traced l).hostOut hp = s.hostOut hp ∧ (s.traced l).otherOut hp = s.otherOut hp :=
  have hout (l : List TraceItem) : ({ s with trace := l } : State).hostOut hp = s.hostOut hp ∧
    ({ s with trace := l } : State).otherOut hp = s.otherOut hp := ⟨rfl, rfl⟩
  hout _

theorem State.modPart_hostOut (f : Part → Part) (hp : HostPort) :
    (s.modPart p f).hostOut hp = s.hostOut hp ∧ (s.modPart p f).otherOut hp = s.otherOut hp := ⟨rfl, rfl⟩

theorem State.hostWrite_part (hp : HostPort) (a : Nat) (bs : List Byte) : (s.hostWrite hp a bs).part p = s.part p := by
  unfold State.hostWrite
  split <;> rfl

theorem State.recordPut_part : (s.recordPut p r rest).part p = { s.part p with due := rest, cqProducer := (s.part p).cqProducer + 1 } := by
  rw [State.recordPut, State.part_modPart_same, State.traced_part, State.hostWrite_part]

/-- The bytes of a record stand in its slot, in the memory of the owning port's host. -/
theorem State.hostOut_recordPut : (s.recordPut p r rest).hostOut (s.part p).host =
    memWrite (s.hostOut (s.part p).host) (s.part p).slotAddr r.bytes := by
  rw [State.recordPut, (State.modPart_hostOut ..).1, (State.traced_hostOut ..).1, State.hostOut_hostWrite]

theorem State.otherOut_recordPut : (s.recordPut p r rest).otherOut (s.part p).host = s.otherOut (s.part p).host := by
  rw [State.recordPut, (State.modPart_hostOut ..).2, (State.traced_hostOut ..).2, State.otherOut_hostWrite]

theorem State.recordCompared_photoAs : (s.recordCompared p event r).photoAs s = s := by
  unfold State.recordCompared
  split
  · rfl
  · exact s.photoEvent_frame ..

theorem State.recordInterrupts_frame :
    { s.recordInterrupts p event d with pcie0 := s.pcie0, pcie1 := s.pcie1, intrs := s.intrs } = s := by
  unfold State.recordInterrupts
  split
  · exact s.interrupt_frame ..
  · rfl

/-- The interrupt of a record is that of its partition. -/
theorem State.recordInterrupts_congr {t : State} (hi : t.intrs = s.intrs) (h0 : t.pcie0 = s.pcie0) (h1 : t.pcie1 = s.pcie1)
    (hh : (t.part p).host = (s.part p).host) : (t.recordInterrupts p event d).intrs = (s.recordInterrupts p event d).intrs ∧
      (t.recordInterrupts p event d).pcie0 = (s.recordInterrupts p event d).pcie0 ∧
      (t.recordInterrupts p event d).pcie1 = (s.recordInterrupts p event d).pcie1 := by
  unfold State.recordInterrupts
  split
  · exact State.partInterrupt_congr _ hi h0 h1 hh
  · exact ⟨hi, h0, h1⟩

theorem State.recordHalts_frame : { s.recordHalts p event d with parts := s.parts } = s := by
  unfold State.recordHalts
  split <;> rfl

theorem State.recordHalts_part : { (s.recordHalts p event d).part p with
    halted := (s.part p).halted, haltStatus := (s.part p).haltStatus, haltIndex := (s.part p).haltIndex } = s.part p := by
  unfold State.recordHalts
  split
  · rw [State.part_modPart_same]
    split <;> rfl
  · rfl

theorem State.recordHalts_acts (he : event = false) (h0 : d.flags.getLsbD 0 = true) (hst : d.rec_.status ≠ 0)
    (hh : (s.part p).halted = false) : (s.recordHalts p event d).part p = { s.part p with halted := true, haltStatus := d.rec_.status, haltIndex := d.rec_.index } := by
  have hc : (!event && d.flags.getLsbD 0 && d.rec_.status != Code.ok) = true := by
    rw [he, h0, show (d.rec_.status != Code.ok) = true from bne_iff_ne.2 hst]
    rfl
  rw [State.recordHalts, if_pos hc, State.part_modPart_same, hh]
  rfl

theorem State.recordHalts_keeps (h : event = true ∨ d.flags.getLsbD 0 = false ∨ d.rec_.status = 0 ∨ (s.part p).halted = true) :
    (s.recordHalts p event d).part p = s.part p := by
  unfold State.recordHalts
  obtain h | h | h | h := h
  · rw [h]
    rfl
  · rw [h, Bool.and_false]
    rfl
  · rw [show (d.rec_.status != Code.ok) = false from bne_eq_false_iff_eq.2 h, Bool.and_false]
    rfl
  · split
    · rw [State.part_modPart_same, h]
      rfl
    · rfl

theorem State.recordFollowed_memories : SameMemories s (s.recordFollowed p event d r) := by
  have hc := s.recordCompared_photoAs p event r
  have hi := (s.recordCompared p event r).recordInterrupts_frame p event d
  have hh := ((s.recordCompared p event r).recordInterrupts p event d).recordHalts_frame p event d
  exact (SameMemories.trans
    ⟨(congrArg State.mem hc :), (congrArg State.hostOut0 hc :), (congrArg State.hostOut1 hc :), (congrArg State.loader hc :)⟩
    ⟨(congrArg State.mem hi :), (congrArg State.hostOut0 hi :), (congrArg State.hostOut1 hi :), (congrArg State.loader hi :)⟩).trans
    ⟨(congrArg State.mem hh :), (congrArg State.hostOut0 hh :), (congrArg State.hostOut1 hh :), (congrArg State.loader hh :)⟩

/-- Before the halt nothing of the partition changes. -/
theorem State.recordInterrupts_recordCompared_part :
    ((s.recordCompared p event r).recordInterrupts p event d).part p = s.part p :=
  (congrArg (fun t : State => t.part p) ((s.recordCompared p event r).recordInterrupts_frame p event d) :).trans
    (congrArg (fun t : State => t.part p) (s.recordCompared_photoAs p event r) :)

theorem State.recordFollowed_part : { (s.recordFollowed p event d r).part p with
    halted := (s.part p).halted, haltStatus := (s.part p).haltStatus, haltIndex := (s.part p).haltIndex } = s.part p := by
  have h := ((s.recordCompared p event r).recordInterrupts p event d).recordHalts_part p event d
  rwa [State.recordInterrupts_recordCompared_part] at h

theorem State.recordFollowed_halts (he : event = false) (h0 : d.flags.getLsbD 0 = true) (hst : d.rec_.status ≠ 0)
    (hh : (s.part p).halted = false) : (s.recordFollowed p event d r).part p =
      { s.part p with halted := true, haltStatus := d.rec_.status, haltIndex := d.rec_.index } := by
  have hpart := s.recordInterrupts_recordCompared_part p event d r
  rw [State.recordFollowed, State.recordHalts_acts _ _ _ _ he h0 hst (by rw [hpart]; exact hh), hpart]

theorem State.recordFollowed_keeps (h : event = true ∨ d.flags.getLsbD 0 = false ∨ d.rec_.status = 0 ∨ (s.part p).halted = true) :
    (s.recordFollowed p event d r).part p = s.part p := by
  have hpart := s.recordInterrupts_recordCompared_part p event d r
  rw [State.recordFollowed, State.recordHalts_keeps _ _ _ _ (by rwa [hpart]), hpart]

/-- The interrupt that follows the write of a record. -/
theorem State.recordFollowed_intrs {u : State} (hi : s.intrs = u.intrs) (h0 : s.pcie0 = u.pcie0) (h1 : s.pcie1 = u.pcie1)
    (hh : (s.part p).host = (u.part p).host) : (s.recordFollowed p event d r).intrs = (u.recordInterrupts p event d).intrs ∧
      (s.recordFollowed p event d r).pcie0 = (u.recordInterrupts p event d).pcie0 ∧
      (s.recordFollowed p event d r).pcie1 = (u.recordInterrupts p event d).pcie1 := by
  have hc := s.recordCompared_photoAs p event r
  have hf := ((s.recordCompared p event r).recordInterrupts p event d).recordHalts_frame p event d
  obtain ⟨k, k0, k1⟩ := State.recordInterrupts_congr u p event d (t := s.recordCompared p event r)
    ((congrArg State.intrs hc :).trans hi) ((congrArg State.pcie0 hc :).trans h0)
    ((congrArg State.pcie1 hc :).trans h1) ((congrArg (fun t : State => (t.part p).host) hc :).trans hh)
  exact ⟨(congrArg State.intrs hf :).trans k, (congrArg State.pcie0 hf :).trans k0, (congrArg State.pcie1 hf :).trans k1⟩

end Parts

/-! ## The consumer mirror (R185) -/

theorem exec_consumerMirrorWrite {s : State} {p : PartId} (h : (s.part p).enable = true) : Gives (.consumerMirrorWrite p) s
    ((s.setPart p { s.part p with mirror := (s.part p).consumer }).hostWrite (s.part p).host (s.part p).mirrorAddr.toNat
      (leBytes 8 (s.part p).consumer.toNat)) := by
  change execConsumerMirrorWrite p s = _
  rw [execConsumerMirrorWrite]
  exact if_neg (by simp [h])

/-! ## O33 -/

/-- Settles O33: a record is put in its slot, and what follows it changes the page and the interrupts alone; the mirror is one more write. -/
theorem recordsAndInterrupts : Obligations.RecordsAndInterrupts := by
  unfold Obligations.RecordsAndInterrupts
  refine ⟨fun s p d rest event => ⟨fun hd he hen hfree => ?_, fun hen => ⟨_, exec_consumerMirrorWrite hen, ?_⟩⟩,
    fun s p st i w hab hen hw => ?_, fun s p fn v => ⟨?_, fun h => State.interrupt_off v h, fun h hm => ?_,
      fun h hm hu => State.interrupt_sent v h hm hu⟩⟩
  · obtain ⟨r, hr⟩ : ∃ r, r = (s.part p).phased d.rec_ := ⟨_, rfl⟩
    obtain ⟨w, hw⟩ : ∃ w, w = s.recordPut p r rest := ⟨_, rfl⟩
    obtain ⟨t, ht⟩ : ∃ t, t = w.recordFollowed p event d r := ⟨_, rfl⟩
    have hwrite : s.writeRecord p event = t := by
      rw [ht, hw, hr]
      exact State.writeRecord_free hd he hen hfree
    have hframe := s.recordPut_frame p r rest
    have hput := s.recordPut_part p r rest
    have hown := s.hostOut_recordPut p r rest
    have hother := s.otherOut_recordPut p r rest
    obtain ⟨hmem, hout0, hout1, -⟩ := w.recordFollowed_memories p event d r
    have hpart := w.recordFollowed_part p event d r
    rw [← hw] at hframe hput hown hother
    rw [← ht] at hmem hout0 hout1 hpart
    have hsame := State.hostOut_congr (s.part p).host hout0 hout1
    rw [hput] at hpart
    refine ⟨t, fun h => ?_, fun h => ?_, (congrArg Part.due hpart :), (congrArg Part.cqProducer hpart :),
      hmem.trans (congrArg State.mem hframe :), fun i hi => ?_, fun b hb => ?_, ?_, ?_, fun h h0 hst hh => ?_, fun h => ?_⟩
    · subst h
      exact congrArg Host.Outcome.next hwrite
    · subst h
      exact congrArg Host.Outcome.next hwrite
    · have hi' : i < r.bytes.length := r.bytes_length.symm ▸ hi
      have hbyte := r.bytes_getElem i hi'
      rw [← memGet_memWrite_inside r.bytes (s.hostOut (s.part p).host) (s.part p).slotAddr i hi',
        ← hown, ← hsame.1, hr, Part.phased_phase] at hbyte
      exact hbyte
    · exact (congrArg (memGet · b) (hsame.1.trans hown)).trans (memGet_memWrite_outside _ _ _ _ (r.bytes_length.symm ▸ hb))
    · exact hsame.2.trans hother
    · have hintrs := w.recordFollowed_intrs p event d r (u := s) (congrArg State.intrs hframe :) (congrArg State.pcie0 hframe :)
        (congrArg State.pcie1 hframe :) (congrArg Part.host hput :)
      rw [← ht, State.recordInterrupts_eq] at hintrs
      exact hintrs
    · rw [ht, w.recordFollowed_halts p event d r h h0 hst ((congrArg Part.halted hput :).trans hh)]
      exact ⟨rfl, rfl, rfl⟩
    · rw [ht, w.recordFollowed_keeps p event d r (h.imp_right (Or.imp_right (Or.imp_right (congrArg Part.halted hput :).trans))), hput]
      exact ⟨rfl, rfl, rfl⟩
  · refine ⟨?_, fun i hi => ?_, fun b hb => ?_, ?_, ?_⟩
    · rw [State.hostWrite_part, State.part_setPart_same]
    · exact (congrArg (fun m => (memGet m _).toNat) (State.hostOut_hostWrite ..)).trans (memGet_memWrite_leBytes _ _ _ _ _ hi)
    · exact (congrArg (memGet · b) (State.hostOut_hostWrite ..)).trans (memGet_memWrite_outside _ _ _ _ ((leBytes_length 8 _).symm ▸ hb))
    · exact State.otherOut_hostWrite ..
    · exact (congrArg State.intrs (State.hostWrite_frame _ _ _ _) :)
  · rw [State.eventDue_part, if_neg (by simpa [hab, hen] using hw)]
    exact ⟨_, rfl, rfl, rfl, rfl, rfl, rfl, rfl⟩
  · simp only [State.partInterrupt, Bool.and_eq_true, decide_eq_true_eq, Nat.succ_le_iff]
  · rw [State.interrupt_masked v h hm, State.modPcie_intrs, State.pcie_modPcie]
    exact ⟨rfl, (setHas_iff _ _).2 ((mem_setAdd _ _ _).2 (.inr rfl))⟩

end Sys2Proof.Machine

/-!
The page of a partition (R183, R184, R198, R203, R205, Tables 8.13, 8.15): RING_CFG, PART_CTRL, and the function-level reset of a VF (O34).
-/
namespace Sys2Proof.Machine

/-! ## RING_CFG (R183, R184) -/

/-- The fields of RING_CFG; a size outside 6 to 16 leaves its field (Table 8.13). -/
def Part.configured (x : Part) (v : Word) : Part :=
  { x with eventVector := BitVec.ofNat 8 (field v 24 8)
           cqLog2 := if 6 ≤ field v 16 5 ∧ field v 16 5 ≤ 16 then BitVec.ofNat 5 (field v 16 5) else x.cqLog2
           sizeLog2 := if 6 ≤ field v 8 5 ∧ field v 8 5 ≤ 16 then BitVec.ofNat 5 (field v 8 5) else x.sizeLog2 }

/-- Without a wait for a slot and with nothing due none begins and none ends. -/
theorem Part.trackFull_idle {x : Part} (hd : x.due = []) (hf : x.fullSince = none) (own : Word) : x.trackFull own = x := by
  have ha : x.slotAwaited = false := by
    rw [Part.slotAwaited, hd, List.drop_nil]
    rfl
  rw [Part.trackFull, ha, hf]

/-- Rings are disabled with event records alone due, each of which is counted. -/
theorem Part.disable_events {x : Part} (hd : ∀ d ∈ x.due, d.isEvent = true) (hf : x.fullSince = none) (own : Word) :
    x.disable own = { x with enable := false, due := [], halted := false, cnt := Machine.bump x.cnt 5 x.due.length } := by
  have hn : x.waitingEvents = x.due.length := List.countP_eq_length.2 hd
  rw [Part.disable, hn]
  refine Part.trackFull_idle ?_ ?_ own
  · rfl
  · exact hf

/-- Disabled rings have nothing due. -/
theorem Part.disable_frame (x : Part) (own : Word) : (x.disable own).enable = false ∧ (x.disable own).due = [] ∧
    (x.disable own).state = x.state := by
  have h := Part.trackFull_frame { x with enable := false, due := [], cnt := Machine.bump x.cnt 5 x.waitingEvents, halted := false } own
  exact ⟨(congrArg Part.enable h :), (congrArg Part.due h :), (congrArg Part.state h :)⟩

section RingCfg
variable {s : State} {p : PartId} {v : Word}

theorem exec_ringCfgWrite_rise (he : (s.part p).enable = false) (hv : v.getLsbD 0 = true) (ha : s.isAbsent p = false) :
    Gives (.ringCfgWrite p v) s (s.setPart p { (s.part p).configured v with
      enable := true, producer := 0, consumer := 0, cqProducer := 0, cqConsumer := 0, due := [], fullSince := none }) := by
  change execRingCfgWrite p v s = _
  rw [execRingCfgWrite, State.ringConfig]
  dsimp only
  rw [if_neg (by rw [he]; decide), if_pos (by rw [hv, ha]; rfl)]
  rfl

theorem exec_ringCfgWrite_stays (he : (s.part p).enable = false) (hv : v.getLsbD 0 = false ∨ s.isAbsent p = true) :
    Gives (.ringCfgWrite p v) s (s.setPart p ((s.part p).configured v)) := by
  have hc : ¬ (v.getLsbD 0 && !s.isAbsent p) = true := by
    obtain hv | hv := hv <;> rw [hv]
    · rw [Bool.false_and]
      decide
    · rw [Bool.not_true, Bool.and_false]
      decide
  change execRingCfgWrite p v s = _
  rw [execRingCfgWrite, State.ringConfig]
  dsimp only
  rw [if_neg (by rw [he]; decide), if_neg hc]
  rfl

theorem exec_ringCfgWrite_fall (he : (s.part p).enable = true) (hv : v.getLsbD 0 = false) (hs : (s.part p).state = .idle)
    (hc : (s.part p).cmds = []) (hd : ∀ d ∈ (s.part p).due, d.isEvent = true) :
    Gives (.ringCfgWrite p v) s (s.setPart p ((s.part p).disable s.lt.own)) := by
  have hany : (s.part p).due.any (fun d => !d.isEvent) = false := by
    rw [List.any_eq_false]
    intro d hm
    rw [hd d hm]
    decide
  change execRingCfgWrite p v s = _
  rw [execRingCfgWrite, State.ringConfig]
  dsimp only
  rw [if_pos he, hv, hs, hc, hany]
  rfl

theorem exec_ringCfgWrite_kept (he : (s.part p).enable = true)
    (h : v.getLsbD 0 = true ∨ (s.part p).state ≠ .idle ∨ (s.part p).cmds ≠ [] ∨ ∃ d ∈ (s.part p).due, d.isEvent = false) :
    Gives (.ringCfgWrite p v) s s := by
  have hc : (v.getLsbD 0 || (s.part p).state != .idle || !(s.part p).cmds.isEmpty || (s.part p).due.any fun d => !d.isEvent) = true := by
    simp only [Bool.or_eq_true, bne_iff_ne, Bool.not_eq_true', List.isEmpty_eq_false_iff, List.any_eq_true, or_assoc]
    exact h
  change execRingCfgWrite p v s = _
  rw [execRingCfgWrite, State.ringConfig]
  dsimp only
  rw [if_pos he, if_pos hc]

end RingCfg

/-! ## PART_CTRL (R198, R203, R205) -/

section PartCtrl
variable {s : State} {p : PartId} {hp : HostPort}

theorem State.partCtrl_own (h : (s.part p).host = hp) (f : State → State) : s.partCtrl p hp f = f s := by
  rw [State.partCtrl, h, bne_self_eq_false]
  rfl

/-- A write on the other port is dropped and counted (R205). -/
theorem State.partCtrl_other (h : (s.part p).host ≠ hp) (f : State → State) : s.partCtrl p hp f = s.modPart p (·.bump 4) := by
  rw [State.partCtrl, if_pos (bne_iff_ne.2 h)]

theorem State.preemptNow_legal (ha : s.isAbsent p = false) (hc : (s.part p).canPreempt = true) : s.preemptNow p = s.beginSave p := by
  rw [State.preemptNow, ha, hc]
  rfl

theorem State.preemptNow_illegal (h : s.isAbsent p = true ∨ (s.part p).canPreempt = false) : s.preemptNow p = s.modPart p (·.bump 1) := by
  rw [State.preemptNow, if_pos]
  simpa using h

/-- RESET_NOW of a partition with a context. -/
theorem State.resetNow_bound (ha : s.isAbsent p = false) (hb : (s.part p).bound.isSome = true) (hs : (s.part p).state.isBound = true)
    (discard : Bool) : s.resetNow p discard = s.beginReset p discard := by
  have hn : (s.part p).bound.isNone = false := by
    rw [← Option.not_isSome, hb]
    rfl
  rw [State.resetNow]
  dsimp only
  rw [if_neg (by rw [ha, hs, Bool.or_true]; decide), if_neg (by rw [hn]; decide)]

theorem State.resetNow_illegal (h : s.isAbsent p = true ∨ (s.part p).state = .quiescing ∨ (s.part p).state = .resetting) (discard : Bool) :
    s.resetNow p discard = s.modPart p (·.bump 1) := by
  rw [State.resetNow]
  dsimp only
  refine if_pos ?_
  obtain h | h | h := h <;> rw [h]
  · rfl
  · exact Bool.or_true _
  · exact Bool.or_true _

end PartCtrl

/-! ## The function-level reset of a VF (R198) -/

theorem exec_vfFunctionLevelReset_none {s : State} {p : PartId}
    (h : (s.pcie (s.part p).host).sriov = false ∨ (s.pcie (s.part p).host).numVFs < p.val + 1) : Gives (.vfFunctionLevelReset p) s s := by
  change execVfFunctionLevelReset p s = _
  rw [execVfFunctionLevelReset]
  exact if_pos (by simpa using h)

/-- The MSI-X state of a function at its reset values. -/
def Pcie.functionReset (x : Pcie) (fn : Nat) : Pcie :=
  { x with msixOn := setDel x.msixOn fn, maskAll := setDel x.maskAll fn, unmasked := setDelRun x.unmasked (4096 * fn) 4096
           pending := setDelRun x.pending (4096 * fn) 4096, d3hot := setDel x.d3hot fn }

theorem exec_vfFunctionLevelReset {s : State} {p : PartId} (hs : (s.pcie (s.part p).host).sriov = true)
    (hn : p.val + 1 ≤ (s.pcie (s.part p).host).numVFs) : Gives (.vfFunctionLevelReset p) s
      (((s.resetNow p false).modPart p (·.disable s.lt.own)).modPcie (s.part p).host (·.functionReset (p.val + 1))) := by
  change execVfFunctionLevelReset p s = _
  rw [execVfFunctionLevelReset]
  dsimp only
  rw [hs, if_neg (by simpa using hn)]
  rfl

/-- The functions of a port are apart from the rest of the state. -/
theorem State.modPcie_frame (s : State) (hp : HostPort) (f : Pcie → Pcie) :
    { s.modPcie hp f with pcie0 := s.pcie0, pcie1 := s.pcie1 } = s := by
  unfold State.modPcie
  split <;> rfl

/-! ## O34 -/

/-- Settles O34: each register of the page acts on the owning port alone, by the branch that its partition's state selects. -/
theorem partitionPage : Obligations.PartitionPage := by
  unfold Obligations.PartitionPage
  refine ⟨fun s p v => ⟨exec_ringCfgWrite_rise, exec_ringCfgWrite_stays, fun he hv hs hc hd hf => ?_, exec_ringCfgWrite_kept⟩,
    fun s p hp => ⟨fun h => ⟨exec_partRestart h, congrArg Host.Outcome.next (State.partCtrl_own h _), fun ha hc => ?_, fun ha hb hs => ?_,
        fun hc => ?_, fun hc => ?_⟩,
      fun h => ⟨congrArg Host.Outcome.next (State.partCtrl_other h _), congrArg Host.Outcome.next (State.partCtrl_other h _),
        congrArg Host.Outcome.next (State.partCtrl_other h _), congrArg Host.Outcome.next (State.partCtrl_other h _)⟩,
      exec_vfFunctionLevelReset_none, fun hs hn => ⟨_, exec_vfFunctionLevelReset hs hn, ?_⟩⟩⟩
  · exact (exec_ringCfgWrite_fall he hv hs hc hd).trans
      (congrArg (fun x => Host.Outcome.next (s.setPart p x)) (Part.disable_events hd hf s.lt.own))
  · exact congrArg Host.Outcome.next ((State.partCtrl_own h _).trans (State.preemptNow_legal ha hc))
  · exact congrArg Host.Outcome.next ((State.partCtrl_own h _).trans (State.resetNow_bound ha hb hs _))
  · exact congrArg Host.Outcome.next ((State.partCtrl_own h _).trans (State.preemptNow_illegal hc))
  · exact congrArg Host.Outcome.next ((State.partCtrl_own h _).trans (State.resetNow_illegal hc _))
  · obtain ⟨u, hu⟩ : ∃ u, u = s.resetNow p false := ⟨_, rfl⟩
    have hf := (u.modPart p (·.disable s.lt.own)).modPcie_frame (s.part p).host (·.functionReset (p.val + 1))
    have hpart := (congrArg (fun t : State => t.part p) hf :).trans (u.part_modPart_same p _)
    obtain ⟨henable, hdue, hstate⟩ := (u.part p).disable_frame s.lt.own
    rw [← hu]
    refine ⟨(congrArg Part.enable hpart).trans henable, (congrArg Part.due hpart).trans hdue, (congrArg State.mem hf :),
      (congrArg Part.state hpart).trans hstate, ?_⟩
    rw [State.pcie_modPcie, ← Bool.not_eq_true, setHas_iff]
    exact fun h => ((mem_setDel _ _ _).1 h).2 rfl

end Sys2Proof.Machine

/-!
Writes to near memory: of a slice, through the BAR4 window and from L1 (R205, R228, R236, R237, R247 to R249, R335; O36).
-/
namespace Sys2Proof.Machine

/-! ## Bytes at rising addresses -/

theorem atAddrs_cons (a : Nat) (x : Byte) (bs : List Byte) : atAddrs a (x :: bs) = (a, x) :: atAddrs (a + 1) bs := by
  simp only [atAddrs, List.length_cons, List.range_succ_eq_map, List.zipWith_cons_cons, List.zipWith_map_left, Nat.add_zero, Nat.succ_eq_add_one]
  refine congrArg (List.cons (a, x)) (congrArg (fun f => List.zipWith f (List.range bs.length) bs) ?_)
  funext i b
  rw [Nat.add_right_comm, Nat.add_assoc]

/-- A write of bytes at rising addresses is a write byte by byte. -/
theorem foldl_memSet_atAddrs (m : Mem) (a : Nat) (bs : List Byte) :
    (atAddrs a bs).foldl (fun m b => memSet m b.1 b.2) m = memWrite m a bs := by
  induction bs generalizing m a with
  | nil => rfl
  | cons x bs ih => rw [atAddrs_cons, List.foldl_cons, ih, memWrite]

theorem memWrite_append (m : Mem) (a : Nat) (xs ys : List Byte) :
    memWrite (memWrite m a xs) (a + xs.length) ys = memWrite m a (xs ++ ys) := by
  induction xs generalizing m a with
  | nil => rfl
  | cons x xs ih => rw [memWrite, List.cons_append, memWrite, ← ih, List.length_cons, Nat.add_right_comm, Nat.add_assoc]

/-- Bytes written one by one, each as a function of its address. -/
theorem memGet_foldl_memSet (g : Nat → Byte) (as : List Nat) (m : Mem) (b : Nat) :
    memGet ((as.map fun a => (a, g a)).foldl (fun m b => memSet m b.1 b.2) m) b = if b ∈ as then g b else memGet m b := by
  induction as generalizing m with
  | nil => simp
  | cons a as ih =>
    rw [List.map_cons, List.foldl_cons, ih, memGet_memSet]
    by_cases hb : b ∈ as
    · simp [hb]
    · by_cases ha : a = b
      · simp [ha]
      · simp [hb, ha, Ne.symm ha]

/-! ## What the fencing of rows hangs on (R335) -/

theorem State.rowFenced_closeGroups (s : State) (a b : Nat) : (s.closeGroups a).rowFenced b = s.rowFenced b :=
  (congrArg (fun t : State => t.rowFenced b) (s.closeGroups_frame a) :)

/-- Granules of replaced rows that have been written fence no row. -/
theorem State.stack_freshWritten (s : State) (gs : List Nat) (n : Nat) :
    ((s.freshWritten gs).stack n).fencedRows = (s.stack n).fencedRows := by
  unfold State.freshWritten
  induction gs generalizing s with
  | nil => rfl
  | cons g gs ih =>
    rw [List.foldl_cons]
    refine (ih _).trans ?_
    split
    · split
      · rw [State.stack_modStack]
        split
        · rename_i hn
          rw [hn]
        · rfl
      · rfl
    · rfl

theorem State.rowFenced_freshWritten (s : State) (gs : List Nat) (b : Nat) : (s.freshWritten gs).rowFenced b = s.rowFenced b := by
  unfold State.rowFenced
  split
  · rw [State.stack_freshWritten]
  · rfl

/-! ## Writes to near memory (R228, R236) -/

/-- Bytes and poison of the granules that a write touches (R249). -/
def poisonWritten (bytes : List (Nat × Byte)) (poison : Nat → Bool) (ps : NatSet) : NatSet :=
  (dedup (bytes.map fun b => b.1 / 32)).foldl (fun ps g =>
    if poison g then setAdd ps g else if coversGranule bytes g then setDel ps g else ps) ps

/-- Only memory changes, to `m`, and no row is fenced. -/
structure State.MemoryTo (s t : State) (m : Mem) : Prop where
  only : s.OnlyMemory t
  mem : t.mem = m
  fenced : ∀ b, t.rowFenced b = s.rowFenced b

theorem inNear_of_line {line b : Nat} (h : 128 * line + 128 ≤ 0x12000000000) (hb : b / 128 = line) : inNear b = true := by
  rw [inNear, decide_eq_true_eq]
  omega

theorem inReduce_of_near {a : Nat} (h : inNear a = true) : inReduce a = false ∧ inScratch a = false ∧ inFar a = false := by
  simp only [inNear, decide_eq_true_eq] at h
  simp only [inReduce, inScratch, inFar, Bool.and_eq_false_iff, decide_eq_false_iff_not]
  omega

section Near
variable {s : State} (who : Option Ranked) {a : Nat} {x : Byte} (bytes : List (Nat × Byte)) (poison : Nat → Bool)

/-- A write to near memory outside the fenced rows stores its bytes (R236, R249). -/
theorem State.granWrite_near (hn : inNear a = true) (hf : s.rowFenced a = false) :
    s.MemoryTo (s.granWrite who ((a, x) :: bytes) poison) (((a, x) :: bytes).foldl (fun m b => memSet m b.1 b.2) s.mem) ∧
      (s.granWrite who ((a, x) :: bytes) poison).poison = poisonWritten ((a, x) :: bytes) poison s.poison := by
  obtain ⟨hr, hs, -⟩ := inReduce_of_near hn
  obtain ⟨gs, hgs⟩ : ∃ gs, gs = (dedup (((a, x) :: bytes).map fun b => b.1 / 32)).filter (coversGranule ((a, x) :: bytes)) := ⟨_, rfl⟩
  have ho := s.closeGroups_frame a
  have hw := (s.closeGroups a).freshWritten_frame gs
  have hmem : ((s.closeGroups a).freshWritten gs).mem = s.mem := (congrArg State.mem hw :).trans (congrArg State.mem ho :)
  have hpoison : ((s.closeGroups a).freshWritten gs).poison = s.poison := (congrArg State.poison hw :).trans (congrArg State.poison ho :)
  have heq : s.granWrite who ((a, x) :: bytes) poison = { (s.closeGroups a).freshWritten gs with
      mem := ((a, x) :: bytes).foldl (fun m b => memSet m b.1 b.2) s.mem, poison := poisonWritten ((a, x) :: bytes) poison s.poison } := by
    rw [State.granWrite, hr, hs, State.rowFenced_closeGroups, hf, ← hmem, ← hpoison, hgs]
    rfl
  refine ⟨⟨s.granWrite_onlyMemory .., ?_, fun b => ?_⟩, ?_⟩
  · rw [heq]
  · rw [heq]
    exact (State.rowFenced_freshWritten _ gs b).trans (s.rowFenced_closeGroups a b)
  · rw [heq]

end Near

theorem State.MemoryTo.trans {s t u : State} {m m' : Mem} (h : s.MemoryTo t m) (k : t.MemoryTo u m') : s.MemoryTo u m' :=
  ⟨h.only.trans k.only, k.mem, fun b => (k.fenced b).trans (h.fenced b)⟩

/-- What serves an address and the paths to it stay when memory alone changes. -/
theorem State.OnlyMemory.reachesAddr {s t : State} (h : s.OnlyMemory t) (j a : Nat) : t.reachesAddr j a = s.reachesAddr j a :=
  (congrArg (fun u : State => u.reachesAddr j a) h :)

/-! ## A write piece by piece -/

/-- Pieces written in order, each by `write`. -/
def State.writesBy (write : State → Nat → List Byte → State) : State → List (Nat × Nat) → List Byte → State
  | s, [], _ => s
  | s, (a, n) :: t, bs => State.writesBy write (write s a (bs.take n)) t (bs.drop n)

/-- A write of one piece to an agent's address: dropped where nothing serves it. -/
theorem State.sliceWrites_eq (who : Option Ranked) (ps : List (Nat × Nat)) (s : State) (bs : List Byte) : s.sliceWrites who ps bs =
    State.writesBy (fun s a bs => if (sliceOf a).isSome && s.populated a then s.devWrite who (atAddrs a bs) false else s) s ps bs := by
  induction ps generalizing s bs with
  | nil => rfl
  | cons q ps ih => exact ih _ _

theorem State.devWriteAt_eq (j : Nat) (ps : List (Nat × Nat)) (s : State) (bs : List Byte) : s.devWriteAt j ps bs =
    State.writesBy (fun s a bs =>
      if s.populated a && !inFar a && s.reachesAddr j a then s.devWrite none (atAddrs a bs) false else s) s ps bs := by
  induction ps generalizing s bs with
  | nil => rfl
  | cons q ps ih => exact ih _ _

/-- What lets a byte of near memory be written: its row is not fenced, and, from a junction, a path is left (R247, R335). -/
def State.takes (s : State) (j : Option Nat) (a : Nat) : Prop :=
  s.rowFenced a = false ∧ ∀ k, j = some k → s.reachesAddr k a = true

theorem State.MemoryTo.takes {s t : State} {m : Mem} (h : s.MemoryTo t m) {j : Option Nat} {a : Nat} (k : s.takes j a) : t.takes j a :=
  ⟨(h.fenced a).trans k.1, fun i hi => (h.only.reachesAddr i a).trans (k.2 i hi)⟩

/-- A write of one piece stores what it holds wherever near memory takes it. -/
def StoresNear (write : State → Nat → List Byte → State) (j : Option Nat) : Prop :=
  ∀ (s : State) (a : Nat) (bs : List Byte), bs ≠ [] → inNear a = true → s.takes j a → s.MemoryTo (write s a bs) (memWrite s.mem a bs)

/-- Pieces within near memory store what they hold, in order. -/
theorem State.writesBy_near {write : State → Nat → List Byte → State} {j : Option Nat} (hw : StoresNear write j)
    (fuel : Nat) : ∀ (s : State) (a : Nat) (data : List Byte), (data.length ≠ 0 → data.length + a % 32 ≤ 32 * fuel) →
      a + data.length ≤ 0x12000000000 →
      (∀ b, a ≤ b → b < a + data.length → s.takes j b) →
      s.MemoryTo (State.writesBy write s (pieces fuel a data.length) data) (memWrite s.mem a data) := by
  induction fuel with
  | zero =>
    intro s a data hf _ _
    have hd : data = [] := List.length_eq_zero_iff.1 (by omega)
    subst hd
    exact ⟨.refl s, rfl, fun _ => rfl⟩
  | succ fuel ih =>
    intro s a data hf hn ht
    unfold pieces
    by_cases hd : data.length = 0
    · rw [if_pos hd, List.length_eq_zero_iff.1 hd]
      exact ⟨.refl s, rfl, fun _ => rfl⟩
    · have ha : a % 2 ^ 48 = a := Nat.mod_eq_of_lt (by omega)
      obtain ⟨k, hk⟩ : ∃ k, k = min data.length (32 - a % 32) := ⟨_, rfl⟩
      have hlen : (data.take k).length = k := by
        rw [List.length_take]
        omega
      have hdrop : (data.drop k).length = data.length - k := List.length_drop
      have hfirst := hw s a (data.take k) (by rw [← List.length_pos_iff, hlen]; omega) (by rw [inNear, decide_eq_true_eq]; omega)
        (ht a (Nat.le_refl a) (by omega))
      have hrest := ih (write s a (data.take k)) (a + k) (data.drop k) (by omega) (by omega)
        (fun b h1 h2 => hfirst.takes (ht b (by omega) (by omega)))
      rw [if_neg hd, ha]
      dsimp only
      rw [← hk, State.writesBy, ← hdrop]
      have happ := memWrite_append s.mem a (data.take k) (data.drop k)
      rw [hlen, List.take_append_drop, ← hfirst.mem] at happ
      rw [← happ]
      exact hfirst.trans hrest

/-- The pieces of a write to near memory store all of it. -/
theorem State.writesBy_piecesOf {write : State → Nat → List Byte → State} {j : Option Nat} (hw : StoresNear write j)
    {s : State} {a : Nat} {data : List Byte} (hn : a + data.length ≤ 0x12000000000)
    (ht : ∀ b, a ≤ b → b < a + data.length → s.takes j b) :
    s.MemoryTo (State.writesBy write s (piecesOf a data.length) data) (memWrite s.mem a data) :=
  State.writesBy_near hw _ s a data (by omega) hn ht

/-- A write of the device to near memory stores its bytes. -/
theorem State.devWrite_near {s : State} (who : Option Ranked) {a : Nat} {bs : List Byte} (hb : bs ≠ []) (hn : inNear a = true)
    (hf : s.rowFenced a = false) : s.MemoryTo (s.devWrite who (atAddrs a bs) false) (memWrite s.mem a bs) := by
  cases bs with
  | nil => exact absurd rfl hb
  | cons x bs =>
    have h := (s.granWrite_near who (x := x) (atAddrs (a + 1) bs) (fun _ => false) hn hf).1
    rwa [← atAddrs_cons, foldl_memSet_atAddrs] at h

theorem populated_of_near {a : Nat} (s : State) (h : inNear a = true) : s.populated a = true := by
  rw [State.populated, h]
  rfl

theorem exec_sliceWrite_near {s : State} {a : Nat} {data : List Byte} (hn : a + data.length ≤ 0x12000000000)
    (hf : ∀ b, a ≤ b → b < a + data.length → s.rowFenced b = false) :
    ∃ t, Gives (.sliceWrite (BitVec.ofNat 48 a) data) s t ∧ s.MemoryTo t (memWrite s.mem a data) := by
  have ha : (BitVec.ofNat 48 a).toNat = a := by
    rw [BitVec.toNat_ofNat]
    omega
  refine ⟨_, rfl, ?_⟩
  rw [ha, State.sliceWrites_eq]
  refine State.writesBy_piecesOf (j := none) (fun s a bs hb hn ht => ?_) hn (fun b h1 h2 => ⟨hf b h1 h2, nofun⟩)
  have hs : (sliceOf a).isSome = true := by
    rw [sliceOf, if_pos hn]
    rfl
  rw [hs, populated_of_near s hn]
  exact s.devWrite_near none hb hn ht.1

theorem exec_bar4Write_near {s : State} {hp : HostPort} {a off : Nat} {data : List Byte} (hn : a + data.length ≤ 0x12000000000)
    (hf : ∀ b, a ≤ b → b < a + data.length → s.rowFenced b = false) (hin : off + data.length ≤ s.bar4Size hp)
    (ha : s.bar4Base.toNat / s.bar4Size hp * s.bar4Size hp + off = a)
    (hr : ∀ b, a ≤ b → b < a + data.length → s.reachesAddr (portJunction (26 + hp.val)) b = true) :
    ∃ t, Gives (.bar4Write hp off data) s t ∧ s.MemoryTo t (memWrite s.mem a data) := by
  refine ⟨_, if_neg (Nat.not_lt.2 hin), ?_⟩
  rw [ha, State.devWriteAt_eq]
  refine State.writesBy_piecesOf (j := some (portJunction (26 + hp.val))) (fun s a bs hb hn ht => ?_) hn
    (fun b h1 h2 => ⟨hf b h1 h2, fun k hk => ?_⟩)
  · obtain ⟨hfenced, hreach⟩ := ht
    rw [populated_of_near s hn, (inReduce_of_near hn).2.2, hreach _ rfl]
    exact s.devWrite_near none hb hn hfenced
  · rw [← Option.some.inj hk]
    exact hr b h1 h2

/-! ## Evictions (R237, R248, R249) -/

/-- What one member of a list brings about, and every step keeps, holds at the end. -/
theorem foldl_of_mem {α β : Type} {P : β → Prop} {f : β → α → β} {a : α} (ha : ∀ b, P (f b a))
    (hk : ∀ b c, P b → P (f b c)) {l : List α} (hl : a ∈ l) (b : β) : P (l.foldl f b) := by
  have hkeep (l : List α) (b : β) (hb : P b) : P (l.foldl f b) := by
    induction l generalizing b with
    | nil => exact hb
    | cons c l ih => exact ih _ (hk b c hb)
  induction l generalizing b with
  | nil => cases hl
  | cons c l ih =>
    obtain rfl | hl := List.mem_cons.1 hl
    · exact hkeep l _ (ha b)
    · exact ih hl _

theorem mem_dedup (l : List Nat) (n : Nat) : n ∈ dedup l ↔ n ∈ l := by
  induction l with
  | nil => rfl
  | cons a l ih =>
    cases l with
    | nil => rfl
    | cons b l =>
      unfold dedup
      split
      · rename_i hab
        rw [ih, hab]
        simp
      · rw [List.mem_cons, ih, List.mem_cons (a := n) (b := a)]

/-- A granule written with poison is poisoned (R249). -/
theorem poisonWritten_of_poison {bytes : List (Nat × Byte)} {poison : Nat → Bool} {b : Nat × Byte} (hb : b ∈ bytes)
    (hp : poison (b.1 / 32) = true) (ps : NatSet) : setHas (poisonWritten bytes poison ps) (b.1 / 32) = true := by
  unfold poisonWritten
  refine foldl_of_mem (P := fun ps => setHas ps (b.1 / 32) = true) (a := b.1 / 32) (fun ps => ?_) (fun ps g h => ?_)
    ((mem_dedup _ _).2 (List.mem_map.2 ⟨b, hb, rfl⟩)) ps
  · rw [if_pos hp, setHas_iff, mem_setAdd]
    exact .inr rfl
  · rw [setHas_iff] at h ⊢
    split
    · exact (mem_setAdd _ _ _).2 (.inl h)
    · rename_i hg
      split
      · refine (mem_setDel _ _ _).2 ⟨h, fun he => hg ?_⟩
        rw [← he, hp]
      · exact h

theorem L1.mem_dirtyOf (l : L1) (line b : Nat) : (b, memGet l.data b) ∈ l.dirtyOf line ↔ b ∈ l.dirty ∧ b / 128 = line := by
  simp [L1.dirtyOf]

/-- The bytes that a core wrote in a line, over those of memory. -/
theorem L1.memGet_dirtyOf (l : L1) (line : Nat) (m : Mem) (b : Nat) :
    memGet ((l.dirtyOf line).foldl (fun m b => memSet m b.1 b.2) m) b =
      if b / 128 = line ∧ b ∈ l.dirty then memGet l.data b else memGet m b := by
  rw [L1.dirtyOf, memGet_foldl_memSet]
  simp only [List.mem_filter, beq_iff_eq, and_comm]

section Eviction
variable {s : State} {c : CoreId} {line : Nat}

/-- A line of near memory outside the fenced rows is written back with its poison. -/
theorem State.granWrite_line (hn : 128 * line + 128 ≤ 0x12000000000) (hf : ∀ b, b / 128 = line → s.rowFenced b = false) (who : Option Ranked)
    (l : L1) : s.OnlyMemory (s.granWrite who (l.dirtyOf line) (setHas l.poison)) ∧
      (s.granWrite who (l.dirtyOf line) (setHas l.poison)).mem = (l.dirtyOf line).foldl (fun m b => memSet m b.1 b.2) s.mem ∧
      (s.granWrite who (l.dirtyOf line) (setHas l.poison)).poison = poisonWritten (l.dirtyOf line) (setHas l.poison) s.poison := by
  refine ⟨s.granWrite_onlyMemory .., ?_⟩
  cases hl : l.dirtyOf line with
  | nil => exact ⟨rfl, rfl⟩
  | cons x t =>
    obtain ⟨a, v⟩ := x
    have ha : a / 128 = line := by
      have hmem : (a, v) ∈ l.dirtyOf line := by rw [hl]; exact List.mem_cons_self
      simp only [L1.dirtyOf, List.mem_map, List.mem_filter, beq_iff_eq, Prod.mk.injEq] at hmem
      obtain ⟨b, ⟨-, hb⟩, rfl, -⟩ := hmem
      exact hb
    have h := s.granWrite_near who (x := v) t (setHas l.poison) (inNear_of_line hn ha) (hf a ha)
    exact ⟨h.1.mem, h.2⟩

end Eviction

/-- A line of near memory outside the fenced rows, to which a path is left, is written back. -/
theorem State.writeBack_near {s : State} {c line : Nat} (hn : 128 * line + 128 ≤ 0x12000000000)
    (hf : ∀ b, b / 128 = line → s.rowFenced b = false) (hr : s.coreReaches c (128 * line) = true) :
    (s.writeBack c line).mem = ((s.core c).l1.dirtyOf line).foldl (fun m b => memSet m b.1 b.2) s.mem ∧
      (s.writeBack c line).poison = poisonWritten ((s.core c).l1.dirtyOf line) (setHas (s.core c).l1.poison) s.poison ∧
      (s.writeBack c line).core c = { s.core c with
        l1 := { (s.core c).l1 with dirty := (s.core c).l1.dirty.filter fun a => a / 128 != line } } := by
  obtain ⟨hm, hmem, hpoison⟩ := State.granWrite_line hn hf (s.rankOf c) (s.core c).l1
  have hcore := congrArg (fun cs => tabGet Core.reset cs c) hm.cores
  rw [State.writeBack, if_pos hr]
  refine ⟨hmem, hpoison, ?_⟩
  rw [State.core_modCore_same]
  exact congrArg (fun k : Core => { k with l1 := { k.l1 with dirty := k.l1.dirty.filter fun a => a / 128 != line } }) hcore

theorem State.poisoned_of_near {s : State} {b : Nat} (hn : inNear b = true) (h : setHas s.poison (b / 32) = true) : s.poisoned b = true := by
  rw [State.poisoned, alias_, (inReduce_of_near hn).1, if_neg Bool.false_ne_true, h]
  rfl

/-- A started test is among the tests (R334). -/
theorem State.startTest_mem (s : State) (u : TestUnit) (b : Bool) : ∃ t ∈ (s.startTest u b).twin.tests, t.unit = u := by
  unfold State.startTest
  split
  · rename_i h
    obtain ⟨t, ht, hu⟩ := List.any_eq_true.1 h
    rw [beq_iff_eq] at hu
    split
    · exact ⟨t, ht, hu⟩
    · refine ⟨_, List.mem_map_of_mem ht, ?_⟩
      split
      · exact hu
      · exact hu
  · exact ⟨_, List.mem_append_right _ (List.mem_singleton_self _), rfl⟩

theorem State.startTest_frame (s : State) (u : TestUnit) (b : Bool) : { s.startTest u b with twin := s.twin } = s := by
  unfold State.startTest
  split
  · split <;> rfl
  · rfl

theorem State.sramError_frame (s : State) (u : TestUnit) (ecc : Ecc) : { s.sramError u ecc with twin := s.twin } = s := by
  cases ecc with
  | clean => rfl
  | corrected => exact s.startTest_frame u false
  | uncorrectable => exact s.startTest_frame u true

theorem State.sramError_mem (s : State) (u : TestUnit) {ecc : Ecc} (h : ecc ≠ .clean) :
    ∃ t ∈ (s.sramError u ecc).twin.tests, t.unit = u := by
  cases ecc with
  | clean => exact absurd rfl h
  | corrected => exact s.startTest_mem u false
  | uncorrectable => exact s.startTest_mem u true

/-- An error of a granule that cannot be corrected is on record: the granule is poisoned, and its stack has it (R248). -/
def State.errorHeld (s : State) (g : Nat) : Prop :=
  setHas s.poison g = true ∧ ∀ n, stackOf (32 * g) = some n → (s.stack n).valid = true

/-- An error that cannot be corrected poisons its granule and is recorded in its stack. -/
theorem State.eccError_uncorrectable (s : State) (a : Nat) (u : TestUnit) :
    (s.eccError a .uncorrectable u).poison = setAdd s.poison (alias_ a / 32) ∧
      ∀ n, ((s.eccError a .uncorrectable u).stack n).valid = (decide (stackOf a = some n) || (s.stack n).valid) := by
  obtain ⟨t, ht⟩ : ∃ t : State, t = { s with poison := setAdd s.poison (alias_ a / 32) } := ⟨_, rfl⟩
  have heq : s.eccError a .uncorrectable u = (t.countEcc a .uncorrectable).sramError u .uncorrectable := by
    rw [ht]
    rfl
  have hf := (t.countEcc a .uncorrectable).sramError_frame u .uncorrectable
  have hcount : (t.countEcc a .uncorrectable).poison = t.poison ∧
      ∀ n, ((t.countEcc a .uncorrectable).stack n).valid = (decide (stackOf a = some n) || (t.stack n).valid) := by
    unfold State.countEcc
    cases hs : stackOf a with
    | none => exact ⟨rfl, fun n => by simp⟩
    | some m =>
      refine ⟨rfl, fun n => ?_⟩
      dsimp only
      rw [State.stack_modStack]
      by_cases hm : m = n <;> simp [hm]
  rw [heq]
  refine ⟨((congrArg State.poison hf :).trans hcount.1).trans (by rw [ht]), fun n => ?_⟩
  refine ((congrArg (fun u : State => (u.stack n).valid) hf :).trans (hcount.2 n)).trans ?_
  rw [ht]
  rfl

theorem State.errorHeld_eccError (s : State) (u : TestUnit) {g : Nat} (hn : inNear (32 * g) = true) :
    (s.eccError (32 * g) .uncorrectable u).errorHeld g := by
  obtain ⟨hp, hv⟩ := s.eccError_uncorrectable (32 * g) u
  refine ⟨?_, fun n hs => ?_⟩
  · rw [hp, setHas_iff, mem_setAdd, alias_, (inReduce_of_near hn).1, if_neg Bool.false_ne_true, Nat.mul_div_cancel_left g (by decide)]
    exact .inr rfl
  · rw [hv, decide_eq_true hs, Bool.true_or]

theorem State.errorHeld_kept {s : State} (u : TestUnit) {g a : Nat} (h : s.errorHeld g) : (s.eccError a .uncorrectable u).errorHeld g := by
  obtain ⟨hp, hv⟩ := s.eccError_uncorrectable a u
  obtain ⟨hpoison, hvalid⟩ := h
  refine ⟨?_, fun n hs => ?_⟩
  · rw [hp, setHas_iff, mem_setAdd]
    exact .inl ((setHas_iff _ _).1 hpoison)
  · rw [hv, hvalid n hs, Bool.or_true]

theorem State.eccError_mem (s : State) (a : Nat) (u : TestUnit) {ecc : Ecc} (h : ecc ≠ .clean) :
    ∃ t ∈ (s.eccError a ecc u).twin.tests, t.unit = u := by
  unfold State.eccError
  exact State.sramError_mem _ u h

theorem State.eccError_clean (s : State) (a : Nat) (u : TestUnit) : s.eccError a .clean u = s := by
  rw [State.eccError, if_neg (by decide)]
  rfl

/-- A line that left L1 (R237). -/
theorem State.dropLine_core (s : State) (c line : Nat) : ((s.dropLine c line).core c).l1.lines = (s.core c).l1.lines.filter (· != line) ∧
    ((s.dropLine c line).core c).l1.dirty = (s.core c).l1.dirty.filter (fun a => a / 128 != line) ∧
    ((s.dropLine c line).core c).scalars = (s.core c).scalars ∧ ((s.dropLine c line).core c).tiles = (s.core c).tiles := by
  rw [State.dropLine, State.core_modCore_same]
  exact ⟨rfl, rfl, rfl, rfl⟩

theorem State.dropLine_lines (s : State) (c line : Nat) : line ∉ ((s.dropLine c line).core c).l1.lines := by
  rw [(s.dropLine_core c line).1, List.mem_filter]
  exact fun h => bne_iff_ne.1 h.2 rfl

/-- The state after the bytes of an evicted line have been written and its error has been found. -/
def State.evicted (s : State) (c : CoreId) (line : Nat) (ecc : Ecc) : State :=
  match ecc with
  | .uncorrectable => ((dedup (((s.core c).l1.dirtyOf line).map fun b => b.1 / 32)).foldl
      (fun (t : State) g => t.eccError (32 * g) ecc (.coreBank c)) (s.writeBack c line)).sramError (.coreBank c) ecc
  | _ => (s.writeBack c line).eccError (128 * line) ecc (.coreBank c)

theorem exec_l1EvictionWriteback {s : State} {c : CoreId} {line : Nat} (hw : (s.core c).works = true) (hl : line ∈ (s.core c).l1.lines)
    (ecc : Ecc) :
    Gives (.l1EvictionWriteback c line ecc) s ((s.evicted c line ecc).dropLine c line) := by
  change execL1EvictionWriteback c line ecc s = _
  rw [execL1EvictionWriteback]
  exact if_pos (by rw [hw, List.contains_iff_mem.2 hl]; rfl)

section Evicted
variable {s : State} {c : CoreId} {line : Nat}

/-- An error that is found in the line starts the test of the core's SRAM bank (R334). -/
theorem State.evicted_tests {ecc : Ecc} (h : ecc ≠ .clean) : ∃ t ∈ (s.evicted c line ecc).twin.tests, t.unit = .coreBank c := by
  cases ecc with
  | clean => exact absurd rfl h
  | corrected => exact State.eccError_mem _ _ _ h
  | uncorrectable => exact State.sramError_mem _ _ h

/-- One that cannot be corrected is on record for each granule written (R248). -/
theorem State.evicted_errorHeld (hn : 128 * line + 128 ≤ 0x12000000000) {b : Nat} (hb : b ∈ (s.core c).l1.dirty) (hl : b / 128 = line) :
    (s.evicted c line .uncorrectable).errorHeld (b / 32) := by
  obtain ⟨t, ht⟩ : ∃ t, t = (dedup (((s.core c).l1.dirtyOf line).map fun b => b.1 / 32)).foldl
      (fun (t : State) g => t.eccError (32 * g) .uncorrectable (.coreBank c)) (s.writeBack c line) := ⟨_, rfl⟩
  have hnear : inNear (32 * (b / 32)) = true := inNear_of_line hn (by omega)
  have hmem : b / 32 ∈ dedup (((s.core c).l1.dirtyOf line).map fun b => b.1 / 32) :=
    (mem_dedup _ _).2 (List.mem_map.2 ⟨_, (L1.mem_dirtyOf _ _ _).2 ⟨hb, hl⟩, rfl⟩)
  have hheld : t.errorHeld (b / 32) := by
    rw [ht]
    exact foldl_of_mem (P := fun u : State => u.errorHeld (b / 32)) (f := fun (t : State) g => t.eccError (32 * g) .uncorrectable (.coreBank c))
      (fun u => u.errorHeld_eccError (.coreBank c) hnear) (fun u g h => State.errorHeld_kept (a := 32 * g) (.coreBank c) h) hmem _
  have hf := t.sramError_frame (.coreBank c) .uncorrectable
  have heq : s.evicted c line .uncorrectable = t.sramError (.coreBank c) .uncorrectable := by rw [ht]; rfl
  rw [heq]
  exact (congrArg (fun u : State => u.errorHeld (b / 32)) hf :).mpr hheld

/-- Without an error the line is written back, and no more. -/
theorem State.evicted_clean : s.evicted c line .clean = s.writeBack c line := State.eccError_clean _ (128 * line) (.coreBank c)

end Evicted

/-! ## O36 -/

/-- Settles O36: pieces within near memory each store what they hold, and a line's written bytes are one such write. -/
theorem memoryWrites : Obligations.MemoryWrites := by
  unfold Obligations.MemoryWrites
  refine ⟨fun s a off hp data hn hf => ?_, fun s c line hw hl hn hf hr => ⟨fun ecc he => ?_, ?_⟩⟩
  · have hstores {t : State} (h : s.MemoryTo t (memWrite s.mem a data)) : t.cores = s.cores ∧ t.parts = s.parts ∧
        (∀ i : Nat, i < data.length → memGet t.mem (a + i) = data.getD i 0) ∧
        (∀ b : Nat, b < a ∨ a + data.length ≤ b → memGet t.mem b = memGet s.mem b) := by
      refine ⟨h.only.cores, (congrArg State.parts h.only :), fun i hi => ?_, fun b hb => ?_⟩
      · rw [h.mem, memGet_memWrite_inside _ _ _ _ hi, List.getD_eq_getElem _ _ hi]
      · rw [h.mem, memGet_memWrite_outside _ _ _ _ hb]
    refine ⟨?_, fun hin ha hreach => ?_, fun h => if_pos h⟩
    · obtain ⟨t, hg, h⟩ := exec_sliceWrite_near hn hf
      exact ⟨t, hg, hstores h⟩
    · obtain ⟨t, hg, h⟩ := exec_bar4Write_near hn hf hin ha hreach
      exact ⟨t, hg, hstores h⟩
  · refine ⟨_, exec_l1EvictionWriteback hw hl ecc, State.dropLine_lines _ _ _, State.evicted_tests he, fun hu b hb hline => ?_⟩
    subst hu
    obtain ⟨hpoison, hvalid⟩ := State.evicted_errorHeld hn hb hline
    refine ⟨State.poisoned_of_near (inNear_of_line hn hline) hpoison, fun n hs => hvalid n ?_⟩
    rwa [Nat.mul_comm]
  · have hg := exec_l1EvictionWriteback hw hl .clean
    obtain ⟨hmem, hpoison, hcore⟩ := State.writeBack_near hn hf hr
    obtain ⟨-, hdirty, hscalars, htiles⟩ := (s.writeBack c line).dropLine_core c line
    rw [State.evicted_clean] at hg
    rw [hcore] at hdirty hscalars htiles
    refine ⟨_, hg, fun b => ?_, fun b hb hline hp => ?_, State.dropLine_lines _ _ _, fun b => ?_, hscalars, htiles⟩
    · exact (congrArg (memGet · b) hmem).trans (L1.memGet_dirtyOf _ _ _ _)
    · refine State.poisoned_of_near (inNear_of_line hn hline) ((congrArg (setHas · (b / 32)) hpoison).trans ?_)
      exact poisonWritten_of_poison ((L1.mem_dirtyOf _ _ _).2 ⟨hb, hline⟩) hp _
    · rw [hdirty, List.mem_filter, List.mem_filter, bne_iff_ne]
      exact ⟨fun h => h.1, fun h => ⟨h, h.2⟩⟩

end Sys2Proof.Machine

/-!
The board side and the functions of a host port (R202, R205, R206, R364, R365, R375, R385 to R388; O57): management over I3C, the test port,
configuration requests and the MSI-X table.
-/
namespace Sys2Proof.Machine

/-! ## Management over I3C (R385 to R387) -/

section I3c
variable {s : State} {off : BitVec 32} {v : Word}

theorem State.i3cOpen_of (hr : s.board.mgmtReady = true) (hd : s.board.dynAddr ≠ none) : s.i3cOpen = true := by
  rw [State.i3cOpen, hr, Option.isSome_iff_ne_none.2 hd]
  rfl

/-- Without an address, or before stage 1 has ended, no private transfer is taken. -/
theorem State.i3cOpen_false (h : s.board.mgmtReady = false ∨ s.board.dynAddr = none) : s.i3cOpen = false := by
  rw [State.i3cOpen]
  obtain h | h := h <;> rw [h]
  · rfl
  · exact Bool.and_false _

theorem answersOff_of_identity {o : Nat} (h : o < 0x00100000) : answersOff o = true := by
  rw [answersOff, decide_eq_true h, Bool.true_or]

theorem i3cReads_of_identity {o : Nat} (h : o < 0x00100000) : i3cReads o = true := by
  simp only [i3cReads, decide_eq_true h, Bool.true_or]

/-- The blocks between the identity registers and the power block may not be read (R387). -/
theorem i3cReads_between {o : Nat} (hl : 0x00100000 ≤ o) (hh : o < 0x0A000000) : i3cReads o = false := by
  simp only [i3cReads, Bool.or_eq_false_iff, Bool.and_eq_false_iff, decide_eq_false_iff_not, beq_eq_false_iff_ne]
  omega

theorem exec_i3cReadRequest_closed (h : s.i3cOpen = false) : Gives (.i3cReadRequest off) s s := by
  change execI3cReadRequest off s = _
  rw [execI3cReadRequest, h]
  rfl

theorem exec_i3cReadRequest_off (h : s.i3cOpen = true) (hp : s.power.state = .off) (ha : answersOff off.toNat = false) :
    Gives (.i3cReadRequest off) s (s.modBoard fun b => { b with i3cData := none }) := by
  change execI3cReadRequest off s = _
  rw [execI3cReadRequest, h, hp, ha]
  rfl

theorem exec_i3cReadRequest_answered (h : s.i3cOpen = true) (ha : s.power.state ≠ .off ∨ answersOff off.toNat = true) :
    Gives (.i3cReadRequest off) s
      (s.modBoard fun b => { b with i3cData := some (if i3cReads off.toNat then s.bar0Read off.toNat else 0) }) := by
  have hc : (decide (s.power.state = .off) && !answersOff off.toNat) = false := by
    obtain ha | ha := ha
    · rw [decide_eq_false ha]
      rfl
    · rw [ha]
      exact Bool.and_false _
  change execI3cReadRequest off s = _
  rw [execI3cReadRequest, h, hc]
  rfl

/-- Every write but that of PWR_CTRL has no effect, and that one has none in Off. -/
theorem exec_i3cWriteRequest_ignored (h : s.i3cOpen = false ∨ s.power.state = .off ∨ off ≠ 0x0A000008) :
    Gives (.i3cWriteRequest off v) s s := by
  have hc : (s.i3cOpen && s.power.state != .off && off.toNat == pwrCtrlOff) = false := by
    obtain h | h | h := h
    · rw [h]
      rfl
    · rw [h, show (PwrState.off != .off) = false from rfl, Bool.and_false]
      rfl
    · have hne : (off.toNat == pwrCtrlOff) = false := beq_eq_false_iff_ne.2 fun he => h (BitVec.eq_of_toNat_eq he)
      rw [hne, Bool.and_false]
  change execI3cWriteRequest off v s = _
  rw [execI3cWriteRequest, hc]
  rfl

/-- A write of PWR_CTRL without GO sets the target and the cap. -/
theorem exec_i3cWriteRequest_ctrl (h : s.i3cOpen = true) (hp : s.power.state ≠ .off) (hg : v.getLsbD 4 = false) :
    Gives (.i3cWriteRequest 0x0A000008 v) s
      (s.modPower fun x => { x with capW := clampCap (field v 32 12), ctrlTarget := fieldOf 4 v 0 4 }) := by
  change execI3cWriteRequest _ v s = _
  rw [execI3cWriteRequest, h, bne_iff_ne.2 hp, State.writePower, if_pos rfl, onBit, hg]
  rfl

theorem exec_i3cAddressAssign_taken {setdasa : Option (BitVec 7)} {addr : BitVec 7} (hr : s.board.mgmtReady = true)
    (h : setdasa = none ∨ setdasa = some s.board.staticAddr) :
    Gives (.i3cAddressAssign setdasa addr) s (s.modBoard fun b => { b with dynAddr := some addr }) := by
  change execI3cAddressAssign setdasa addr s = _
  rw [execI3cAddressAssign, hr]
  obtain rfl | rfl := h
  · rfl
  · rw [beq_self_eq_true, Bool.or_true]
    rfl

theorem exec_i3cAddressAssign_ignored {setdasa : Option (BitVec 7)} {addr : BitVec 7}
    (h : s.board.mgmtReady = false ∨ ∃ other, setdasa = some other ∧ other ≠ s.board.staticAddr) :
    Gives (.i3cAddressAssign setdasa addr) s s := by
  change execI3cAddressAssign setdasa addr s = _
  rw [execI3cAddressAssign]
  obtain h | ⟨other, rfl, hne⟩ := h
  · rw [h]
    rfl
  · have hb : (some other == some s.board.staticAddr) = false := beq_eq_false_iff_ne.2 fun he => hne (Option.some.inj he)
    rw [hb, Option.isNone_some, Bool.or_false, Bool.and_false]
    rfl

end I3c

/-! ## The test port (R388, Tables 17.3, 17.6) -/

/-- No two copper signals share a cell of the boundary-scan register. -/
theorem cellOf_injective {m n : Nat} (hm : m < 16) (hn : n < 16) (h : cellOf m = cellOf n) : m = n := by
  obtain ⟨hnodup, -, hlen⟩ := signalCells_nodup
  rw [cellOf, cellOf, List.getD_eq_getElem _ _ (by omega), List.getD_eq_getElem _ _ (by omega)] at h
  exact (hnodup.getElem_inj_iff).1 h

theorem cellOf_lt {n : Nat} (hn : n < 16) : cellOf n < 32 := by
  obtain ⟨-, hlt, hlen⟩ := signalCells_nodup
  rw [cellOf, List.getD_eq_getElem _ _ (by omega)]
  exact hlt _ (List.getElem_mem _)

section TestPort
variable {s : State}

theorem State.jtag_present (hv : s.board.vaux12 = true) (ir : BitVec 8) (f : Board → Board) :
    s.jtag ir f = s.modBoard fun b => { f b with jtagIr := ir } :=
  if_pos hv

theorem State.scan_open (hv : s.board.vaux12 = true) (hl : s.levelOf 16 = 3) (ir : BitVec 8) (bits : BitVec 32) :
    s.scan ir bits = { s.tick with board := { s.board with jtagIr := ir, boundary := bits, scanOut := s.captured } } := by
  rw [State.scan, State.jtag_present hv, State.scanOpen, hl]
  rfl

/-- Below D3 a boundary-scan instruction is a BYPASS. -/
theorem State.scan_closed (hv : s.board.vaux12 = true) (hl : s.levelOf 16 ≠ 3) (ir : BitVec 8) (bits : BitVec 32) :
    s.scan ir bits = { s.tick with board := { s.board with jtagIr := ir, bypassBit := bits.getLsbD 31 } } := by
  rw [State.scan, State.jtag_present hv, State.scanOpen, beq_eq_false_iff_ne.2 hl]
  rfl

theorem exec_bypass {code : BitVec 8} {tdi : Bool} (hv : s.board.vaux12 = true) (hc : code ∉ [0x00, 0x01, 0x02, 0x20]) :
    Gives (.bypass code tdi) s { s with board := { s.board with jtagIr := code, bypassBit := tdi } } := by
  have ho : otherCode code = false := by
    simpa [otherCode, and_assoc] using hc
  change execBypass code tdi s = _
  rw [execBypass, ho, State.jtag_present hv]
  rfl

theorem driven_of_mem : ∀ n ∈ [7, 12, 13, 14, 15], driven n = true := by decide

/-- EXTEST drives a signal of the device from the signal's cell. -/
theorem State.pin_extest (h : s.extestOn = true) {n : Nat} (hn : driven n = true) : s.pin n = some (s.board.boundary.getLsbD (cellOf n)) := by
  unfold State.pin
  exact if_pos (by rw [h, hn]; rfl)

/-- A read of a whole register other than LT_NOW does nothing besides. -/
theorem State.readRegister_whole (s : State) {off : Nat} (h : off ≠ 0x07000000) : s.readRegister off 8 = (s, s.bar0Read off) := by
  rw [State.readRegister, decide_eq_false h, Bool.false_and, if_neg Bool.false_ne_true, State.bar0Load, if_pos rfl]

/-- IDENT may be read at every level, in Off too (R364). -/
theorem State.probeRead_ident (s : State) : s.probeRead 0 = (s, some (s.bar0Read 0)) := by
  have hr : (s.probeReads 0 && (s.bar0Up || openToProbe 0)) = true := by
    rw [State.probeReads, show openToProbe 0 = true from rfl, Bool.or_true, Bool.true_or]
    rfl
  rw [State.probeRead, if_pos (by decide), if_pos hr, State.readRegister_whole s (by decide)]

/-- The test port has taken DBGACC. -/
def State.dbgacc (s : State) : State := { s with board := { s.board with jtagIr := 0x20 } }

theorem exec_dbgacc_present {w : BitVec 104} (hv : s.board.vaux12 = true) : exec (.dbgacc w) s = .next
    (if w.getLsbD 103 then s.dbgacc.probeWrite (w.toNat / 2 ^ 64 % 2 ^ 39) (w.setWidth 64)
     else match s.dbgacc.probeRead (w.toNat / 2 ^ 64 % 2 ^ 39) with
      | (s, some v) => s.modBoard fun b => { b with dbgData := v }
      | (s, none) => (s.modBoard fun b => { b with dbgData := Config.freeWord s.freeCtr }).tick) := by
  change execDbgacc w s = _
  rw [execDbgacc, State.jtag_present hv]
  exact congrArg Host.Outcome.next (if_neg (by simp [State.modBoard, hv]))

theorem exec_dbgacc_ident {w : BitVec 104} (hv : s.board.vaux12 = true) (hw : w.toNat / 2 ^ 64 = 0) :
    Gives (.dbgacc w) s { s with board := { s.board with jtagIr := 0x20, dbgData := s.bar0Read 0 } } := by
  have hbit : w.getLsbD 103 = false := by
    rw [BitVec.getLsbD, Nat.testBit_eq_decide_div_mod_eq, decide_eq_false_iff_not]
    omega
  rw [Gives, exec_dbgacc_present hv, hbit, hw, Nat.zero_mod, State.probeRead_ident]
  rfl

/-- A write through DBGACC reaches the response to a challenge alone (R365). -/
theorem exec_dbgacc_write {w : BitVec 104} (hv : s.board.vaux12 = true) (hw : 2 ^ 39 ≤ w.toNat / 2 ^ 64)
    (hoff : w.toNat / 2 ^ 64 % 2 ^ 39 < 0x10000000) (h : s.bar0Up = false ∨ w.toNat / 2 ^ 64 % 2 ^ 39 < 0x0B000340 ∨
      0x0B0003A0 ≤ w.toNat / 2 ^ 64 % 2 ^ 39) : Gives (.dbgacc w) s { s with board := { s.board with jtagIr := 0x20 } } := by
  have hbit : w.getLsbD 103 = true := by
    have hlt := w.isLt
    rw [BitVec.getLsbD, Nat.testBit_eq_decide_div_mod_eq, decide_eq_true_eq]
    omega
  have hclosed : (probeWrites (w.toNat / 2 ^ 64 % 2 ^ 39) && s.dbgacc.bar0Up) = false := by
    rw [show s.dbgacc.bar0Up = s.bar0Up from rfl, Bool.and_eq_false_iff, probeWrites, Bool.and_eq_false_iff, decide_eq_false_iff_not,
      decide_eq_false_iff_not, or_comm, Nat.not_le, Nat.not_lt]
    exact h
  rw [Gives, exec_dbgacc_present hv, hbit, State.probeWrite, if_pos hoff, hclosed]
  rfl

end TestPort

/-! ## The functions of a host port (R202, R205, R206) -/

theorem setHas_setTo (t : NatSet) (n : Nat) (b : Bool) (m : Nat) : setHas (setTo t n b) m = if m = n then b else setHas t m := by
  have hmem : setHas (setTo t n b) m = true ↔ if m = n then b = true else setHas t m = true := by
    rw [setHas_iff, setHas_iff, setTo]
    cases b
    · by_cases hm : m = n <;> simp [mem_setDel, hm]
    · by_cases hm : m = n <;> simp [mem_setAdd, hm]
  rw [Bool.eq_iff_iff, hmem]
  split <;> rfl

theorem State.modPcie_congr {s : State} {hp : HostPort} {f g : Pcie → Pcie} (h : f (s.pcie hp) = g (s.pcie hp)) :
    s.modPcie hp f = s.modPcie hp g := by
  unfold State.pcie at h
  unfold State.modPcie
  split
  · rename_i hz
    rw [if_pos hz] at h
    rw [h]
  · rename_i hz
    rw [if_neg hz] at h
    rw [h]

/-- Without a pending vector none is sent. -/
theorem State.sendPending_none {s : State} {hp : HostPort} (h : (s.pcie hp).pending = []) (fn : Nat) : s.sendPending hp fn = s := by
  have hf : ((List.range 256).filter fun v => setHas (s.pcie hp).pending (4096 * fn + v) && (s.pcie hp).open fn v) = [] := by
    rw [List.filter_eq_nil_iff, h]
    intro v _ hv
    rw [setHas, List.contains_nil, Bool.false_and] at hv
    exact Bool.false_ne_true hv
  rw [State.sendPending]
  dsimp only
  rw [hf]
  rfl

/-- One pending vector that is open is sent, and pending no longer. -/
theorem State.sendPending_one {s : State} {hp : HostPort} {fn v : Nat} (h : (s.pcie hp).pending = [4096 * fn + v]) (hv : v < 256)
    (ho : (s.pcie hp).open fn v = true) : (s.sendPending hp fn).intrs = s.intrs ++ [⟨hp, fn, v⟩] ∧
      ((s.sendPending hp fn).pcie hp).pending = [] := by
  have hf : ((List.range 256).filter fun u => setHas (s.pcie hp).pending (4096 * fn + u) && (s.pcie hp).open fn u) = [v] := by
    have hp : (fun u => setHas (s.pcie hp).pending (4096 * fn + u) && (s.pcie hp).open fn u) = fun u => u == v := by
      funext u
      rw [h, Bool.eq_iff_iff, Bool.and_eq_true, setHas_iff, List.mem_singleton, beq_iff_eq, Nat.add_left_cancel_iff]
      exact ⟨fun k => k.1, fun k => ⟨k, k ▸ ho⟩⟩
    rw [hp, List.filter_beq, List.count_eq_one_of_mem List.nodup_range (List.mem_range.2 hv)]
    rfl
  rw [State.sendPending]
  dsimp only
  rw [hf]
  refine ⟨congrArg (· ++ _) (s.modPcie_intrs hp _), (congrArg Pcie.pending (s.pcie_modPcie hp _)).trans ?_⟩
  dsimp only
  rw [h, setDel, List.filter_cons_of_neg (by simp), List.filter_nil]

section HostPort
variable {s : State} {hp : HostPort} {r : CfgReq}

theorem exec_configurationRequest_up (ha : s.start.applied = true) (hu : (s.port (26 + hp.val)).state = .up) :
    Gives (.configurationRequest hp r) s (s.configure hp r) := by
  change execConfigurationRequest hp r s = _
  rw [execConfigurationRequest, ha, hostPortIndex, hu]
  rfl

theorem exec_configurationRequest_down (h : ¬ (s.start.applied = true ∧ (s.port (26 + hp.val)).state = .up)) :
    Gives (.configurationRequest hp r) s s := by
  change execConfigurationRequest hp r s = _
  rw [execConfigurationRequest]
  refine congrArg Host.Outcome.next (if_neg ?_)
  rwa [Bool.and_eq_true, beq_iff_eq]

/-- NumVFs is taken while SR-IOV is disabled. -/
theorem Pcie.setSriov_enables {x : Pcie} {n : Nat} (h : x.sriov = false) (hn : n ≤ 16) :
    x.setSriov true n = { x with sriov := true, numVFs := n } := by
  rw [Pcie.setSriov, h, decide_eq_true hn]
  rfl

/-- The state with a vector of a function masked or not. -/
def State.vectorMasked (s : State) (hp : HostPort) (fn vector : Nat) (masked : Bool) : State :=
  s.modPcie hp fun x => { x with unmasked := setTo x.unmasked (4096 * fn + vector) (!masked) }

theorem State.pcie_vectorMasked (s : State) (hp : HostPort) (fn vector : Nat) (masked : Bool) : (s.vectorMasked hp fn vector masked).pcie hp =
    { s.pcie hp with unmasked := setTo (s.pcie hp).unmasked (4096 * fn + vector) (!masked) } :=
  s.pcie_modPcie hp _

theorem exec_msixTableWrite_pf {vector : Nat} (hv : vector < 256) (masked : Bool) :
    Gives (.msixTableWrite hp 0 vector masked) s ((s.vectorMasked hp 0 vector masked).sendPending hp 0) := by
  change execMsixTableWrite hp 0 vector masked s = _
  exact congrArg Host.Outcome.next (if_pos (by rw [if_pos rfl, decide_eq_true hv]; rfl))

theorem exec_msixTableWrite_outside {vector : Nat} (hv : 256 ≤ vector) (masked : Bool) : Gives (.msixTableWrite hp 0 vector masked) s s := by
  change execMsixTableWrite hp 0 vector masked s = _
  refine congrArg Host.Outcome.next (if_neg ?_)
  rw [if_pos rfl, decide_eq_false (Nat.not_lt.2 hv), Bool.and_false]
  exact Bool.false_ne_true

/-- MSI-X of a function enabled or disabled, and masked or not. -/
def State.msixSet (s : State) (hp : HostPort) (fn : Nat) (enable maskAll : Bool) : State :=
  s.modPcie hp fun x => { x with msixOn := setTo x.msixOn fn enable, maskAll := setTo x.maskAll fn maskAll }

theorem State.pcie_msixSet (s : State) (hp : HostPort) (fn : Nat) (enable maskAll : Bool) : (s.msixSet hp fn enable maskAll).pcie hp =
    { s.pcie hp with msixOn := setTo (s.pcie hp).msixOn fn enable, maskAll := setTo (s.pcie hp).maskAll fn maskAll } :=
  s.pcie_modPcie hp _

theorem State.configure_msix_pf (enable maskAll : Bool) :
    s.configure hp (.msix 0 enable maskAll) = (s.msixSet hp 0 enable maskAll).sendPending hp 0 := by
  rw [State.configure, if_pos (show (s.pcie hp).hasFn 0 = true from rfl), State.msixSet]

end HostPort

/-! ## O57 -/

/-- Settles O57: each event of the board side and of a host port is one change, by the branch that its state selects. -/
theorem boardAndHosts : Obligations.BoardAndHosts := by
  unfold Obligations.BoardAndHosts
  refine ⟨fun s off v addr other => ⟨fun h => ?_, fun h => ?_, fun hr => ⟨?_, ?_, fun ho => ?_⟩, fun hr hd => ?_⟩,
    fun s bits code tdi w hv => ⟨?_, exec_bypass hv, fun hl => ?_, fun m n hm hn => ⟨cellOf_lt hm, cellOf_injective hm hn⟩, fun hl => ?_,
      fun hl => ?_, fun hl => ?_, exec_dbgacc_ident hv, exec_dbgacc_write hv⟩,
    fun s hp r n vector enable maskAll => ⟨exec_configurationRequest_down, fun ⟨ha, hu⟩ hs hn => ?_, fun ⟨ha, hu⟩ hpend => ?_,
      fun hv hpend => ?_, fun hv hpend hon hmask => ?_, fun hv => exec_msixTableWrite_outside hv _⟩⟩
  · exact ⟨exec_i3cReadRequest_closed (State.i3cOpen_false h), exec_i3cWriteRequest_ignored (.inl (State.i3cOpen_false h))⟩
  · exact ⟨exec_i3cAddressAssign_ignored (.inl h), exec_i3cAddressAssign_ignored (.inl h)⟩
  · exact exec_i3cAddressAssign_taken hr (.inl rfl)
  · exact exec_i3cAddressAssign_taken hr (.inr rfl)
  · exact exec_i3cAddressAssign_ignored (.inr ⟨other, rfl, ho⟩)
  · have hopen := State.i3cOpen_of hr hd
    refine ⟨fun hlow => ?_, fun hlow hhigh hp => ?_, fun hp he => ⟨?_, exec_i3cWriteRequest_ignored (.inr (.inl hp))⟩,
      fun he => exec_i3cWriteRequest_ignored (.inr (.inr he)), fun hp hg => ?_⟩
    · have hg := exec_i3cReadRequest_answered (off := off) hopen (.inr (answersOff_of_identity hlow))
      rwa [i3cReads_of_identity hlow] at hg
    · have hg := exec_i3cReadRequest_answered (off := off) hopen (.inl hp)
      rwa [i3cReads_between hlow hhigh] at hg
    · exact exec_i3cReadRequest_off hopen hp (by rw [he]; rfl)
    · have htarget : field v 0 4 = v.toNat % 16 := by
        rw [field, Nat.pow_zero, Nat.div_one]
        rfl
      refine (exec_i3cWriteRequest_ctrl hopen hp hg).trans ?_
      rw [fieldOf, htarget]
      rfl
  · exact congrArg Host.Outcome.next (State.jtag_present hv _ _)
  · refine ⟨_, congrArg Host.Outcome.next (State.scan_open hv hl 0x00 bits), rfl, fun n hn => ?_⟩
    have he : State.extestOn { s.tick with board := { s.board with jtagIr := 0x00, boundary := bits, scanOut := s.captured } } = true := by
      change (s.board.vaux12 && ((0x00 : BitVec 8) == 0x00) && (s.levelOf 16 == 3)) = true
      rw [hv, hl]
      rfl
    exact State.pin_extest he (driven_of_mem n hn)
  · exact congrArg Host.Outcome.next (State.scan_closed hv hl 0x00 bits)
  · exact congrArg Host.Outcome.next (State.scan_open hv hl 0x02 bits)
  · exact congrArg Host.Outcome.next (State.scan_closed hv hl 0x02 bits)
  · exact (exec_configurationRequest_up ha hu).trans (congrArg Host.Outcome.next
      (State.modPcie_congr (f := (·.setSriov true n)) (g := fun x => { x with sriov := true, numVFs := n }) (Pcie.setSriov_enables hs hn)))
  · have hx := s.pcie_msixSet hp 0 enable maskAll
    have hpend' : ((s.msixSet hp 0 enable maskAll).pcie hp).pending = [] := (congrArg Pcie.pending hx).trans hpend
    refine ⟨_, (exec_configurationRequest_up ha hu).trans (congrArg Host.Outcome.next ((State.configure_msix_pf _ _).trans
      (State.sendPending_none hpend' 0))), ?_, ?_, s.modPcie_intrs hp _, fun f hf => ?_⟩
    · rw [congrArg Pcie.msixOn hx, setHas_setTo, if_pos rfl]
    · rw [congrArg Pcie.maskAll hx, setHas_setTo, if_pos rfl]
    · rw [congrArg Pcie.msixOn hx, setHas_setTo, if_neg hf]
  · have hx := s.pcie_vectorMasked hp 0 vector maskAll
    rw [Nat.mul_zero, Nat.zero_add] at hx
    have hg := exec_msixTableWrite_pf (s := s) (hp := hp) hv maskAll
    rw [State.sendPending_none ((congrArg Pcie.pending hx).trans hpend)] at hg
    refine ⟨_, hg, ?_, s.modPcie_intrs hp _, fun f hf => ?_⟩
    · rw [congrArg Pcie.unmasked hx, setHas_setTo, if_pos rfl]
    · rw [congrArg Pcie.unmasked hx, setHas_setTo, if_neg hf]
  · have hx := s.pcie_vectorMasked hp 0 vector false
    have ho : ((s.vectorMasked hp 0 vector false).pcie hp).open 0 vector = true := by
      rw [hx, Pcie.open, setHas_setTo, if_pos rfl, hon, hmask]
      rfl
    obtain ⟨hintrs, hnone⟩ := State.sendPending_one (s := s.vectorMasked hp 0 vector false) (fn := 0)
      ((congrArg Pcie.pending hx).trans (by rw [Nat.mul_zero, Nat.zero_add]; exact hpend)) hv ho
    exact ⟨_, exec_msixTableWrite_pf hv false, hintrs.trans (congrArg (· ++ _) (s.modPcie_intrs hp _)), hnone⟩

end Sys2Proof.Machine

/-!
Records that arrive: the one that is next on its port is taken from it, a request acts at its target, and an answer reaches the engine that
waits for it (O42, O44).
-/
namespace Sys2Proof.Machine

/-! ## The record that is next on its port -/

/-- The state with the first record delivered on a port taken from it. -/
def State.recordTaken (s : State) (n : Nat) (rest : List Record) : State := s.modPort n fun x => { x with delivered := rest }

section Delivered
variable {s : State} {p : PortId} {r : Record} {rest : List Record}

theorem State.recordTaken_delivered (s : State) (n : Nat) (rest : List Record) : ((s.recordTaken n rest).port n).delivered = rest := by
  rw [State.recordTaken, State.port_modPort, if_pos rfl]

/-- The record that is next on a port that is no long line's enters at the port's junction. -/
theorem State.takeRecord_delivered {n : Nat} (hd : (s.port n).delivered = r :: rest) (hr : (s.port n).role ≠ 4) :
    s.takeRecord n r = some (s.recordTaken n rest, some (portJunction n)) := by
  unfold State.takeRecord
  simp only [hd, decide_true, Bool.true_and, bne_iff_ne.2 hr, if_true]
  rfl

theorem State.requestArrives_delivered {n : Nat} (hd : (s.port n).delivered = r :: rest) (hr : (s.port n).role ≠ 4) :
    s.requestArrives n r.type r = (s.recordTaken n rest).serve r (portJunction n) := by
  unfold State.requestArrives
  rw [if_pos rfl, State.takeRecord_delivered hd hr]

/-- An answer that is next on its port reaches the engine of the core that holds its number. -/
theorem State.answerArrives_delivered {n c : Nat} (hd : (s.port n).delivered = r :: rest) (hr : (s.port n).role ≠ 4)
    (hc : s.physical r.srcCore.toNat = some c) : s.answerArrives n r.type r =
      if r.engineSy then (s.recordTaken n rest).answerSy c r else (s.recordTaken n rest).answerTm c r := by
  have hc' : (s.recordTaken n rest).physical r.srcCore.toNat = some c := hc
  unfold State.answerArrives
  rw [if_pos rfl, State.takeRecord_delivered hd hr]
  simp only [hc']

/-- The command of an answer is its arrival. -/
theorem exec_answer {i : Instr} (h : (r.type = .ack ∧ i = .ack p r) ∨ (r.type = .nack ∧ i = .nack p r) ∨
    (r.type = .readData ∧ i = .readData p r)) : Gives i s (s.answerArrives p.val r.type r) := by
  obtain ⟨ht, rfl⟩ | ⟨ht, rfl⟩ | ⟨ht, rfl⟩ := h <;> rw [ht] <;> rfl

end Delivered

/-! ## An increment whose sync store no path reaches (O42) -/

/-- An increment that does not reach the sync store of its partition is answered with FENCED, whatever Table 11.3 gives it (R247). -/
theorem State.serve_inc_unreached {s : State} {r : Record} {j : Nat} (ht : r.type = .inc) (ho : flowOrder (s.inFlow r) r = .accept)
    (h : s.storeReaches j r.dstPart.val = false) : s.serve r j = s.serveEnds r j .nack Code.fenced [] none := by
  unfold State.serve State.serveRequest
  simp only [ho, ht, h]
  rfl

/-- The first increment of a sy.add's flow from device 5, of baton 64 of partition 0 in its context 7, by 1. -/
def fencedInc : Record :=
  { type := .inc, status := 0, srcDev := 5, dstDev := 0, srcPart := 0, dstPart := 0, engineSy := true, last := true, sig := false, dirs := 0,
    srcCore := 0, context := 7, fseq := 0, deadline := 1000000, remote := 64, count := 1, first := 0, xfer := 3, poison := false,
    sigPart := 0, data := [1] }

/-- The increment has come on port 0. Its source is in the roster, the policy grants it partition 0, and context 7 is bound there; but the
junctions beside the port's own, 1 and 2 on the ring of its die, are fenced, so that no path leads to the I/O die that holds the sync store. -/
def fencedIncState : State :=
  { State.reset with
    ports := [(0, { Port.reset with role := 1, state := .up, width := 2, delivered := [fencedInc] })]
    parts := [(0, { Part.reset with state := .running, clusters := 1, enable := true, bound := some ⟨7, 0⟩ })]
    consist := { Consist.boot with shape := (3, 1, 1), policy := [⟨5, 1, 0, false⟩] }
    roster := ⟨1, 0, [⟨4, 5, 0, 0⟩, ⟨5, 4, 0, 0⟩], []⟩
    lt := { LineTime.reset with state := .locked }
    fabric := { State.reset.fabric with fenced := [1, 2] } }

/-- What Table 11.3 makes of the increment. -/
def fencedIncApplied : State × Code :=
  (fencedIncState.recordTaken 0 []).remoteInc 5 0 0 7 ((fencedIncState.recordTaken 0 []).originOf fencedInc) 64 1

/-- Table 11.3 would apply it. -/
theorem fencedInc_granted : fencedIncApplied.2 = 0 := by decide +kernel

theorem fencedInc_inOrder : flowOrder (fencedIncState.inFlow fencedInc) fencedInc = .accept := rfl

theorem fencedInc_store_unreachable : (fencedIncState.recordTaken 0 []).storeReaches (portJunction 0) 0 = false := by decide +kernel

theorem exec_fencedInc : Gives (.inc 0 fencedInc) fencedIncState
    ((fencedIncState.recordTaken 0 []).serveEnds fencedInc (portJunction 0) .nack Code.fenced [] none) := by
  have served := State.requestArrives_delivered (s := fencedIncState) (n := 0) (r := fencedInc) (rest := []) rfl (by decide)
  exact congrArg Host.Outcome.next
    (served.trans (State.serve_inc_unreached rfl fencedInc_inOrder fencedInc_store_unreachable))

/-- Has the transfer of a record ended in its flow? -/
def State.flowEnded (s : State) (r : Record) : Option Bool := (s.inFlow r).map InFlow.ended

/-- The NACK ends the transfer, and an ACK would not. -/
theorem fencedInc_answers_differ :
    ((fencedIncState.recordTaken 0 []).serveEnds fencedInc (portJunction 0) .nack Code.fenced [] none).flowEnded fencedInc = some true ∧
    (fencedIncApplied.1.serveEnds fencedInc (portJunction 0) .ack 0 [] none).flowEnded fencedInc = some false := by decide +kernel

/-- Refutes O42: an increment that Table 11.3 applies is answered with FENCED, and not applied, when no path leads from its port to the sync
store of its partition (R247; log entry 12): `State.serveRequest` asks `State.storeReaches`, and the statement does not. -/
theorem not_requestsServed : ¬ Obligations.RequestsServed := by
  unfold Obligations.RequestsServed
  rintro ⟨-, served⟩
  obtain ⟨-, -, -, increments, -⟩ := served fencedIncState 0 fencedInc [] rfl (by decide)
  have acked := increments rfl fencedInc_inOrder fencedIncApplied.1 fencedIncApplied.2 rfl
  rw [if_pos fencedInc_granted] at acked
  have same := Host.Outcome.next.inj (exec_fencedInc.symm.trans acked)
  obtain ⟨nack, ack⟩ := fencedInc_answers_differ
  have := (nack.symm.trans (congrArg (State.flowEnded · fencedInc) same)).trans ack
  exact absurd this (by decide)

end Sys2Proof.Machine

/-!
Answers that end a transfer, and transfers and ingests that time out (O44).
-/
namespace Sys2Proof.Machine

/-! ## What a store changes of its core (R237) -/

theorem State.OnlyL1.of_cores {c : Nat} {s t : State} (hc : t.cores = s.cores) (hl : t.lt = s.lt) : State.OnlyL1 c s t := by
  refine ⟨hl, ?_⟩
  rw [show t.core c = s.core c from congrArg (tabGet Core.reset · c) hc]

theorem OnlyReads.onlyL1 {s t : State} (c : Nat) (h : OnlyReads s t) : State.OnlyL1 c s t :=
  .of_cores (congrArg State.cores h :) (congrArg State.lt h :)

theorem State.modCore_onlyL1 (s : State) (c : Nat) (f : Core → L1) : State.OnlyL1 c s (s.modCore c fun k => { k with l1 := f k }) := by
  refine ⟨rfl, ?_⟩
  rw [State.core_modCore_same]

theorem State.coreRead_onlyL1 (s : State) (c a : Nat) : State.OnlyL1 c s (s.coreRead c a) := (s.sliceReads_frame _).onlyL1 c

theorem State.dropLine_onlyL1 (s : State) (c line : Nat) : State.OnlyL1 c s (s.dropLine c line) := s.modCore_onlyL1 c _

theorem State.fill_onlyL1 (s : State) (c line : Nat) : State.OnlyL1 c s (s.fill c line) := by
  unfold State.fill
  dsimp only
  split
  · exact .refl s
  · refine .trans (.trans ?_ (State.coreRead_onlyL1 _ _ _)) (State.modCore_onlyL1 _ _ _)
    split
    · exact .refl s
    · have htick : State.OnlyL1 c s s.tick := .of_cores rfl rfl
      exact (htick.trans (State.writeBack_onlyL1 _ _ _)).trans (State.dropLine_onlyL1 _ _ _)

theorem State.l1Write_onlyL1 (s : State) (c d : Nat) (bs : List Byte) : State.OnlyL1 c s (s.l1Write c d bs) := by
  unfold State.l1Write
  exact (s.fill_onlyL1 c _).trans (State.modCore_onlyL1 _ c _)

theorem State.writePieces_onlyL1 (c : Nat) (ds : List (Nat × Nat)) (s : State) (bs : List Byte) :
    State.OnlyL1 c s (s.writePieces c ds bs) := by
  induction ds generalizing s bs with
  | nil => exact .refl s
  | cons d ds ih => exact (s.l1Write_onlyL1 c _ _).trans (ih _ _)

/-- A store changes nothing of its core but L1. -/
theorem State.store_onlyL1 (s : State) (c a : Nat) (bs : List Byte) : State.OnlyL1 c s (s.store c a bs).1 := by
  have h := (s.xlatAll_frame (s.ctxOf c) true (piecesOf a bs.length)).onlyL1 c
  unfold State.store
  dsimp only
  generalize s.xlatAll (s.ctxOf c) true (piecesOf a bs.length) = r at h ⊢
  obtain ⟨u, ds | ⟨st, b⟩⟩ := r
  · dsimp only
    split
    · exact h
    · exact h.trans (u.writePieces_onlyL1 c ds bs)
  · exact h

/-! ## The transfer that an engine waits for -/

section Waits
variable {k : Core} {e : Entry} {x : Xfer}

theorem Core.incNow_of (hw : k.works = true) (hq : k.syq = [e]) (hx : k.xferSy = some x) (hs : e.started = true) (hd : e.done = false) :
    k.incNow = some x := by
  simp [Core.incNow, hw, hq, hx, hs, hd]

theorem Core.remoteNow_of (hw : k.works = true) (hq : k.tmq = [e]) (hx : k.xferTm = some x) (hs : e.started = true) (hd : e.done = false)
    (hf : e.faulted = false) {d : DReg} {sd : SReg} (ho : remoteOperands e.op = some (d, sd)) : k.remoteNow = some (e, d, sd, x) := by
  simp [Core.remoteNow, hw, hq, hx, hs, hd, hf, ho]

theorem Core.ingestNow_of (hw : k.works = true) (hq : k.tmq = [e]) (hx : k.xferTm = some x) (hs : e.started = true) (hd : e.done = false)
    (hf : e.faulted = false) {dd ds : DReg} {sd : SReg} (ho : ingestOperands e.op = some (dd, ds, sd)) :
    k.ingestNow = some (e, dd, ds, sd, x) := by
  simp [Core.ingestNow, hw, hq, hx, hs, hd, hf, ho]

/-- What a SY engine waits for is the increment of its core. -/
theorem Core.xferSy_of_incNow (h : k.incNow = some x) : k.xferSy = some x := by
  unfold Core.incNow at h
  split at h
  · rename_i hx
    split at h
    · rw [hx, h]
    · cases h
  · cases h

/-- What a TM engine waits for is the transfer of its core. -/
theorem Core.xferTm_of_remoteNow {d : DReg} {sd : SReg} (h : k.remoteNow = some (e, d, sd, x)) : k.xferTm = some x := by
  unfold Core.remoteNow at h
  split at h
  · rename_i hx
    split at h
    · obtain ⟨o, -, ho⟩ := Option.map_eq_some_iff.1 h
      cases ho
      exact hx
    · cases h
  · cases h

end Waits

/-! ## The end of a transfer -/

section Ends
variable {s : State} {c : Nat} {e : Entry}

/-- An increment that ends leaves its core with the status as the result of its instruction. -/
theorem State.incEnds_core (st : Code) (hw : (s.core c).works = true) (hq : (s.core c).syq = [e]) : (s.incEnds c st).core c =
    { s.core c with
      xferSy := none
      syq := [{ e with done := true, result := (opSyDest e.op).map fun d => (d, st.setWidth 64) }] } := by
  have hcore : (s.modCore c fun k => { k with xferSy := none }).core c = { s.core c with xferSy := none } := State.core_modCore_same ..
  rw [State.incEnds, State.finishSy_core _ (by rw [hcore]; exact hw) (by rw [hcore]; exact hq), State.core_setCore_same, hcore]

/-- The end of a sy.add, whose instruction writes SD. -/
theorem State.incEnds_ends {b : BReg} {v sd : SReg} (st : Code) (hw : (s.core c).works = true) (hq : (s.core c).syq = [e])
    (ho : e.op = .sadd b v sd) : ((s.incEnds c st).core c).xferSy = none ∧ ∃ sd, scalarWritten e.op = some sd ∧
      ((s.incEnds c st).core c).syq = [{ e with done := true, result := some (sd, st.setWidth 64) }] := by
  rw [State.incEnds_core st hw hq, ho]
  exact ⟨rfl, sd, rfl, rfl⟩

/-- A transfer that ends leaves its core with the status as the result of its instruction. -/
theorem State.xferEnds_core (sd : SReg) (st : Code) (hq : (s.core c).tmq = [e]) (hs : e.started = true) : (s.xferEnds c e sd st).core c =
    { s.core c with
      xferTm := none
      tmq := [{ e with done := true, result := some (sd, st.setWidth 64), resume := none }] } := by
  rw [State.xferEnds, State.entryDone, State.core_modCore_same, State.core_modCore_same]
  simp only [Core.modEntry, Core.setQueue, Core.queue, hq, List.map_cons, List.map_nil, if_true, hs]

@[simp] theorem State.xferEnds_lt (s : State) (c : Nat) (e : Entry) (sd : SReg) (st : Code) : (s.xferEnds c e sd st).lt = s.lt := rfl

/-- The end of the transfer of a core whose instruction writes SD, with the memory as it was. -/
theorem State.xferEnds_ends {sd : SReg} (st : Code) (hq : (s.core c).tmq = [e]) (hs : e.started = true) (ho : scalarWritten e.op = some sd) :
    let t := s.xferEnds c e sd st
    (t.core c).xferTm = none ∧ ∃ sd, scalarWritten e.op = some sd ∧
      (t.core c).tmq = [{ e with done := true, result := some (sd, st.setWidth 64), resume := none }] ∧ t.mem = s.mem := by
  dsimp only
  rw [State.xferEnds_core sd st hq hs]
  exact ⟨rfl, sd, ho, rfl, rfl⟩

end Ends

/-! ## Answers (R221, R253, R281) -/

/-- The answer is not one that the transfer takes: it comes from another device, is of another transfer, or comes too late (R281). -/
def Xfer.discards (x : Xfer) (now : Word) (r : Record) : Prop :=
  x.dst ≠ r.srcDev ∨ x.xferNo ≠ r.xfer ∨ (r.type ≠ .nack ∧ x.late now = true)

/-- A transfer whose first unanswered record has been answered, with `n` elements. -/
def Xfer.answered (x : Xfer) (n : Nat) : Xfer := { x with acked := x.acked + n, sent := x.sent.drop 1 }

section Answers
variable {s : State} {c : Nat} {r : Record} {x : Xfer}

/-- The test of an answer's source and number. -/
theorem Xfer.foreign_eq_false (hdst : x.dst = r.srcDev) (hno : x.xferNo = r.xfer) (hown : x.onOwn = false) :
    (x.dst != r.srcDev || x.xferNo != r.xfer || x.onOwn) = false := by
  simp [hdst, hno, hown]

theorem State.answerSy_ack (hi : (s.core c).incNow = some x) (hx : (x.dst != r.srcDev || x.xferNo != r.xfer || x.onOwn) = false)
    (ht : r.type = .ack) (hl : x.late s.lt.now = false) : s.answerSy c r = s.incEnds c Code.ok := by
  simp [State.answerSy, State.lineTime, hi, hx, ht, hl]

theorem State.answerSy_nack (hi : (s.core c).incNow = some x) (hx : (x.dst != r.srcDev || x.xferNo != r.xfer || x.onOwn) = false)
    (ht : r.type = .nack) : s.answerSy c r = s.incEnds c r.status := by
  simp [State.answerSy, hi, hx, ht]

/-- A SY engine takes no answer that its increment discards. -/
theorem State.answerSy_discards (h : ∀ x, (s.core c).xferSy = some x → x.discards s.lt.now r) : s.answerSy c r = s := by
  unfold State.answerSy State.lineTime
  split
  · rfl
  · rename_i x hi
    split
    · rfl
    · rename_i hx
      simp only [Bool.or_eq_true, bne_iff_ne, not_or, not_not] at hx
      obtain ⟨⟨hdst, hno⟩, -⟩ := hx
      obtain hd | hn | ⟨hnack, hlate⟩ := h x (Core.xferSy_of_incNow hi)
      · exact absurd hdst hd
      · exact absurd hno hn
      · cases ht : r.type <;> simp_all

/-- A TM engine takes no answer that its transfer discards. -/
theorem State.answerTm_discards (h : ∀ x, (s.core c).xferTm = some x → x.discards s.lt.now r) : s.answerTm c r = s := by
  unfold State.answerTm State.lineTime
  split
  · rfl
  · rename_i e d sd x hi
    split
    · rfl
    · rename_i hx
      simp only [Bool.or_eq_true, bne_iff_ne, not_or, not_not] at hx
      obtain ⟨⟨hdst, hno⟩, -⟩ := hx
      obtain hd | hn | ⟨hnack, hlate⟩ := h x (Core.xferTm_of_remoteNow hi)
      · exact absurd hdst hd
      · exact absurd hno hn
      · rw [if_neg hnack, if_pos hlate]

section Transfer
variable {e : Entry} {d : DReg} {sd : SReg} (hr : (s.core c).remoteNow = some (e, d, sd, x))
  (hx : (x.dst != r.srcDev || x.xferNo != r.xfer || x.onOwn) = false)
include hr hx

theorem State.answerTm_nack (ht : r.type = .nack) (hst : transferStatus r.status = true) :
    s.answerTm c r = s.xferEnds c e sd r.status := by
  simp [State.answerTm, hr, hx, ht, hst]

theorem State.answerTm_poison (ht : r.type = .readData) (hl : x.late s.lt.now = false) (hk : x.kind = .rputRead) (hp : r.poison = true) :
    s.answerTm c r = s.xferEnds c e sd Code.poison := by
  simp [State.answerTm, State.lineTime, hr, hx, ht, hl, hk, hp]

theorem State.answerTm_ack (ht : r.type = .ack) (hl : x.late s.lt.now = false) (hc : r.count ≠ 0) :
    s.answerTm c r = s.xferStep c e d sd (x.answered r.count.toNat) := by
  have hcount : (if r.count = 0 then { x with sent := x.sent.drop 1, sigAcked := true }
      else { x with sent := x.sent.drop 1, acked := x.acked + r.count.toNat } : Xfer) = x.answered r.count.toNat := if_neg hc
  rw [← hcount]
  simp [State.answerTm, State.lineTime, hr, hx, ht, hl]

end Transfer

end Answers

/-! ## Records that are issued (R276, R281) -/

section Issues
variable {s : State} {c : Nat} {d : DReg} {x : Xfer}

/-- No record is issued while an answer is late or the transport buffers are full. -/
theorem State.issueMore_held (n : Nat)
    (h : (x.late s.lt.now || !s.hasRoom (x.record .read (s.core c).lg s.devId (s.srcPart c) false)) = true) :
    s.issueMore c d n x = (s, x, none) := by
  cases n with
  | zero => rfl
  | succ n =>
    rw [State.issueMore]
    exact if_pos h

/-- A transfer that has issued its elements, and whose signal is not due, issues no more. -/
theorem State.issueMore_issued (n : Nat) (hn : x.total ≤ x.next) (hs : x.signals = false) : s.issueMore c d n x = (s, x, none) := by
  cases n with
  | zero => rfl
  | succ n =>
    rw [State.issueMore]
    simp only [Nat.not_lt.2 hn, if_false, hs, Bool.false_eq_true, ite_self]

/-- Such a transfer waits for its answers until it is complete. -/
theorem State.xferStep_waits {e : Entry} {sd : SReg} (hn : x.total ≤ x.next) (hs : x.signals = false) (hc : x.complete = false) :
    s.xferStep c e d sd x = s.modCore c fun k => { k with xferTm := some x } := by
  unfold State.xferStep
  rw [State.issueMore_issued _ hn hs]
  simp only [hc, Bool.false_eq_true, if_false]

theorem Xfer.signals_eq_false (h : x.sig = true → x.sigSent = true) : x.signals = false := by
  cases hs : x.sig <;> simp_all [Xfer.signals]

theorem Xfer.complete_eq_false (h : x.acked < x.total) : x.complete = false := by
  simp [Xfer.complete, Nat.not_le.2 h]

theorem State.hasRoom_of_none {r : Record} (h : s.unsent r = 0) : s.hasRoom r = true := by
  simp [State.hasRoom, h]

theorem State.transportRecords_le_unsent {r : Record} (h : s.hasRoom r = false) : Config.transportRecords ≤ s.unsent r := by
  simp only [State.hasRoom, Bool.or_eq_false_iff, decide_eq_false_iff_not, Nat.not_lt] at h
  exact h.2

end Issues

/-! ## Transfers and ingests that time out (R226, R281, R305) -/

section TimesOut
variable {s : State} {c : CoreId} {e : Entry} {d : DReg} {sd : SReg} {x : Xfer}

theorem State.core_passTo (s : State) (d : Deadline) (c : Nat) : (s.passTo d).core c = s.core c :=
  (congrArg (fun x : State => x.core c) (s.passTo_frame d) :)

/-- A transfer that has timed out at an instant ends with TIMEOUT. -/
theorem State.passTo_xferEnds_ends (at_ : Deadline) (hq : (s.core c).tmq = [e]) (hs : e.started = true)
    (ho : scalarWritten e.op = some sd) :
    let t := (s.passTo at_).xferEnds c e sd Code.timeout
    (t.core c).xferTm = none ∧ ∃ sd, scalarWritten e.op = some sd ∧
      (t.core c).tmq = [{ e with done := true, result := some (sd, 0x10), resume := none }] ∧ t.mem = s.mem := by
  obtain ⟨hx, sd, hsd, hdone, hmem⟩ := State.xferEnds_ends Code.timeout ((congrArg Core.tmq (s.core_passTo at_ c)).trans hq) hs ho
  exact ⟨hx, sd, hsd, hdone, hmem.trans (s.passTo_memories at_).1⟩

theorem State.reached_passTo_now {s : State} {at_ : Word} (h : s.comes ⟨at_, false⟩ = true) :
    at_.toNat ≤ (s.passTo ⟨at_, false⟩).lt.now.toNat :=
  of_decide_eq_true (s.passTo_reached _ h)

theorem State.reached_passTo_own (s : State) (at_ : Word) : at_.toNat ≤ (s.passTo ⟨at_, true⟩).lt.own.toNat :=
  of_decide_eq_true (s.passTo_reached ⟨at_, true⟩ rfl)

theorem State.xferTimeout_passTo (hr : (s.core c).remoteNow = some (e, d, sd, x)) (at_ : Deadline) :
    (s.passTo at_).xferOut c .tm = (s.passTo at_).xferEnds c e sd Code.timeout := by
  show (s.passTo at_).xferTimeout c = _
  unfold State.xferTimeout
  rw [State.core_passTo, hr]

theorem State.awaited_tm (hr : (s.core c).remoteNow = some (e, d, sd, x)) (ho : x.onOwn = false) :
    s.awaited (.engine c .tm) = if x.sent = [] then none else some x.deadline := by
  simp [State.awaited, Core.xferOf, hr, ho]

/-- A transfer that waits for no answer has no time-out. -/
theorem exec_transferAckTimeout_none (hr : (s.core c).remoteNow = some (e, d, sd, x)) (ho : x.onOwn = false) (hs : x.sent = []) :
    Gives (.transferAckTimeout (.engine c .tm)) s s := by
  show execTransferAckTimeout (.engine c .tm) s = _
  unfold execTransferAckTimeout
  rw [State.awaited_tm hr ho, if_pos hs]

theorem exec_transferAckTimeout_tm (hr : (s.core c).remoteNow = some (e, d, sd, x)) (ho : x.onOwn = false) (hs : x.sent ≠ [])
    (hc : s.comes ⟨x.deadline + 1000, false⟩ = true) : Gives (.transferAckTimeout (.engine c .tm)) s
      ((s.passTo ⟨x.deadline + 1000, false⟩).xferEnds c e sd Code.timeout) := by
  show execTransferAckTimeout (.engine c .tm) s = _
  unfold execTransferAckTimeout
  rw [State.awaited_tm hr ho, if_neg hs]
  simp only [hc, Bool.not_true, Bool.false_eq_true, if_false, State.xferTimeout_passTo hr]

theorem exec_prelockTransferTimeout_tm (hr : (s.core c).remoteNow = some (e, d, sd, x)) (ho : x.onOwn = true) :
    Gives (.prelockTransferTimeout c .tm) s ((s.passTo ⟨x.deadline, true⟩).xferEnds c e sd Code.timeout) := by
  have hw : (s.core c).xferOf .tm = some x := by rw [Core.xferOf, hr, Option.map_some]
  show execPrelockTransferTimeout c .tm s = _
  unfold execPrelockTransferTimeout
  simp only [hw, ho, if_true, State.xferTimeout_passTo hr]

end TimesOut

section Ingest
variable {s : State} {c : CoreId} {e : Entry} {dd ds : DReg} {sd : SReg} {x : Xfer}
  (hi : (s.core c).ingestNow = some (e, dd, ds, sd, x)) (hl : x.hostLen ≠ 0)
include hi hl

theorem exec_ingestReadCompletion (reply : ReadReply) (data : List Byte) : Gives (.ingestReadCompletion c reply data) s
    (match reply with | .ok => s.ingestData c e dd ds sd x data | .poisoned | .failed => s.xferEnds c e sd Code.poison) := by
  show execIngestReadCompletion c reply data s = _
  unfold execIngestReadCompletion
  simp only [hi, if_neg hl]
  cases reply <;> rfl

theorem exec_ingestCompletionTimeout :
    Gives (.ingestCompletionTimeout c) s ((s.passTo ⟨x.deadline, true⟩).xferEnds c e sd Code.timeout) := by
  show execIngestCompletionTimeout c s = _
  unfold execIngestCompletionTimeout
  simp only [hi, if_neg hl]

end Ingest

/-- The data of the last element of an ingest is stored, and ends it. -/
theorem State.ingestData_last {s u : State} {c : Nat} {e : Entry} {dd ds : DReg} {sd : SReg} {x : Xfer} {data : List Byte} {src dst : Desc}
    (hsrc : descOf ((s.core c).desc ds) = src) (hdst : descOf ((s.core c).desc dd) = dst) (hn : x.next + 1 = x.total) (hb : x.buf = [])
    (hh : x.hostLen = dst.width) (hd : data.length = dst.width) (hi : src.inside (ingestIndex src x.code (dst.index x.next)) = true)
    (hs : s.store c (dst.addr (dst.index x.next)) data = (u, .ok ())) :
    s.ingestData c e dd ds sd x data = u.xferEnds c e sd Code.ok := by
  have htake : data.take x.hostLen = data := List.take_of_length_le (by omega)
  have hwidth : data.take dst.width = data := List.take_of_length_le (by omega)
  have hfuel : x.total - x.next = 1 := by omega
  have hgo : s.ingestGo c src dst x.code 1 x.next data = (u, x.next + 1, data.drop dst.width, none) := by
    simp only [State.ingestGo, hi, hd, Nat.lt_irrefl, decide_false, Bool.and_false, Bool.false_eq_true, if_false, if_true, hwidth, hs]
  unfold State.ingestData
  simp only [hsrc, hdst, htake, hb, List.nil_append, hfuel, hgo, hn, Nat.le_refl, if_true]

/-! ## O44 -/

section Answered
variable {s : State} {p : PortId} {r : Record} {rest : List Record} {c : CoreId} {i : Instr}
  (hd : (s.port p).delivered = r :: rest) (hr : (s.port p).role ≠ 4) (hc : s.physical r.srcCore.toNat = some c.val)
  (hi : (r.type = .ack ∧ i = .ack p r) ∨ (r.type = .nack ∧ i = .nack p r) ∨ (r.type = .readData ∧ i = .readData p r))
include hd hr hc hi

/-- An answer to the SY engine of a core. -/
theorem exec_answer_sy (hsy : r.engineSy = true) : Gives i s ((s.recordTaken p rest).answerSy c r) := by
  have h := State.answerArrives_delivered hd hr hc
  rw [if_pos hsy] at h
  exact (exec_answer hi).trans (congrArg Host.Outcome.next h)

/-- An answer to the TM engine of a core. -/
theorem exec_answer_tm (htm : r.engineSy = false) : Gives i s ((s.recordTaken p rest).answerTm c r) := by
  have h := State.answerArrives_delivered hd hr hc
  rw [if_neg (by rw [htm]; decide)] at h
  exact (exec_answer hi).trans (congrArg Host.Outcome.next h)

/-- An answer that the transfer of its engine discards leaves its port, and changes nothing. -/
theorem exec_answer_discarded
    (hx : ∀ x, (if r.engineSy then (s.core c).xferSy else (s.core c).xferTm) = some x → x.discards s.lt.now r) :
    Gives i s (s.recordTaken p rest) := by
  cases he : r.engineSy
  · rw [he] at hx
    have h := exec_answer_tm hd hr hc hi he
    rwa [State.answerTm_discards (s := s.recordTaken p rest) hx] at h
  · rw [he] at hx
    have h := exec_answer_sy hd hr hc hi he
    rwa [State.answerSy_discards (s := s.recordTaken p rest) hx] at h

end Answered

/-- An ingest's end with its data: as the store of its last element leaves the memory and L1. -/
theorem exec_ingestReadCompletion_last {s u : State} {c : CoreId} {e : Entry} {dd ds : DReg} {sd : SReg} {x : Xfer} {data : List Byte}
    {a : Nat} (hs : e.started = true) (hq : (s.core c).tmq = [e]) (ho : scalarWritten e.op = some sd)
    (hstore : s.store c a data = (u, .ok ())) (hgives : Gives (.ingestReadCompletion c .ok data) s (s.ingestData c e dd ds sd x data))
    (hlast : s.ingestData c e dd ds sd x data = u.xferEnds c e sd Code.ok) :
    ∃ t, Gives (.ingestReadCompletion c .ok data) s t ∧ t.mem = u.mem ∧ (t.core c).l1 = (u.core c).l1 ∧
      (t.core c).xferTm = none ∧ ∃ sd, scalarWritten e.op = some sd ∧
        (t.core c).tmq = [{ e with done := true, result := some (sd, 0), resume := none }] := by
  have honly : State.OnlyL1 c s u := by
    have h := s.store_onlyL1 c a data
    rwa [hstore] at h
  have hqu : (u.core c).tmq = [e] := (congrArg Core.tmq honly.core :).trans hq
  rw [hlast] at hgives
  refine ⟨_, hgives, rfl, ?_⟩
  rw [State.xferEnds_core sd Code.ok hqu hs]
  exact ⟨rfl, rfl, sd, ho, rfl⟩

/-- Settles O44: an answer or a time-out that reaches its engine ends what the engine waits for, by the branch that its kind selects. -/
theorem answersAndTimeouts : Obligations.AnswersAndTimeouts := by
  unfold Obligations.AnswersAndTimeouts
  refine ⟨fun s p r rest c e x hd hr hc hno hdst hown hs hdone hw => ?_, fun s c n d x r => ⟨fun h => ?_, fun h => ?_,
      State.hasRoom_of_none, State.transportRecords_le_unsent, rfl⟩,
    fun s p r rest c hd hr hc hx i hi => exec_answer_discarded hd hr hc hi hx, fun s c e x data hs hdone hf hw => ⟨?_, ?_⟩⟩
  · intro k
    have hx := Xfer.foreign_eq_false hdst hno hown
    refine ⟨?_, ?_⟩
    · rintro hsy hq hxfer ⟨b, v, sd, ho⟩
      have hinc : ((s.recordTaken p rest).core c).incNow = some x := Core.incNow_of hw hq hxfer hs hdone
      have ends (st : Code) := State.incEnds_ends (s := s.recordTaken p rest) st hw hq ho
      refine ⟨fun ht hlate => ?_, fun ht => ?_⟩
      · have hgives := exec_answer_sy hd hr hc (.inl ⟨ht, rfl⟩) hsy
        rw [State.answerSy_ack hinc hx ht hlate] at hgives
        exact ⟨_, hgives, s.recordTaken_delivered p rest, ends _⟩
      · have hgives := exec_answer_sy hd hr hc (.inr (.inl ⟨ht, rfl⟩)) hsy
        rw [State.answerSy_nack hinc hx ht] at hgives
        exact ⟨_, hgives, s.recordTaken_delivered p rest, ends _⟩
    · rintro htm hq hxfer hf ⟨d, dev, rd, b, sig, sd, ho⟩
      have hremote : ((s.recordTaken p rest).core c).remoteNow = some (e, d, sd, x) :=
        Core.remoteNow_of hw hq hxfer hs hdone hf (by rw [ho]; rfl)
      have hsd : scalarWritten e.op = some sd := by rw [ho]; rfl
      have ends (st : Code) := State.xferEnds_ends (s := s.recordTaken p rest) st hq hs hsd
      refine ⟨fun ht hst => ?_, fun ht hlate hkind hpoison => ?_, fun ht hlate hcount hacked hnext hkind hsig => ?_⟩
      · have hgives := exec_answer_tm hd hr hc (.inr (.inl ⟨ht, rfl⟩)) htm
        rw [State.answerTm_nack hremote hx ht hst] at hgives
        obtain ⟨hnone, sd, hsd, hdone, -⟩ := ends r.status
        exact ⟨_, hgives, s.recordTaken_delivered p rest, hnone, sd, hsd, hdone⟩
      · have hgives := exec_answer_tm hd hr hc (.inr (.inr ⟨ht, rfl⟩)) htm
        rw [State.answerTm_poison hremote hx ht hlate hkind hpoison] at hgives
        obtain ⟨hnone, sd, hsd, hdone, -⟩ := ends Code.poison
        exact ⟨_, hgives, hnone, sd, hsd, hdone⟩
      · have hgives := exec_answer_tm hd hr hc (.inl ⟨ht, rfl⟩) htm
        rw [State.answerTm_ack hremote hx ht hlate hcount, State.xferStep_waits (x := x.answered r.count.toNat) hnext
          (Xfer.signals_eq_false hsig) (Xfer.complete_eq_false hacked)] at hgives
        refine ⟨_, hgives, ?_⟩
        rw [State.core_modCore_same]
        exact ⟨rfl, hq⟩
  · exact State.issueMore_held n (by rw [h, Bool.true_or])
  · exact State.issueMore_held n (by rw [h, Bool.not_false, Bool.or_true])
  · rintro hq hxfer ⟨d, dev, rd, b, sig, sd, ho⟩
    have hremote : (s.core c).remoteNow = some (e, d, sd, x) := Core.remoteNow_of hw hq hxfer hs hdone hf (by rw [ho]; rfl)
    have ends (at_ : Deadline) := State.passTo_xferEnds_ends at_ hq hs (sd := sd) (by rw [ho]; rfl)
    refine ⟨exec_transferAckTimeout_none hremote, fun hown hsent hcomes => ?_, fun hown => ?_⟩
    · refine ⟨_, exec_transferAckTimeout_tm hremote hown hsent hcomes, ends _, ?_⟩
      rw [State.xferEnds_lt]
      exact State.reached_passTo_now hcomes
    · exact ⟨_, exec_prelockTransferTimeout_tm hremote hown, ends _, s.reached_passTo_own _⟩
  · intro dd ds xfs sxf xf sd hq hxfer hkind ho hlen
    have hingest : (s.core c).ingestNow = some (e, dd, ds, sd, x) := Core.ingestNow_of hw hq hxfer hs hdone hf (by rw [ho]; rfl)
    have hsd : scalarWritten e.op = some sd := by rw [ho]; rfl
    have gives (reply : ReadReply) := exec_ingestReadCompletion hingest hlen reply data
    refine ⟨⟨_, gives .failed, State.xferEnds_ends Code.poison hq hs hsd⟩, ⟨_, gives .poisoned, State.xferEnds_ends Code.poison hq hs hsd⟩,
      ⟨_, exec_ingestCompletionTimeout hingest hlen, State.passTo_xferEnds_ends _ hq hs hsd, s.reached_passTo_own _⟩, gives .ok,
      fun u hnext hbuf hhost hdata hinside hstore =>
        exec_ingestReadCompletion_last hs hq hsd hstore (gives .ok) (State.ingestData_last rfl rfl hnext hbuf hhost hdata hinside hstore)⟩

end Sys2Proof.Machine

/-!
THE CANONICAL FORM OF A STATE'S MEMORIES (R228, log entry 3): one lemma for each of the model's operations, in the model's order, says that
it keeps the form; each rests on those of the operations it calls.
-/
namespace Sys2Proof.Machine

/-- Near, far and scratch memory, the two host memories as the device has written them, and the staging window are in canonical form. -/
structure State.Canonical (s : State) : Prop where
  mem : Memory.wf s.mem = true
  hostOut0 : Memory.wf s.hostOut0 = true
  hostOut1 : Memory.wf s.hostOut1 = true
  staging : Memory.wf s.loader.staging = true

theorem State.canonical_iff (s : State) : s.Canonical ↔ s.memoriesWf = true := by
  simp only [State.memoriesWf, Bool.and_eq_true]
  exact ⟨fun ⟨hm, h0, h1, hl⟩ => ⟨⟨⟨hm, h0⟩, h1⟩, hl⟩, fun ⟨⟨⟨hm, h0⟩, h1⟩, hl⟩ => ⟨hm, h0, h1, hl⟩⟩

/-- Whatever state the command goes on to has its memories in canonical form. -/
def GoesCanonical (o : Host.Outcome State Fault Refusal) : Prop := ∀ t, o = .next t → t.Canonical

theorem GoesCanonical.next {t : State} (h : t.Canonical) : GoesCanonical (.next t) := by
  rintro u ⟨⟩
  exact h

theorem GoesCanonical.fault {f : Fault} : GoesCanonical (.fault f) := fun _ hu => by cases hu

theorem GoesCanonical.ite {b : Prop} {_ : Decidable b} {x y : Host.Outcome State Fault Refusal} (hx : GoesCanonical x) (hy : GoesCanonical y) :
    GoesCanonical (if b then x else y) := by
  split <;> assumption

/-! ### Branches, folds and pairs -/

theorem State.Canonical.ite {b : Prop} {_ : Decidable b} {s t : State} (hs : s.Canonical) (ht : t.Canonical) :
    (if b then s else t).Canonical := by
  split <;> assumption

theorem State.Canonical.ite_fst {α : Type} {b : Prop} {_ : Decidable b} {x y : State × α} (hx : x.1.Canonical) (hy : y.1.Canonical) :
    (if b then x else y).1.Canonical := by
  split <;> assumption

/-- The state that a match names as the first of a pair. -/
theorem State.Canonical.of_eq {α : Type} {x : State × α} {t : State} {a : α} (h : x.1.Canonical) (e : x = (t, a)) : t.Canonical := by
  rw [e] at h
  exact h

theorem State.Canonical.pair {α : Type} {s : State} {a : α} (h : s.Canonical) : (s, a).1.Canonical := h

theorem State.Canonical.foldl {α : Type} {f : State → α → State} {l : List α} {s : State} (h : s.Canonical)
    (hf : ∀ t a, t.Canonical → (f t a).Canonical) : (l.foldl f s).Canonical := by
  induction l generalizing s with
  | nil => exact h
  | cons a l ih => exact ih (hf s a h)

/-- A state that holds the same memories. -/
theorem State.Canonical.of_same {s t : State} (h : s.Canonical) (e : SameMemories s t) : t.Canonical :=
  (State.canonical_iff t).2 (e.wf.trans ((State.canonical_iff s).1 h))

section Fields
variable {s : State} (h : s.Canonical)
include h

/-! ### Updates of one field -/

theorem State.Canonical.withStart {x : StartUp} : ({ s with start := x } : State).Canonical := ⟨h.1, h.2, h.3, h.4⟩
theorem State.Canonical.withCores {x : Tab Core} : ({ s with cores := x } : State).Canonical := ⟨h.1, h.2, h.3, h.4⟩
theorem State.Canonical.withParts {x : Tab Part} : ({ s with parts := x } : State).Canonical := ⟨h.1, h.2, h.3, h.4⟩
theorem State.Canonical.withDies {x : Tab Die} : ({ s with dies := x } : State).Canonical := ⟨h.1, h.2, h.3, h.4⟩
theorem State.Canonical.withPoison {x : NatSet} : ({ s with poison := x } : State).Canonical := ⟨h.1, h.2, h.3, h.4⟩
theorem State.Canonical.withMemStacks {x : Tab Stack} : ({ s with memStacks := x } : State).Canonical := ⟨h.1, h.2, h.3, h.4⟩
theorem State.Canonical.withFabric {x : Fabric} : ({ s with fabric := x } : State).Canonical := ⟨h.1, h.2, h.3, h.4⟩
theorem State.Canonical.withHolds {x : List FlowHold} : ({ s with holds := x } : State).Canonical := ⟨h.1, h.2, h.3, h.4⟩
theorem State.Canonical.withPorts {x : Tab Port} : ({ s with ports := x } : State).Canonical := ⟨h.1, h.2, h.3, h.4⟩
theorem State.Canonical.withInFlows {x : List InFlow} : ({ s with inFlows := x } : State).Canonical := ⟨h.1, h.2, h.3, h.4⟩
theorem State.Canonical.withOutFlows {x : Tab Nat} : ({ s with outFlows := x } : State).Canonical := ⟨h.1, h.2, h.3, h.4⟩
theorem State.Canonical.withLoopback {x : List Record} : ({ s with loopback := x } : State).Canonical := ⟨h.1, h.2, h.3, h.4⟩
theorem State.Canonical.withConsist {x : Consist} : ({ s with consist := x } : State).Canonical := ⟨h.1, h.2, h.3, h.4⟩
theorem State.Canonical.withLt {x : LineTime} : ({ s with lt := x } : State).Canonical := ⟨h.1, h.2, h.3, h.4⟩
theorem State.Canonical.withTt {x : Tab TtEntry} : ({ s with tt := x } : State).Canonical := ⟨h.1, h.2, h.3, h.4⟩
theorem State.Canonical.withWindows {x : List OpenWindow} : ({ s with windows := x } : State).Canonical := ⟨h.1, h.2, h.3, h.4⟩
theorem State.Canonical.withRoster {x : Roster} : ({ s with roster := x } : State).Canonical := ⟨h.1, h.2, h.3, h.4⟩
theorem State.Canonical.withPrevRoster {x : Option Roster} : ({ s with prevRoster := x } : State).Canonical := ⟨h.1, h.2, h.3, h.4⟩
theorem State.Canonical.withRosters {x : List Roster} : ({ s with rosters := x } : State).Canonical := ⟨h.1, h.2, h.3, h.4⟩
theorem State.Canonical.withLastEffective {x : Option Word} : ({ s with lastEffective := x } : State).Canonical := ⟨h.1, h.2, h.3, h.4⟩
theorem State.Canonical.withTwin {x : Twin} : ({ s with twin := x } : State).Canonical := ⟨h.1, h.2, h.3, h.4⟩
theorem State.Canonical.withFencedMap {x : NatSet} : ({ s with fencedMap := x } : State).Canonical := ⟨h.1, h.2, h.3, h.4⟩
theorem State.Canonical.withSpareUse {x : NatSet} : ({ s with spareUse := x } : State).Canonical := ⟨h.1, h.2, h.3, h.4⟩
theorem State.Canonical.withPower {x : Power} : ({ s with power := x } : State).Canonical := ⟨h.1, h.2, h.3, h.4⟩
theorem State.Canonical.withSecurity {x : Security} : ({ s with security := x } : State).Canonical := ⟨h.1, h.2, h.3, h.4⟩
theorem State.Canonical.withBoard {x : Board} : ({ s with board := x } : State).Canonical := ⟨h.1, h.2, h.3, h.4⟩
theorem State.Canonical.withPcie0 {x : Pcie} : ({ s with pcie0 := x } : State).Canonical := ⟨h.1, h.2, h.3, h.4⟩
theorem State.Canonical.withPcie1 {x : Pcie} : ({ s with pcie1 := x } : State).Canonical := ⟨h.1, h.2, h.3, h.4⟩
theorem State.Canonical.withBar4Base {x : BitVec 48} : ({ s with bar4Base := x } : State).Canonical := ⟨h.1, h.2, h.3, h.4⟩
theorem State.Canonical.withIntrs {x : List Intr} : ({ s with intrs := x } : State).Canonical := ⟨h.1, h.2, h.3, h.4⟩
theorem State.Canonical.withSealed {x : Tab (Option (BitVec 256 × Nat))} : ({ s with sealed := x } : State).Canonical := ⟨h.1, h.2, h.3, h.4⟩
theorem State.Canonical.withTrace {x : List TraceItem} : ({ s with trace := x } : State).Canonical := ⟨h.1, h.2, h.3, h.4⟩
theorem State.Canonical.withFreeCtr {x : Nat} : ({ s with freeCtr := x } : State).Canonical := ⟨h.1, h.2, h.3, h.4⟩
theorem State.Canonical.withPfLog {x : Tab PfEntry} : ({ s with pfLog := x } : State).Canonical := ⟨h.1, h.2, h.3, h.4⟩
theorem State.Canonical.withPfNext {x : BitVec 6} : ({ s with pfNext := x } : State).Canonical := ⟨h.1, h.2, h.3, h.4⟩
theorem State.Canonical.withPending {x : List Instr} : ({ s with pending := x } : State).Canonical := ⟨h.1, h.2, h.3, h.4⟩

/-! ### Updates of several fields -/

theorem State.Canonical.withPfLogPfNext {x : Tab PfEntry} {y : BitVec 6} :
    ({ s with pfLog := x, pfNext := y } : State).Canonical := ⟨h.1, h.2, h.3, h.4⟩
theorem State.Canonical.withDiesFreeCtr {x : Tab Die} {y : Nat} :
    ({ s with dies := x, freeCtr := y } : State).Canonical := ⟨h.1, h.2, h.3, h.4⟩
theorem State.Canonical.withFencedMapSpareUse {x : NatSet} {y : NatSet} :
    ({ s with fencedMap := x, spareUse := y } : State).Canonical := ⟨h.1, h.2, h.3, h.4⟩
theorem State.Canonical.withRostersLastEffective {x : List Roster} {y : Option Word} :
    ({ s with rosters := x, lastEffective := y } : State).Canonical := ⟨h.1, h.2, h.3, h.4⟩
theorem State.Canonical.withRosterPrevRosterRosters {x : Roster} {y : Option Roster} {z : List Roster} :
    ({ s with roster := x, prevRoster := y, rosters := z } : State).Canonical := ⟨h.1, h.2, h.3, h.4⟩
theorem State.Canonical.withStartPower {x : StartUp} {y : Power} :
    ({ s with start := x, power := y } : State).Canonical := ⟨h.1, h.2, h.3, h.4⟩
theorem State.Canonical.withStartPowerBoard {x : StartUp} {y : Power} {z : Board} :
    ({ s with start := x, power := y, board := z } : State).Canonical := ⟨h.1, h.2, h.3, h.4⟩
theorem State.Canonical.withStartFabricLtBoard {x : StartUp} {y : Fabric} {z : LineTime} {w : Board} :
    ({ s with start := x, fabric := y, lt := z, board := w } : State).Canonical := ⟨h.1, h.2, h.3, h.4⟩
theorem State.Canonical.withPowerBoard {x : Power} {y : Board} :
    ({ s with power := x, board := y } : State).Canonical := ⟨h.1, h.2, h.3, h.4⟩

theorem State.Canonical.withMem {m : Mem} (hm : Memory.wf m = true) : ({ s with mem := m } : State).Canonical :=
  ⟨hm, h.hostOut0, h.hostOut1, h.staging⟩

/-- A change of the loader that leaves the staging window. -/
theorem State.Canonical.modLoader {f : Loader → Loader} (hf : ∀ l, (f l).staging = l.staging := by simp) : (s.modLoader f).Canonical :=
  ⟨h.mem, h.hostOut0, h.hostOut1, (hf s.loader).symm ▸ h.staging⟩

/-! ### The tables of the state, free values and time -/

theorem State.Canonical.setCore {c : Nat} {k : Core} : (s.setCore c k).Canonical := ⟨h.1, h.2, h.3, h.4⟩
theorem State.Canonical.modCore {c : Nat} {f : Core → Core} : (s.modCore c f).Canonical := h.setCore
theorem State.Canonical.setPart {p : Nat} {x : Part} : (s.setPart p x).Canonical := ⟨h.1, h.2, h.3, h.4⟩
theorem State.Canonical.modPart {p : Nat} {f : Part → Part} : (s.modPart p f).Canonical := h.setPart
theorem State.Canonical.modDie {d : Nat} {f : Die → Die} : (s.modDie d f).Canonical := h.withDies
theorem State.Canonical.modPort {n : Nat} {f : Port → Port} : (s.modPort n f).Canonical := h.withPorts
theorem State.Canonical.modStack {n : Nat} {f : Stack → Stack} : (s.modStack n f).Canonical := h.withMemStacks
theorem State.Canonical.modTt {e : Nat} {f : TtEntry → TtEntry} : (s.modTt e f).Canonical := h.withTt
theorem State.Canonical.bumpDie {d i : Nat} : (s.bumpDie d i).Canonical := h.modDie
theorem State.Canonical.bumpPort {n i : Nat} : (s.bumpPort n i).Canonical := h.modPort
theorem State.Canonical.bumpTwin {i : Nat} : (s.bumpTwin i).Canonical := h.withTwin
theorem State.Canonical.bumpLt {i : Nat} : (s.bumpLt i).Canonical := h.withLt
theorem State.Canonical.bumpPwr {i : Nat} : (s.bumpPwr i).Canonical := h.withPower

theorem State.Canonical.modPcie {hp : HostPort} {f : Pcie → Pcie} : (s.modPcie hp f).Canonical := .ite h.withPcie0 h.withPcie1

/-! ### Writes to device memory -/

omit h in
theorem memory_wf_foldl_memSet {bytes : List (Nat × Byte)} {m : Mem} (hm : Memory.wf m = true) :
    Memory.wf (bytes.foldl (fun m b => memSet m b.1 b.2) m) = true := by
  induction bytes generalizing m with
  | nil => exact hm
  | cons b t ih => exact ih (memory_wf_memSet hm b.1 b.2)

end Fields
end Sys2Proof.Machine

namespace Sys2Proof.Machine

section
variable {s : State} (h : s.Canonical)
include h

/-! ### Ops -/

theorem State.Canonical.tick : s.tick.Canonical := h.withFreeCtr

theorem State.Canonical.ticks {n : Nat} : (s.ticks n).Canonical := h.withFreeCtr

theorem State.Canonical.modCores {cs : List Nat} {f : Core → Core} : (s.modCores cs f).Canonical := h.foldl fun _ _ h => h.modCore

theorem State.Canonical.modPower {f : Power → Power} : (s.modPower f).Canonical := h.withPower

theorem State.Canonical.stepIbi : s.stepIbi.Canonical := h.withBoard

theorem State.Canonical.setPower {t : PwrState} : (s.setPower t).Canonical := .ite h.modPower.stepIbi h.modPower

theorem State.Canonical.startPlan {cause : BitVec 2} : (s.startPlan cause).Canonical := .ite h (State.Canonical.ite h.modPower h.modPower)

theorem State.Canonical.returnsToRun : s.returnsToRun.Canonical := .ite h.setPower.modPower.startPlan h.setPower

theorem State.Canonical.traced {items : List TraceItem} : (s.traced items).Canonical := h.withTrace

theorem State.Canonical.passTo {d : Deadline} : (s.passTo d).Canonical := .ite h (State.Canonical.ite h.withLt h.withLt)

theorem State.Canonical.pass {n : Nat} : (s.pass n).Canonical := h.withLt

theorem State.Canonical.pfWrite {e : PfEntry} : (s.pfWrite e).Canonical := (State.Canonical.ite h.bumpLt h).withPfLogPfNext

theorem State.Canonical.photo {kind : Nat} {stamp judged boundary : Word} {deadline : Bool} {entry : Nat} {dev : BitVec 16} :
    (s.photo kind stamp judged boundary deadline entry dev).Canonical := .ite h.pfWrite h

theorem State.Canonical.photoEvent {p : Nat} {stamp : Word} {dev : BitVec 16} : (s.photoEvent p stamp dev).Canonical :=
  h.foldl fun _ _ h => h.photo

theorem State.Canonical.interrupt {hp : HostPort} {fn vector : Nat} : (s.interrupt hp fn vector).Canonical :=
  .ite h (State.Canonical.ite h.modPcie h.withIntrs)

theorem State.Canonical.partInterrupt {p : Nat} {vector : Nat} : (s.partInterrupt p vector).Canonical := h.interrupt

theorem State.Canonical.eventDue {p : Nat} {status : Code} {index : BitVec 32} {info : Word} : (s.eventDue p status index info).Canonical :=
  .ite h.photoEvent.modPart h.photoEvent.modPart

theorem State.Canonical.finish {p : Nat} {index : BitVec 32} {opcode flags : BitVec 8} {tag : BitVec 16} {vector : BitVec 8}
    {status : Code} {info : Word} :
    (s.finish p index opcode flags tag vector status info).Canonical := .ite (.ite h.partInterrupt h) (.ite h h.modPart)

theorem State.Canonical.complete {p seq : Nat} {status : Code} {info : Word} : (s.complete p seq status info).Canonical := by
  unfold State.complete
  dsimp only
  split
  · exact h
  · exact h.modPart.finish

theorem State.Canonical.log {kind : Nat} {status : Code} {part : Option Nat} {kept yielded : Nat} {info : BitVec 32} :
    (s.log kind status part kept yielded info).Canonical := by
  unfold State.log
  dsimp only
  split
  · exact (State.Canonical.ite h.bumpTwin h).withTwin.eventDue
  · exact (State.Canonical.ite h.bumpTwin h).withTwin.interrupt.withBoard

theorem State.Canonical.yielded {kept yielded : Nat} {part keptPart : Option Nat} : (s.yielded kept yielded part keptPart).Canonical :=
  h.log.bumpTwin

theorem State.Canonical.startTest {u : TestUnit} {uncorrectable : Bool} : (s.startTest u uncorrectable).Canonical :=
  .ite (State.Canonical.ite h h.withTwin) h.withTwin

theorem State.Canonical.sramError {u : TestUnit} {ecc : Ecc} : (s.sramError u ecc).Canonical := by
  unfold State.sramError
  split
  · exact h
  · exact h.startTest
  · exact h.startTest

theorem State.Canonical.partFaulted {c : Nat} : (s.partFaulted c).Canonical := by
  unfold State.partFaulted
  split
  · exact h
  · exact .ite h.modPart h

theorem State.Canonical.fault {c : Nat} {engine : BitVec 3} {status : Code} {index : Nat} {row : Option (TReg × Nat)} {addr : Option Nat} :
    (s.fault c engine status index row addr).Canonical := by
  unfold State.fault
  dsimp only
  refine .ite ?_ ?_
  · exact h.modCore
  · split
    · exact h.modCore.modCore.partFaulted
    · exact h.modCore.modCore.partFaulted.eventDue

/-! ### Fabric -/

theorem State.Canonical.rerouted : s.rerouted.Canonical := .ite h.withFabric.ticks h.withFabric

theorem State.Canonical.freshWritten {gs : List Nat} : (s.freshWritten gs).Canonical := by
  unfold State.freshWritten
  refine State.Canonical.foldl h fun t a h => ?_
  split
  · exact .ite h.modStack h
  · exact h

theorem State.Canonical.closeGroups {a : Nat} : (s.closeGroups a).Canonical := by
  unfold State.closeGroups
  dsimp only
  split
  · exact h
  · exact .ite h.modDie h

theorem State.Canonical.applyCell {x : Nat} {v : F32} {poison : Bool} : (s.applyCell x v poison).Canonical :=
  have hclosed : (s.closeGroups (cellAddr x)).Canonical := h.closeGroups
  ⟨memory_wf_memWrite _ hclosed.mem _, hclosed.hostOut0, hclosed.hostOut1, hclosed.staging⟩

theorem State.Canonical.applyRanked {k : Contribution} : (s.applyRanked k).Canonical := by
  unfold State.applyRanked
  dsimp only
  exact h.applyCell.modDie

theorem State.Canonical.applyHeld {x : Nat} {fuel : Nat} : (s.applyHeld x fuel).Canonical := by
  induction fuel generalizing s with
  | zero => exact h
  | succ fuel ih =>
    unfold State.applyHeld
    dsimp only
    split
    · exact h
    · split
      · exact h
      · exact ih h.modDie.applyRanked

theorem State.Canonical.cascade {x : Nat} : (s.cascade x).Canonical := h.applyHeld

theorem State.Canonical.offer {k : Contribution} : (s.offer k).Canonical :=
  .ite h.bumpDie (.ite h.applyRanked.cascade (.ite h.modDie.bumpDie h.modDie))

theorem State.Canonical.contribute {who : Option Ranked} {x : Nat} {v : F32} {poison : Bool} : (s.contribute who x v poison).Canonical := by
  unfold State.contribute
  refine .ite ?_ ?_
  · exact h.bumpDie
  · split
    · exact h.applyCell
    · exact h.offer

theorem State.Canonical.endRounds {ls : List LaunchId} : (s.endRounds ls).Canonical :=
  .ite h (h.foldl fun _ _ h => h.modDie.foldl fun _ _ h => h.cascade)

theorem State.Canonical.reduceWords {who : Option Ranked} {bytes : List (Nat × Byte)} {poison : Nat → Bool} {rs : List Nat} :
    (s.reduceWords who bytes poison rs).Canonical := by
  induction rs generalizing s with
  | nil => exact h
  | cons r rs ih =>
    unfold State.reduceWords
    dsimp only
    refine ih ?_
    split
    · exact h.contribute
    · exact h.bumpDie

theorem State.Canonical.granWrite {who : Option Ranked} {bytes : List (Nat × Byte)} {poison : Nat → Bool} :
    (s.granWrite who bytes poison).Canonical := by
  unfold State.granWrite
  dsimp only
  split
  · exact h
  · refine .ite h.closeGroups.reduceWords (.ite h.closeGroups.bumpDie (.ite h.closeGroups ?_))
    have hfresh {a : Nat} {gs : List Nat} : ((s.closeGroups a).freshWritten gs).Canonical := h.closeGroups.freshWritten
    exact ⟨memory_wf_foldl_memSet hfresh.mem, hfresh.hostOut0, hfresh.hostOut1, hfresh.staging⟩

theorem State.Canonical.devWrite {who : Option Ranked} {bytes : List (Nat × Byte)} {poison : Bool} : (s.devWrite who bytes poison).Canonical :=
  h.granWrite

theorem State.Canonical.fillSlice {d sl line : Nat} : (s.fillSlice d sl line).Canonical := by
  unfold State.fillSlice
  dsimp only
  exact (State.Canonical.ite h h.tick.modDie).modDie

theorem State.Canonical.cacheRead {a : Nat} : (s.cacheRead a).Canonical := by
  unfold State.cacheRead
  split
  · exact h
  · exact .ite h (State.Canonical.ite h.bumpDie h.bumpDie.fillSlice)

theorem State.Canonical.sliceReads {read : State → State} : (s.sliceReads read).Canonical := h.of_same ⟨rfl, rfl, rfl, rfl⟩

theorem State.Canonical.newGroup {d line port cycle : Nat} : (s.newGroup d line port cycle).Canonical := by
  unfold State.newGroup
  dsimp only
  exact h.modDie

theorem State.Canonical.portRead {port a cycle : Nat} : (s.portRead port a cycle).Canonical := by
  unfold State.portRead
  dsimp only
  split
  · exact h
  · exact .ite h.modDie.bumpDie h.newGroup.cacheRead

theorem State.Canonical.coreRead {c a : Nat} : (s.coreRead c a).Canonical := h.sliceReads

theorem State.Canonical.agentReads {n : Nat} {ds : List (Nat × Nat)} : (s.agentReads n ds).Canonical := by
  induction ds generalizing s n with
  | nil => exact h
  | cons d ds ih => exact ih (.ite h h.cacheRead)

theorem State.Canonical.countEcc {a : Nat} {ecc : Ecc} : (s.countEcc a ecc).Canonical := by
  unfold State.countEcc
  split
  · exact h.modStack
  · exact h.modStack
  · exact h

theorem State.Canonical.eccError {a : Nat} {ecc : Ecc} {unit : TestUnit} : (s.eccError a ecc unit).Canonical :=
  (State.Canonical.ite h.withPoison h).countEcc.sramError

theorem State.Canonical.readError {d sl a : Nat} {ecc : Ecc} : (s.readError d sl a ecc).Canonical := h.eccError

theorem State.Canonical.xlatFails {p a cause : Nat} : (s.xlatFails p a cause).Canonical := h.modPart

theorem State.Canonical.walkReads {p a : Nat} : (s.walkReads p a).Canonical := h.sliceReads

theorem State.Canonical.xlat {p a : Nat} {write : Bool} : (s.xlat p a write).1.Canonical := by
  unfold State.xlat
  dsimp only
  split
  · exact h.walkReads.xlatFails
  · refine .ite_fst ?_ (.ite_fst ?_ (.ite_fst ?_ ?_))
    · exact h.walkReads.modPart.xlatFails
    · exact h.walkReads.modPart.xlatFails
    · exact h.walkReads.modPart.xlatFails
    · exact h.walkReads.modPart.pair

theorem State.Canonical.xlatAll {p : Nat} {write : Bool} {rs : List (Nat × Nat)} : (s.xlatAll p write rs).1.Canonical := by
  induction rs generalizing s with
  | nil => exact h
  | cons r rs ih =>
    unfold State.xlatAll
    split
    · next e => exact h.xlat.of_eq e
    · next e =>
        replace h := h.xlat.of_eq e
        split
        · next e => exact (ih h).of_eq e
        · next e => exact (ih h).of_eq e

theorem State.Canonical.writeBack {c line : Nat} : (s.writeBack c line).Canonical := by
  unfold State.writeBack
  dsimp only
  exact (State.Canonical.ite h.granWrite h).modCore

theorem State.Canonical.dropLine {c line : Nat} : (s.dropLine c line).Canonical := h.modCore

theorem State.Canonical.fill {c line : Nat} : (s.fill c line).Canonical :=
  .ite h (State.Canonical.ite h h.tick.writeBack.dropLine).coreRead.modCore

theorem State.Canonical.flush {c : Nat} : (s.flush c).Canonical := by
  unfold State.flush
  dsimp only
  exact (h.ticks.foldl fun _ _ h => h.writeBack).modCore

theorem State.Canonical.readPieces {c : Nat} {ps ds : List (Nat × Nat)} : (s.readPieces c ps ds).1.Canonical := by
  induction ps generalizing s ds with
  | nil => exact h
  | cons p ps ih =>
    cases ds with
    | nil => exact h
    | cons d ds =>
      unfold State.readPieces
      dsimp only
      split
      · exact h
      · split
        · exact h.fill
        · split
          · next e => exact (ih h.fill).of_eq e
          · exact ih h.fill

theorem State.Canonical.load {c a n : Nat} : (s.load c a n).1.Canonical := by
  unfold State.load
  dsimp only
  split
  · next e => exact (h.xlatAll.of_eq e).readPieces
  · next e =>
      replace h := h.xlatAll.of_eq e
      split
      · next e =>
          replace h := h.xlatAll.of_eq e
          split
          · next e => exact h.readPieces.of_eq e
          · next e => exact h.readPieces.of_eq e
      · next e => exact h.xlatAll.of_eq e

theorem State.Canonical.l1Write {c d : Nat} {bs : List Byte} : (s.l1Write c d bs).Canonical := by
  unfold State.l1Write
  dsimp only
  exact h.fill.modCore

theorem State.Canonical.writePieces {c : Nat} {ds : List (Nat × Nat)} {bs : List Byte} : (s.writePieces c ds bs).Canonical := by
  induction ds generalizing s bs with
  | nil => exact h
  | cons d ds ih => exact ih h.l1Write

theorem State.Canonical.store {c a : Nat} {bs : List Byte} : (s.store c a bs).1.Canonical := by
  unfold State.store
  dsimp only
  split
  · next e =>
      replace h := h.xlatAll.of_eq e
      split
      · exact h
      · exact h.writePieces
  · next e => exact h.xlatAll.of_eq e

theorem State.Canonical.ctxRead {p a n : Nat} : (s.ctxRead p a n).1.Canonical := by
  unfold State.ctxRead
  dsimp only
  split
  · next e => exact (h.xlatAll.of_eq e).agentReads
  · next e => exact h.xlatAll.of_eq e

theorem State.Canonical.devWritePieces {poison : Bool} {rs : List (Nat × Nat)} {bs : List Byte} : (s.devWritePieces poison rs bs).Canonical := by
  induction rs generalizing s bs with
  | nil => exact h
  | cons r rs ih =>
    unfold State.devWritePieces
    exact ih h.devWrite

theorem State.Canonical.ctxWrite {p a : Nat} {bs : List Byte} {poison : Bool} : (s.ctxWrite p a bs poison).1.Canonical := by
  unfold State.ctxWrite
  split
  · next e =>
      replace h := h.xlatAll.of_eq e
      split
      · exact h
      · exact h.devWritePieces
  · next e => exact h.xlatAll.of_eq e

/-! ### Entry -/

theorem State.Canonical.settle {p : Nat} : (s.settle p).Canonical := .ite h.modPart h

theorem State.Canonical.kernelEnds {c : Nat} : (s.kernelEnds c).Canonical := by
  unfold State.kernelEnds
  dsimp only
  split
  · exact .ite h.modCore.modPart.endRounds.complete.settle h.modCore.modPart
  · exact h.modCore

theorem State.Canonical.abortEnds {c : Nat} : (s.abortEnds c).Canonical := by
  unfold State.abortEnds
  dsimp only
  refine .ite ?_ ?_
  · exact h
  · split
    · exact h.flush.modCore
    · refine State.Canonical.foldl h.flush.modCore.modPart fun t a h => ?_
      split
      · exact h.complete
      · exact h

theorem State.Canonical.entryDone {c : Nat} {g : Engine} {e : Entry} {result : Option (SReg × Word)} : (s.entryDone c g e result).Canonical :=
  h.modCore

theorem State.Canonical.entryRuns {c : Nat} {g : Engine} {e : Entry} : (s.entryRuns c g e).Canonical := h.modCore

theorem State.Canonical.entryFaults {c : Nat} {g : Engine} {e : Entry} {status : Code} {row : Option (TReg × Nat)} {addr : Option Nat} :
    (s.entryFaults c g e status row addr).Canonical := h.modCore.fault.abortEnds

theorem State.Canonical.entryShape {c : Nat} {g : Engine} {e : Entry} : (s.entryShape c g e).Canonical := h.entryFaults

/-! ### Tiles -/

theorem State.Canonical.tldRows {c t : Nat} {addr : Nat → Nat} {rs : List Nat} : (s.tldRows c t addr rs).1.Canonical := by
  induction rs generalizing s with
  | nil => exact h
  | cons r rs ih =>
    unfold State.tldRows
    dsimp only
    split
    · next e => exact h.load.of_eq e
    · next e => exact ih (h.load.of_eq e).modCore

theorem State.Canonical.tileUndefined {c t : Nat} : (s.tileUndefined c t).Canonical := h.modCore.ticks

theorem State.Canonical.spoilTile {c t lo n : Nat} : (s.spoilTile c t lo n).Canonical := .ite h h.modCore.ticks

theorem State.Canonical.spoilAcc {c row col : Nat} : (s.spoilAcc c row col).Canonical := h.modCore.ticks

theorem State.Canonical.l1Error {c : Nat} {ecc : Ecc} : (s.l1Error c ecc).Canonical := by
  unfold State.l1Error
  dsimp only
  split
  · exact h
  · exact (State.Canonical.ite h.modCore h).countEcc.ticks

theorem State.Canonical.spoilRead {c : Nat} {op : Op} {ecc : Ecc} : (s.spoilRead c op ecc).Canonical := by
  unfold State.spoilRead
  dsimp only
  split
  · exact h
  · exact .ite h h.l1Error
  · exact h
  · exact h.tick.spoilAcc
  · exact h.tick.spoilTile

theorem State.Canonical.tstRows {c : Nat} {x : Tile} {addr : Nat → Nat} {rs : List Nat} : (s.tstRows c x addr rs).1.Canonical := by
  induction rs generalizing s with
  | nil => exact h
  | cons r rs ih =>
    unfold State.tstRows
    split
    · next e => exact ih (h.store.of_eq e)
    · next e => exact h.store.of_eq e

theorem State.Canonical.tstFault {c : Nat} {x : Tile} {addr : Nat → Nat} {rs : List Nat} : (s.tstFault c x addr rs).1.Canonical := by
  induction rs generalizing s with
  | nil => exact h
  | cons r rs ih =>
    unfold State.tstFault
    split
    · next e => exact ih (h.xlatAll.of_eq e)
    · next e => exact h.xlatAll.of_eq e

theorem State.Canonical.startTld {c : Nat} {e : Entry} {t : TReg} : (s.startTld c e t).Canonical := by
  unfold State.startTld
  dsimp only
  refine .ite ?_ ?_
  · exact h.entryShape
  · split
    · next e => exact (h.modCore.tldRows.of_eq e).entryDone
    · next e => exact (h.modCore.tldRows.of_eq e).tileUndefined.entryFaults

theorem State.Canonical.startTst {c : Nat} {e : Entry} {t : TReg} : (s.startTst c e t).Canonical := by
  unfold State.startTst
  dsimp only
  refine .ite ?_ ?_
  · exact h.entryShape
  · split
    · next e => exact (h.tstFault.of_eq e).entryDone
    · next e =>
        replace h := h.tstFault.of_eq e
        split
        · next e => exact (h.tstRows.of_eq e).entryFaults
        · next e => exact (h.tstRows.of_eq e).entryDone

theorem State.Canonical.finishTst {c : Nat} {e : Entry} {t : TReg} : (s.finishTst c e t).1.Canonical := h.tstRows

theorem State.Canonical.abandon {c : Nat} {e : Entry} : (s.abandon c e).Canonical := by
  unfold State.abandon
  dsimp only
  refine .ite ?_ ?_
  · exact h
  · split
    · exact h.tileUndefined.modCore
    · exact h.tick.tstRows.modCore
    · exact h

end

end Sys2Proof.Machine

namespace Sys2Proof.Machine

section
variable {s : State} (h : s.Canonical)
include h

/-! ### LinkLayer -/

theorem State.Canonical.pumpPort {n : Nat} {f : Port → Port} : (s.pumpPort n f).Canonical := h.modPort

theorem State.Canonical.relayMsg {from_ n : Nat} {vc : Fin 8} {origin : Word} {m : Msg} : (s.relayMsg from_ n vc origin m).Canonical :=
  h.pumpPort

theorem State.Canonical.putMsg {n : Nat} {vc : Fin 8} {origin : Word} {m : Msg} : (s.putMsg n vc origin m).Canonical := h.relayMsg

theorem State.Canonical.tellNeighbours {from_ : Option Nat} {m : Msg} : (s.tellNeighbours from_ m).Canonical := h.foldl fun _ _ h => h.relayMsg

theorem State.Canonical.toTwin {i : Nat} {m : Msg} : (s.toTwin i m).Canonical := by
  unfold State.toTwin
  split
  · exact h.putMsg
  · exact h

theorem State.Canonical.sendTwin {i : Nat} {r : TwinRec} : (s.sendTwin i r).Canonical := h.toTwin

theorem State.Canonical.tellTwin : s.tellTwin.Canonical := h.foldl fun _ _ h => h.putMsg

/-! ### Sync -/

theorem State.Canonical.finishSy {c : Nat} {v : Word} : (s.finishSy c v).Canonical := h.modCore

theorem State.Canonical.endWait {p : Nat} {w : Waiter} {status : Code} : (s.endWait p w status).Canonical := by
  unfold State.endWait
  dsimp only
  split
  · refine .finishSy (.ite ?_ (.ite ?_ (.ite ?_ ?_)))
    · exact (State.Canonical.ite h.modPart.modPart (State.Canonical.ite h.modPart.modPart h.modPart)).modPart
    · exact h.modPart.modPart
    · exact h.modPart.modPart
    · exact h.modPart
  · exact (State.Canonical.ite h.modPart.modPart (State.Canonical.ite h.modPart.modPart h.modPart)).complete

theorem State.Canonical.release {p : Nat} {dev : BitVec 16} {ws : List Waiter} : (s.release p dev ws).Canonical := by
  unfold State.release
  dsimp only
  refine State.Canonical.foldl h fun t a h => ?_
  split
  · exact h.endWait
  · exact .ite (.ite h h.photo) (State.Canonical.ite h h.photo).endWait

theorem State.Canonical.xlatUnits {p : Nat} {rs : List Nat} : (s.xlatUnits p rs).1.Canonical := by
  induction rs generalizing s with
  | nil => exact h
  | cons r rs ih =>
    unfold State.xlatUnits
    split
    · next e => exact h.xlat.of_eq e
    · next e =>
        replace h := h.xlat.of_eq e
        refine .ite_fst ?_ ?_
        · exact h
        · split
          · next e => exact (ih h).of_eq e
          · next e => exact (ih h).of_eq e

theorem State.Canonical.refuseGen {p : Nat} {status : Code} : (s.refuseGen p status).Canonical := by
  unfold State.refuseGen
  dsimp only
  exact h.modPart.log

theorem State.Canonical.sharesYield {p : Nat} : (s.sharesYield p).Canonical := .ite h (h.foldl fun _ _ h => h.yielded)

theorem State.Canonical.startGen {p : Nat} {step : Word} {window : Option Word} : (s.startGen p step window).Canonical := by
  unfold State.startGen
  dsimp only
  refine .ite ?_ ?_
  · exact h.refuseGen
  · split
    · next e => exact (h.ctxRead.of_eq e).refuseGen
    · next e =>
        replace h := h.ctxRead.of_eq e
        split
        · next e => exact (h.xlatUnits.of_eq e).refuseGen
        · next e =>
            replace h := h.xlatUnits.of_eq e
            exact .ite h.refuseGen h.tick.modPart.bumpTwin.sendTwin.sharesYield

theorem State.Canonical.trigger {p : Nat} {b0 b : Word} : (s.trigger p b0 b).Canonical :=
  .ite h (.ite h (.ite h.bumpTwin (.ite h.bumpTwin h.startGen)))

theorem State.Canonical.replayVerify {p : Nat} : (s.replayVerify p).Canonical := by
  unfold State.replayVerify
  dsimp only
  refine .ite ?_ ?_
  · split
    · next e => exact (h.ctxRead.of_eq e).modPart
    · next e => exact (h.ctxRead.of_eq e).modPart
  · exact h

theorem State.Canonical.increment {p n : Nat} {v : Word} {dev : BitVec 16} : (s.increment p n v dev).Canonical := by
  unfold State.increment
  dsimp only
  refine .ite ?_ (.ite ?_ ?_)
  · refine .replayVerify (.ite ?_ ?_)
    · exact (State.Canonical.ite h.modPart.modPart h.modPart).photoEvent.release.trigger
    · exact (State.Canonical.ite h.modPart.modPart h.modPart).photoEvent.release
  · exact (State.Canonical.ite h.modPart.modPart h.modPart).photoEvent.release.trigger
  · exact (State.Canonical.ite h.modPart.modPart h.modPart).photoEvent.release

theorem State.Canonical.incrementParked {p n : Nat} {v : Word} : (s.incrementParked p n v).Canonical := by
  unfold State.incrementParked
  dsimp only
  split
  · exact h
  · exact (State.Canonical.ite h.modPart.modPart h.modPart).modPart

theorem State.Canonical.lapComplete {p n : Nat} {dev : BitVec 16} {fuel : Nat} : (s.lapComplete p n dev fuel).Canonical := by
  induction fuel generalizing s with
  | zero => exact h
  | succ fuel ih =>
    unfold State.lapComplete
    dsimp only
    exact .ite h (ih h.release.modPart)

theorem State.Canonical.barConfig {p n : Nat} {count : BitVec 16} : (s.barConfig p n count).1.Canonical := .ite_fst h h.modPart.pair

/-! ### Transport -/

theorem State.Canonical.photoRecord {r : Record} : (s.photoRecord r).Canonical := h.photo

theorem State.Canonical.putOnPort {n : Nat} {vc : Fin 8} {r : Record} : (s.putOnPort n vc r).Canonical := h.putMsg

theorem State.Canonical.depart {x : Exit} {r : Record} : (s.depart x r).Canonical := by
  unfold State.depart
  dsimp only
  refine .ite ?_ ?_
  · exact h.withHolds
  · split
    · exact h.putOnPort
    · exact h.withHolds

theorem State.Canonical.post {r : Record} {from_ : Option (Nat × Nat)} {j : Nat} : (s.post r from_ j).Canonical := by
  unfold State.post
  refine .ite ?_ ?_
  · exact h.withLoopback
  · split
    · exact h.depart
    · exact h

theorem State.Canonical.transmit {r : Record} {from_ : Option (Nat × Nat)} {j : Nat} : (s.transmit r from_ j).Canonical := by
  unfold State.transmit
  refine .ite ?_ ?_
  · exact h.withLoopback
  · split
    · exact h.depart
    · exact .ite h h.post

theorem State.Canonical.newXfer {lg : Nat} {sy : Bool} {dst : BitVec 16} : (s.newXfer lg sy dst).1.Canonical := h.withOutFlows

theorem State.Canonical.issue {r : Record} : (s.issue r).1.Canonical := h.withOutFlows.transmit

theorem State.Canonical.setInFlow {r : Record} {f : InFlow} : (s.setInFlow r f).Canonical := h.withInFlows

theorem State.Canonical.remoteInc {dev : BitVec 16} {src p : PartId} {context : BitVec 16} {stamp : Word} {n : Nat} {v : Word} :
    (s.remoteInc dev src p context stamp n v).1.Canonical := by
  unfold State.remoteInc
  dsimp only
  refine .ite_fst ?_ (.ite_fst ?_ (.ite_fst ?_ (.ite_fst ?_ (.ite_fst ?_ (.ite_fst ?_ ?_)))))
  · exact h.modPart.pair
  · exact h.modPart.pair
  · exact h.modPart.pair
  · exact h
  · exact h.modPart.increment
  · exact h.incrementParked
  · exact h

theorem State.Canonical.signalInc {r : Record} {v : Word} : (s.signalInc r v).1.Canonical := .ite_fst h h.remoteInc

/-! ### Tensor -/

theorem State.Canonical.readElem {c : Nat} {d : Desc} {i : Index} {w : Nat} : (s.readElem c d i w).1.Canonical := .ite_fst h.load h

theorem State.Canonical.moveElem {c : Nat} {src dst : Desc} {w : Nat} {p : Index × Index} {m : Moved} :
    (s.moveElem c src dst w p m).1.Canonical := by
  unfold State.moveElem
  dsimp only
  split
  · next e => exact h.readElem.of_eq e
  · next e =>
      replace h := h.readElem.of_eq e
      refine .ite_fst ?_ ?_
      · split
        · next e => exact h.store.of_eq e
        · next e => exact h.store.of_eq e
      · exact h

theorem State.Canonical.moveElems {c : Nat} {src dst : Desc} {w : Nat} {f : Nat → Index × Index} {rs : List Nat} {m : Moved} :
    (s.moveElems c src dst w f rs m).1.Canonical := by
  induction rs generalizing s m with
  | nil => exact h
  | cons r rs ih =>
    unfold State.moveElems
    split
    · next e => exact ih (h.moveElem.of_eq e)
    · exact h.moveElem

theorem State.Canonical.undefOverlap {c : Nat} {m : Moved} : (s.undefOverlap c m).Canonical := h.foldl fun _ _ h => h.tick.store

omit h in
theorem State.Canonical.moveEnds {s₀ : State} {c : Nat} {e : Entry} {r : State × Moved × MoveFault} (h : r.1.Canonical) :
    (s₀.moveEnds c e r).Canonical := by
  unfold State.moveEnds
  dsimp only
  split
  · exact h.undefOverlap.entryFaults
  · exact h.undefOverlap.modCore.entryDone

theorem State.Canonical.startDld {c : Nat} {e : Entry} {d : DReg} : (s.startDld c e d).Canonical := by
  unfold State.startDld
  split
  · next e => exact (h.load.of_eq e).entryFaults
  · next e => exact (h.load.of_eq e).modCore.entryDone

theorem State.Canonical.startDst {c : Nat} {e : Entry} {d : DReg} : (s.startDst c e d).Canonical := by
  unfold State.startDst
  split
  · next e => exact (h.store.of_eq e).entryDone
  · next e => exact (h.store.of_eq e).entryFaults

theorem State.Canonical.startDset {c : Nat} {e : Entry} {d : DReg} {word : BitVec 3} : (s.startDset c e d word).Canonical := h.modCore.entryDone

theorem State.Canonical.startCopy {c : Nat} {e : Entry} {dd ds : DReg} {xpose : Bool} : (s.startCopy c e dd ds xpose).Canonical :=
  State.Canonical.moveEnds (s₀ := s) h.moveElems

theorem State.Canonical.entryCoords {c : Nat} {di : Desc} {k m : Nat} {rs : List Nat} {acc : List Nat} {m' : Moved} :
    (s.entryCoords c di k m rs acc m').1.Canonical := by
  induction rs generalizing s acc m' with
  | nil => exact h
  | cons r rs ih =>
    unfold State.entryCoords
    dsimp only
    refine .ite_fst ?_ ?_
    · exact ih h
    · split
      · next e => exact h.readElem.of_eq e
      · next e => exact ih (h.readElem.of_eq e)

theorem State.Canonical.moveBlocks {c : Nat} {src dst di : Desc} {gather : Bool} {rs : List Nat} {k : Nat} {m : Moved} :
    (s.moveBlocks c src dst di gather rs k m).1.Canonical := by
  induction rs generalizing s k m with
  | nil => exact h
  | cons r rs ih =>
    unfold State.moveBlocks
    dsimp only
    split
    · next e => exact h.entryCoords.of_eq e
    · next e =>
        replace h := h.entryCoords.of_eq e
        split
        · next e =>
            replace h := h.moveElems.of_eq e
            refine .ite_fst ?_ ?_
            · exact h
            · exact ih h
        · exact h.moveElems

theorem State.Canonical.startBlocks {c : Nat} {e : Entry} {dd ds di : DReg} {gather : Bool} :
    (s.startBlocks c e dd ds di gather).Canonical :=
  State.Canonical.moveEnds (s₀ := s) h.moveBlocks

theorem State.Canonical.xferEnds {c : Nat} {e : Entry} {sd : SReg} {status : Code} : (s.xferEnds c e sd status).Canonical := h.modCore.entryDone

theorem State.Canonical.issueFor {x : Xfer} {r : Record} : (s.issueFor x r).1.Canonical := h.issue

theorem State.Canonical.gatherLocal {c : Nat} {src rem : Desc} {rs : List Nat} {bs : List Byte} :
    (s.gatherLocal c src rem rs bs).1.Canonical := by
  induction rs generalizing s bs with
  | nil => exact h
  | cons r rs ih =>
    unfold State.gatherLocal
    split
    · next e => exact h.readElem.of_eq e
    · next e => exact ih (h.readElem.of_eq e)

theorem State.Canonical.nextWrite {c : Nat} {d : DReg} {x : Xfer} : (s.nextWrite c d x).1.Canonical := h.gatherLocal

theorem State.Canonical.issueMore {c : Nat} {d : DReg} {fuel : Nat} {x : Xfer} : (s.issueMore c d fuel x).1.Canonical := by
  induction fuel generalizing s x with
  | zero => exact h
  | succ fuel ih =>
    unfold State.issueMore
    dsimp only
    refine .ite_fst ?_ (.ite_fst ?_ (.ite_fst ?_ ?_))
    · exact h
    · split
      · exact (State.Canonical.ite_fst h.nextWrite h.pair).pair
      · exact ih (State.Canonical.ite_fst h.nextWrite h.pair).issueFor
    · exact h.issueFor.pair
    · exact h

theorem State.Canonical.startRemote {c : Nat} {e : Entry} {d : DReg} {b : BReg} {sig : Bool} {sd : SReg} {put_ : Bool} :
    (s.startRemote c e d b sig sd put_).Canonical := by
  unfold State.startRemote
  dsimp only
  split
  · exact h.xferEnds
  · refine .ite ?_ (.ite ?_ (.ite ?_ ?_))
    · exact h.modCore.entryRuns
    · exact h.xferEnds
    · exact h.xferEnds
    · exact (State.Canonical.ite_fst h.newXfer.issueFor h.newXfer.issueMore.pair).modCore.entryRuns

theorem State.Canonical.xferStep {c : Nat} {e : Entry} {d : DReg} {sd : SReg} {x : Xfer} : (s.xferStep c e d sd x).Canonical := by
  unfold State.xferStep
  split
  · next e => exact (h.issueMore.of_eq e).modCore.entryFaults
  · next e => exact .ite (h.issueMore.of_eq e).xferEnds (h.issueMore.of_eq e).modCore

theorem State.Canonical.rputRecord {c : Nat} {e : Entry} {ds : DReg} {sd : SReg} {x : Xfer} {data : List Byte} :
    (s.rputRecord c e ds sd x data).Canonical := h.xferStep

theorem State.Canonical.scatterLocal {c : Nat} {dst : Desc} {w : Nat} {rs : List Nat} {bs : List Byte} :
    (s.scatterLocal c dst w rs bs).1.Canonical := by
  induction rs generalizing s bs with
  | nil => exact h
  | cons r rs ih =>
    unfold State.scatterLocal
    split
    · next e => exact ih (h.store.of_eq e)
    · next e => exact h.store.of_eq e

theorem State.Canonical.rgetData {c : Nat} {e : Entry} {dd : DReg} {sd : SReg} {x : Xfer} {r : Record} :
    (s.rgetData c e dd sd x r).Canonical := by
  unfold State.rgetData
  dsimp only
  refine .ite ?_ ?_
  · exact h.xferEnds
  · split
    · next e => exact (h.scatterLocal.of_eq e).modCore.entryFaults
    · next e => exact (h.scatterLocal.of_eq e).xferStep

theorem State.Canonical.answerTm {c : Nat} {r : Record} : (s.answerTm c r).Canonical := by
  unfold State.answerTm
  dsimp only
  split
  · exact h
  · refine .ite ?_ (.ite (.ite ?_ ?_) (.ite ?_ ?_))
    · exact h
    · exact h.xferEnds
    · exact h
    · exact h
    · split
      · split
        · exact .ite h.xferEnds h.rputRecord
        · exact h.rgetData
        · exact h
      · exact h.xferStep
      · exact h

theorem State.Canonical.transferGoesOn {c : Nat} : (s.transferGoesOn c).Canonical := by
  unfold State.transferGoesOn
  split
  · exact .ite h.xferStep h
  · exact h

theorem State.Canonical.xferTimeout {c : Nat} : (s.xferTimeout c).Canonical := by
  unfold State.xferTimeout
  split
  · exact h
  · exact h.xferEnds

theorem State.Canonical.targetRead {p a n : Nat} : (s.targetRead p a n).1.Canonical := by
  unfold State.targetRead
  split
  · next e => exact h.ctxRead.of_eq e
  · next e => exact h.ctxRead.of_eq e

theorem State.Canonical.targetElems {p : Nat} {rem shape : Desc} {rs : List Nat} {bs : List Byte} :
    (s.targetElems p rem shape rs bs).1.Canonical := by
  induction rs generalizing s bs with
  | nil => exact h
  | cons r rs ih =>
    unfold State.targetElems
    dsimp only
    refine .ite_fst ?_ ?_
    · split
      · next e => exact ih (h.targetRead.of_eq e)
      · exact h.targetRead
    · exact ih h

theorem State.Canonical.targetWrites {p : Nat} {rem : Desc} {w : Nat} {poison : Bool} {rs : List Nat} {bs : List Byte} :
    (s.targetWrites p rem w poison rs bs).1.Canonical := by
  induction rs generalizing s bs with
  | nil => exact h
  | cons r rs ih =>
    unfold State.targetWrites
    split
    · next e => exact ih (h.ctxWrite.of_eq e)
    · next e => exact h.ctxWrite.of_eq e

theorem State.Canonical.remoteRecord {r : Record} : (s.remoteRecord r).1.Canonical := by
  unfold State.remoteRecord
  split
  · exact h
  · split
    · next e => exact h.targetRead.of_eq e
    · next e => exact h.targetRead.of_eq e

theorem State.Canonical.serveRead {r : Record} : (s.serveRead r).1.Canonical := by
  unfold State.serveRead
  dsimp only
  split
  · next e => exact h.remoteRecord.of_eq e
  · next e =>
      replace h := h.remoteRecord.of_eq e
      refine .ite_fst ?_ ?_
      · exact h
      · exact h.targetElems.pair

theorem State.Canonical.serveWrite {r : Record} : (s.serveWrite r).1.Canonical := by
  unfold State.serveWrite
  dsimp only
  split
  · next e => exact h.remoteRecord.of_eq e
  · next e => exact (h.remoteRecord.of_eq e).targetWrites

theorem State.Canonical.serveEnds {r : Record} {j : Nat} {type : RecType} {status : Code} {data : List Byte} {desc : Option (BitVec 512)} :
    (s.serveEnds r j type status data desc).Canonical := h.setInFlow.transmit

theorem State.Canonical.serveRequest {r : Record} {j : Nat} : (s.serveRequest r j).Canonical := by
  unfold State.serveRequest
  dsimp only
  split
  · refine .ite ?_ ?_
    · exact (State.Canonical.ite_fst (State.Canonical.ite_fst h.remoteInc h.signalInc) h.pair).serveEnds
    · exact (State.Canonical.ite_fst (State.Canonical.ite_fst h.remoteInc h.signalInc) h.pair).serveEnds
  · split
    · exact h.serveEnds
    · split
      · next e => exact (h.serveRead.of_eq e).serveEnds
      · next e => exact (h.serveRead.of_eq e).serveEnds
  · split
    · exact h.serveEnds
    · split
      · next e => exact (h.serveWrite.of_eq e).serveEnds
      · next e => exact (h.serveWrite.of_eq e).serveEnds
  · split
    · exact h.serveEnds
    · split
      · next e => exact (h.serveWrite.of_eq e).serveEnds
      · next e => exact (h.serveWrite.of_eq e).serveEnds
  · exact h

theorem State.Canonical.serve {r : Record} {j : Nat} : (s.serve r j).Canonical := by
  unfold State.serve
  split
  · exact h.serveRequest
  · exact h.serveEnds
  · exact h.setInFlow

theorem State.Canonical.ingestGo {c : Nat} {ds dd : Desc} {code : BitVec 9} {fuel : Nat} {k : Nat} {bs : List Byte} :
    (s.ingestGo c ds dd code fuel k bs).1.Canonical := by
  induction fuel generalizing s k bs with
  | zero => exact h
  | succ fuel ih =>
    unfold State.ingestGo
    dsimp only
    refine .ite_fst ?_ ?_
    · exact h
    · split
      · next e => exact ih (h.store.of_eq e)
      · next e => exact h.store.of_eq e

theorem State.Canonical.ingestData {c : Nat} {e : Entry} {dd ds : DReg} {sd : SReg} {x : Xfer} {data : List Byte} :
    (s.ingestData c e dd ds sd x data).Canonical := by
  unfold State.ingestData
  dsimp only
  split
  · next e => exact (h.ingestGo.of_eq e).modCore.entryFaults
  · next e =>
      replace h := h.ingestGo.of_eq e
      exact .ite h.xferEnds (State.Canonical.ite h.xferEnds h.modCore)

theorem State.Canonical.startIngest {c : Nat} {e : Entry} {dd ds : DReg} {xfs : Bool} {xf : BitVec 9} {sd : SReg} :
    (s.startIngest c e dd ds xfs xf sd).Canonical := .ite h.entryShape h.entryRuns.ingestData

/-! ### SyncEng -/

theorem State.Canonical.syDone {c : Nat} {e : Entry} {v : Word} : (s.syDone c e v).Canonical := h.entryRuns.finishSy

theorem State.Canonical.startBind {c : Nat} {e : Entry} {b : BReg} : (s.startBind c e b).Canonical := h.modCore.entryDone

theorem State.Canonical.deliverSync {m : SyncMsg} : (s.deliverSync m).Canonical := by
  unfold State.deliverSync
  dsimp only
  refine .ite ?_ ?_
  · refine State.Canonical.foldl h fun t a h => ?_
    split
    · exact (State.Canonical.ite h.modPart h).finishSy
    · exact h.modPart.finishSy
    · exact h.modPart.lapComplete
  · exact h.modPart.increment.foldl fun _ _ h => h.finishSy

theorem State.Canonical.sendSync {c : Nat} : (s.sendSync c).Canonical := by
  unfold State.sendSync
  split
  · exact h
  · exact h.modDie.deliverSync

theorem State.Canonical.syncArrives {p : Nat} : (s.syncArrives p).Canonical := by
  unfold State.syncArrives
  refine State.Canonical.foldl h fun t a h => ?_
  split
  · exact h
  · exact h.modDie.foldl fun _ _ h => h.deliverSync

theorem State.Canonical.syncLost {p : Nat} {adds : Bool} : (s.syncLost p adds).Canonical := by
  unfold State.syncLost
  dsimp only
  refine State.Canonical.foldl h fun t a h => ?_
  split
  · exact h
  · exact h.modDie.foldl fun _ _ h => h.modPart.finishSy

theorem State.Canonical.combine {c : Nat} {m : SyncMsg} : (s.combine c m).Canonical := by
  unfold State.combine
  dsimp only
  split
  · exact h.modDie
  · refine .ite ?_ ?_
    · exact h.tick.modDie
    · split
      · exact h.tick
      · exact h.tick.modDie.deliverSync.modDie

theorem State.Canonical.startAdd {c : Nat} {e : Entry} {b : BReg} : (s.startAdd c e b).Canonical := by
  unfold State.startAdd
  dsimp only
  split
  · exact h.syDone
  · refine .ite (.ite ?_ ?_) (.ite ?_ (.ite ?_ ?_))
    · exact h.modCore.entryRuns
    · exact h.newXfer.issueFor.modCore.entryRuns
    · exact h.syDone
    · exact h.entryRuns.combine
    · exact h.entryRuns.modPart.increment.finishSy

theorem State.Canonical.addWaiter {p : Nat} {w : Waiter} : (s.addWaiter p w).Canonical := h.modPart

theorem State.Canonical.startWait {c : Nat} {e : Entry} {b : BReg} : (s.startWait c e b).Canonical := by
  unfold State.startWait
  dsimp only
  split
  · exact h.syDone
  · exact .ite h.syDone (State.Canonical.ite h.modPart.syDone h.addWaiter.entryRuns)

theorem State.Canonical.startRead {c : Nat} {e : Entry} {b : BReg} : (s.startRead c e b).Canonical := by
  unfold State.startRead
  split
  · exact h.syDone
  · exact .ite h.syDone h.syDone

theorem State.Canonical.startBar {c : Nat} {e : Entry} {bar : BitVec 10} : (s.startBar c e bar).Canonical := by
  unfold State.startBar
  dsimp only
  refine .ite ?_ (.ite ?_ ?_)
  · exact h.syDone
  · exact h.entryRuns.combine
  · split
    · exact (State.Canonical.ite h.modPart h).syDone
    · exact h.modPart.syDone
    · exact h.modPart.addWaiter.entryRuns.lapComplete

theorem State.Canonical.startBarcfg {c : Nat} {e : Entry} {bar : BitVec 10} : (s.startBarcfg c e bar).Canonical :=
  .ite h.syDone h.barConfig.syDone

theorem State.Canonical.incEnds {c : Nat} {status : Code} : (s.incEnds c status).Canonical := h.modCore.finishSy

theorem State.Canonical.answerSy {c : Nat} {r : Record} : (s.answerSy c r).Canonical := by
  unfold State.answerSy
  split
  · exact h
  · refine .ite ?_ ?_
    · exact h
    · split
      · exact .ite h h.incEnds
      · exact h.incEnds
      · exact h

/-! ### Matrix -/

theorem State.Canonical.startArray {c : Nat} {e : Entry} : (s.startArray c e).Canonical := .ite h.entryShape h.setCore.entryRuns

theorem State.Canonical.startLdb {c : Nat} {e : Entry} {b : TReg} {tp split : Bool} : (s.startLdb c e b tp split).Canonical :=
  .ite h.entryShape (.ite h.entryDone (.ite h.entryRuns h.setCore.entryRuns))

theorem State.Canonical.mstRows {c : Nat} {addr : Nat → Nat} {row : Nat → List Byte} {rs : List Nat} : (s.mstRows c addr row rs).1.Canonical := by
  induction rs generalizing s with
  | nil => exact h
  | cons r rs ih =>
    unfold State.mstRows
    split
    · next e => exact ih (h.store.of_eq e)
    · next e => exact h.store.of_eq e

theorem State.Canonical.startMst {c : Nat} {e : Entry} {base : BitVec 10} {rows : BitVec 11} {col16 : BitVec 5} {cols16 : BitVec 6}
    {fmt : BitVec 4} {rnd xpose : Bool} :
    (s.startMst c e base rows col16 cols16 fmt rnd xpose).Canonical := by
  unfold State.startMst
  dsimp only
  refine .ite ?_ ?_
  · exact h.entryShape
  · split
    · next e => exact (h.mstRows.of_eq e).entryRuns
    · next e => exact (h.mstRows.of_eq e).entryFaults

/-! ### Vector -/

theorem State.Canonical.startVec {c : Nat} {e : Entry} {f : VecFn} {v : VecOps} : (s.startVec c e f v).Canonical :=
  .ite h.entryShape h.setCore.entryDone

theorem State.Canonical.startAct {c : Nat} {e : Entry} {d s1 : VSel} {rnd : Bool} {slot : BitVec 5} {w0 w1 : Window} :
    (s.startAct c e d s1 rnd slot w0 w1).Canonical := by
  unfold State.startAct
  dsimp only
  refine .ite ?_ ?_
  · exact h.entryShape
  · split
    · exact h.entryFaults
    · exact h.setCore.entryDone

theorem State.Canonical.startActd {c : Nat} {e : Entry} {d g x : VSel} {rnd : Bool} {pair : BitVec 4} {w0 w1 : Window} :
    (s.startActd c e d g x rnd pair w0 w1).Canonical := by
  unfold State.startActd
  dsimp only
  refine .ite ?_ ?_
  · exact h.entryShape
  · split
    · exact h.entryFaults
    · exact h.setCore.entryDone

theorem State.Canonical.startFn {c : Nat} {e : Entry} {f : FixFn} {d s1 : VSel} {rnd : Bool} {w0 w1 : Window} :
    (s.startFn c e f d s1 rnd w0 w1).Canonical := .ite h.entryShape h.setCore.entryDone

theorem State.Canonical.startRand {c : Nat} {e : Entry} {d : VSel} {w0 w1 : Window} : (s.startRand c e d w0 w1).Canonical :=
  .ite h.entryShape h.setCore.entryDone

theorem State.Canonical.startTload {c : Nat} {e : Entry} {slot : BitVec 5} : (s.startTload c e slot).Canonical := by
  unfold State.startTload
  dsimp only
  split
  · next e => exact (h.load.of_eq e).modCore.entryFaults
  · next e => exact .ite (h.load.of_eq e).modCore.entryDone (h.load.of_eq e).modCore.entryShape

theorem State.Canonical.startVseed {c : Nat} {e : Entry} : (s.startVseed c e).Canonical := h.modCore.entryDone

theorem State.Canonical.stream {c : Nat} {a : Word} {f : BitVec 4} {n : Nat} : (s.stream c a f n).1.Canonical := by
  unfold State.stream
  split
  · next e => exact h.load.of_eq e
  · next e => exact h.load.of_eq e

theorem State.Canonical.streams {c n : Nat} {rs : List (Word × BitVec 4)} : (s.streams c n rs).1.Canonical := by
  induction rs generalizing s with
  | nil => exact h
  | cons r rs ih =>
    unfold State.streams
    split
    · next e => exact h.stream.of_eq e
    · next e =>
        replace h := h.stream.of_eq e
        split
        · next e => exact (ih h).of_eq e
        · exact ih h

theorem State.Canonical.storePieces {c : Nat} {rs : List (Nat × Nat)} {bs : List Byte} : (s.storePieces c rs bs).1.Canonical := by
  induction rs generalizing s bs with
  | nil => exact h
  | cons r rs ih =>
    unfold State.storePieces
    split
    · next e => exact ih (h.store.of_eq e)
    · next e => exact h.store.of_eq e

theorem State.Canonical.storeSeq {c : Nat} {a : Word} {bs : List Byte} : (s.storeSeq c a bs).1.Canonical := h.storePieces

theorem State.Canonical.storeRows {c : Nat} {rs : List (Word × List Byte)} : (s.storeRows c rs).1.Canonical := by
  induction rs generalizing s with
  | nil => exact h
  | cons r rs ih =>
    unfold State.storeRows
    split
    · next e => exact ih (h.storeSeq.of_eq e)
    · exact h.storeSeq

theorem State.Canonical.startRow {c : Nat} {e : Entry} {f : RowFn} {r : RowOps} : (s.startRow c e f r).Canonical := by
  unfold State.startRow
  dsimp only
  refine .ite ?_ ?_
  · exact h.entryShape
  · split
    · next e => exact (h.streams.of_eq e).entryFaults
    · next e =>
        replace h := h.streams.of_eq e
        split
        · next e => exact (h.storeRows.of_eq e).entryFaults
        · next e => exact (h.storeRows.of_eq e).modCore.entryDone

/-! ### Update -/

theorem State.Canonical.readShard {c : Nat} {table : Word} {i : Nat} : (s.readShard c table i).1.Canonical := by
  unfold State.readShard
  split
  · next e => exact h.load.of_eq e
  · next e => exact h.load.of_eq e

theorem State.Canonical.readMask {c : Nat} {hd : Shard} : (s.readMask c hd).1.Canonical := .ite_fst h h.load

theorem State.Canonical.readRegion {c : Nat} {hd : Shard} {base : Nat} {f : BitVec 4} {r : Nat} : (s.readRegion c hd base f r).1.Canonical := by
  unfold State.readRegion
  dsimp only
  split
  · next e => exact h.load.of_eq e
  · next e => exact h.load.of_eq e

theorem State.Canonical.sqRegions {c : Nat} {hd : Shard} {mask : List Byte} {rs : List Nat} {acc : Num} :
    (s.sqRegions c hd mask rs acc).1.Canonical := by
  induction rs generalizing s acc with
  | nil => exact h
  | cons r rs ih =>
    unfold State.sqRegions
    refine .ite_fst ?_ ?_
    · exact ih h
    · split
      · next e => exact ih (h.readRegion.of_eq e)
      · next e => exact h.readRegion.of_eq e

theorem State.Canonical.sqShards {c : Nat} {table : Word} {rs : List Nat} {acc : Num} : (s.sqShards c table rs acc).1.Canonical := by
  induction rs generalizing s acc with
  | nil => exact h
  | cons r rs ih =>
    unfold State.sqShards
    split
    · next e => exact h.readShard.of_eq e
    · next e =>
        replace h := h.readShard.of_eq e
        refine .ite_fst ?_ ?_
        · exact ih h
        · split
          · next e => exact h.readMask.of_eq e
          · next e =>
              replace h := h.readMask.of_eq e
              split
              · next e => exact ih (h.sqRegions.of_eq e)
              · exact h.sqRegions

theorem State.Canonical.cellTarget {c a : Nat} : (s.cellTarget c a).1.Canonical := by
  unfold State.cellTarget
  dsimp only
  refine .ite_fst ?_ ?_
  · exact h
  · split
    · next e =>
        replace h := h.xlatAll.of_eq e
        split
        · exact h
        · exact h
    · next e => exact h.xlatAll.of_eq e

theorem State.Canonical.sendNorm {c : Nat} {ds : List (Nat × Nat)} {v : F32} : (s.sendNorm c ds v).Canonical := by
  unfold State.sendNorm
  dsimp only
  split
  · exact h
  · exact .ite h.devWrite h.writePieces

theorem State.Canonical.modUp {c : Nat} {f : UpState → UpState} : (s.modUp c f).Canonical := h.modCore

theorem State.Canonical.upFaults {c : Nat} {e : Entry} {status : Code} {addr : Option Nat} : (s.upFaults c e status addr).Canonical :=
  h.modUp.entryFaults

theorem State.Canonical.startUpsq {c : Nat} {e : Entry} {sd : SReg} {reduce : Bool} : (s.startUpsq c e sd reduce).Canonical := by
  unfold State.startUpsq
  dsimp only
  split
  · next e => exact ((State.Canonical.ite_fst h.modUp.cellTarget h.modUp.pair).of_eq e).upFaults
  · next e =>
      replace h := (State.Canonical.ite_fst h.modUp.cellTarget h.modUp.pair).of_eq e
      split
      · next e => exact (h.sqShards.of_eq e).upFaults
      · next e => exact (State.Canonical.ite (h.sqShards.of_eq e).sendNorm (h.sqShards.of_eq e)).modUp.entryDone

theorem State.Canonical.upWriteGo {c : Nat} {rs : List (Nat × List Byte)} : (s.upWriteGo c rs).1.Canonical := by
  induction rs generalizing s with
  | nil => exact h
  | cons r rs ih =>
    unfold State.upWriteGo
    split
    · exact h.modUp.pair
    · split
      · next e => exact ih (h.store.of_eq e)
      · next e => exact h.store.of_eq e

theorem State.Canonical.upWrite {c : Nat} {ws : List (Nat × List Byte)} : (s.upWrite c ws).1.Canonical := by
  unfold State.upWrite
  dsimp only
  split
  · next e => exact h.xlatAll.of_eq e
  · next e =>
      replace h := h.xlatAll.of_eq e
      split
      · exact h
      · exact h.upWriteGo

theorem State.Canonical.upCount {c i n : Nat} : (s.upCount c i n).Canonical := h.modUp

theorem State.Canonical.upRegions {c : Nat} {u : UpPar} {cf : F32} {hd : Shard} {mask : List Byte} {rs : List Nat} :
    (s.upRegions c u cf hd mask rs).1.Canonical := by
  induction rs generalizing s with
  | nil => exact h
  | cons r rs ih =>
    unfold State.upRegions
    dsimp only
    refine .ite_fst ?_ ?_
    · split
      · next e => exact ih (h.modUp.upWrite.of_eq e).upCount
      · next e => exact h.modUp.upWrite.of_eq e
    · split
      · next e => exact h.modUp.readRegion.of_eq e
      · next e =>
          replace h := h.modUp.readRegion.of_eq e
          split
          · next e => exact h.readRegion.of_eq e
          · next e =>
              replace h := h.readRegion.of_eq e
              split
              · next e => exact h.readRegion.of_eq e
              · next e =>
                  replace h := h.readRegion.of_eq e
                  split
                  · next e => exact ih (h.upWrite.of_eq e)
                  · exact h.upWrite

theorem State.Canonical.upShard {c : Nat} {u : UpPar} {hd : Shard} : (s.upShard c u hd).1.Canonical := by
  unfold State.upShard
  dsimp only
  refine .ite_fst ?_ (.ite_fst ?_ (.ite_fst ?_ ?_))
  · split
    · next e => exact h.upWrite.of_eq e
    · next e => exact h.upWrite.of_eq e
  · exact h.upCount
  · split
    · next e => exact (h.upWrite.of_eq e).upCount
    · next e => exact h.upWrite.of_eq e
  · split
    · split
      · next e => exact (h.upWrite.of_eq e).upCount
      · next e => exact h.upWrite.of_eq e
    · split
      · next e => exact h.readMask.of_eq e
      · next e =>
          replace h := h.readMask.of_eq e
          refine .ite_fst ?_ ?_
          · exact h.upWrite.pair
          · split
            · next e =>
                replace h := h.upRegions.of_eq e
                split
                · next e => exact (h.upWrite.of_eq e).upCount
                · next e => exact h.upWrite.of_eq e
            · next e => exact h.upRegions.of_eq e

theorem State.Canonical.freeRun {c : Nat} {run : Nat × Nat} : (s.freeRun c run).Canonical := h.writePieces.ticks

theorem State.Canonical.spoilPlace {c : Nat} {x : ShardPlace} : (s.spoilPlace c x).Canonical := by
  unfold State.spoilPlace
  refine State.Canonical.foldl h fun t a h => ?_
  split
  · exact h.freeRun
  · exact h

theorem State.Canonical.spoilShared {c a : Nat} {x : ShardPlace} : (s.spoilShared c a x).Canonical := h.spoilPlace.modCores

theorem State.Canonical.spoilMoved {c : Nat} {r : UpResume} {moved : List Nat} : (s.spoilMoved c r moved).Canonical := by
  unfold State.spoilMoved
  refine State.Canonical.foldl h fun t a h => ?_
  split
  · exact h.spoilPlace
  · exact h

theorem State.Canonical.upOne {c : Nat} {u : UpPar} {hd : Shard} : (s.upOne c u hd).1.Canonical := .ite_fst h.spoilShared.tick.pair h.upShard

theorem State.Canonical.upShards {c : Nat} {table : Word} {u : UpPar} {rs : List Nat} {k : Nat} : (s.upShards c table u rs k).1.Canonical := by
  induction rs generalizing s k with
  | nil => exact h
  | cons r rs ih =>
    unfold State.upShards
    dsimp only
    split
    · next e => exact h.modUp.readShard.of_eq e
    · next e =>
        replace h := h.modUp.readShard.of_eq e
        split
        · next e => exact ih (h.upOne.of_eq e)
        · next e => exact h.upOne.of_eq e

theorem State.Canonical.upHolds {c : Nat} {e : Entry} {from_ r : UpResume} : (s.upHolds c e from_ r).Canonical := by
  unfold State.upHolds
  dsimp only
  exact h.modUp.modCore

theorem State.Canonical.upParams {c : Nat} {e : Entry} {from_ : UpResume} : (s.upParams c e from_).1.Canonical := by
  unfold State.upParams
  split
  · exact h
  · split
    · next e => exact h.load.of_eq e
    · next e => exact h.load.of_eq e

theorem State.Canonical.upMoves {c : Nat} {from_ : UpResume} : (s.upMoves c from_).1.Canonical := by
  unfold State.upMoves
  dsimp only
  split
  · exact h
  · exact h.tick.spoilMoved

theorem State.Canonical.runUpstep {c : Nat} {e : Entry} {sd : SReg} {from_ : UpResume} : (s.runUpstep c e sd from_).Canonical := by
  unfold State.runUpstep
  dsimp only
  split
  · next e => exact (h.modUp.upParams.of_eq e).upFaults
  · next e =>
      replace h := h.modUp.upParams.of_eq e
      split
      · next e => exact (h.upMoves.upWriteGo.of_eq e).upHolds
      · next e => exact (h.upMoves.upWriteGo.of_eq e).upFaults
      · next e =>
          replace h := h.upMoves.upWriteGo.of_eq e
          split
          · next e => exact (h.upShards.of_eq e).modUp.entryDone
          · next e => exact (h.upShards.of_eq e).upHolds
          · next e => exact (h.upShards.of_eq e).upFaults

theorem State.Canonical.setShards {c : Nat} {table v : Word} {rs : List Nat} : (s.setShards c table v rs).1.Canonical := by
  induction rs generalizing s with
  | nil => exact h
  | cons r rs ih =>
    unfold State.setShards
    dsimp only
    refine .ite_fst ?_ ?_
    · exact ih h.modUp.spoilShared
    · split
      · next e => exact ih (h.modUp.upWrite.of_eq e)
      · next e => exact h.modUp.upWrite.of_eq e

theorem State.Canonical.runSetstep {c : Nat} {e : Entry} {from_ : UpResume} : (s.runSetstep c e from_).Canonical := by
  unfold State.runSetstep
  dsimp only
  split
  · next e => exact (h.modUp.upMoves.setShards.of_eq e).entryDone
  · next e => exact (h.modUp.upMoves.setShards.of_eq e).upHolds
  · next e => exact (h.modUp.upMoves.setShards.of_eq e).upFaults

theorem State.Canonical.upResume {c : Nat} : (s.upResume c).Canonical := by
  unfold State.upResume
  dsimp only
  split
  · exact h
  · split
    · exact h.upCount.tick.runUpstep
    · exact h.upCount.tick.runSetstep
    · exact h.upCount.tick

/-! ### Engine -/

theorem State.Canonical.startOp {c : Nat} {g : Engine} {e : Entry} : (s.startOp c g e).Canonical := by
  unfold State.startOp
  dsimp only
  split
  · exact h.startArray
  · exact h.startArray
  · exact h.startArray
  · exact h.startArray
  · exact h.startLdb
  · exact h.startMst
  · exact h.modCore.entryDone
  · exact h.modCore.entryDone
  · exact h.startVec
  · exact h.startAct
  · exact h.startActd
  · exact h.startFn
  · exact h.startRand
  · exact h.startTload
  · exact h.startVseed
  · exact h.startRow
  · exact h.startUpsq
  · exact h.runUpstep
  · exact h.runSetstep
  · exact h.startTld
  · exact h.startTld
  · exact h.startTst
  · exact h.startTst
  · exact h.startDld
  · exact h.startDst
  · exact h.startDset
  · exact h.startCopy
  · exact h.startBlocks
  · exact h.startBlocks
  · exact h.startRemote
  · exact h.startRemote
  · exact h.startIngest
  · exact h.startBind
  · exact h.startAdd
  · exact h.startWait
  · exact h.startRead
  · exact h.startBar
  · exact h.startBarcfg
  · exact h

theorem State.Canonical.startOpEcc {c : CoreId} {g : Engine} {e : Entry} {ecc : Ecc} : (s.startOpEcc c g e ecc).Canonical :=
  .ite h.startOp h.spoilRead.startOp.sramError

theorem State.Canonical.execEngineStart {c : CoreId} {g : Engine} {ecc : Ecc} : GoesCanonical (execEngineStart c g ecc s) := by
  unfold Sys2Proof.Machine.execEngineStart
  split
  · exact .next h
  · split
    · exact .next h.startOp
    · exact .next h.startOpEcc

theorem State.Canonical.countVx {c : Nat} {e : Entry} : (s.countVx c e).Canonical := (State.Canonical.ite h.modCore.modUp h.modCore).ticks

theorem State.Canonical.completeAt {c : Nat} {g : Engine} {pos : Nat} {e : Entry} : (s.completeAt c g pos e).Canonical := by
  unfold State.completeAt
  dsimp only
  refine .abortEnds ?_
  split
  · exact h.modCore.countVx
  · exact h.modCore

theorem State.Canonical.execEngineInstructionComplete {c : CoreId} {g : Engine} {pos : Nat} :
    GoesCanonical (execEngineInstructionComplete c g pos s) := by
  unfold Sys2Proof.Machine.execEngineInstructionComplete
  dsimp only
  split
  · exact .next (State.Canonical.ite h.sendSync h)
  · refine .ite ?_ ?_
    · exact .next (State.Canonical.ite h.sendSync h)
    · split
      · exact .next ((State.Canonical.ite h.sendSync h).completeAt)
      · split
        · next e => exact .next (((State.Canonical.ite h.sendSync h).finishTst.of_eq e).completeAt)
        · next e => exact .next (((State.Canonical.ite h.sendSync h).finishTst.of_eq e).modCore.entryFaults)

theorem State.Canonical.execBankWakeComplete {c : CoreId} {bank : Fin 8} : GoesCanonical (execBankWakeComplete c bank s) :=
  .ite (.next h) (.next h.setCore.abortEnds)

theorem State.Canonical.modWorking {c : Nat} {f : Core → Core} : (s.modWorking c f).Canonical := .ite h.modCore h

theorem State.Canonical.execARowRead {c : CoreId} {q : Fin 4} {rivals : List Requester} {ecc : Ecc} :
    GoesCanonical (execARowRead c q rivals ecc s) := by
  unfold Sys2Proof.Machine.execARowRead
  dsimp only
  refine .ite ?_ ?_
  · exact .next h
  · split
    · exact .next h.setCore
    · exact .ite (.next h.setCore) (.next ((State.Canonical.ite h.setCore.spoilTile h.setCore).sramError))

theorem State.Canonical.execBLoadComplete {c : CoreId} {buf : Fin 2} {ecc : Ecc} : GoesCanonical (execBLoadComplete c buf ecc s) :=
  .ite (.next h) (.next ((State.Canonical.ite h.tick.spoilTile h).modCore.sramError))

theorem State.Canonical.mstSpoiled {c : Nat} {e : Entry} : (s.mstSpoiled c e).1.Canonical := by
  unfold State.mstSpoiled
  dsimp only
  split
  · exact h.ticks.spoilAcc.mstRows
  · exact h

theorem State.Canonical.execFusedStoreComplete {c : CoreId} {ecc : Ecc} : GoesCanonical (execFusedStoreComplete c ecc s) := by
  unfold Sys2Proof.Machine.execFusedStoreComplete
  dsimp only
  split
  · exact .next h
  · refine .ite ?_ ?_
    · exact .next h
    · split
      · next e => exact .next (((State.Canonical.ite_fst h.mstSpoiled h.pair).of_eq e).modCore.sramError)
      · next e => exact .next (((State.Canonical.ite_fst h.mstSpoiled h.pair).of_eq e).entryFaults.sramError)

/-! ### Issue -/

/-- An attempt to issue leaves the memories, but for what the instruction itself does. -/
theorem State.Canonical.attempt {c : CoreId} {i : GOp} {act : Nat → State} (hact : ∀ n, (act n).Canonical) :
    GoesCanonical (s.attempt c i act) := by
  obtain ⟨-, e⟩ | e | ⟨m, e⟩ | e | ⟨n, -, e⟩ := s.attempt_cases c i act <;> rw [e]
  · exact .fault
  · exact .next h
  · exact .next h.modCore
  · exact .next h.modCore
  · exact .next (hact n)

theorem State.Canonical.seqFaults {c : CoreId} {engine : BitVec 3} {status : Code} {index : Nat} {addr : Option Nat} :
    (s.seqFaults c engine status index addr).Canonical := h.modCore.fault

theorem State.Canonical.scalar {c : CoreId} {g : Guard} {op : Op} {d : SReg} {v : Core → Word} : GoesCanonical (s.scalar c g op d v) :=
  h.attempt fun _ => h.modCore

theorem State.Canonical.predicate {c : CoreId} {g : Guard} {op : Op} {d : PReg} {v : Core → Bool} : GoesCanonical (s.predicate c g op d v) :=
  h.attempt fun _ => h.modCore

theorem State.Canonical.alu {c : CoreId} {g : Guard} {f : AluFn} {d a b : SReg} : GoesCanonical (s.alu c g f d a b) := h.scalar

theorem State.Canonical.conv {c : CoreId} {g : Guard} {f : ConvFn} {d a : SReg} : GoesCanonical (s.conv c g f d a) := h.scalar

theorem State.Canonical.immediate {c : CoreId} {g : Guard} {f : ImmFn} {d a : SReg} {imm : Word} : GoesCanonical (s.immediate c g f d a imm) :=
  h.scalar

theorem State.Canonical.compare {c : CoreId} {g : Guard} {f : CmpFn} {pd : PReg} {a : SReg} {b : CmpSrc} :
    GoesCanonical (s.compare c g f pd a b) := h.predicate

theorem State.Canonical.predOps {c : CoreId} {g : Guard} {f : PredFn} {pd pa pb : PReg} : GoesCanonical (s.predOps c g f pd pa pb) :=
  h.predicate

theorem State.Canonical.execSqBr {c : CoreId} {g : Guard} {off : BitVec 32} : GoesCanonical (execSqBr c g off s) := h.attempt fun _ => h.modCore

theorem State.Canonical.execSqLoop {c : CoreId} {g : Guard} {sa : SReg} {off : BitVec 32} : GoesCanonical (execSqLoop c g sa off s) :=
  h.attempt fun _ => h.modCore

theorem State.Canonical.execSqEnd {c : CoreId} {g : Guard} : GoesCanonical (execSqEnd c g s) := h.attempt fun _ => h.modCore.flush.kernelEnds

theorem State.Canonical.execSqLd {c : CoreId} {g : Guard} {sr sa : SReg} {size : BitVec 2} {signed : Bool} {off : BitVec 32} :
    GoesCanonical (execSqLd c g sr sa size signed off s) := by
  unfold Sys2Proof.Machine.execSqLd
  dsimp only
  refine h.attempt fun i => ?_
  split
  · next e => exact (h.load.of_eq e).modCore
  · next e => exact (h.load.of_eq e).seqFaults

theorem State.Canonical.execSqSt {c : CoreId} {g : Guard} {sr sa : SReg} {size : BitVec 2} {off : BitVec 32} :
    GoesCanonical (execSqSt c g sr sa size off s) := by
  unfold Sys2Proof.Machine.execSqSt
  dsimp only
  refine h.attempt fun i => ?_
  split
  · next e => exact (h.store.of_eq e).modCore
  · next e => exact (h.store.of_eq e).seqFaults

theorem State.Canonical.execSqNop {c : CoreId} {g : Guard} : GoesCanonical (execSqNop c g s) := h.attempt fun _ => h.modCore

theorem State.Canonical.execSqFence {c : CoreId} {g : Guard} : GoesCanonical (execSqFence c g s) := h.attempt fun _ => h.modCore.flush

theorem State.Canonical.execSqRdsys {c : CoreId} {g : Guard} {sd : SReg} {sel : BitVec 8} : GoesCanonical (execSqRdsys c g sd sel s) :=
  h.attempt fun _ => State.Canonical.ite h.modCore.modCore.tick h.modCore

theorem State.Canonical.execTcfg {c : CoreId} {g : Guard} {first : TReg} {count : BitVec 7} {rows : BitVec 11} {rowLog2 format : BitVec 4}
    {group : Bool} :
    GoesCanonical (execTcfg c g first count rows rowLog2 format group s) :=
  h.attempt fun _ => State.Canonical.ite h.seqFaults (State.Canonical.ite h.setCore h.setCore)

theorem State.Canonical.execSequencerInstructionComplete {c : CoreId} : GoesCanonical (execSequencerInstructionComplete c s) :=
  .ite (.next h) (.next h.modCore.abortEnds)

theorem State.Canonical.engineIssue {c : CoreId} {g : Guard} {e : Engine} {op : Op} : GoesCanonical (s.engineIssue c g e op) :=
  h.attempt fun _ => h.modCore

theorem State.Canonical.execTmIngest {c : CoreId} {g : Guard} {dd ds : DReg} {xfs : Bool} {sxf : SReg} {xf : BitVec 9} {sd : SReg} :
    GoesCanonical (execTmIngest c g dd ds xfs sxf xf sd s) := h.attempt fun _ => State.Canonical.ite h.seqFaults h.setCore

theorem State.Canonical.execPlatformWordArrival {c : CoreId} {n : Nat} : GoesCanonical (execPlatformWordArrival c n s) := by
  unfold Sys2Proof.Machine.execPlatformWordArrival
  dsimp only
  split
  · exact .next h
  · split
    · exact .next h
    · exact .next h.setCore

end

end Sys2Proof.Machine

namespace Sys2Proof.Machine

section
variable {s : State} (h : s.Canonical)
include h

/-! ### Partition -/

theorem State.Canonical.fenceCore {c : Nat} : (s.fenceCore c).Canonical := by
  unfold State.fenceCore
  dsimp only
  refine .ite ?_ ?_
  · exact h
  · refine .abortEnds (.sendSync (.ite ?_ ?_))
    · split
      · exact h.modCore.withFencedMapSpareUse.modDie.partFaulted
      · exact h.modCore.withFencedMapSpareUse.modDie.partFaulted.eventDue
    · exact h.modCore.withFencedMapSpareUse.modDie

theorem State.Canonical.mapSpare {f : Nat} : (s.mapSpare f).Canonical := by
  unfold State.mapSpare
  dsimp only
  split
  · split
    · exact h.modCore
    · exact h.modCore.modCore.withSpareUse.modDie.log
  · exact h

theorem State.Canonical.boundary {clusters : BitVec 32} : (s.boundary clusters).Canonical :=
  h.foldl fun _ _ h => h.foldl fun _ _ h => h.mapSpare

theorem State.Canonical.contextBoundary {p : Nat} : (s.contextBoundary p).Canonical := h.boundary

theorem State.Canonical.interruptCore {c : Nat} : (s.interruptCore c).Canonical := h.modCore.foldl fun _ _ h => h.abandon

theorem State.Canonical.reloadSlots {c : Nat} : (s.reloadSlots c).Canonical := by
  unfold State.reloadSlots
  dsimp only
  refine State.Canonical.foldl h fun t a h => ?_
  split
  · exact h
  · split
    · next e => exact (h.ctxRead.of_eq e).modCore
    · next e => exact (h.ctxRead.of_eq e).modCore

theorem State.Canonical.coreWaitsLost {p : Nat} : (s.coreWaitsLost p).Canonical := h.syncLost.foldl fun _ _ h => h.endWait

theorem State.Canonical.waitsLost {p : Nat} : (s.waitsLost p).Canonical := h.syncLost.foldl fun _ _ h => h.endWait

theorem State.Canonical.dropGen {p : Nat} : (s.dropGen p).Canonical := h.foldl fun _ _ h => h.modPort

theorem State.Canonical.abandonGen {p : Nat} {status : Code} : (s.abandonGen p status).Canonical := .ite h h.dropGen.modPart.bumpTwin.log

/-! ### Pair -/

theorem State.Canonical.restoreEnds {p : Nat} {status : Code} {verify : BitVec 2} {phase : SecPhase} :
    (s.restoreEnds p status verify phase).Canonical := by
  unfold State.restoreEnds
  dsimp only
  exact h.modPart.log

theorem State.Canonical.heldUnknown : s.heldUnknown.Canonical := h.foldl fun _ _ h => h.modPart

theorem State.Canonical.heldAre {held : List (PartId × Bool)} : (s.heldAre held).Canonical := h.foldl fun _ _ h => h.modPart

theorem State.Canonical.pairLost : s.pairLost.Canonical :=
  h.withTwin.foldl fun _ _ h => State.Canonical.ite h.abandonGen.restoreEnds h.abandonGen

theorem State.Canonical.reproject : s.reproject.Canonical :=
  .ite h (h.foldl fun _ _ h => State.Canonical.ite (h.modPart.foldl fun _ _ h => h.yielded) h)

theorem State.Canonical.pairChanged {rate : Nat} : (s.pairChanged rate).Canonical :=
  .ite (.ite h.withTwin.pairLost h.withTwin) (State.Canonical.ite h.withTwin.pairLost h.withTwin).reproject

/-! ### Links -/

theorem State.Canonical.changePort {n : Nat} {f : Port → Port} : (s.changePort n f).Canonical := .ite h.modPort.pairChanged h.modPort

theorem State.Canonical.holdFirst {vc : Fin 8} {r : Record} : (s.holdFirst vc r).Canonical := h.withHolds

theorem State.Canonical.rehome {n : Nat} {ks : List Packet} : (s.rehome n ks).Canonical :=
  ((h.foldl fun _ _ h => h.toTwin).foldl fun _ _ h => h.holdFirst).foldl fun _ _ h => h.transmit

theorem State.Canonical.divert {n : Nat} : (s.divert n).Canonical := h.modPort.rehome

theorem State.Canonical.portOut {n : Nat} {st : PortState} : (s.portOut n st).Canonical := h.changePort.rehome

theorem State.Canonical.portDown {n : Nat} : (s.portDown n).Canonical := .ite h h.portOut

theorem State.Canonical.testLanes {p : PortId} : (s.testLanes p).Canonical :=
  .ite (h.foldl fun _ _ h => h.startTest).changePort (h.foldl fun _ _ h => h.startTest)

theorem State.Canonical.retrain {n : Nat} : (s.retrain n).Canonical := .ite h h.changePort.divert

theorem State.Canonical.takeOver {n : Nat} : (s.takeOver n).Canonical := h.foldl fun _ _ h => h.divert

theorem State.Canonical.portUp {n w : Nat} {version : BitVec 8} {t : Training} : (s.portUp n w version t).Canonical :=
  (State.Canonical.ite h.heldAre.withTwin h).changePort.pumpPort.takeOver

theorem State.Canonical.versionFails {n : Nat} : (s.versionFails n).Canonical := by
  unfold State.versionFails
  dsimp only
  exact h.portOut.tick.log

theorem State.Canonical.execTrainingFlitReceive {p : PortId} {t : Training} : GoesCanonical (execTrainingFlitReceive p t s) := by
  unfold Sys2Proof.Machine.execTrainingFlitReceive
  dsimp only
  refine .ite ?_ (.ite ?_ (.ite ?_ (.ite ?_ ?_)))
  · exact .next h
  · exact .next h.portOut
  · exact .next h.portDown
  · exact .next h.portUp
  · split
    · exact .next h.versionFails
    · exact .next h.portUp

theorem State.Canonical.setLaser {li : Fin 8} {power : BitVec 16} : (s.setLaser li power).Canonical := h.withBoard

theorem State.Canonical.fibreDark {n : Nat} : (s.fibreDark n).Canonical :=
  .ite h (State.Canonical.ite h.portDown (State.Canonical.ite h.retrain h))

theorem State.Canonical.execLaserInputLoss {li : Fin 8} {power : BitVec 16} : GoesCanonical (execLaserInputLoss li power s) :=
  .ite (.next h.setLaser) (.next (h.setLaser.foldl fun _ _ h => h.fibreDark))

theorem State.Canonical.sendAgain {n : Nat} {again : TxFlit → Bool} : (s.sendAgain n again).Canonical := .ite h.retrain h.modPort

theorem State.Canonical.nakked {n : Nat} {seq : BitVec 24} : (s.nakked n seq).Canonical := .ite h.modPort.sendAgain h

theorem State.Canonical.execControlFlitReceive {p : PortId} {ackSeq : BitVec 24} {nak : Option (BitVec 24)} {credits : List Nat} :
    GoesCanonical (execControlFlitReceive p ackSeq nak credits s) := by
  unfold Sys2Proof.Machine.execControlFlitReceive
  dsimp only
  refine .ite ?_ ?_
  · exact .next h
  · refine .next ?_
    refine State.Canonical.foldl ?_ fun _ _ h => h.transferGoesOn
    refine .pumpPort ?_
    split
    · exact h.tick.modPort.nakked
    · exact h.tick.modPort

theorem State.Canonical.execReplayTimeout {p : PortId} : GoesCanonical (execReplayTimeout p s) := by
  unfold Sys2Proof.Machine.execReplayTimeout
  dsimp only
  split
  · exact .next h
  · exact .ite (.next h) (.next h.passTo.sendAgain)

theorem State.Canonical.recordArrives {n : Nat} {vc : Fin 8} {r : Record} : (s.recordArrives n vc r).Canonical :=
  .ite h.modPort (.ite h.photoRecord.bumpPort (.ite h.photoRecord.photoEvent.modPort h.photoRecord.transmit))

theorem State.Canonical.flitAccepted {n : Nat} {f : Flit} : (s.flitAccepted n f).Canonical :=
  .ite h.tick.modPort (h.tick.modPort.foldl fun _ _ h => h.recordArrives)

theorem State.Canonical.execDataFlitReceive {p : PortId} {f : Flit} : GoesCanonical (execDataFlitReceive p f s) :=
  .ite (.next h) (.ite (.next h.bumpPort.modPort) (.ite (.next h.pumpPort) (.next h.pumpPort.flitAccepted)))

theorem State.Canonical.takeRecord {n : Nat} {r : Record} {t : State} {j : Option Nat} (e : s.takeRecord n r = some (t, j)) :
    t.Canonical := by
  unfold State.takeRecord at e
  dsimp only at e
  have hown : (match s.loopback with
      | y :: u =>
        if y = r then
          if (({ s with loopback := u } : State).photoRecord r).expired r then some (({ s with loopback := u } : State).photoRecord r, none)
          else some ((({ s with loopback := u } : State).photoRecord r).photoEvent r.dstPart.val
            ((({ s with loopback := u } : State).photoRecord r).originOf r) r.srcDev,
            some ((({ s with loopback := u } : State).photoRecord r).junctionOf r.srcCore.toNat))
        else none
      | [] => none) = some (t, j) → t.Canonical := by
    intro e
    split at e
    · split at e
      · split at e
        · cases e
          exact h.withLoopback.photoRecord
        · cases e
          exact h.withLoopback.photoRecord.photoEvent
      · cases e
    · cases e
  split at e
  · split at e
    · cases e
      exact h.modPort
    · exact hown e
  · exact hown e

theorem State.Canonical.requestArrives {n : Nat} {type : RecType} {r : Record} : (s.requestArrives n type r).Canonical := by
  unfold State.requestArrives
  refine .ite ?_ h
  split
  · next e => exact (h.takeRecord e).serve
  · next e => exact h.takeRecord e
  · exact h

theorem State.Canonical.answerArrives {n : Nat} {type : RecType} {r : Record} : (s.answerArrives n type r).Canonical := by
  unfold State.answerArrives
  refine .ite ?_ h
  split
  · exact h
  · next e => exact h.takeRecord e
  · next e =>
    split
    · exact h.takeRecord e
    · exact .ite (h.takeRecord e).answerSy (h.takeRecord e).answerTm

theorem State.Canonical.xferOut {c : Nat} {e : Engine} : (s.xferOut c e).Canonical := by
  unfold State.xferOut
  split
  · exact h.xferTimeout
  · exact h.incEnds
  · exact h

theorem State.Canonical.execTransferAckTimeout {w : Awaits} : GoesCanonical (execTransferAckTimeout w s) := by
  unfold Sys2Proof.Machine.execTransferAckTimeout
  dsimp only
  split
  · exact .next h
  · refine .ite ?_ ?_
    · exact .next h
    · split
      · exact .next h.passTo.xferOut
      · exact .next h.passTo.abandonGen
      · exact .next h.passTo.restoreEnds

theorem State.Canonical.execPrelockTransferTimeout {c : CoreId} {e : Engine} : GoesCanonical (execPrelockTransferTimeout c e s) := by
  unfold Sys2Proof.Machine.execPrelockTransferTimeout
  split
  · exact .next (State.Canonical.ite h.passTo.xferOut h)
  · exact .next h

theorem State.Canonical.execIngestReadCompletion {c : CoreId} {reply : ReadReply} {data : List Byte} :
    GoesCanonical (execIngestReadCompletion c reply data s) := by
  unfold Sys2Proof.Machine.execIngestReadCompletion
  split
  · exact .next h
  · refine .ite ?_ ?_
    · exact .next h
    · split
      · exact .next h.ingestData
      · exact .next h.xferEnds
      · exact .next h.xferEnds

theorem State.Canonical.execIngestCompletionTimeout {c : CoreId} : GoesCanonical (execIngestCompletionTimeout c s) := by
  unfold Sys2Proof.Machine.execIngestCompletionTimeout
  split
  · exact .next h
  · exact .ite (.next h) (.next h.passTo.xferEnds)

theorem State.Canonical.gatewayRefuses {n : Nat} {r : Record} : (s.gatewayRefuses n r).Canonical := .ite h h.putOnPort

theorem State.Canonical.gatewayTakes {n : Nat} {r : Record} {remaining : Word} {farDomain farDev : BitVec 16} :
    (s.gatewayTakes n r remaining farDomain farDev).Canonical := by
  unfold State.gatewayTakes
  dsimp only
  refine .ite ?_ (.ite ?_ ?_)
  · exact h.photoRecord
  · exact h.photoRecord.gatewayRefuses
  · split
    · exact h.photoRecord.gatewayRefuses
    · exact .ite h.photoRecord.withLoopback h.photoRecord.transmit

theorem State.Canonical.execLongLineRecordReceive {p : PortId} {r : Record} {remaining : Word} {farDomain farDev : BitVec 16} :
    GoesCanonical (execLongLineRecordReceive p r remaining farDomain farDev s) := by
  unfold Sys2Proof.Machine.execLongLineRecordReceive
  split
  · exact .ite (.next h.modPort.gatewayTakes) (.next h)
  · exact .next h

theorem State.Canonical.execFlowHoldRelease {k : Nat} : GoesCanonical (execFlowHoldRelease k s) := by
  unfold Sys2Proof.Machine.execFlowHoldRelease
  dsimp only
  split
  · exact .next h
  · exact .ite (.next h) (.next (h.withHolds.foldl fun _ _ h => h.transmit))

theorem State.Canonical.rosterComes {r : Roster} : (s.rosterComes r).Canonical := .ite h h.withRostersLastEffective

theorem State.Canonical.execRosterReceive {p : PortId} {r : Roster} : GoesCanonical (execRosterReceive p r s) :=
  .ite (.next h) (.next h.rosterComes.tellNeighbours)

theorem State.Canonical.execRosterApply : GoesCanonical (execRosterApply s) := by
  unfold Sys2Proof.Machine.execRosterApply
  dsimp only
  split
  · exact .next h
  · exact .next (State.Canonical.ite h.passTo h.passTo.withRosterPrevRosterRosters.pairChanged)

theorem State.Canonical.execRosterGraceExpiry : GoesCanonical (execRosterGraceExpiry s) := by
  unfold Sys2Proof.Machine.execRosterGraceExpiry
  dsimp only
  split
  · exact .next h
  · exact .next (State.Canonical.ite h.passTo.withPrevRoster h)

/-! ### SignalBox -/

theorem State.Canonical.execRingDb {p : PartId} {hp : HostPort} {v : BitVec 32} : GoesCanonical (execRingDb p hp v s) :=
  .ite (.next h.modPart) (.next h.modPart)

theorem State.Canonical.execCqDb {p : PartId} {hp : HostPort} {v : BitVec 32} : GoesCanonical (execCqDb p hp v s) :=
  .ite (.next h.modPart) (.next h.modPart)

theorem State.Canonical.hostWrite {hp : HostPort} {a : Nat} {bs : List Byte} : (s.hostWrite hp a bs).Canonical := by
  unfold State.hostWrite
  split
  · exact ⟨h.mem, memory_wf_memWrite _ h.hostOut0 _, h.hostOut1, h.staging⟩
  · exact ⟨h.mem, h.hostOut0, memory_wf_memWrite _ h.hostOut1 _, h.staging⟩

theorem State.Canonical.execConsumerMirrorWrite {p : PartId} : GoesCanonical (execConsumerMirrorWrite p s) :=
  .ite (.next h) (.next h.setPart.hostWrite)

theorem State.Canonical.refuseCmd {hd : CmdHdr} {opcode : BitVec 8} {i : BitVec 32} {status : Code} :
    (s.refuseCmd hd opcode i status).Canonical :=
  h.tick.finish

theorem State.Canonical.endCmd {hd : CmdHdr} {opcode : BitVec 8} {i : BitVec 32} {status : Code} {info : Word} :
    (s.endCmd hd opcode i status info).Canonical := h.finish

theorem State.Canonical.addCmd {hd : CmdHdr} {opcode : BitVec 8} {i : BitVec 32} {k : CmdKind} : (s.addCmd hd opcode i k).Canonical := h.modPart

theorem State.Canonical.wrongState {hd : CmdHdr} {opcode : BitVec 8} {i : BitVec 32} : (s.wrongState hd opcode i).Canonical :=
  h.modPart.refuseCmd

/-- The start of a ring's command leaves the memories, but for what the command itself does. -/
theorem State.Canonical.startCmd {x : CmdHdr} {op : BitVec 8} {bad : Bool} {legal : Part → Bool} {act : State → BitVec 32 → State}
    (hact : ∀ t i, t.Canonical → (act t i).Canonical) : GoesCanonical (s.startCmd x op bad legal act) := by
  unfold State.startCmd
  dsimp only
  refine .ite (.next h) (.ite ?_ (.ite ?_ (.ite ?_ ?_)))
  · exact .next h.modPart.refuseCmd
  · exact .next h.modPart.wrongState
  · exact .next h.modPart.refuseCmd
  · exact .next (hact _ _ (.ite h.modPart.returnsToRun h.modPart))

theorem State.Canonical.execBind {hd : CmdHdr} {ctx : BitVec 16} {root : Word} : GoesCanonical (execBind hd ctx root s) :=
  h.startCmd fun _ _ h => h.ticks.modPart.contextBoundary.endCmd

theorem State.Canonical.execUnbind {hd : CmdHdr} : GoesCanonical (execUnbind hd s) := h.startCmd fun _ _ h => h.abandonGen.modPart.endCmd

theorem State.Canonical.readImage {p : Nat} {src codeBytes : Nat} : (s.readImage p src codeBytes).1.Canonical := by
  unfold State.readImage
  dsimp only
  split
  · next e =>
      replace h := h.ctxRead.of_eq e
      refine .ite_fst ?_ ?_
      · exact h
      · split
        · next e => exact h.ctxRead.of_eq e
        · exact h.ctxRead
  · exact h.ctxRead

theorem State.Canonical.execLoad {hd : CmdHdr} {slot : BitVec 8} {srcHost : Bool} {src code : Word} {codeBytes : BitVec 32} {image : List Byte} :
    GoesCanonical (execLoad hd slot srcHost src code codeBytes image s) := by
  unfold Sys2Proof.Machine.execLoad
  dsimp only
  refine h.startCmd fun t i h => ?_
  split
  · next e => exact ((State.Canonical.ite_fst h.modPart.pair h.modPart.readImage).of_eq e).addCmd
  · next e => exact ((State.Canonical.ite_fst h.modPart.pair h.modPart.readImage).of_eq e).tick.endCmd

theorem State.Canonical.loadFails {p : Nat} {k : Cmd} {slot : Nat} {status : Code} {index : BitVec 32} :
    (s.loadFails p k slot status index).Canonical := h.modPart.complete

theorem State.Canonical.execTranslationComplete {p : PartId} : GoesCanonical (execTranslationComplete p s) := by
  unfold Sys2Proof.Machine.execTranslationComplete
  dsimp only
  split
  · exact .next h
  · split
    · refine .ite ?_ ?_
      · exact .next h.loadFails
      · split
        · exact .next h.loadFails
        · split
          · next e => exact .next ((h.ticks.ctxWrite.of_eq e).modPart.complete)
          · next e => exact .next ((h.ticks.ctxWrite.of_eq e).loadFails)
    · exact .next h

theorem State.Canonical.startCores {seq : Nat} {l : LaunchInfo} : (s.startCores seq l).Canonical := by
  unfold State.startCores
  refine State.Canonical.foldl h fun t a h => ?_
  split
  · exact h
  · exact h.modCore

theorem State.Canonical.execLaunch {hd : CmdHdr} {slot : BitVec 8} {det : Bool} {arg : Word} {mask : BitVec 256} :
    GoesCanonical (execLaunch hd slot det arg mask s) :=
  h.startCmd fun _ _ h => .ite h.refuseCmd (.ite h.refuseCmd (.ite h.modPart.addCmd.startCores h.modPart.addCmd))

theorem State.Canonical.execLaunchDeferredStart {p : PartId} {index : BitVec 32} : GoesCanonical (execLaunchDeferredStart p index s) := by
  unfold Sys2Proof.Machine.execLaunchDeferredStart
  dsimp only
  split
  · exact .next h
  · split
    · exact .ite (.next h) (.ite (.next h.complete.settle) (.next h.modPart.startCores))
    · exact .next h

theorem State.Canonical.resumeCores {p : Nat} : (s.resumeCores p).1.Canonical := h.modPart.modCores

theorem State.Canonical.execResume {hd : CmdHdr} : GoesCanonical (execResume hd s) :=
  h.startCmd fun _ _ h => State.Canonical.ite h.addCmd h.resumeCores.endCmd

theorem State.Canonical.resumeWaiting {p : Nat} : (s.resumeWaiting p).Canonical :=
  .ite h (h.foldl fun _ _ h => (State.Canonical.ite_fst h.resumeCores h.pair).complete)

theorem State.Canonical.roundsEnd {p : Nat} : (s.roundsEnd p).Canonical := h.endRounds

theorem State.Canonical.launchesEnd {p : Nat} {status : Code} : (s.launchesEnd p status).Canonical := h.roundsEnd.foldl fun _ _ h => h.complete

theorem State.Canonical.execAbort {hd : CmdHdr} : GoesCanonical (execAbort hd s) := by
  unfold Sys2Proof.Machine.execAbort
  dsimp only
  refine h.startCmd fun t i h => ?_
  refine .ite ?_ ?_
  · exact h.launchesEnd.modPart.coreWaitsLost.endCmd
  · exact h.launchesEnd.modPart.coreWaitsLost.modCores.addCmd.foldl fun _ _ h => h.abortEnds

theorem State.Canonical.beginSave {p : Nat} : (s.beginSave p).Canonical := (h.modPart.foldl fun _ _ h => h.interruptCore.modCore).syncArrives

theorem State.Canonical.sealImage {p : Nat} {key : Option (BitVec 256)} : (s.sealImage p key).Canonical := by
  unfold State.sealImage
  split
  · exact h.withSealed.tick
  · exact h

theorem State.Canonical.execSaveComplete {p : PartId} : GoesCanonical (execSaveComplete p s) := by
  unfold Sys2Proof.Machine.execSaveComplete
  dsimp only
  split
  · refine .ite ?_ ?_
    · exact .next h
    · split
      · exact .next ((h.foldl fun _ _ h => h.flush).roundsEnd.modCores.modPart.sealImage.complete)
      · exact .next ((h.foldl fun _ _ h => h.flush).roundsEnd.modCores.modPart.sealImage)
  · exact .next h

theorem State.Canonical.waitReturns {p : Nat} {w : Waiter} : (s.waitReturns p w).Canonical := by
  unfold State.waitReturns
  dsimp only
  refine .ite ?_ ?_
  · exact h.endWait
  · split
    · exact .ite h.endWait h
    · exact h

theorem State.Canonical.execRestore {hd : CmdHdr} : GoesCanonical (execRestore hd s) := by
  unfold Sys2Proof.Machine.execRestore
  dsimp only
  refine h.startCmd fun t i h => ?_
  split
  · exact h
  · refine .endCmd ?_
    refine State.Canonical.foldl ?_ fun _ _ h => h.waitReturns
    refine State.Canonical.foldl h.contextBoundary.modPart.modPart fun t a h => ?_
    split
    · exact h
    · exact h.modCore.reloadSlots

theorem State.Canonical.freePieces {p : Nat} {rs : List (Nat × Nat)} : (s.freePieces p rs).Canonical := by
  induction rs generalizing s with
  | nil => exact h
  | cons r rs ih =>
    unfold State.freePieces
    dsimp only
    refine ih ?_
    split
    · exact h.ticks.devWrite
    · exact h

theorem State.Canonical.destUndefined {p : Nat} {k : CmdKind} : (s.destUndefined p k).Canonical := by
  unfold State.destUndefined
  split
  · exact h.freePieces
  · exact .ite h.ticks.hostWrite h.freePieces
  · exact h

theorem State.Canonical.discardParked {p : Nat} : (s.discardParked p).Canonical := by
  unfold State.discardParked
  dsimp only
  split
  · exact h
  · exact h.modPart.foldl fun _ _ h => h.finish

theorem State.Canonical.beginReset {p : Nat} {discard : Bool} : (s.beginReset p discard).Canonical := by
  unfold State.beginReset
  dsimp only
  split
  · exact (State.Canonical.ite h.discardParked h).abandonGen.waitsLost
  · exact (State.Canonical.foldl (State.Canonical.ite h.discardParked h).abandonGen.waitsLost.launchesEnd
      fun _ _ h => h.destUndefined.tick.complete).modPart.modCores

theorem State.Canonical.endReset {p : Nat} : (s.endReset p).Canonical := by
  unfold State.endReset
  dsimp only
  split
  · exact h.modCores.modPart.contextBoundary.complete
  · exact h.modCores.modPart.contextBoundary

theorem State.Canonical.execReset {hd : CmdHdr} {discardParked : Bool} : GoesCanonical (execReset hd discardParked s) :=
  h.startCmd fun _ _ h => State.Canonical.ite h.beginReset.contextBoundary.endCmd h.beginReset.addCmd

theorem State.Canonical.execResetComplete {p : PartId} : GoesCanonical (execResetComplete p s) := .ite (.next h) (.next h.endReset)

theorem State.Canonical.copyPieces {p : Nat} {get : State → Nat → Nat → State × MemRes (List Byte)}
    {put : State → Nat → List Byte → State × MemRes Unit} {ps : List (Nat × Nat)} {n : Nat}
    (hget : ∀ t a k, t.Canonical → (get t a k).1.Canonical) (hput : ∀ t a bs, t.Canonical → (put t a bs).1.Canonical) :
    (s.copyPieces p get put ps n).1.Canonical := by
  induction ps generalizing s n with
  | nil => exact h
  | cons r ps ih =>
    unfold State.copyPieces
    split
    · next e =>
      replace h := (hget _ _ _ h).of_eq e
      split
      · next e => exact ih ((hput _ _ _ h).of_eq e)
      · next e => exact (hput _ _ _ h).of_eq e
    · next e => exact (hget _ _ _ h).of_eq e

theorem State.Canonical.execCopyComplete {p : PartId} : GoesCanonical (execCopyComplete p s) := by
  unfold Sys2Proof.Machine.execCopyComplete
  dsimp only
  split
  · exact .next h
  · split
    · exact .next (h.ticks.copyPieces (fun _ _ _ h => .ite_fst h.pair h.ctxRead) fun _ _ _ h => .ite_fst h.hostWrite.pair h.ctxWrite).complete
    · exact .next h

theorem State.Canonical.signal {p n : Nat} {ctx : BitVec 16} {v : Word} : (s.signal p n ctx v).1.Canonical :=
  .ite_fst h.modPart.increment h.incrementParked

theorem State.Canonical.execSignal {hd : CmdHdr} {baton ctx : BitVec 16} {value : Word} : GoesCanonical (execSignal hd baton ctx value s) :=
  h.startCmd fun _ _ h => h.signal.endCmd

theorem State.Canonical.execWait {hd : CmdHdr} {baton : BitVec 16} {value timeout : Word} : GoesCanonical (execWait hd baton value timeout s) :=
  h.startCmd fun _ _ h => State.Canonical.ite h.endCmd h.addCmd.addWaiter

theorem State.Canonical.execWaitTimeout {p : PartId} {k : Nat} {ecc : Ecc} : GoesCanonical (execWaitTimeout p k ecc s) := by
  unfold Sys2Proof.Machine.execWaitTimeout
  dsimp only
  split
  · exact .next (State.Canonical.ite h h.startTest)
  · split
    · exact .next (State.Canonical.ite h h.startTest)
    · exact .next (State.Canonical.ite (State.Canonical.ite h h.startTest).passTo.endWait (State.Canonical.ite h h.startTest))

theorem State.Canonical.writeRecord {p : Nat} {event : Bool} : (s.writeRecord p event).Canonical := by
  unfold State.writeRecord
  extract_lets x
  split
  · exact h
  · extract_lets d r s₁ s₂ s₃ s₄
    refine .ite h ?_
    have h₁ : s₁.Canonical := h.hostWrite.traced
    have h₂ : s₂.Canonical := h₁.modPart
    have h₃ : s₃.Canonical := .ite h₂ h₂.photoEvent
    have h₄ : s₄.Canonical := .ite h₃.partInterrupt h₃
    exact .ite h₄.modPart h₄

theorem State.Canonical.ringConfig {p : Nat} {v : Word} : (s.ringConfig p v).Canonical := .ite (State.Canonical.ite h h.setPart) h.setPart

theorem State.Canonical.partCtrl {p : Nat} {hp : HostPort} {f : State → State} (hf : ∀ t, t.Canonical → (f t).Canonical) :
    (s.partCtrl p hp f).Canonical := .ite h.modPart (hf s h)

theorem State.Canonical.preemptNow {p : Nat} : (s.preemptNow p).Canonical := .ite h.modPart h.beginSave

theorem State.Canonical.resetNow {p : Nat} {discard : Bool} : (s.resetNow p discard).Canonical :=
  .ite h.modPart (.ite h.beginReset.contextBoundary h.beginReset)

theorem State.Canonical.clearPart {p : Nat} : (s.clearPart p).Canonical := h.modPart

theorem State.Canonical.execVfFunctionLevelReset {p : PartId} : GoesCanonical (execVfFunctionLevelReset p s) :=
  .ite (.next h) (.next h.resetNow.modPart.modPcie)

theorem State.Canonical.devWriteAt {j : Nat} {rs : List (Nat × Nat)} {bs : List Byte} : (s.devWriteAt j rs bs).Canonical := by
  induction rs generalizing s bs with
  | nil => exact h
  | cons r rs ih =>
    unfold State.devWriteAt
    dsimp only
    exact ih (State.Canonical.ite h.devWrite h)

theorem State.Canonical.execBar4Write {hp : HostPort} {off : Nat} {data : List Byte} : GoesCanonical (execBar4Write hp off data s) :=
  .ite (.next h) (.next h.devWriteAt)

/-! ### Time -/

theorem State.Canonical.armRefused {e : Nat} {status : Code} : (s.armRefused e status).Canonical := h.modTt

theorem State.Canonical.arm {e : Nat} : (s.arm e).Canonical := .ite h.armRefused (State.Canonical.ite h.armRefused.bumpLt h.modTt)

theorem State.Canonical.sendCopy {e : Fin 256} {cancel : Bool} : (s.sendCopy e cancel).Canonical := h.modTt.tellNeighbours

theorem State.Canonical.armEntry {e : Fin 256} : (s.armEntry e).Canonical := .ite h (State.Canonical.ite h.arm.sendCopy h.arm)

theorem State.Canonical.cancelEntry {e : Fin 256} : (s.cancelEntry e).Canonical := .ite h (.ite h.modTt (.ite h.modTt.bumpLt h.modTt.sendCopy))

theorem State.Canonical.photoCopy {t : TtCopy} : (s.photoCopy t).Canonical := .ite h h.pfWrite

theorem State.Canonical.copyActs {t : TtCopy} : (s.copyActs t).Canonical := by
  unfold State.copyActs
  dsimp only
  refine .ite (.ite ?_ (.ite ?_ ?_)) (.ite ?_ (.ite ?_ ?_))
  · exact h.photoCopy
  · exact h.photoCopy.modTt.bumpLt
  · exact h.photoCopy.modTt
  · exact h.photoCopy
  · exact h.photoCopy.modTt.bumpLt
  · exact h.photoCopy.modTt

theorem State.Canonical.copyArrives {t : TtCopy} : (s.copyArrives t).Canonical :=
  .ite h (.ite h.modTt.tellNeighbours.copyActs h.modTt.tellNeighbours)

theorem State.Canonical.firstLock : s.firstLock.Canonical := .ite h (h.withLt.foldl fun _ _ h => h.modTt.arm)

theorem State.Canonical.enterLt {st : LtState} : (s.enterLt st).Canonical := h.withLt

theorem State.Canonical.execBeaconSend : GoesCanonical (execBeaconSend s) := .next (State.Canonical.ite h.passTo.withLt.tellNeighbours h)

theorem State.Canonical.acceptBeacon {dev : BitVec 16} {hops : BitVec 8} {t : Word} : (s.acceptBeacon dev hops t).Canonical :=
  (State.Canonical.ite h.tick.withLt h.withLt).withLt.bumpLt

theorem State.Canonical.execBeaconReceive {p : PortId} {dev : BitVec 16} {hops : BitVec 8} {value : Word} {after : Nat} :
    GoesCanonical (execBeaconReceive p dev hops value after s) := .next (State.Canonical.ite h.pass.acceptBeacon.tellNeighbours h.pass)

theorem State.Canonical.execLockAchieved : GoesCanonical (execLockAchieved s) := .ite (.next h.passTo.enterLt.firstLock) (.next h)

theorem State.Canonical.execBackupTakeover : GoesCanonical (execBackupTakeover s) := .ite (.next h.passTo.withLt) (.next h)

theorem State.Canonical.ltNowRead : s.ltNowRead.Canonical := h.withLt

theorem State.Canonical.execLtCntClr : GoesCanonical (execLtCntClr s) := .next h.withLt

theorem State.Canonical.ltRestart : s.ltRestart.Canonical := .ite h.withLt.firstLock h.withLt

theorem State.Canonical.queueRelease {p n : Nat} : (s.queueRelease p n).1.Canonical := by
  unfold State.queueRelease
  dsimp only
  split
  · exact .ite_fst h.signal.pair h
  · exact .ite_fst h h.signal.pair
  · exact h

theorem State.Canonical.asPartCtrl {legal : Bool} {f : State → State} (hf : ∀ t, t.Canonical → (f t).Canonical) :
    (s.asPartCtrl legal f).1.Canonical := hf s h

theorem State.Canonical.actOn {action : BitVec 4} {arg : BitVec 32} {p : Nat} : (s.actOn action arg p).1.Canonical := by
  unfold State.actOn
  dsimp only
  refine .ite_fst ?_ (.ite_fst ?_ (.ite_fst ?_ ?_))
  · exact h.asPartCtrl fun _ h => h.preemptNow
  · exact h.asPartCtrl fun _ h => h.resetNow
  · exact h.queueRelease
  · exact h

theorem State.Canonical.actAll {action : BitVec 4} {arg : BitVec 32} {rs : List Nat} {st : Code} : (s.actAll action arg rs st).1.Canonical := by
  induction rs generalizing s st with
  | nil => exact h
  | cons r rs ih =>
    unfold State.actAll
    dsimp only
    exact ih h.actOn

theorem State.Canonical.openWindow {e : Nat} {x : TtEntry} : (s.openWindow e x).Canonical := .ite h.withWindows h.withWindows

theorem State.Canonical.fireAction {e : Nat} : (s.fireAction e).1.Canonical := .ite_fst h.openWindow h.actAll

theorem State.Canonical.fireBy {e : Nat} {act : State → State × Code} (hact : ∀ t, t.Canonical → (act t).1.Canonical) :
    (s.fireBy e act).Canonical := .ite h.passTo.modTt (hact _ h.passTo).modTt.bumpLt

theorem State.Canonical.fire {e : Nat} : (s.fire e).Canonical := .ite h.passTo.modTt (h.fireBy (fun _ h => h.fireAction))

/-! ### Twins -/

theorem State.Canonical.modSec {p : Nat} {f : SecPart → SecPart} : (s.modSec p f).Canonical := h.modPart

theorem State.Canonical.execSecureWindowEnd {e : Fin 256} : GoesCanonical (execSecureWindowEnd e s) := by
  unfold Sys2Proof.Machine.execSecureWindowEnd
  dsimp only
  split
  · exact .next h
  · refine .next ?_
    refine State.Canonical.foldl h.passTo.withWindows fun t a h => ?_
    split
    · exact .ite h.abandonGen h
    · exact h

theorem State.Canonical.toPhase {p : Nat} {ph : SecPhase} {f : Gen → Gen} : (s.toPhase p ph f).Canonical := h.modSec

theorem State.Canonical.sendGen {p i : Nat} {r : TwinRec} : (s.sendGen p i r).Canonical := h.modSec.sendTwin

theorem State.Canonical.toCommit {p : Nat} {g : Gen} : (s.toCommit p g).Canonical := h.toPhase.sendGen

theorem State.Canonical.readLoss {p : Nat} {g : Gen} : (s.readLoss p g).Canonical := by
  unfold State.readLoss
  refine .ite ?_ ?_
  · exact h
  · split
    · next e => exact (h.ctxRead.of_eq e).toCommit
    · next e => exact (h.ctxRead.of_eq e).abandonGen

theorem State.Canonical.execGenerationStageAdvance {p : PartId} : GoesCanonical (execGenerationStageAdvance p s) := by
  unfold Sys2Proof.Machine.execGenerationStageAdvance
  dsimp only
  split
  · exact .next h
  · split
    · exact .next h.toPhase
    · exact .next (State.Canonical.ite h.toPhase.sendGen h)
    · exact .next (State.Canonical.ite h.toCommit h.toPhase)
    · exact .next h.readLoss
    · exact .next h

theorem State.Canonical.readDataUnit {d : Nat} {ecc : Ecc} : (s.readDataUnit d ecc).Canonical := by
  refine .agentReads (.ite ?_ ?_)
  · exact h
  · split
    · exact h.tick.readError
    · exact h

theorem State.Canonical.execUnitCopied {p : PartId} {ecc : Ecc} : GoesCanonical (execUnitCopied p ecc s) := by
  unfold Sys2Proof.Machine.execUnitCopied
  dsimp only
  split
  · split
    · exact .next h
    · exact .ite (.next h.abandonGen) (.ite (.next h.readDataUnit.abandonGen) (.next h.readDataUnit.modSec.sendGen))
  · exact .next h

theorem State.Canonical.execLossWaitTimeout {p : PartId} : GoesCanonical (execLossWaitTimeout p s) := by
  unfold Sys2Proof.Machine.execLossWaitTimeout
  dsimp only
  split
  · exact .ite (.next h) (.next h.passTo.abandonGen)
  · exact .next h

theorem State.Canonical.execGenerationCommit {p : PartId} : GoesCanonical (execGenerationCommit p s) := by
  unfold Sys2Proof.Machine.execGenerationCommit
  dsimp only
  split
  · exact .next h.modSec.bumpTwin
  · exact .next h

theorem State.Canonical.refreshRepl {p : Nat} : (s.refreshRepl p).Canonical := by
  unfold State.refreshRepl
  dsimp only
  exact h.modSec

theorem State.Canonical.refreshAll : s.refreshAll.Canonical := h.foldl fun _ _ h => h.refreshRepl

theorem State.Canonical.farWrite {a : Nat} {bs : List Byte} : (s.farWrite a bs).Canonical := h.devWritePieces

theorem State.Canonical.modRest {p : Nat} {f : Rest → Rest} : (s.modRest p f).Canonical := h.modSec

theorem State.Canonical.restoreCommit {p : Nat} {slotB : Bool} {data : List Byte} : (s.restoreCommit p slotB data).Canonical :=
  .ite h.restoreEnds h.modRest.modSec

theorem State.Canonical.restoreUnit {p : Nat} {r : Rest} {table : Mem} {i : Nat} {data : List Byte} {poison : Bool} :
    (s.restoreUnit p r table i data poison).Canonical := by
  unfold State.restoreUnit
  dsimp only
  refine .ite ?_ ?_
  · exact h
  · split
    · next e => exact (h.xlatAll.of_eq e).restoreEnds
    · next e =>
        replace h := h.xlatAll.of_eq e
        refine .ite ?_ (.ite ?_ ?_)
        · exact h.restoreEnds
        · exact h.restoreEnds
        · split
          · next e => exact (h.ctxWrite.of_eq e).modRest.modSec
          · next e => exact (h.ctxWrite.of_eq e).restoreEnds

theorem State.Canonical.unitComes {p : Nat} {r : Rest} {i : Nat} {data : List Byte} {poison : Bool} :
    (s.unitComes p r i data poison).Canonical := by
  unfold State.unitComes
  split
  · exact h.restoreUnit
  · exact h.modRest

theorem State.Canonical.restoreTable {p : Nat} {r : Rest} {data : List Byte} {poison : Bool} : (s.restoreTable p r data poison).Canonical := by
  unfold State.restoreTable
  dsimp only
  refine .ite ?_ (.ite ?_ ?_)
  · exact h.restoreEnds
  · exact h.restoreEnds
  · refine State.Canonical.foldl h.modRest fun t a h => ?_
    split
    · exact h.restoreUnit
    · exact h

theorem State.Canonical.sendReplica {p : PartId} {older : Bool} : (s.sendReplica p older).Canonical := by
  unfold State.sendReplica
  dsimp only
  split
  · exact h.sendTwin
  · exact h.sendTwin.sendTwin.foldl fun _ _ h => h.sendTwin

theorem State.Canonical.ackTwin {n : Nat} {p : PartId} : (s.ackTwin n p).Canonical := h.putMsg

theorem State.Canonical.farRecord {n : Nat} {p : PartId} {a : Nat} {data : List Byte} {after : State → State}
    (hafter : ∀ t, t.Canonical → (after t).Canonical) : (s.farRecord n p a data after).Canonical :=
  .ite (hafter _ h.farWrite).ackTwin h

theorem State.Canonical.securingRecord {n : Nat} {r : TwinRec} : (s.securingRecord n r).Canonical := by
  unfold State.securingRecord
  dsimp only
  split
  · exact h.farRecord fun _ h => h.refreshRepl
  · exact h.farRecord fun _ h => h.refreshRepl
  · exact .ite (h.farRecord (fun _ h => h)) h.ackTwin
  · exact .ite (h.farRecord (fun _ h => h.refreshRepl)) h.ackTwin
  · exact h

theorem State.Canonical.restoreRecord {r : TwinRec} {x : Rest} : (s.restoreRecord r x).Canonical := by
  unfold State.restoreRecord
  split
  · exact h.restoreCommit
  · exact h.restoreTable
  · exact h.unitComes
  · exact h

theorem State.Canonical.execTwinRecordReceive {n : PortId} {r : TwinRec} : GoesCanonical (execTwinRecordReceive n r s) := by
  unfold Sys2Proof.Machine.execTwinRecordReceive
  split
  · exact .next (State.Canonical.ite h.securingRecord h)
  · exact .next (State.Canonical.ite h.securingRecord h)
  · exact .next (State.Canonical.ite h.securingRecord h)
  · exact .next (State.Canonical.ite h.securingRecord h)
  · split
    · exact .next (State.Canonical.ite h.modRest.restoreRecord h)
    · exact .next h
  · split
    · exact .next (State.Canonical.ite h.modRest.restoreRecord h)
    · exact .next h
  · split
    · exact .next (State.Canonical.ite h.modRest.restoreRecord h)
    · exact .next h
  · exact .next (State.Canonical.ite h.sendReplica h)

theorem State.Canonical.beginRestore {p : Nat} {older : Bool} : (s.beginRestore p older).Canonical := .ite h.modSec.log h.modSec.sendTwin

theorem State.Canonical.execRestoreComplete {p : PartId} : GoesCanonical (execRestoreComplete p s) := by
  unfold Sys2Proof.Machine.execRestoreComplete
  dsimp only
  split
  · exact .next h
  · exact .ite (.next h) (.next (State.Canonical.ite h.modSec.restoreEnds h.modSec.restoreEnds))

theorem State.Canonical.execSecCntClr : GoesCanonical (execSecCntClr s) := .next h.withTwin

end

end Sys2Proof.Machine

namespace Sys2Proof.Machine

section
variable {s : State} (h : s.Canonical)
include h

/-! ### Memory -/

theorem State.Canonical.execL1EvictionWriteback {c : CoreId} {line : Nat} {ecc : Ecc} : GoesCanonical (execL1EvictionWriteback c line ecc s) := by
  unfold Sys2Proof.Machine.execL1EvictionWriteback
  dsimp only
  refine .ite ?_ ?_
  · refine .next (.dropLine ?_)
    split
    · exact (h.writeBack.foldl fun _ _ h => h.eccError).sramError
    · exact h.writeBack.eccError
  · exact .next h

theorem State.Canonical.stackError {a : Nat} {ecc : Ecc} : (s.stackError a ecc).Canonical := .ite h.eccError.refreshAll h.eccError

theorem State.Canonical.execPatrolScrub {stack : Fin 20} {addr : BitVec 48} {ecc : Ecc} : GoesCanonical (execPatrolScrub stack addr ecc s) :=
  .next (State.Canonical.ite h.stackError h)

theorem State.Canonical.execSliceRead {port : Option (Fin 32)} {addr : BitVec 48} {cycle : Nat} {ecc : Ecc} :
    GoesCanonical (execSliceRead port addr cycle ecc s) := by
  unfold Sys2Proof.Machine.execSliceRead
  dsimp only
  refine .ite ?_ ?_
  · exact .next h
  · split
    · exact .next h.readError
    · exact .ite (.next h.portRead) (.next h.readError.portRead)
    · exact .next h.stackError
    · exact .next h

theorem State.Canonical.sliceWrites {who : Option Ranked} {rs : List (Nat × Nat)} {bs : List Byte} : (s.sliceWrites who rs bs).Canonical := by
  induction rs generalizing s bs with
  | nil => exact h
  | cons r rs ih =>
    unfold State.sliceWrites
    dsimp only
    exact ih (State.Canonical.ite h.devWrite h)

theorem State.Canonical.execReduceContribution {src : Contributor} {addr : BitVec 48} {data : List Byte} :
    GoesCanonical (execReduceContribution src addr data s) := by
  unfold Sys2Proof.Machine.execReduceContribution
  dsimp only
  refine .ite ?_ ?_
  · split
    · exact .ite (.next h.sliceWrites) (.next h)
    · exact .next h.sliceWrites
    · exact .next h.sliceWrites
  · exact .next h

theorem State.Canonical.retryReduce {d k : Nat} : (s.retryReduce d k).Canonical := by
  unfold State.retryReduce
  dsimp only
  split
  · exact h
  · exact .ite h (.ite h.modDie.bumpDie (.ite h h.modDie.offer))

theorem State.Canonical.dropHeld {k : Nat} : (s.dropHeld k).Canonical := by
  unfold State.dropHeld
  dsimp only
  exact h.modDie

theorem State.Canonical.fenceCluster {k : Nat} : (s.fenceCluster k).Canonical := by
  unfold State.fenceCluster
  dsimp only
  refine .ite ?_ ?_
  · exact h
  · exact ((State.Canonical.ite h.ticks h).foldl fun _ _ h => h.fenceCore).modDie.dropHeld.withFabric.foldl fun _ _ h => h.portDown

theorem State.Canonical.laneUnderTest {u : TestUnit} : (s.laneUnderTest u).Canonical := by
  unfold State.laneUnderTest
  split
  · exact .ite h h.changePort.divert
  · exact h

theorem State.Canonical.execSelfTestRun {k : Nat} : GoesCanonical (execSelfTestRun k s) := by
  unfold Sys2Proof.Machine.execSelfTestRun
  dsimp only
  split
  · exact .next h
  · exact .ite (.next h) (.next h.withTwin.laneUnderTest)

theorem State.Canonical.fenceUnit {u : TestUnit} : (s.fenceUnit u).Canonical := by
  unfold State.fenceUnit
  dsimp only
  split
  · exact h.fenceCore
  · exact h.fenceCore
  · exact h.fenceCluster
  · exact .ite h.modStack.refreshAll h.modStack
  · exact h.modPort
  · exact h.withBoard

theorem State.Canonical.laneTested {u : TestUnit} : (s.laneTested u).Canonical := by
  unfold State.laneTested
  dsimp only
  split
  · exact .ite h h.changePort
  · exact h

theorem State.Canonical.coreTested {u : TestUnit} : (s.coreTested u).Canonical := by
  unfold State.coreTested
  split
  · split
    · exact h.resumeWaiting
    · exact h
  · split
    · exact h.resumeWaiting
    · exact h
  · exact h

theorem State.Canonical.execSelfTestComplete {k : Nat} {pass : Bool} : GoesCanonical (execSelfTestComplete k pass s) := by
  unfold Sys2Proof.Machine.execSelfTestComplete
  dsimp only
  split
  · exact .next h
  · refine .ite ?_ ?_
    · exact .next h
    · exact .next ((State.Canonical.ite h.tick.withTwin.log.bumpTwin h.tick.withTwin.fenceUnit.log.bumpTwin).laneTested.coreTested)

theorem State.Canonical.repairRows : s.repairRows.Canonical := h.foldl fun _ _ h => h.modStack

/-! ### Loader -/

theorem State.Canonical.loaderRequest {f : State → State} (hf : ∀ t, t.Canonical → (f t).Canonical) : (s.loaderRequest f).Canonical :=
  .ite ⟨h.1, h.2, h.3, h.4⟩ (hf s h)

theorem State.Canonical.loaderEnds {op : BitVec 4} {status : Code} : (s.loaderEnds op status).Canonical := h.modLoader

omit h in
@[simp] theorem Loader.staging_cycled (l : Loader) (r : Checked) : (l.cycled r).staging = l.staging := by
  unfold Loader.cycled
  split <;> rfl

theorem State.Canonical.checkStaged : s.checkStaged.1.Canonical := h.modLoader (hf := fun l => l.staging_cycled _)

theorem State.Canonical.execClVerify : GoesCanonical (execClVerify s) := .next (h.loaderRequest (fun _ h => h.modLoader))

theorem State.Canonical.execConsistChecksComplete : GoesCanonical (execConsistChecksComplete s) :=
  .ite (.next h.checkStaged.loaderEnds) (.next h)

theorem State.Canonical.execClApply : GoesCanonical (execClApply s) :=
  .next (h.loaderRequest fun _ h => .ite h.checkStaged.loaderEnds
      (.ite (State.Canonical.modLoader h.checkStaged.withSecurity) h.checkStaged.loaderEnds))

theorem State.Canonical.applyParts {c : Consist} {affected : BitVec 16} : (s.applyParts c affected).Canonical :=
  h.foldl fun _ _ h => State.Canonical.ite h.modPart h

theorem State.Canonical.applyDies {c : Consist} : (s.applyDies c).Canonical := h.foldl fun _ _ h => h.modDie

theorem State.Canonical.applyCluster {k : Nat} : (s.applyCluster k).Canonical := by
  unfold State.applyCluster
  dsimp only
  exact ((h.foldl fun _ _ h => h.fenceCore).foldl fun _ _ h => h.modCore).withSpareUse.modDie

theorem State.Canonical.applyPort {role : BitVec 4} {identity boot : Bool} {n : Nat} : (s.applyPort role identity boot n).Canonical := by
  unfold State.applyPort
  dsimp only
  refine .ite (.ite ?_ (.ite ?_ ?_)) (.ite ?_ (.ite ?_ ?_))
  · exact h
  · exact h.portDown
  · exact h.retrain
  · exact h.portOut.modPort
  · exact h.portOut.modPort.modPort
  · exact h.portOut.modPort.modPort

theorem State.Canonical.applyTimetable {c : Consist} : (s.applyTimetable c).Canonical := h.foldl fun _ _ h => h.modTt

theorem State.Canonical.armImage : s.armImage.Canonical := .ite (h.foldl fun _ _ h => h.modTt.arm) h

theorem State.Canonical.applyDebug {c : Consist} : (s.applyDebug c).Canonical := h.withSecurity

theorem State.Canonical.applyImage {c : Consist} {affected : BitVec 16} {boot : Bool} : (s.applyImage c affected boot).Canonical := by
  unfold State.applyImage
  extract_lets old identity time again s₁ s₂ s₃ s₄ s₅ twin s₆ s₇ s₈ s₉ s₁₀ s₁₁ s₁₂ s₁₃
  have h₂ : s₂.Canonical := h.withConsist.rerouted.applyParts.applyDies
  have h₃ : s₃.Canonical := h₂.foldl fun _ _ h => h.applyCluster
  have h₄ : s₄.Canonical := .ite h₃ h₃.boundary
  have h₆ : s₆.Canonical := h₄.repairRows.withTwin
  have h₇ : s₇.Canonical := .ite h₆.heldUnknown h₆
  have h₈ : s₈.Canonical := h₇.foldl fun _ _ h => h.applyPort
  have h₁₁ : s₁₁.Canonical := h₈.pairChanged.withLt.applyTimetable
  have h₁₂ : s₁₂.Canonical := .ite h₁₁.ltRestart h₁₁
  exact h₁₂.armImage.applyDebug.refreshAll

theorem State.Canonical.execApplyComplete : GoesCanonical (execApplyComplete s) := by
  unfold Sys2Proof.Machine.execApplyComplete
  dsimp only
  split
  · exact .next h
  · exact .next h.modLoader.applyImage.loaderEnds

omit h in
@[simp] theorem Loader.staging_putSlot (l : Loader) (b : Bool) (x : FlashSlot) : (l.putSlot b x).staging = l.staging := by
  cases b <;> rfl

theorem State.Canonical.execClPersist : GoesCanonical (execClPersist s) :=
  .next (h.loaderRequest fun _ h => .ite h.checkStaged.loaderEnds h.checkStaged.modLoader)

theorem State.Canonical.execPersistComplete {readBackOk : Bool} : GoesCanonical (execPersistComplete readBackOk s) := by
  unfold Sys2Proof.Machine.execPersistComplete
  dsimp only
  refine .ite (.next h) (.ite (.next h.loaderEnds) (.next ?_))
  exact State.Canonical.loaderEnds (h.modLoader fun l => l.staging_putSlot _ _)

theorem State.Canonical.deviceReset {supplyLost : Bool} : (s.deviceReset supplyLost).Canonical :=
  ⟨memWfFrom_filter _ h.mem, h.hostOut0, h.hostOut1, rfl⟩

theorem State.Canonical.pinsClear : s.pinsClear.Canonical := h.withBoard

theorem State.Canonical.execResetNAssert {lowUs : Nat} : GoesCanonical (execResetNAssert lowUs s) :=
  .ite (.next h.pinsClear.deviceReset) (.ite (.next h.pinsClear.tick.deviceReset) (.next h.pinsClear.tick))

theorem State.Canonical.execResetNRise : GoesCanonical (execResetNRise s) := .ite (.next h.withStartPowerBoard) (.next h)

theorem State.Canonical.execFusesLoaded : GoesCanonical (execFusesLoaded s) :=
  .ite (.next h) (.next (h.withStartFabricLtBoard.foldl fun _ _ h => h.modCore))

theorem State.Canonical.zeroWindow {inWin inStack : Nat → Bool} : (s.zeroWindow inWin inStack).Canonical :=
  ⟨memWfFrom_filter _ h.mem, h.hostOut0, h.hostOut1, h.staging⟩

theorem State.Canonical.execNearMemoryZeroDone : GoesCanonical (execNearMemoryZeroDone s) := .ite (.next h) (.next h.zeroWindow.withStart)

theorem State.Canonical.execFarMemoryZeroDone : GoesCanonical (execFarMemoryZeroDone s) :=
  .ite (.next h) (.next h.zeroWindow.withStart.pairChanged.refreshAll.tellTwin)

theorem State.Canonical.tryBoot {rs : List (FlashSlot × BitVec 2)} {st : Code} : (s.tryBoot rs st).1.Canonical := by
  induction rs generalizing s st with
  | nil => exact h
  | cons r rs ih =>
    have hcycled {c : Checked} : (s.modLoader (·.cycled c)).Canonical := h.modLoader
    exact .ite_fst hcycled.pair (ih hcycled)

theorem State.Canonical.execBootImageApply : GoesCanonical (execBootImageApply s) :=
  .ite (.next h) (.next (.loaderEnds (.applyImage (.withStartPower h.tryBoot.modLoader))))

/-! ### Power -/

theorem State.Canonical.requestStep {code : Nat} : (s.requestStep code).1.Canonical := by
  unfold State.requestStep
  dsimp only
  split
  · exact h.modPower.bumpPwr.pair
  · exact .ite_fst h.modPower.bumpPwr.pair (State.Canonical.ite h.yielded h).modPower.pair

theorem State.Canonical.stepSettled {byI3c : Bool} : (s.stepSettled byI3c).Canonical := .ite h.modPower.setPower h.modPower

theorem State.Canonical.powerGo {byI3c : Bool} : (s.powerGo byI3c).Canonical :=
  .ite h.requestStep.stepSettled (.ite h.requestStep.stepIbi h.requestStep)

theorem State.Canonical.timedStep {e : Nat} : (s.timedStep e).1.Canonical := .ite h.requestStep.stepSettled h.requestStep

theorem State.Canonical.execPowerStep {e : Fin 256} : GoesCanonical (execPowerStep e s) :=
  .next (State.Canonical.ite (h.fireBy (fun _ h => h.timedStep)) h)

theorem State.Canonical.loseCores : s.loseCores.Canonical := h.foldl fun _ _ h => h.flush.modCore

theorem State.Canonical.loseMemory : s.loseMemory.Canonical := h.zeroWindow.withDies.foldl fun _ _ h => h.modPart

theorem State.Canonical.enterOff {trip : Bool} : (s.enterOff trip).Canonical := h.deviceReset.withStartPowerBoard

theorem State.Canonical.enter {t : PwrState} : (s.enter t).Canonical := by
  unfold State.enter
  dsimp only
  refine .ite ?_ ?_
  · exact (State.Canonical.ite (State.Canonical.ite h.loseCores h).loseMemory (State.Canonical.ite h.loseCores h)).returnsToRun
  · exact (State.Canonical.ite (State.Canonical.ite h.loseCores h).loseMemory (State.Canonical.ite h.loseCores h)).setPower

theorem State.Canonical.execPowerStepComplete : GoesCanonical (execPowerStepComplete s) :=
  .next (State.Canonical.ite h (State.Canonical.ite (State.Canonical.ite h.enterOff.stepIbi h.enterOff) h.enter))

theorem State.Canonical.execMarginPlanStart : GoesCanonical (execMarginPlanStart s) := .next (State.Canonical.ite h h.startPlan)

theorem State.Canonical.pauseCores : s.pauseCores.Canonical := h.foldl fun _ _ h => h.modCore.tick

theorem State.Canonical.tellLevel : s.tellLevel.Canonical := h.foldl fun _ _ h => h.putMsg

theorem State.Canonical.applyClock {mhz mv : Nat} {first : Bool} : (s.applyClock mhz mv first).Canonical := by
  unfold State.applyClock
  dsimp only
  refine .ite ?_ (.ite ?_ (.ite ?_ ?_))
  · refine .log (.ite ?_ (.ite ?_ ?_))
    · exact (State.Canonical.ite h.modPower.pauseCores.bumpPwr h.modPower).tellLevel
    · exact h.modPower.pauseCores.bumpPwr
    · exact h.modPower
  · exact (State.Canonical.ite h.modPower.pauseCores.bumpPwr h.modPower).tellLevel
  · exact h.modPower.pauseCores.bumpPwr
  · exact h.modPower

theorem State.Canonical.execMarginPlanComplete {table : List Slack} {die : Fin 8} {mon : BitVec 6} {worst : BitVec 16} :
    GoesCanonical (execMarginPlanComplete table die mon worst s) := .ite (.next h) (.next h.withStart.modPower.ticks.applyClock.bumpPwr)

theorem State.Canonical.execCapUpdate {avg1ms avg100ms inMv : BitVec 16} {w : BitVec 8} :
    GoesCanonical (execCapUpdate avg1ms avg100ms inMv w s) :=
  .ite (.next h) (.next h.pass.modPower.tick.traced)

theorem State.Canonical.execThermalWithholdStep {die : BitVec 4} {temp : BitVec 12} : GoesCanonical (execThermalWithholdStep die temp s) :=
  .ite (.next h) (.next h.pass.modPower.ticks)

theorem State.Canonical.execPwrCntClr : GoesCanonical (execPwrCntClr s) := .next h.modPower

theorem State.Canonical.execVaux12Fail : GoesCanonical (execVaux12Fail s) := .ite (.next h) (.next h.enterOff.withPowerBoard)

/-! ### Security -/

theorem State.Canonical.modSecurity {f : Security → Security} : (s.modSecurity f).Canonical := h.withSecurity

theorem State.Canonical.keyStatus {c : Code} : (s.keyStatus c).Canonical := h.modSecurity

theorem State.Canonical.dbgStatus {c : Code} : (s.dbgStatus c).Canonical := h.modSecurity

theorem State.Canonical.execKeyWrite : GoesCanonical (execKeyWrite s) :=
  .next (State.Canonical.ite h (State.Canonical.ite h.modSecurity.keyStatus h.keyStatus))

theorem State.Canonical.execKeyRevoke : GoesCanonical (execKeyRevoke s) :=
  .next (State.Canonical.ite h (State.Canonical.ite h.keyStatus h.modSecurity.keyStatus))

theorem State.Canonical.execAttGo : GoesCanonical (execAttGo s) := .next (State.Canonical.ite h.keyStatus (State.Canonical.ite h h.modSecurity))

theorem State.Canonical.execAttestationComplete : GoesCanonical (execAttestationComplete s) :=
  .ite (.next h) (.ite (.next h.modSecurity.keyStatus) (.next h.modSecurity.tick.modSecurity.keyStatus))

theorem State.Canonical.debugResume {c : Nat} : (s.debugResume c).Canonical := .ite h.modCore h

theorem State.Canonical.setLevel {scope : Nat} {level : BitVec 2} : (s.setLevel scope level).Canonical :=
  .ite h.modSecurity (h.modSecurity.foldl fun _ _ h => h.debugResume)

theorem State.Canonical.capLevels {cap : BitVec 2} : (s.capLevels cap).Canonical := h.foldl fun _ _ h => State.Canonical.ite h.setLevel h

theorem State.Canonical.raise {scope : Nat} {level : BitVec 2} : (s.raise scope level).Canonical :=
  .ite h.dbgStatus (State.Canonical.ite h.dbgStatus h.setLevel.dbgStatus)

theorem State.Canonical.writeLevel {scope : Nat} {level : BitVec 2} : (s.writeLevel scope level).Canonical := by
  unfold State.writeLevel
  refine .ite ?_ (.ite ?_ ?_)
  · exact h
  · exact h.setLevel
  · split
    · exact h
    · exact .ite h.dbgStatus h.raise
    · exact h.raise

theorem State.Canonical.execDbgChallenge : GoesCanonical (execDbgChallenge s) :=
  .next (State.Canonical.ite h (State.Canonical.ite h.dbgStatus (State.Canonical.ite h.dbgStatus h.ticks.modSecurity.dbgStatus)))

theorem State.Canonical.noChallenge : s.noChallenge.Canonical := h.modSecurity

theorem State.Canonical.beginWipe {p : Nat} : (s.beginWipe p).Canonical :=
  .ite h.modPart ((State.Canonical.ite h.discardParked h.beginReset).foldl fun _ _ h => h.tick.complete).modPart

theorem State.Canonical.startWipe {ps : List Nat} {after : AfterWipe} : (s.startWipe ps after).Canonical := by
  unfold State.startWipe
  dsimp only
  exact (h.foldl fun _ _ h => h.beginWipe).modSecurity

theorem State.Canonical.zeroBytes {a n : Nat} : (s.zeroBytes a n).Canonical := by
  unfold State.zeroBytes
  extract_lets z
  have hz : z.Canonical := ⟨memory_wf_memZero h.mem a n, h.hostOut0, h.hostOut1, h.staging⟩
  exact .ite hz hz.freshWritten

theorem State.Canonical.zeroScratch {a : Nat} : (s.zeroScratch a).Canonical := .ite h.tick.modDie h.zeroBytes

theorem State.Canonical.zeroGrant {g : Grant} : (s.zeroGrant g).Canonical := .ite (h.foldl fun _ _ h => h.zeroScratch) h.zeroBytes

theorem State.Canonical.wiped {p : Nat} : (s.wiped p).Canonical := by
  unfold State.wiped
  dsimp only
  refine .modSecurity ?_
  refine .modPart ?_
  refine .ite ?_ ?_
  · exact (h.foldl fun _ _ h => h.zeroGrant).zeroBytes.withSealed.endReset
  · exact (h.foldl fun _ _ h => h.zeroGrant).zeroBytes.withSealed

theorem State.Canonical.enterLifecycle {l : Lifecycle} : (s.enterLifecycle l).Canonical := by
  unfold State.enterLifecycle
  dsimp only
  split
  · exact h.modSecurity.capLevels
  · exact .ite h.modSecurity.modSecurity.capLevels h.modSecurity.modSecurity.capLevels.enter
  · exact h.modSecurity.modSecurity
  · exact h.modSecurity

theorem State.Canonical.wipeInto {l : Lifecycle} {challenge : Bool} : (s.wipeInto l challenge).Canonical := .ite h.dbgStatus h.startWipe

theorem State.Canonical.submitLifecycle : s.submitLifecycle.Canonical := by
  unfold State.submitLifecycle
  dsimp only
  split
  · exact .ite h.enterLifecycle h.dbgStatus
  · exact h.enterLifecycle
  · exact .ite h.dbgStatus h.wipeInto
  · exact .ite h.dbgStatus h.wipeInto
  · exact h.wipeInto
  · exact h.wipeInto
  · exact h.wipeInto
  · exact h.wipeInto
  · exact h.dbgStatus

theorem State.Canonical.submitLevel : s.submitLevel.Canonical := .ite h.dbgStatus (.ite h.dbgStatus (.ite h.dbgStatus h.startWipe))

theorem State.Canonical.submit : s.submit.Canonical := .ite h (.ite h.dbgStatus (.ite h.submitLifecycle h.submitLevel))

theorem State.Canonical.afterWipe : s.afterWipe.Canonical := by
  unfold State.afterWipe
  dsimp only
  split
  · split
    · exact .ite h.modSecurity.dbgStatus h.modSecurity.setLevel.dbgStatus
    · exact h.modSecurity.enterLifecycle
  · exact h

theorem State.Canonical.execWipeComplete {scope : Nat} : GoesCanonical (execWipeComplete scope s) :=
  .next (State.Canonical.ite (h.foldl fun _ _ h => h.wiped).afterWipe h)

theorem State.Canonical.execDebugHalt {c : CoreId} : GoesCanonical (execDebugHalt c s) := .next (State.Canonical.ite h.interruptCore.modCore h)

theorem State.Canonical.stepOp {c : CoreId} {g : Guard} {op : Op} : GoesCanonical (stepOp c g op s) := by
  cases op
  case alu => exact h.alu
  case conv => exact h.conv
  case immOp => exact h.immediate
  case cmp => exact h.compare
  case pred => exact h.predOps
  case br => exact h.execSqBr
  case loop => exact h.execSqLoop
  case endK => exact h.execSqEnd
  case ld => exact h.execSqLd
  case st => exact h.execSqSt
  case nopK => exact h.execSqNop
  case fence => exact h.execSqFence
  case rdsys => exact h.execSqRdsys
  case tcfg => exact h.execTcfg
  case ingest => exact h.execTmIngest
  all_goals exact h.engineIssue

theorem State.Canonical.execDebugSingleStep {c : CoreId} {i : GOp} : GoesCanonical (execDebugSingleStep c i s) := by
  unfold Sys2Proof.Machine.execDebugSingleStep
  dsimp only
  refine .ite (.next h) ?_
  split
  · next e => exact .next (State.Canonical.modCore (h.setCore.stepOp _ e))
  · exact h.setCore.stepOp

/-! ### Registers -/

theorem State.Canonical.readRegister {off size : Nat} : (s.readRegister off size).1.Canonical := .ite h.ltNowRead h

theorem State.Canonical.writeCoreBlock {c : Nat} {f : Core → Core} : (s.writeCoreBlock c f).Canonical := .ite h.modCore h

theorem State.Canonical.clearStalls {c : Nat} : (s.clearStalls c).Canonical := h.writeCoreBlock

theorem State.Canonical.clearMx {c : Nat} : (s.clearMx c).Canonical := h.writeCoreBlock

theorem State.Canonical.clearVx {c : Nat} : (s.clearVx c).Canonical := h.writeCoreBlock

theorem State.Canonical.clearUp {c : Nat} : (s.clearUp c).Canonical := h.writeCoreBlock

theorem State.Canonical.clearXb {d : Nat} : (s.clearXb d).Canonical := h.modDie

theorem State.Canonical.clearSy {p : Nat} : (s.clearSy p).Canonical := h.modPart

theorem State.Canonical.clearPort {n : Nat} : (s.clearPort n).Canonical := h.modPort

theorem State.Canonical.doneBy {f : State → Host.Outcome State Fault Refusal} (hf : ∀ t, t.Canonical → GoesCanonical (f t)) :
    (doneBy f s).Canonical := by
  unfold Sys2Proof.Machine.doneBy
  split
  · next e => exact hf s h _ e
  · exact h

theorem State.Canonical.onBit {a : Word} {i : Nat} {f : State → State} (hf : ∀ t, t.Canonical → (f t).Canonical) :
    (onBit a i f s).Canonical := .ite (hf s h) h

theorem State.Canonical.writePart {hp : HostPort} {p o : Nat} {m a : Word} : (s.writePart hp p o m a).Canonical := by
  unfold State.writePart
  dsimp only
  refine .ite (.ite ?_ ?_) (.ite (.ite ?_ ?_) (.ite (.ite ?_ ?_) (.ite ?_ (.ite ?_ ?_))))
  · exact h
  · exact h.modPart
  · exact h
  · exact h.modPart
  · exact h
  · exact h.modPart
  · exact h.ringConfig
  · exact h.partCtrl fun _ h =>
      (((h.onBit fun _ h => h.modPart).onBit fun _ h => h.preemptNow).onBit fun _ h => h.resetNow).onBit fun _ h => h.clearPart
  · exact h

theorem State.Canonical.writeCore {c o : Nat} {a : Word} : (s.writeCore c o a).Canonical := by
  unfold State.writeCore
  refine .ite ?_ (.ite ?_ (.ite ?_ (.ite ?_ ?_)))
  · exact h.onBit fun _ h => h.clearStalls
  · exact h.onBit fun _ h => h.clearMx
  · exact h.onBit fun _ h => h.clearVx
  · exact h.onBit fun _ h => h.clearUp
  · exact h

theorem State.Canonical.writeEntry {e o : Nat} {m a : Word} : (s.writeEntry e o m a).Canonical := by
  unfold State.writeEntry
  dsimp only
  refine .ite (.ite ?_ ?_) (.ite (.ite ?_ ?_) (.ite (.ite ?_ ?_) ?_))
  · exact h
  · exact h.modTt
  · exact h
  · exact h.modTt
  · exact h.onBit fun _ h => h.cancelEntry
  · exact (State.Canonical.ite h h.modTt).onBit fun _ h => h.armEntry
  · exact h

theorem State.Canonical.writeTime {o : Nat} {m a : Word} : (s.writeTime o m a).Canonical :=
  .ite (h.onBit fun _ h => h.doneBy fun _ h => h.execLtCntClr) (.ite h.writeEntry h)

theorem State.Canonical.writeSec {p o : Nat} {m a : Word} : (s.writeSec p o m a).Canonical := by
  unfold State.writeSec
  refine .ite ?_ (.ite ?_ (.ite ?_ (.ite ?_ ?_)))
  · exact h.modSec
  · exact h.modSec
  · exact h.modSec
  · exact ((h.onBit (fun _ h => h.abandonGen)).onBit (fun _ h => h.beginRestore)).onBit fun _ h => h.beginRestore
  · exact h

theorem State.Canonical.writeTwin {o : Nat} {m a : Word} : (s.writeTwin o m a).Canonical :=
  .ite (h.withTwin.onBit fun _ h => h.doneBy fun _ h => h.execSecCntClr) (.ite h.writeSec h)

theorem State.Canonical.writePower {o : Nat} {m a : Word} {byI3c : Bool} : (s.writePower o m a byI3c).Canonical := by
  unfold State.writePower
  refine .ite ?_ (.ite ?_ ?_)
  · exact h.modPower.onBit fun _ h => h.powerGo
  · exact (h.onBit (fun _ h => h.doneBy (fun _ h => h.execPwrCntClr))).onBit fun _ h => h.doneBy fun _ h => h.execMarginPlanStart
  · exact h

theorem State.Canonical.writeSecurity {o : Nat} {m a : Word} : (s.writeSecurity o m a).Canonical := by
  unfold State.writeSecurity
  refine .ite ?_ (.ite ?_ (.ite ?_ (.ite ?_ (.ite ?_ (.ite ?_ (.ite ?_ (.ite ?_ ?_)))))))
  · exact (h.modSecurity.onBit (fun _ h => h.doneBy (fun _ h => h.execKeyWrite))).onBit fun _ h => h.doneBy fun _ h => h.execKeyRevoke
  · exact h.modSecurity
  · exact h.writeLevel
  · exact h.modSecurity
  · exact (h.onBit (fun _ h => h.doneBy (fun _ h => h.execDbgChallenge))).onBit fun _ h => h.submit
  · exact h.modSecurity
  · exact h.modSecurity
  · exact h.onBit fun _ h => h.doneBy fun _ h => h.execAttGo
  · exact h

theorem State.Canonical.writeClCtrl {a : Word} : (s.writeClCtrl a).Canonical := by
  unfold State.writeClCtrl
  refine .ite ?_ (.ite ?_ (.ite ?_ (.ite ?_ ?_)))
  · exact h.loaderRequest fun _ h => h
  · exact h.doneBy fun _ h => h.execClVerify
  · exact h.doneBy fun _ h => h.execClApply
  · exact h.doneBy fun _ h => h.execClPersist
  · exact h

theorem State.Canonical.writeLoader {o : Nat} {m a : Word} : (s.writeLoader o m a).Canonical := by
  have hstage (t : State) (ht : t.Canonical) : (t.modLoader fun l =>
      { l with staging := memWrite l.staging (o - 0x100000) (leBytes 8 m.toNat) }).Canonical :=
    ⟨ht.mem, ht.hostOut0, ht.hostOut1, memory_wf_memWrite _ ht.staging _⟩
  exact .ite h.writeClCtrl (.ite h.modLoader (.ite (h.loaderRequest hstage) h))

theorem State.Canonical.writePort {n o : Nat} {a : Word} : (s.writePort n o a).Canonical :=
  .ite ((h.onBit (fun _ h => h.retrain)).onBit (fun _ h => h.clearPort)) h

theorem State.Canonical.writeReg {hp : HostPort} {off : Nat} {m a : Word} : (s.writeReg hp off m a).Canonical := by
  unfold State.writeReg
  refine .ite ?_ (.ite ?_ (.ite ?_ (.ite (.ite ?_ ?_) (.ite (.ite ?_ ?_) (.ite ?_ (.ite ?_ (.ite (.ite ?_ ?_) (.ite ?_
      (.ite ?_ (.ite ?_ (.ite ?_ ?_)))))))))))
  · exact h.withBar4Base
  · exact h.writePart
  · exact h.writeCore
  · exact h.onBit fun _ h => h.clearXb
  · exact h
  · exact h.onBit fun _ h => h.modPart
  · exact h
  · exact h.writePort
  · exact h.writeTime
  · exact h.onBit fun _ h => h.clearSy
  · exact h
  · exact h.writeTwin
  · exact h.writePower
  · exact h.writeSecurity
  · exact h.writeLoader
  · exact h

theorem State.Canonical.bar0Write {hp : HostPort} {off size : Nat} {v : Word} : (s.bar0Write hp off size v).Canonical := by
  unfold State.bar0Write
  dsimp only
  split
  · exact h.writeReg
  · exact h

/-! ### Board -/

theorem State.Canonical.modBoard {f : Board → Board} : (s.modBoard f).Canonical := h.withBoard

theorem State.Canonical.execI3cReadRequest {off : BitVec 32} : GoesCanonical (execI3cReadRequest off s) :=
  .next (State.Canonical.ite h (State.Canonical.ite h.modBoard h.modBoard))

theorem State.Canonical.jtag {ir : BitVec 8} {f : Board → Board} : (s.jtag ir f).Canonical := .ite h.modBoard h

theorem State.Canonical.scan {ir : BitVec 8} {bits : BitVec 32} : (s.scan ir bits).Canonical := h.jtag.tick

theorem State.Canonical.probeLoad {x : Config.ProbePlace} : (s.probeLoad x).1.Canonical := by
  unfold State.probeLoad
  split
  · exact h
  · exact h
  · exact h
  · exact h.agentReads
  · exact h

theorem State.Canonical.probeStore {x : Config.ProbePlace} {v : Word} : (s.probeStore x v).Canonical := by
  unfold State.probeStore
  dsimp only
  split
  · exact h.writeCoreBlock
  · exact h.writeCoreBlock
  · exact h.writeCoreBlock
  · exact h.devWriteAt
  · exact h

theorem State.Canonical.probeRead {off : Nat} : (s.probeRead off).1.Canonical := by
  unfold State.probeRead
  dsimp only
  refine .ite_fst (.ite_fst ?_ ?_) ?_
  · exact h.readRegister.pair
  · exact h
  · split
    · exact .ite_fst h.probeLoad.pair h
    · exact h

theorem State.Canonical.probeWrite {off : Nat} {v : Word} : (s.probeWrite off v).Canonical := by
  unfold State.probeWrite
  refine .ite (.ite ?_ ?_) ?_
  · exact h.bar0Write
  · exact h
  · split
    · exact .ite h.probeStore h
    · exact h

theorem State.Canonical.execDbgacc {w : BitVec 104} : GoesCanonical (execDbgacc w s) := by
  unfold Sys2Proof.Machine.execDbgacc
  dsimp only
  refine .next ?_
  refine .ite ?_ (.ite ?_ ?_)
  · exact h.jtag
  · exact h.jtag.probeWrite
  · split
    · next e => exact (h.jtag.probeRead.of_eq e).modBoard
    · next e => exact (h.jtag.probeRead.of_eq e).modBoard.tick

theorem State.Canonical.sendPending {hp : HostPort} {fn : Nat} : (s.sendPending hp fn).Canonical := h.foldl fun _ _ h => h.modPcie.withIntrs

theorem State.Canonical.configure {hp : HostPort} {r : CfgReq} : (s.configure hp r).Canonical := by
  unfold State.configure
  split
  · exact h
  · exact h
  · exact h.modPcie
  · exact .ite h.modPcie.sendPending h
  · exact .ite h.modPcie h
  · exact .ite h.modPcie h

end

end Sys2Proof.Machine

namespace Sys2Proof.Machine

/-- Every command keeps the memories in canonical form. -/
theorem State.Canonical.exec {s : State} (h : s.Canonical) (i : Instr) : GoesCanonical (exec i s) := by
  cases i <;> dsimp only [Machine.exec]
  case sqAdd | sqSub | sqMul | sqMulhu | sqAnd | sqOr | sqXor | sqShl | sqShr | sqSra | sqMin | sqMax | sqMinu | sqMaxu | sqFadd | sqFsub
      | sqFmul =>
    exact h.alu
  case sqI2f | sqF2i => exact h.conv
  case sqAddi | sqAndi | sqOri | sqXori | sqShli | sqShri | sqSrai => exact h.immediate
  case sqCeq | sqCne | sqClt | sqCge | sqCltu | sqCgeu | sqCflt | sqCfle | sqCfeq => exact h.compare
  case sqPand | sqPor | sqPxor | sqPnot => exact h.predOps
  case sqBr => exact h.execSqBr
  case sqLoop => exact h.execSqLoop
  case sqEnd => exact h.execSqEnd
  case sqLd => exact h.execSqLd
  case sqSt => exact h.execSqSt
  case sqNop => exact h.execSqNop
  case sqFence => exact h.execSqFence
  case sqRdsys => exact h.execSqRdsys
  case tcfg => exact h.execTcfg
  case bankWakeComplete => exact h.execBankWakeComplete
  case tld | tst | tldX | tstX | mxMm | mxMmq | mxEw | mxAccld | mxLdb | mxSt | mxRmode | mxSeed | vxAdd | vxMul | vxFma | vxMax | vxMin
      | vxCvt | vxAct | vxActd | vxFn | vxRand | vxTload | vxSeed | vxNorm | vxNormb | vxSmax | vxSmaxb | tmDld | tmDst | tmDset |
      tmCopy | tmGather | tmScatter | tmRput | tmRget | syBind | syAdd | syWait | syRead | syBar | syBarcfg | upSq | upStep | upSetstep =>
    exact h.engineIssue
  case engineStart => exact h.execEngineStart
  case engineInstructionComplete => exact h.execEngineInstructionComplete
  case bLoadComplete => exact h.execBLoadComplete
  case aRowRead => exact h.execARowRead
  case aRowEnter | accResultWrite => exact .next h.modWorking
  case fusedStoreComplete => exact h.execFusedStoreComplete
  case tmIngest => exact h.execTmIngest
  case ingestReadCompletion => exact h.execIngestReadCompletion
  case ingestCompletionTimeout => exact h.execIngestCompletionTimeout
  case waitTimeout => exact h.execWaitTimeout
  case updateHoldRelease => exact .next (State.Canonical.ite h.upResume h)
  case platformWordArrival => exact h.execPlatformWordArrival
  case ringDb => exact h.execRingDb
  case cqDb => exact h.execCqDb
  case nop | timestamp => exact h.startCmd fun _ _ h => h.endCmd
  case bind => exact h.execBind
  case unbind => exact h.execUnbind
  case load => exact h.execLoad
  case translationComplete => exact h.execTranslationComplete
  case unload => exact h.startCmd fun _ _ h => h.modPart.endCmd
  case launch => exact h.execLaunch
  case launchDeferredStart => exact h.execLaunchDeferredStart
  case resume => exact h.execResume
  case abort => exact h.execAbort
  case preempt => exact h.startCmd fun _ _ h => h.addCmd.beginSave
  case saveComplete => exact h.execSaveComplete
  case restore => exact h.execRestore
  case reset => exact h.execReset
  case resetComplete => exact h.execResetComplete
  case copy => exact h.startCmd fun _ _ h => h.addCmd
  case copyComplete => exact h.execCopyComplete
  case signal => exact h.execSignal
  case wait => exact h.execWait
  case completionRecordWrite | eventRecordWrite => exact .next h.writeRecord
  case consumerMirrorWrite => exact h.execConsumerMirrorWrite
  case ringCfgWrite => exact .next h.ringConfig
  case partRestart => exact .next (h.partCtrl (fun _ h => h.modPart))
  case preemptNow => exact .next (h.partCtrl (fun _ h => h.preemptNow))
  case resetNow => exact .next (h.partCtrl (fun _ h => h.resetNow))
  case partCntClr => exact .next (h.partCtrl (fun _ h => h.clearPart))
  case vfFunctionLevelReset => exact h.execVfFunctionLevelReset
  case bar4Write => exact h.execBar4Write
  case registerWrite => exact .next (State.Canonical.ite h.bar0Write h)
  case coreStallClr => exact .next h.clearStalls
  case mxCntClr => exact .next h.clearMx
  case vxCntClr => exact .next h.clearVx
  case upCntClr => exact .next h.clearUp
  case xbCntClr => exact .next h.clearXb
  case syCntClr => exact .next h.clearSy
  case portCntClr => exact .next h.clearPort
  case ltCntClr => exact h.execLtCntClr
  case secCntClr => exact h.execSecCntClr
  case pwrCntClr => exact h.execPwrCntClr
  case xlatInval => exact .next h.modPart
  case xlatInvalDone => exact .next (State.Canonical.ite h.modPart h)
  case l1EvictionWriteback => exact h.execL1EvictionWriteback
  case sliceRead => exact h.execSliceRead
  case sliceWrite => exact .next h.sliceWrites
  case reduceContribution => exact h.execReduceContribution
  case reduceRetry => exact .next h.retryReduce
  case flowHoldRelease => exact h.execFlowHoldRelease
  case patrolScrub => exact h.execPatrolScrub
  case selfTestRun => exact h.execSelfTestRun
  case selfTestComplete => exact h.execSelfTestComplete
  case dataFlitReceive => exact h.execDataFlitReceive
  case controlFlitReceive => exact h.execControlFlitReceive
  case trainingFlitReceive => exact h.execTrainingFlitReceive
  case replayTimeout => exact h.execReplayTimeout
  case linkRetrain => exact .next (State.Canonical.ite h.retrain h)
  case retrainTimeout => exact .next (State.Canonical.ite h.portDown.testLanes h)
  case portRetrain => exact .next h.retrain
  case laserInputLoss => exact h.execLaserInputLoss
  case capLevelUpdate => exact .next (State.Canonical.ite h.modPort h)
  case write | write64 | read | inc => exact .next h.requestArrives
  case readData | ack | nack => exact .next h.answerArrives
  case transferAckTimeout => exact h.execTransferAckTimeout
  case prelockTransferTimeout => exact h.execPrelockTransferTimeout
  case longLineRecordReceive => exact h.execLongLineRecordReceive
  case rosterReceive => exact h.execRosterReceive
  case rosterApply => exact h.execRosterApply
  case rosterGraceExpiry => exact h.execRosterGraceExpiry
  case beaconSend => exact h.execBeaconSend
  case beaconReceive => exact h.execBeaconReceive
  case lockAchieved => exact h.execLockAchieved
  case holdoverEntry => exact .next (State.Canonical.ite h.passTo.enterLt.bumpLt h)
  case unlockTimeout => exact .next (State.Canonical.ite h.passTo.enterLt h)
  case backupTakeover => exact h.execBackupTakeover
  case ltNowRead => exact .next h.ltNowRead
  case timetableArm => exact .next h.armEntry
  case timetableCancel => exact .next h.cancelEntry
  case timetableCopyReceive => exact .next (State.Canonical.ite h.copyArrives h)
  case timetableFire => exact .next (State.Canonical.ite h.fire h)
  case powerStep => exact h.execPowerStep
  case secureWindowEnd => exact h.execSecureWindowEnd
  case generationStageAdvance => exact h.execGenerationStageAdvance
  case unitCopied => exact h.execUnitCopied
  case lossWaitTimeout => exact h.execLossWaitTimeout
  case generationCommit => exact h.execGenerationCommit
  case twinRecordReceive => exact h.execTwinRecordReceive
  case abandon => exact .next h.abandonGen
  case secRestore | restoreOlder => exact .next h.beginRestore
  case restoreComplete => exact h.execRestoreComplete
  case pairLostTimeout => exact .next (State.Canonical.ite h.pairLost h)
  case clVerify => exact h.execClVerify
  case clApply => exact h.execClApply
  case applyComplete => exact h.execApplyComplete
  case clPersist => exact h.execClPersist
  case persistComplete => exact h.execPersistComplete
  case resetNAssert => exact h.execResetNAssert
  case resetNRise => exact h.execResetNRise
  case fusesLoaded => exact h.execFusesLoaded
  case nearMemoryZeroDone => exact h.execNearMemoryZeroDone
  case farMemoryZeroDone => exact h.execFarMemoryZeroDone
  case bootImageApply => exact h.execBootImageApply
  case marginPlanStart => exact h.execMarginPlanStart
  case ageHoursPlan => exact .next (State.Canonical.ite h.pass.modPower.startPlan h)
  case marginPlanComplete => exact h.execMarginPlanComplete
  case pwrGo => exact .next (State.Canonical.ite h h.powerGo)
  case powerStepComplete => exact h.execPowerStepComplete
  case capUpdate => exact h.execCapUpdate
  case thermalWithholdStep => exact h.execThermalWithholdStep
  case thermalTrip | vin48Fail | refclkFail => exact .next (State.Canonical.ite h.enterOff h)
  case vaux12Fail => exact h.execVaux12Fail
  case pwrbrkNChange => exact .next h.withBoard
  case i3cReadRequest => exact h.execI3cReadRequest
  case i3cWriteRequest => exact .next (State.Canonical.ite h.writePower h)
  case i3cAddressAssign => exact .next (State.Canonical.ite h.modBoard h)
  case keyWrite => exact h.execKeyWrite
  case keyRevoke => exact h.execKeyRevoke
  case attGo => exact h.execAttGo
  case attestationComplete => exact h.execAttestationComplete
  case dbgLevelWrite => exact .next h.writeLevel
  case dbgChallenge => exact h.execDbgChallenge
  case dbgSubmit => exact .next (State.Canonical.ite h h.submit)
  case lifecycleChange => exact .next (State.Canonical.ite h.submit h)
  case challengeExpiry => exact .next (State.Canonical.ite h.passTo.noChallenge h)
  case wipeComplete => exact h.execWipeComplete
  case debugHalt => exact h.execDebugHalt
  case debugSingleStep => exact h.execDebugSingleStep
  case debugResume => exact .next (.ite h.debugResume h)
  case extest | samplePreload => exact .next h.scan
  case idcode => exact .next h.jtag
  case dbgacc => exact h.execDbgacc
  case bypass => exact .next (State.Canonical.ite h h.jtag)
  case sequencerInstructionComplete => exact h.execSequencerInstructionComplete
  case configurationRequest => exact .next (State.Canonical.ite h.configure h)
  case msixTableWrite => exact .next (State.Canonical.ite h.modPcie.sendPending h)
  case laserInputReturn => exact .next h.setLaser
  case peerPortDown => exact .next (State.Canonical.ite h.portDown h)
  case rosterPublish => exact .next (State.Canonical.ite h.rosterComes.tellNeighbours h)
  case consistChecksComplete => exact h.execConsistChecksComplete

/-- Settles O60: each command is a composition of operations of the model, and each of them keeps the canonical form of the memories; the
bytes of all six change only by `memSet`, `memWrite`, `memZero` and the filters of a wipe, which keep it. -/
theorem memoriesStayCanonical : Obligations.MemoriesStayCanonical := by
  unfold Obligations.MemoriesStayCanonical
  intro s t hs ht
  have h : s.Canonical := (State.canonical_iff s).2 hs
  refine (State.canonical_iff t).1 ?_
  unfold step at ht
  split at ht
  · cases ht
    exact h.pass
  · exact State.Canonical.exec h.withPending _ t ht

end Sys2Proof.Machine

/-!
TRANSLATION (R232 to R234): what the slices' reads leave of a die's map of scratch, so that an address is populated after a walk's reads
exactly when it was before; the outcomes of a translation by cause; and the walk's first entry.
-/
namespace Sys2Proof.Machine

/-! ## Reads at slices keep what is populated -/

/-- The dies' maps of scratch, and their flag modes, are as before. -/
def State.KeepsScratch (s t : State) : Prop :=
  ∀ d : Nat, (t.die d).scratch512k = (s.die d).scratch512k ∧ (t.die d).flagMode = (s.die d).flagMode

theorem State.KeepsScratch.refl (s : State) : s.KeepsScratch s := fun _ => ⟨rfl, rfl⟩

theorem State.KeepsScratch.trans {s t u : State} (h : s.KeepsScratch t) (k : t.KeepsScratch u) : s.KeepsScratch u :=
  fun d => ⟨(k d).1.trans (h d).1, (k d).2.trans (h d).2⟩

theorem State.KeepsScratch.modDie (s : State) (d : Nat) {f : Die → Die}
    (hf : (f (s.die d)).scratch512k = (s.die d).scratch512k ∧ (f (s.die d)).flagMode = (s.die d).flagMode) : s.KeepsScratch (s.modDie d f) := by
  intro e
  rw [State.die_modDie]
  split
  · next h => exact h ▸ hf
  · exact ⟨rfl, rfl⟩

theorem State.KeepsScratch.fillSlice (s : State) (d sl line : Nat) : s.KeepsScratch (s.fillSlice d sl line) := by
  unfold State.fillSlice
  extract_lets here v s₁
  have h₁ : s.KeepsScratch s₁ := by
    unfold s₁
    split
    · exact .refl s
    · exact .modDie s.tick d ⟨rfl, rfl⟩
  exact h₁.trans (.modDie s₁ d ⟨rfl, rfl⟩)

theorem State.KeepsScratch.cacheRead (s : State) (a : Nat) : s.KeepsScratch (s.cacheRead a) := by
  have hbump (d i : Nat) : s.KeepsScratch (s.bumpDie d i) := .modDie s d ⟨rfl, rfl⟩
  unfold State.cacheRead
  split
  · exact .refl s
  · split
    · exact .refl s
    · split
      · exact hbump _ _
      · exact (hbump _ _).trans (.fillSlice _ _ _ _)

theorem State.KeepsScratch.cacheReads (l : List Nat) (s : State) : s.KeepsScratch (l.foldl State.cacheRead s) := by
  induction l generalizing s with
  | nil => exact .refl s
  | cons a l ih => exact (State.KeepsScratch.cacheRead s a).trans (ih _)

theorem State.KeepsScratch.walkReads (s : State) (p a : Nat) : s.KeepsScratch (s.walkReads p a) :=
  State.KeepsScratch.cacheReads (s.walked p a) s

theorem State.KeepsScratch.populated {s t : State} (h : s.KeepsScratch t) (a : Nat) : t.populated a = s.populated a := by
  have hs (x : Nat) : t.scratchHas x = s.scratchHas x := by
    unfold State.scratchHas
    rw [(h _).1]
  unfold State.populated
  rw [hs, (h _).2]

/-! ## A translation by its cause (R233) -/

/-- The state in which the page that the lookup gave is cached. -/
def State.pageCached (s : State) (p a : Nat) (t : Tlb) : State :=
  (s.walkReads p a).modPart p fun x => { x with tlb := tabPut x.tlb (a / 2 ^ 21) t }

theorem State.granted_pageCached (s : State) (p a : Nat) (t : Tlb) (d : Nat) : (s.pageCached p a t).granted p d = s.granted p d := rfl

theorem State.populated_pageCached (s : State) (p a : Nat) (t : Tlb) (d : Nat) : (s.pageCached p a t).populated d = s.populated d :=
  (State.KeepsScratch.walkReads s p a).populated d

/-- The translation ends without an address: XLAT_FAULT holds the cause and the context address, and neither memory nor a core changes. -/
def State.XlatFaults (s : State) (p a : Nat) (write : Bool) (n : Nat) : Prop :=
  (s.xlat p a write).2 = none ∧ ((s.xlat p a write).1.part p).xlatFault = ⟨true, BitVec.ofNat 3 n, BitVec.ofNat 48 a⟩ ∧
    (s.xlat p a write).1.mem = s.mem ∧ (s.xlat p a write).1.cores = s.cores

theorem State.xlatFaults_of_eq {s t : State} {p a n : Nat} {write : Bool} (h : s.xlat p a write = (t.xlatFails p a n, none))
    (hm : t.mem = s.mem) (hc : t.cores = s.cores) : s.XlatFaults p a write n := by
  unfold State.XlatFaults
  rw [h]
  exact ⟨rfl, by simp [State.xlatFails], hm, hc⟩

theorem State.xlat_error {s : State} {p a n : Nat} {write : Bool} (h : s.lookup p a = .error n) : s.XlatFaults p a write n := by
  refine State.xlatFaults_of_eq (t := s.walkReads p a) ?_ rfl rfl
  unfold State.xlat
  rw [h]

/-- A translation whose lookup gives a page tests its permission, then the grants, then whether the address is populated. -/
theorem State.xlat_page {s : State} {p a : Nat} {write : Bool} {t : Tlb} (h : s.lookup p a = .ok t) :
    s.xlat p a write =
      if (if write then t.write else t.read) = false then ((s.pageCached p a t).xlatFails p a 1, none)
      else if s.granted p (t.base + a % 2 ^ t.log2) = false then ((s.pageCached p a t).xlatFails p a 2, none)
      else if s.populated (t.base + a % 2 ^ t.log2) = false then ((s.pageCached p a t).xlatFails p a 4, none)
      else (s.pageCached p a t, some (t.base + a % 2 ^ t.log2)) := by
  rw [← s.granted_pageCached p a t, ← s.populated_pageCached p a t]
  unfold State.xlat
  rw [h]
  simp only [Bool.not_eq_true']
  rfl

/-! ## A table entry by its cause, and the first entry of a walk (R232, R233) -/

section Entry
variable {s : State} {p e : Nat}

theorem State.tableEntry_ungranted (hg : s.granted p e = false) : s.tableEntry p e = .error 3 := by
  simp [State.tableEntry, hg]

theorem State.tableEntry_unpopulated (hg : s.granted p e = true) (hp : s.populated e = false) : s.tableEntry p e = .error 4 := by
  simp [State.tableEntry, hg, hp]

theorem State.tableEntry_poisoned (hg : s.granted p e = true) (hp : s.populated e = true) (hx : s.poisoned e = true) :
    s.tableEntry p e = .error 5 := by
  simp [State.tableEntry, hg, hp, hx]

theorem State.tableEntry_invalid (hg : s.granted p e = true) (hp : s.populated e = true) (hx : s.poisoned e = false)
    (hv : memNat s.mem (alias_ e) 8 % 2 = 0) : s.tableEntry p e = .error 0 := by
  simp [State.tableEntry, hg, hp, hx, hv]

theorem State.tableEntry_valid (hg : s.granted p e = true) (hp : s.populated e = true) (hx : s.poisoned e = false)
    (hv : memNat s.mem (alias_ e) 8 % 2 ≠ 0) : s.tableEntry p e = .ok (memNat s.mem (alias_ e) 8) := by
  simp [State.tableEntry, hg, hp, hx, hv]

end Entry

/-- The address of the level-1 entry of a context address. -/
def levelOne (root a : Nat) : Nat := root % 2 ^ 48 / 4096 * 4096 + 8 * (a / 2 ^ 30)

/-- An entry that cannot be used ends the walk with its cause. -/
theorem State.walk_error {s : State} {p root a n : Nat} (h : s.tableEntry p (levelOne root a) = .error n) : s.walk p root a = .error n := by
  unfold State.walk
  rw [← levelOne, h]

/-- A level-1 entry with LEAF maps 1 GiB. -/
theorem State.walk_leaf {s : State} {p root a v : Nat} (h : s.tableEntry p (levelOne root a) = .ok v) (hv : v / 2 % 2 = 1) :
    s.walk p root a = .ok (pageOf v 30) := by
  unfold State.walk
  rw [← levelOne, h]
  exact if_pos hv

/-- A lookup with nothing cached walks the tables. -/
theorem State.lookup_uncached {s : State} {p a : Nat} {b : Ctx} (hb : (s.part p).bound = some b) (ht : (s.part p).tlb = []) :
    s.lookup p a = s.walk p b.root.toNat a := by
  unfold State.lookup
  rw [hb, ht]
  rfl

/-- Settles O35: a page's causes are those that `xlat_page` tests in order, a table entry's those of `tableEntry`. -/
theorem translation : Obligations.Translation := by
  unfold Obligations.Translation
  intro s p a write ha
  refine ⟨fun t ht => ?_, fun n hn => State.xlat_error hn, fun root => ?_, fun b hb hx => State.lookup_uncached hb hx, rfl, fun hi => ?_⟩
  · have hpage := State.xlat_page (write := write) ht
    refine ⟨fun hp hg hq => ?_, fun hp => ?_, fun hp hg => ?_, fun hp hg hq => ?_⟩
    · rw [hpage, hp, hg, hq]
      rfl
    · refine State.xlatFaults_of_eq (t := s.pageCached p a t) ?_ rfl rfl
      rw [hpage, if_pos (Bool.eq_false_iff.mpr hp)]
    · refine State.xlatFaults_of_eq (t := s.pageCached p a t) ?_ rfl rfl
      rw [hpage, hp, hg]
      rfl
    · refine State.xlatFaults_of_eq (t := s.pageCached p a t) ?_ rfl rfl
      rw [hpage, hp, hg, hq]
      rfl
  · intro e v
    exact ⟨fun hg => State.walk_error (State.tableEntry_ungranted hg), fun hg hp => State.walk_error (State.tableEntry_unpopulated hg hp),
      fun hg hp hx => State.walk_error (State.tableEntry_poisoned hg hp hx), fun hg hp hx =>
      ⟨fun hv => State.walk_error (State.tableEntry_invalid hg hp hx hv), fun hv =>
        have hodd : v % 2 ≠ 0 := by omega
        have hleaf : v / 2 % 2 = 1 := by omega
        State.walk_leaf (State.tableEntry_valid hg hp hx hodd) hleaf⟩⟩
  · exact congrArg Host.Outcome.next (if_pos hi)

end Sys2Proof.Machine

/-!
READS AT A SLICE (R236, R238): a port's read of a near-memory address joins the open group of its line, or opens one and is counted as a hit
or a miss.
-/
namespace Sys2Proof.Machine

/-! ## A die after an update -/

@[simp] theorem State.die_modDie_same (s : State) (d : Nat) (f : Die → Die) : (s.modDie d f).die d = f (s.die d) := by
  simp [State.die_modDie]

theorem tabGet_bump (t : Tab Word) (i n j : Nat) :
    tabGet 0 (bump t i n) j = if i = j then tabGet 0 t i + BitVec.ofNat 64 n else tabGet 0 t j := tabGet_tabPut 0 t i _ j

/-- Of a die's counters, counter `i` has grown by one and no other has changed. -/
def CountsOne (x y : Die) (i : Nat) : Prop :=
  tabGet 0 y.cnt i = tabGet 0 x.cnt i + 1 ∧ ∀ j, i ≠ j → tabGet 0 y.cnt j = tabGet 0 x.cnt j

theorem CountsOne.congr {x x' y y' : Die} {i : Nat} (h : CountsOne x y i) (hx : x.cnt = x'.cnt) (hy : y'.cnt = y.cnt) : CountsOne x' y' i := by
  unfold CountsOne at *
  rwa [← hx, hy]

theorem CountsOne.of_bump {x y : Die} {i : Nat} (h : y.cnt = bump x.cnt i 1) : CountsOne x y i := by
  unfold CountsOne
  rw [h]
  exact ⟨(tabGet_bump _ _ _ _).trans (if_pos rfl), fun j h => (tabGet_bump _ _ _ _).trans (if_neg h)⟩

theorem State.bumpDie_counts (s : State) (d i : Nat) : CountsOne (s.die d) ((s.bumpDie d i).die d) i :=
  .of_bump (by rw [State.bumpDie, State.die_modDie_same])

@[simp] theorem State.die_bumpDie_groups (s : State) (d i e : Nat) : ((s.bumpDie d i).die e).groups = (s.die e).groups := by
  rw [State.bumpDie, State.die_modDie]
  split
  · next h => rw [h]
  · rfl

/-! ## Reads of near memory -/

/-- The port has joined the group of a line. -/
def State.joined (s : State) (d line port : Nat) : State :=
  s.modDie d fun x => { x with groups := x.groups.map fun h => if h.line = line then { h with ports := h.ports ++ [port] } else h }

theorem State.die_joined {s : State} {d line : Nat} {g : ReadGroup} (hg : (s.die d).groups = [g]) (hl : g.line = line) (port : Nat) :
    (s.joined d line port).die d = { s.die d with groups := [{ g with ports := g.ports ++ [port] }] } := by
  rw [State.joined, State.die_modDie_same, hg, List.map_singleton, if_pos hl]

/-- A group that is opened on a die without one. -/
theorem State.die_newGroup {s : State} {d : Nat} (hg : (s.die d).groups = []) (line port cycle : Nat) :
    (s.newGroup d line port cycle).die d = { s.die d with groups := [⟨line, [port], cycle, s.devBytes (128 * line) 128⟩] } := by
  simp [State.newGroup, hg]

/-- A fill adds its line to the die's cached ones, and counts nothing. -/
theorem State.die_fillSlice (s : State) (d sl line : Nat) :
    line ∈ ((s.fillSlice d sl line).die d).cached ∧ ((s.fillSlice d sl line).die d).cnt = (s.die d).cnt ∧ (s.fillSlice d sl line).mem = s.mem := by
  unfold State.fillSlice
  extract_lets here v s₁
  have h₁ : (s₁.die d).cnt = (s.die d).cnt ∧ s₁.mem = s.mem := by
    unfold s₁
    split
    · exact ⟨rfl, rfl⟩
    · rw [State.die_modDie_same]
      exact ⟨rfl, rfl⟩
  rw [State.die_modDie_same]
  exact ⟨(mem_setAdd _ _ _).2 (.inr rfl), h₁⟩

section Near
variable {a : Nat} (hn : inNear a = true)
include hn

theorem sliceOf_of_near : sliceOf a = some (nearDie a, nearOff a / 2 ^ 8 % 32) := if_pos hn

theorem alias_of_near : alias_ a = a := by
  rw [alias_, (inReduce_of_near hn).1]
  rfl

theorem alias_line_of_near : alias_ (128 * (a / 128)) = 128 * (a / 128) :=
  alias_of_near (decide_eq_true (Nat.lt_of_le_of_lt (Nat.mul_div_le a 128) (of_decide_eq_true hn)))

/-- A read from a port that finds no error reads for its port. -/
theorem exec_sliceRead_near (s : State) (port : Fin 32) (cycle : Nat) {addr : BitVec 48} (ha : addr.toNat = a) :
    exec (.sliceRead (some port) addr cycle .clean) s = .next (s.portRead port.val a cycle) := by
  have herror : s.readError (nearDie a) (nearOff a / 2 ^ 8 % 32) a .clean = s := by
    unfold State.readError
    exact s.eccError_clean _ _
  change execSliceRead (some port) addr cycle .clean s = _
  unfold execSliceRead
  dsimp only
  rw [ha, populated_of_near s hn, sliceOf_of_near hn]
  dsimp only
  rw [herror, ite_self]
  rfl

/-- A read whose line has an open group that takes the port joins it and is counted as merged. -/
theorem State.portRead_joins {s : State} {port cycle : Nat} {g : ReadGroup} (hg : (s.die (nearDie a)).groups = [g]) (hl : g.line = a / 128)
    (h0 : g.cycle ≤ cycle) (h8 : cycle ≤ g.cycle + 8) (hp : port ∉ g.ports) :
    s.portRead port a cycle = (s.joined (nearDie a) (a / 128) port).bumpDie (nearDie a) 2 := by
  have hjoins : s.joins port a cycle = true := by
    unfold State.joins
    rw [sliceOf_of_near hn, alias_of_near hn]
    dsimp only
    rw [hg]
    simp [hl, h0, h8, hp]
  unfold State.portRead
  rw [sliceOf_of_near hn, alias_of_near hn]
  exact if_pos hjoins

/-- A read that finds no open group opens one and reads its line. -/
theorem State.portRead_opens {s : State} {port cycle : Nat} (hg : (s.die (nearDie a)).groups = []) :
    s.portRead port a cycle = (s.newGroup (nearDie a) (a / 128) port cycle).cacheRead a := by
  have hjoins : s.joins port a cycle = false := by
    unfold State.joins
    rw [sliceOf_of_near hn]
    dsimp only
    rw [hg]
    rfl
  unfold State.portRead
  rw [sliceOf_of_near hn, alias_of_near hn]
  exact if_neg (Bool.eq_false_iff.mp hjoins)

/-- A cached line counts a hit. -/
theorem State.cacheRead_hit {s : State} (hc : s.cacheLines (nearDie a) (nearOff a / 2 ^ 8 % 32) ≠ 0)
    (hx : a / 128 ∈ (s.die (nearDie a)).cached) : s.cacheRead a = s.bumpDie (nearDie a) 0 := by
  have hhas : setHas (s.die (nearDie a)).cached (a / 128) = true := List.contains_iff_mem.mpr hx
  unfold State.cacheRead
  rw [sliceOf_of_near hn]
  dsimp only
  rw [hn, hhas, decide_eq_false hc]
  rfl

/-- Any other line counts a miss and fills the slice. -/
theorem State.cacheRead_miss {s : State} (hc : s.cacheLines (nearDie a) (nearOff a / 2 ^ 8 % 32) ≠ 0)
    (hx : a / 128 ∉ (s.die (nearDie a)).cached) :
    s.cacheRead a = (s.bumpDie (nearDie a) 1).fillSlice (nearDie a) (nearOff a / 2 ^ 8 % 32) (a / 128) := by
  have hhas : setHas (s.die (nearDie a)).cached (a / 128) = false := Bool.eq_false_iff.mpr fun h => hx (List.contains_iff_mem.mp h)
  unfold State.cacheRead
  rw [sliceOf_of_near hn]
  dsimp only
  rw [hn, hhas, decide_eq_false hc]
  rfl

/-- A merged read: its port joins the group, and it is counted. -/
theorem State.portRead_merged {s : State} {port cycle : Nat} {g : ReadGroup} (hg : (s.die (nearDie a)).groups = [g]) (hl : g.line = a / 128)
    (h0 : g.cycle ≤ cycle) (h8 : cycle ≤ g.cycle + 8) (hp : port ∉ g.ports) :
    ((s.portRead port a cycle).die (nearDie a)).groups = [{ g with ports := g.ports ++ [port] }] ∧
      CountsOne (s.die (nearDie a)) ((s.portRead port a cycle).die (nearDie a)) 2 ∧ (s.portRead port a cycle).mem = s.mem := by
  have hdie := State.die_joined hg hl port
  rw [State.portRead_joins hn hg hl h0 h8 hp]
  exact ⟨by rw [State.die_bumpDie_groups, hdie], (State.bumpDie_counts _ _ _).congr (by rw [hdie]) rfl, rfl⟩

section Opened
variable {s : State} (port cycle : Nat) (hg : (s.die (nearDie a)).groups = []) (hc : s.cacheLines (nearDie a) (nearOff a / 2 ^ 8 % 32) ≠ 0)
include hg hc

omit hn in
theorem State.cacheLines_newGroup :
    (s.newGroup (nearDie a) (a / 128) port cycle).cacheLines (nearDie a) (nearOff a / 2 ^ 8 % 32) ≠ 0 := by
  unfold State.cacheLines
  rw [State.die_newGroup hg]
  exact hc

/-- A read that opens a group for a cached line: a hit. -/
theorem State.portRead_hit (hx : a / 128 ∈ (s.die (nearDie a)).cached) :
    ((s.portRead port a cycle).die (nearDie a)).groups = [⟨a / 128, [port], cycle, memRead s.mem (128 * (a / 128)) 128⟩] ∧
      CountsOne (s.die (nearDie a)) ((s.portRead port a cycle).die (nearDie a)) 0 ∧ (s.portRead port a cycle).mem = s.mem := by
  have hdie := State.die_newGroup hg (a / 128) port cycle
  rw [State.portRead_opens hn hg, State.cacheRead_hit hn (State.cacheLines_newGroup port cycle hg hc) (by rw [hdie]; exact hx)]
  exact ⟨by rw [State.die_bumpDie_groups, hdie, State.devBytes, alias_line_of_near hn],
    (State.bumpDie_counts _ _ _).congr (by rw [hdie]) rfl, rfl⟩

/-- A read that opens a group for a line that is not cached: a miss. -/
theorem State.portRead_miss (hx : a / 128 ∉ (s.die (nearDie a)).cached) :
    a / 128 ∈ ((s.portRead port a cycle).die (nearDie a)).cached ∧
      CountsOne (s.die (nearDie a)) ((s.portRead port a cycle).die (nearDie a)) 1 ∧ (s.portRead port a cycle).mem = s.mem := by
  have hdie := State.die_newGroup hg (a / 128) port cycle
  rw [State.portRead_opens hn hg, State.cacheRead_miss hn (State.cacheLines_newGroup port cycle hg hc) (by rw [hdie]; exact hx)]
  obtain ⟨hfilled, hcnt, hmem⟩ := State.die_fillSlice ((s.newGroup (nearDie a) (a / 128) port cycle).bumpDie (nearDie a) 1)
    (nearDie a) (nearOff a / 2 ^ 8 % 32) (a / 128)
  exact ⟨hfilled, (State.bumpDie_counts _ _ _).congr (by rw [hdie]) hcnt, hmem⟩

end Opened
end Near

/-- Settles O37: the read joins its line's group, or opens one and is a hit or a miss of the slice. -/
theorem sliceReads : Obligations.SliceReads := by
  unfold Obligations.SliceReads
  intro s port addr cycle ha
  have hn : inNear addr.toNat = true := decide_eq_true ha
  have hexec := exec_sliceRead_near hn s port cycle (addr := addr) rfl
  refine ⟨fun g hg hl h0 h8 hp => ?_, fun hg hc hx => ?_, fun hg hc hx => ?_⟩
  · obtain ⟨hgroup, ⟨hmerged, hother⟩, hmem⟩ := State.portRead_merged hn hg hl h0 h8 hp
    exact ⟨_, hexec, hgroup, hmerged, hother 0 (by decide), hother 1 (by decide), hmem⟩
  · obtain ⟨hgroup, ⟨hhit, hother⟩, hmem⟩ := State.portRead_hit hn port cycle hg hc hx
    exact ⟨_, hexec, hgroup, hhit, hother 1 (by decide), hother 2 (by decide), hmem⟩
  · obtain ⟨hfilled, ⟨hmiss, hother⟩, hmem⟩ := State.portRead_miss hn port cycle hg hc hx
    exact ⟨_, hexec, hfilled, hmiss, hother 0 (by decide), hother 2 (by decide), hmem⟩

end Sys2Proof.Machine

/-!
REDUCTION CONTRIBUTIONS (R240 to R242): a word that is written whole through the reduce window is one contribution to its cell; what an
application, a discard and a hold change of the cell and its die; and the retry of the one contribution that a die has refused.
-/
namespace Sys2Proof.Machine

/-! ## Words of memory -/

theorem leNat_leBytes {n v : Nat} (h : v < 256 ^ n) : leNat (leBytes n v) = v := by
  induction n generalizing v with
  | zero => simp only [leBytes, leNat]; omega
  | succ n ih =>
    have hq : v / 256 < 256 ^ n := by
      rw [Nat.pow_succ] at h
      omega
    rw [leBytes, leNat, ih hq, BitVec.toNat_ofNat]
    omega

theorem memRead_memWrite (m : Mem) (a : Nat) (bs : List Byte) : memRead (memWrite m a bs) a bs.length = bs := by
  refine List.ext_getElem (by simp [memRead]) fun i h1 h2 => ?_
  simp [memRead, memGet_memWrite_inside _ _ _ _ h2]

theorem memNat_memWrite_leBytes (m : Mem) (a : Nat) {n v : Nat} (h : v < 256 ^ n) : memNat (memWrite m a (leBytes n v)) a n = v := by
  have hread := memRead_memWrite m a (leBytes n v)
  rw [leBytes_length] at hread
  rw [memNat, hread, leNat_leBytes h]

/-! ## The four bytes of a word -/

section Bytes
variable {a : Nat} (ha : 4 * (a / 4) = a)
include ha

theorem dedup_word (v : Nat) : dedup ((atAddrs a (leBytes 4 v)).map fun b => b.1 / 4) = [a / 4] := by
  have h1 : (a + 1) / 4 = a / 4 := by omega
  have h2 : (a + 2) / 4 = a / 4 := by omega
  have h3 : (a + 3) / 4 = a / 4 := by omega
  simp [atAddrs, leBytes, dedup, List.range_succ, h1, h2, h3]

/-- A word that is written whole is one contribution. -/
theorem State.reduceWords_word (s : State) (who : Option Ranked) (v : F32) (poison : Nat → Bool) :
    s.reduceWords who (atAddrs a (leBytes 4 v.toNat)) poison [a / 4] = s.contribute who (a % 2 ^ 30) v (poison (a / 4 / 8)) := by
  have hv : BitVec.ofNat 32 (leNat (leBytes 4 v.toNat)) = v := by
    rw [leNat_leBytes v.isLt, BitVec.ofNat_toNat, BitVec.setWidth_eq]
  obtain ⟨b0, b1, b2, b3, hb⟩ : ∃ b0 b1 b2 b3, leBytes 4 v.toNat = [b0, b1, b2, b3] := ⟨_, _, _, _, rfl⟩
  rw [hb] at hv ⊢
  unfold State.reduceWords State.reduceWords
  simp [atAddrs, List.range_succ, ha, hv]

end Bytes

/-! ## A write of a word through the reduce window (R230, R240) -/

theorem State.die_closeGroups (s : State) (a e : Nat) : ∃ gs, (s.closeGroups a).die e = { s.die e with groups := gs } := by
  unfold State.closeGroups
  split
  · exact ⟨_, rfl⟩
  · dsimp only
    split
    · rw [State.die_modDie]
      split
      · next h =>
        subst h
        exact ⟨_, rfl⟩
      · exact ⟨_, rfl⟩
    · exact ⟨_, rfl⟩

/-- The reduce-window address of a scratch offset. -/
def windowAddr (x : Nat) : Nat := 0x38000000000 + x

section Word
variable {x : Nat} (hx : x < 2 ^ 30) (h4 : x % 4 = 0)
include hx h4

theorem piecesOf_windowAddr : piecesOf (windowAddr x) 4 = [(windowAddr x, 4)] := by
  have hmod : windowAddr x % 2 ^ 48 = windowAddr x := by unfold windowAddr; omega
  have hmin : min 4 (32 - windowAddr x % 32) = 4 := by unfold windowAddr; omega
  simp [piecesOf, pieces, hmin, show windowAddr x % 281474976710656 = windowAddr x from hmod]

theorem inReduce_windowAddr : inReduce (windowAddr x) = true := by
  unfold inReduce windowAddr
  rw [decide_eq_true (by omega), decide_eq_true (by omega)]
  rfl

theorem windowAddr_word : 4 * (windowAddr x / 4) = windowAddr x ∧ windowAddr x % 2 ^ 30 = x := by
  unfold windowAddr
  omega

/-- A word through the window is a contribution to its cell. -/
theorem State.devWrite_windowAddr (s : State) (who : Option Ranked) (v : F32) :
    s.devWrite who (atAddrs (windowAddr x) (leBytes 4 v.toNat)) false = (s.closeGroups (windowAddr x)).contribute who x v false := by
  obtain ⟨hword, hcell⟩ := windowAddr_word hx h4
  have hone := dedup_word hword v.toNat
  obtain ⟨b, bs, hb⟩ : ∃ b bs, atAddrs (windowAddr x) (leBytes 4 v.toNat) = (windowAddr x, b) :: bs := ⟨_, _, rfl⟩
  have hwords := (s.closeGroups (windowAddr x)).reduceWords_word hword who v fun _ => false
  rw [hcell] at hwords
  rw [← hwords, hb]
  rw [hb] at hone
  unfold State.devWrite State.granWrite
  dsimp only
  rw [inReduce_windowAddr hx h4, hone]
  rfl

/-- A command that writes a word through the window, its scratch being there, contributes to the cell. -/
theorem State.sliceWrites_windowAddr {s : State} (hs : s.scratchHas x = true) (hf : (s.die (scratchDie x)).flagMode = false) (who : Option Ranked)
    (v : F32) : s.sliceWrites who (piecesOf (windowAddr x) 4) (leBytes 4 v.toNat) = (s.closeGroups (windowAddr x)).contribute who x v false := by
  obtain ⟨hword, hcell⟩ := windowAddr_word hx h4
  have hpop : s.populated (windowAddr x) = true := by
    unfold State.populated
    rw [inReduce_windowAddr hx h4, hcell, hs, hf]
    simp
  have hslice : (sliceOf (windowAddr x)).isSome = true := by
    unfold sliceOf
    rw [inReduce_windowAddr hx h4, Bool.or_true]
    split <;> rfl
  rw [piecesOf_windowAddr hx h4]
  unfold State.sliceWrites State.sliceWrites
  rw [hpop, hslice]
  exact s.devWrite_windowAddr hx h4 who v

end Word

/-! ## What a contribution changes of its cell and its die -/

/-- The cell is the FP32 sum of what it held and the value, no other byte has changed, and one more contribution is counted. -/
structure State.AppliesCell (s t : State) (x : Nat) (v : F32) : Prop where
  sum : memNat t.mem (cellAddr x) 4 = (accAdd .nearest (BitVec.ofNat 32 (memNat s.mem (cellAddr x) 4)) v).toNat
  counted : CountsOne (s.die (scratchDie x)) (t.die (scratchDie x)) 3
  rest : ∀ b, b < cellAddr x ∨ cellAddr x + 4 ≤ b → memGet t.mem b = memGet s.mem b

theorem State.AppliesCell.congr {s s' t t' : State} {x : Nat} {v : F32} (h : s.AppliesCell t x v) (hm : s'.mem = s.mem)
    (hc : (s'.die (scratchDie x)).cnt = (s.die (scratchDie x)).cnt) (hm' : t'.mem = t.mem)
    (hc' : (t'.die (scratchDie x)).cnt = (t.die (scratchDie x)).cnt) : s'.AppliesCell t' x v :=
  ⟨by rw [hm, hm', h.sum], h.counted.congr hc.symm hc', by rw [hm, hm']; exact h.rest⟩

/-- An application changes a die's groups and counters alone. -/
theorem State.die_applyCell (s : State) (x : Nat) (v : F32) (poison : Bool) : ∃ gs,
    (s.applyCell x v poison).die (scratchDie x) = { s.die (scratchDie x) with groups := gs, cnt := bump (s.die (scratchDie x)).cnt 3 1 } := by
  obtain ⟨gs, hg⟩ := s.die_closeGroups (cellAddr x) (scratchDie x)
  refine ⟨gs, ?_⟩
  unfold State.applyCell State.bumpDie
  extract_lets a s₁ c bytes
  have hbytes : bytes.die (scratchDie x) = { s.die (scratchDie x) with groups := gs } := hg
  rw [State.die_modDie_same, hbytes]

theorem State.applyCell_applies (s : State) (x : Nat) (v : F32) (poison : Bool) : s.AppliesCell (s.applyCell x v poison) x v := by
  have hmem : (s.closeGroups (cellAddr x)).mem = s.mem := (congrArg State.mem (s.closeGroups_frame (cellAddr x)) :)
  have hwrite : (s.applyCell x v poison).mem = memWrite s.mem (cellAddr x)
      (leBytes 4 (accAdd .nearest (BitVec.ofNat 32 (memNat s.mem (cellAddr x) 4)) v).toNat) := by
    rw [← hmem]
    rfl
  obtain ⟨gs, hdie⟩ := s.die_applyCell x v poison
  refine ⟨?_, .of_bump (by rw [hdie]), fun b hb => ?_⟩
  · rw [hwrite, memNat_memWrite_leBytes _ _ (BitVec.isLt _)]
  · rw [hwrite, memGet_memWrite_outside _ _ _ _ (by rwa [leBytes_length])]

/-! ## A ranked contribution that is offered (R241, R242) -/

section Offer
variable {s : State} {k : Contribution}

theorem State.offer_discarded (h : k.dead = true ∨ s.launchLive k.launch = false) : s.offer k = s.bumpDie (scratchDie k.cell) 7 := by
  unfold State.offer
  refine if_pos ?_
  rcases h with h | h <;> simp [h]

variable (hdead : k.dead = false) (hlive : s.launchLive k.launch = true)
include hdead hlive

/-- In turn, with nothing held at the die: the cell takes the value and its turn advances. -/
theorem State.offer_applied (hheld : (s.die (scratchDie k.cell)).held = [])
    (hturn : (tabGet Cell.free (s.die (scratchDie k.cell)).cells k.cell).inTurn k.launch k.rank = true) : s.offer k = s.applyRanked k := by
  obtain ⟨gs, hdie⟩ := s.die_applyCell k.cell k.value k.poison
  have hnone : ((s.applyRanked k).die (scratchDie k.cell)).held = [] := by
    unfold State.applyRanked
    rw [State.die_modDie_same, hdie]
    exact hheld
  unfold State.offer
  dsimp only
  rw [hdead, hlive, hturn]
  change (s.applyRanked k).cascade k.cell = _
  unfold State.cascade
  rw [hnone]
  rfl

/-- Out of turn, with room in the reorder store: it is held and counted. -/
theorem State.offer_held (hroom : (s.die (scratchDie k.cell)).held.length < 2048)
    (hturn : (tabGet Cell.free (s.die (scratchDie k.cell)).cells k.cell).inTurn k.launch k.rank = false) :
    s.offer k = (s.modDie (scratchDie k.cell) fun d => { d with held := d.held ++ [k] }).bumpDie (scratchDie k.cell) 6 := by
  unfold State.offer
  dsimp only
  rw [hdead, hlive, hturn, if_pos hroom]
  rfl

end Offer

/-- The turn of a cell advances with an application. -/
theorem State.cell_applyRanked (s : State) (k : Contribution) :
    tabGet Cell.free ((s.applyRanked k).die (scratchDie k.cell)).cells k.cell = Cell.advance k.launch k.rank k.size := by
  unfold State.applyRanked
  rw [State.die_modDie_same, tabGet_tabSet, if_pos rfl]

theorem State.refused_applyRanked (s : State) (k : Contribution) :
    ((s.applyRanked k).die (scratchDie k.cell)).refused = (s.die (scratchDie k.cell)).refused := by
  obtain ⟨gs, hdie⟩ := s.die_applyCell k.cell k.value k.poison
  unfold State.applyRanked
  rw [State.die_modDie_same, hdie]

theorem State.applyRanked_applies (s : State) (k : Contribution) : s.AppliesCell (s.applyRanked k) k.cell k.value :=
  (s.applyCell_applies k.cell k.value k.poison).congr rfl rfl rfl (by rw [State.applyRanked, State.die_modDie_same])

/-! ## A retry (R241, R245) -/

theorem State.modDie_congr {s : State} {d : Nat} {f g : Die → Die} (h : f (s.die d) = g (s.die d)) : s.modDie d f = s.modDie d g := by
  unfold State.modDie
  rw [h]

/-- The die's refused contributions without any. -/
def State.noneRefused (s : State) (d : Nat) : State := s.modDie d fun x => { x with refused := [] }

theorem State.die_noneRefused (s : State) (d : Nat) : (s.noneRefused d).die d = { s.die d with refused := [] } := s.die_modDie_same d _

section Retry
variable {s : State} {k : Contribution} {d : Nat} (hk : (s.die d).refused = [k]) (hf : s.sliceFenced (cellAddr k.cell) = false)
include hk hf

/-- The one refused contribution of a die is offered again; here it is not refused once more. -/
theorem State.retryReduce_offers (hu : (((s.noneRefused d).offer k).die d).refused = []) : s.retryReduce d 0 = (s.noneRefused d).offer k := by
  have hbehind : s.behind d 0 k = false := by
    unfold State.behind
    rw [hk]
    rfl
  have hfenced : (s.noneRefused d).sliceFenced (cellAddr k.cell) = false := by
    rw [← hf]
    unfold State.sliceFenced
    split
    · rw [State.noneRefused, State.die_modDie]
      split
      · next h => rw [h]
      · rfl
    · rfl
  have hlist : (s.modDie d fun y => { y with refused := listDel y.refused 0 }) = s.noneRefused d := by
    refine State.modDie_congr ?_
    rw [hk]
    rfl
  unfold State.retryReduce
  rw [hk]
  dsimp only [List.getElem?_cons_zero]
  rw [hbehind, if_neg Bool.false_ne_true, hlist, hfenced, if_neg Bool.false_ne_true, hu]
  exact if_neg (Nat.not_lt_zero _)

variable (hd : scratchDie k.cell = d)
include hd

/-- A refused contribution whose launch has ended is discarded and counted. -/
theorem State.retryReduce_discards (h : k.dead = true ∨ s.launchLive k.launch = false) :
    s.retryReduce d 0 = (s.noneRefused d).bumpDie d 7 := by
  have hoffer : (s.noneRefused d).offer k = (s.noneRefused d).bumpDie d 7 := by
    rw [← hd]
    exact State.offer_discarded h
  rw [← hoffer]
  refine State.retryReduce_offers hk hf ?_
  rw [hoffer, State.bumpDie, State.die_modDie_same, State.die_noneRefused]

variable (hdead : k.dead = false) (hlive : s.launchLive k.launch = true) (hheld : (s.die d).held = [])
include hdead hlive hheld

/-- One whose turn has come is applied. -/
theorem State.retryReduce_applies (hturn : (tabGet Cell.free (s.die d).cells k.cell).inTurn k.launch k.rank = true) :
    s.retryReduce d 0 = (s.noneRefused d).applyRanked k := by
  subst hd
  have hdie := s.die_noneRefused (scratchDie k.cell)
  have hoffer : (s.noneRefused (scratchDie k.cell)).offer k = (s.noneRefused (scratchDie k.cell)).applyRanked k :=
    State.offer_applied hdead hlive (by rw [hdie]; exact hheld) (by rw [hdie]; exact hturn)
  rw [← hoffer]
  refine State.retryReduce_offers hk hf ?_
  rw [hoffer, State.refused_applyRanked, hdie]

/-- One out of turn is held and counted. -/
theorem State.retryReduce_holds (hturn : (tabGet Cell.free (s.die d).cells k.cell).inTurn k.launch k.rank = false) :
    s.retryReduce d 0 = ((s.noneRefused d).modDie d fun x => { x with held := x.held ++ [k] }).bumpDie d 6 := by
  subst hd
  have hdie := s.die_noneRefused (scratchDie k.cell)
  have hoffer := State.offer_held (s := s.noneRefused (scratchDie k.cell)) hdead hlive (by rw [hdie]; simp [hheld]) (by rw [hdie]; exact hturn)
  rw [← hoffer]
  refine State.retryReduce_offers hk hf ?_
  rw [hoffer, State.bumpDie, State.die_modDie_same, State.die_modDie_same, hdie]

end Retry

section Cases
variable {s : State} {x : Nat} (hx : x < 2 ^ 30) (h4 : x % 4 = 0)
include hx h4

theorem windowAddr_toNat : (BitVec.ofNat 48 (windowAddr x)).toNat = windowAddr x := by
  rw [BitVec.toNat_ofNat, windowAddr]
  omega

section Arrives
variable (hs : s.scratchHas x = true) (hmode : (s.die (scratchDie x)).flagMode = false) (hf : s.sliceFenced (cellAddr x) = false) (v : F32)
include hs hmode hf

/-- What reaches the cell through the window, in a command that puts it with the rank `who`. -/
theorem State.contribute_windowAddr (who : Option Ranked) : s.sliceWrites who (piecesOf (windowAddr x) (leBytes 4 v.toNat).length) (leBytes 4 v.toNat) =
    match who with
    | none => (s.closeGroups (windowAddr x)).applyCell x v false
    | some r => (s.closeGroups (windowAddr x)).offer ⟨x, v, false, r.launch, r.rank, r.size, r.origin, r.port, r.stale⟩ := by
  have hfenced : (s.closeGroups (windowAddr x)).sliceFenced (cellAddr x) = false := by
    rw [← hf]
    unfold State.sliceFenced
    split
    · next d sl _ =>
      obtain ⟨gs, hdie⟩ := s.die_closeGroups (windowAddr x) d
      rw [hdie]
    · rfl
  rw [leBytes_length, State.sliceWrites_windowAddr hx h4 hs hmode]
  exact if_neg (Bool.eq_false_iff.mp hfenced)

end Arrives
end Cases

/-- The rank with which a contributor puts its word, where it makes one. -/
def State.putsAs (s : State) : Contributor → Option (Option Ranked)
  | .core c => if (s.core c.val).kernel.isSome then some (s.rankOf c.val) else none
  | .ranked p seq rank origin port saves =>
    some (some ⟨⟨p.val, seq⟩, rank, s.launchSize ⟨p.val, seq⟩, origin, port, saves != s.launchSaves ⟨p.val, seq⟩⟩)
  | .unranked => some none

theorem exec_reduceContribution_window {x : Nat} (hx : x < 2 ^ 30) (h4 : x % 4 = 0) (s : State) (src : Contributor) (v : F32) {who : Option Ranked}
    (hw : s.putsAs src = some who) : exec (.reduceContribution src (BitVec.ofNat 48 (windowAddr x)) (leBytes 4 v.toNat)) s =
      .next (s.sliceWrites who (piecesOf (windowAddr x) (leBytes 4 v.toNat).length) (leBytes 4 v.toNat)) := by
  change execReduceContribution src _ _ s = _
  unfold execReduceContribution
  rw [windowAddr_toNat hx h4, inReduce_windowAddr hx h4]
  cases src with
  | core c =>
    rw [State.putsAs] at hw
    split at hw
    · next hk =>
      cases hw
      simp [hk]
    · cases hw
  | ranked p seq rank origin port saves =>
    cases hw
    rfl
  | unranked =>
    cases hw
    rfl

/-- Settles O38: a word through the reduce window is one contribution, and a retry offers the die's one refused contribution again. -/
theorem reduceCells : Obligations.ReduceCells := by
  unfold Obligations.ReduceCells
  intro s x v hx h4 hs
  have haddr := windowAddr_toNat hx h4
  have hclosed := s.closeGroups_frame (windowAddr x)
  obtain ⟨gs, hdie⟩ := s.die_closeGroups (windowAddr x) (scratchDie x)
  have hmem : (s.closeGroups (windowAddr x)).mem = s.mem := (congrArg State.mem hclosed :)
  refine ⟨fun p seq rank port saves origin hmode hf hgone => ?_, fun hmode hf => ?_, fun k e he hk hcell hvalue hpoison hf hheld => ?_⟩
  · have hlive (l : LaunchId) : (s.closeGroups (windowAddr x)).launchLive l = s.launchLive l :=
      (congrArg (fun t : State => t.launchLive l) hclosed :)
    have hexec := exec_reduceContribution_window hx h4 s (.ranked p seq rank origin port saves) v rfl
    rw [State.contribute_windowAddr hx h4 hs hmode hf] at hexec
    dsimp only at hexec
    rw [State.offer_discarded (by rw [hlive]; exact hgone.imp_left bne_iff_ne.mpr)] at hexec
    have hheld : ((s.closeGroups (windowAddr x)).die (scratchDie x)).held = (s.die (scratchDie x)).held := by rw [hdie]
    have hcounts := (State.bumpDie_counts (s.closeGroups (windowAddr x)) (scratchDie x) 7).congr (congrArg Die.cnt hdie) rfl
    exact ⟨_, hexec, hcounts.1, hmem, (congrArg Die.held (State.die_modDie_same _ _ _)).trans hheld⟩
  · have hexec := exec_reduceContribution_window hx h4 s .unranked v rfl
    rw [State.contribute_windowAddr hx h4 hs hmode hf] at hexec
    have happ := ((s.closeGroups (windowAddr x)).applyCell_applies x v false).congr (s' := s) hmem.symm (by rw [hdie]) rfl rfl
    exact ⟨_, hexec, happ.sum, happ.counted.1, happ.rest⟩
  · obtain ⟨d, hd8⟩ := e
    subst hcell hvalue
    change d = scratchDie k.cell at he
    subst he
    have hnone := s.die_noneRefused (scratchDie k.cell)
    refine ⟨fun hdead hlive hturn => ?_, fun hdead hlive hturn => ?_, fun hgone => ?_⟩
    · have happ := (s.noneRefused (scratchDie k.cell)).applyRanked_applies k |>.congr (s' := s) rfl (by rw [hnone]) rfl rfl
      refine ⟨_, congrArg Host.Outcome.next (State.retryReduce_applies hk hf rfl hdead hlive hheld hturn),
        ⟨happ.sum, happ.counted.1, happ.rest⟩, ?_, State.cell_applyRanked _ k⟩
      exact (State.refused_applyRanked _ k).trans (by rw [hnone])
    · have hdie : (((s.noneRefused (scratchDie k.cell)).modDie (scratchDie k.cell) fun x => { x with held := x.held ++ [k] }).bumpDie
          (scratchDie k.cell) 6).die (scratchDie k.cell) =
          { s.die (scratchDie k.cell) with refused := [], held := [k], cnt := bump (s.die (scratchDie k.cell)).cnt 6 1 } := by
        rw [State.bumpDie, State.die_modDie_same, State.die_modDie_same, hnone, show (s.die (scratchDie k.cell)).held = [] from hheld]
        rfl
      exact ⟨_, congrArg Host.Outcome.next (State.retryReduce_holds hk hf rfl hdead hlive hheld hturn), congrArg Die.refused hdie,
        congrArg Die.held hdie, (CountsOne.of_bump (congrArg Die.cnt hdie)).1, rfl⟩
    · have hdie : ((s.noneRefused (scratchDie k.cell)).bumpDie (scratchDie k.cell) 7).die (scratchDie k.cell) =
          { s.die (scratchDie k.cell) with refused := [], cnt := bump (s.die (scratchDie k.cell)).cnt 7 1 } := by
        rw [State.bumpDie, State.die_modDie_same, hnone]
      exact ⟨_, congrArg Host.Outcome.next (State.retryReduce_discards hk hf rfl hgone), congrArg Die.refused hdie,
        (CountsOne.of_bump (congrArg Die.cnt hdie)).1, rfl⟩

end Sys2Proof.Machine

/-!
ERRORS OF THE MEMORY AND TARGETED SELF-TESTS (R248, R334, R335): what the scrub of a granule counts, keeps and starts, and what the test of a
memory row logs and fences.
-/
namespace Sys2Proof.Machine

/-- What a refresh of the replica registers changes: the partitions' pages alone. -/
theorem State.refreshAll_frame (s : State) : { s.refreshAll with parts := s.parts } = s := by
  have hfold (l : List Nat) (t : State) : { l.foldl State.refreshRepl t with parts := t.parts } = t := by
    induction l generalizing t with
    | nil => rfl
    | cons p l ih => exact (congrArg (fun u : State => { u with parts := t.parts }) (ih (t.refreshRepl p)) :)
  exact hfold _ s

theorem State.refreshAll_memStacks (s : State) : s.refreshAll.memStacks = s.memStacks := (congrArg State.memStacks s.refreshAll_frame :)
theorem State.refreshAll_twin (s : State) : s.refreshAll.twin = s.twin := (congrArg State.twin s.refreshAll_frame :)
theorem State.refreshAll_lt (s : State) : s.refreshAll.lt = s.lt := (congrArg State.lt s.refreshAll_frame :)
theorem State.refreshAll_mem (s : State) : s.refreshAll.mem = s.mem := (congrArg State.mem s.refreshAll_frame :)

/-! ## The scrub of a granule (R248) -/

/-- The scrub's error is the granule's and its row's; one in far memory that cannot be corrected changes the replica registers too. -/
theorem State.stackError_frame {s : State} {a n : Nat} (h : stackOf a = some n) (ecc : Ecc) :
    { s.stackError a ecc with parts := (s.eccError a ecc (rowOf n a)).parts } = s.eccError a ecc (rowOf n a) := by
  unfold State.stackError
  rw [h, Option.getD_some]
  dsimp only
  split
  · exact State.refreshAll_frame _
  · rfl

theorem alias_of_stack {a n : Nat} (h : stackOf a = some n) : alias_ a = a := by
  have hr : inReduce a = false := by
    unfold stackOf at h
    split at h
    · next hn => exact (inReduce_of_near hn).1
    · split at h
      · next hf =>
        rw [inFar, Bool.and_eq_true, decide_eq_true_eq, decide_eq_true_eq] at hf
        rw [inReduce, Bool.and_eq_false_iff, decide_eq_false_iff_not]
        exact .inl (by omega)
      · cases h
  rw [alias_, hr]
  rfl

section Ecc
variable {s : State} {a n : Nat} (h : stackOf a = some n) (u : TestUnit)
include h

theorem State.eccError_corrected : s.eccError a .corrected u = (s.modStack n fun x => { x with ce := x.ce + 1 }).startTest u false := by
  unfold State.eccError State.countEcc
  rw [h]
  rfl

theorem State.eccError_uncorrected : s.eccError a .uncorrectable u =
    (({ s with poison := setAdd s.poison (a / 32) } : State).modStack n fun x =>
      { x with ue := x.ue + 1, valid := true, lastUe := BitVec.ofNat 48 (32 * (a / 32)) }).startTest u true := by
  unfold State.eccError State.countEcc
  rw [h, alias_of_stack h]
  rfl

end Ecc

theorem State.startTest_memStacks (s : State) (u : TestUnit) (b : Bool) : (s.startTest u b).memStacks = s.memStacks :=
  (congrArg State.memStacks (s.startTest_frame u b) :)

@[simp] theorem State.stack_modStack_same (s : State) (n : Nat) (f : Stack → Stack) : (s.modStack n f).stack n = f (s.stack n) := by
  simp [State.stack_modStack]

/-- What a scrub's error leaves: the stacks, the poison and the memory of the state `u` in which it is counted, and a test of the unit. -/
theorem State.stackError_of_eq {s u : State} {a n : Nat} (h : stackOf a = some n) {ecc : Ecc} (he : ecc ≠ .clean) {b : Bool}
    (hu : s.eccError a ecc (rowOf n a) = u.startTest (rowOf n a) b) :
    (s.stackError a ecc).stack n = u.stack n ∧ (∀ x, (s.stackError a ecc).poisoned x = u.poisoned x) ∧ (s.stackError a ecc).poison = u.poison ∧
      (s.stackError a ecc).mem = u.mem ∧ ∃ e ∈ (s.stackError a ecc).twin.tests, e.unit = rowOf n a := by
  have hstart := u.startTest_frame (rowOf n a) b
  have hf := State.stackError_frame (s := s) h ecc
  have htests : (s.stackError a ecc).twin.tests = (s.eccError a ecc (rowOf n a)).twin.tests := (congrArg (fun t : State => t.twin.tests) hf :)
  rw [htests]
  refine ⟨?_, fun x => ?_, ?_, ?_, s.eccError_mem a (rowOf n a) he⟩ <;> rw [hu] at hf
  · exact (congrArg (fun t : State => t.stack n) hf :).trans (congrArg (fun t : State => t.stack n) hstart :)
  · exact (congrArg (fun t : State => t.poisoned x) hf :).trans (congrArg (fun t : State => t.poisoned x) hstart :)
  · exact (congrArg State.poison hf :).trans (congrArg State.poison hstart :)
  · exact (congrArg State.mem hf :).trans (congrArg State.mem hstart :)

/-! ## The log of an event of the device (R341) -/

/-- An event of no partition: what the log holds of it, and what it leaves. -/
theorem State.log_device (s : State) (kind : Nat) (st : Code) (kept yielded : Nat) (info : BitVec 32) :
    tabGet EvtEntry.zero (s.log kind st none kept yielded info).twin.log s.twin.evtNext.toNat =
        ⟨s.lineTime, true, st, BitVec.ofNat 4 kept, BitVec.ofNat 4 yielded, 0, false, BitVec.ofNat 3 kind, info⟩ ∧
      (s.log kind st none kept yielded info).twin.tests = s.twin.tests ∧
      (s.log kind st none kept yielded info).memStacks = s.memStacks ∧ (s.log kind st none kept yielded info).mem = s.mem := by
  unfold State.log
  extract_lets n e s₁ twin s₂ s₃
  have h₁ : s₁.twin.tests = s.twin.tests ∧ s₁.memStacks = s.memStacks ∧ s₁.mem = s.mem := by
    unfold s₁
    split <;> exact ⟨rfl, rfl, rfl⟩
  obtain ⟨htests, hstacks, hmem⟩ := h₁
  have hf := s₂.interrupt_frame Config.evtPort 0 s₂.twin.evtVector.toNat
  have htwin : s₃.twin = s₂.twin := (congrArg State.twin hf :)
  refine ⟨?_, ?_, (congrArg State.memStacks hf :).trans hstacks, (congrArg State.mem hf :).trans hmem⟩
  · exact (congrArg (fun w : Twin => tabGet EvtEntry.zero w.log n) htwin).trans (tabGet_tabPut_same _ _ _ _)
  · exact (congrArg Twin.tests htwin).trans htests

/-! ## The test of a memory row (R334, R335) -/

section Row
variable {s : State} {n : Fin 20} {row : BitVec 23}

/-- A test of a memory row after an error that cannot be corrected runs at once. -/
theorem exec_selfTestRun_row (h : s.twin.tests = [⟨.memRow n row, true, false⟩]) :
    exec (.selfTestRun 0) s = .next { s with twin := { s.twin with tests := [⟨.memRow n row, true, true⟩] } } := by
  change execSelfTestRun 0 s = _
  unfold execSelfTestRun
  rw [h]
  rfl

/-- The one pending test has left the queue. -/
def State.noTests (s : State) : State := { s.tick with twin := { s.twin with tests := [] } }

/-- The one test of a memory row that runs ends: its place in the queue is free, and its result is logged. -/
theorem exec_selfTestComplete_row (h : s.twin.tests = [⟨.memRow n row, true, true⟩]) (pass : Bool) :
    exec (.selfTestComplete 0 pass) s = .next (
      if pass then (s.noTests.log 1 Code.ok none 0 0 (s.testInfo (.memRow n row))).bumpTwin 5
      else ((s.noTests.fenceUnit (.memRow n row)).log 2 Code.fenced none 0 0 (s.testInfo (.memRow n row))).bumpTwin 6) := by
  change execSelfTestComplete 0 pass s = _
  unfold execSelfTestComplete
  rw [h]
  cases pass <;> rfl

/-- The row is among its stack's fenced rows. -/
def State.rowMarked (s : State) (n : Fin 20) (row : BitVec 23) : State :=
  s.modStack n.val fun x =>
    { x with fencedRows := setAdd x.fencedRows row.toNat
             freshDone := x.freshDone.filter fun g => Config.memRow (32 * g) != row.toNat
             freshRows := setDel x.freshRows row.toNat }

theorem State.fenceUnit_memRow (s : State) (n : Fin 20) (row : BitVec 23) : s.fenceUnit (.memRow n row) =
    if 16 ≤ n.val then (s.rowMarked n row).refreshAll else s.rowMarked n row := rfl

/-- A row that is fenced: its stack's, with the device's log and its Line Time as they were. -/
theorem State.fenceUnit_row (s : State) (n : Fin 20) (row : BitVec 23) :
    row.toNat ∈ ((s.fenceUnit (.memRow n row)).stack n).fencedRows ∧ (s.fenceUnit (.memRow n row)).twin = s.twin ∧
      (s.fenceUnit (.memRow n row)).lt = s.lt ∧ (s.fenceUnit (.memRow n row)).mem = s.mem := by
  have hfenced : row.toNat ∈ ((s.rowMarked n row).stack n).fencedRows := by
    unfold State.rowMarked
    rw [State.stack_modStack_same]
    exact (mem_setAdd _ _ _).2 (.inr rfl)
  rw [State.fenceUnit_memRow]
  split
  · rw [State.stack, State.refreshAll_memStacks, State.refreshAll_twin, State.refreshAll_lt, State.refreshAll_mem]
    exact ⟨hfenced, rfl, rfl, rfl⟩
  · exact ⟨hfenced, rfl, rfl, rfl⟩

theorem State.testInfo_row (s : State) (n : Fin 20) (row : BitVec 23) :
    (s.testInfo (.memRow n row)).toNat = 3 * 2 ^ 28 + n.val * 2 ^ 23 + row.toNat := by
  unfold State.testInfo
  dsimp only
  rw [BitVec.toNat_ofNat]
  omega

end Row

/-- Settles O39: the scrub by what it finds, and the row's test by its result. -/
theorem errorsAndSelfTests : Obligations.ErrorsAndSelfTests := by
  unfold Obligations.ErrorsAndSelfTests
  refine ⟨fun s stack addr h => ?_, fun s n row => ⟨fun ht => ⟨_, exec_selfTestRun_row ht, rfl⟩, fun ht => ?_⟩⟩
  · have hexec (ecc : Ecc) : exec (.patrolScrub stack addr ecc) s = .next (s.stackError addr.toNat ecc) := congrArg Host.Outcome.next (if_pos h)
    refine ⟨(hexec .clean).trans ?_, ?_, ?_⟩
    · unfold State.stackError
      rw [s.eccError_clean]
      simp
    · obtain ⟨hstack, -, hpoison, hmem, htest⟩ := State.stackError_of_eq h (by decide) (State.eccError_corrected h _)
      rw [State.stack_modStack_same] at hstack
      exact ⟨_, hexec .corrected, (congrArg Stack.ce hstack :), (congrArg Stack.ue hstack :), hpoison, hmem, htest⟩
    · obtain ⟨hstack, hpoisoned, -, hmem, htest⟩ := State.stackError_of_eq h (by decide) (State.eccError_uncorrected h _)
      rw [State.stack_modStack_same] at hstack
      refine ⟨_, hexec .uncorrectable, (congrArg Stack.ue hstack :), (congrArg Stack.ce hstack :),
        (congrArg Stack.valid hstack :), ?_, ?_, hmem, htest⟩
      · rw [hstack, BitVec.toNat_ofNat]
        omega
      · rw [hpoisoned]
        have hset : setHas (setAdd s.poison (addr.toNat / 32)) (addr.toNat / 32) = true := (setHas_iff _ _).2 ((mem_setAdd _ _ _).2 (.inr rfl))
        unfold State.poisoned
        rw [alias_of_stack h]
        exact Bool.or_eq_true_iff.mpr (.inl (Bool.or_eq_true_iff.mpr (.inl (Bool.or_eq_true_iff.mpr (.inl hset)))))
  · have hexec := exec_selfTestComplete_row ht
    refine ⟨?_, ?_⟩
    · obtain ⟨hlog, htests, hstacks, hmem⟩ := s.noTests.log_device 1 Code.ok 0 0 (s.testInfo (.memRow n row))
      exact ⟨_, hexec true, htests, congrArg EvtEntry.kind hlog, congrArg EvtEntry.status hlog, congrArg EvtEntry.stamp hlog, hstacks, hmem⟩
    · obtain ⟨hrow, htwin, hlt, hfence⟩ := s.noTests.fenceUnit_row n row
      obtain ⟨hlog, htests, hstacks, hmem⟩ :=
        (s.noTests.fenceUnit (.memRow n row)).log_device 2 Code.fenced 0 0 (s.testInfo (.memRow n row))
      rw [htwin] at hlog htests
      refine ⟨_, hexec false, htests, congrArg EvtEntry.kind hlog, congrArg EvtEntry.status hlog, ?_, ?_, hmem.trans hfence⟩
      · exact (congrArg (fun e : EvtEntry => e.info.toNat) hlog).trans (s.testInfo_row n row)
      · exact (congrArg (fun l : Tab Stack => row.toNat ∈ (tabGet Stack.reset l n.val).fencedRows) hstacks).mpr hrow

end Sys2Proof.Machine

/-!
THE SYNC INSTRUCTIONS AT THEIR START (R243, R252 to R256, R258, R262): what a record that is issued changes, an outcome at once and an entry
that runs on, and then the instructions one by one.
-/
namespace Sys2Proof.Machine

/-! ## What the transport changes -/

/-- Only the ports, the held records and the records on their way to this device differ. -/
def State.OnlyTransport (s t : State) : Prop := { t with ports := s.ports, holds := s.holds, loopback := s.loopback } = s

theorem State.depart_frame (s : State) (x : Exit) (r : Record) : s.OnlyTransport (s.depart x r) := by
  unfold State.depart
  dsimp only
  split
  · rfl
  · split <;> rfl

theorem State.post_frame (s : State) (r : Record) (from_ : Option (Nat × Nat)) (j : Nat) : s.OnlyTransport (s.post r from_ j) := by
  unfold State.post
  split
  · rfl
  · split
    · exact s.depart_frame _ r
    · rfl

theorem State.transmit_frame (s : State) (r : Record) (from_ : Option (Nat × Nat)) (j : Nat) : s.OnlyTransport (s.transmit r from_ j) := by
  unfold State.transmit
  split
  · rfl
  · split
    · exact s.depart_frame _ r
    · split
      · rfl
      · exact s.post_frame _ none j

/-- A record that is issued for a transfer changes the flow's numbers and the transport. -/
theorem State.issueFor_frame (s : State) (x : Xfer) (r : Record) :
    { (s.issueFor x r).1 with outFlows := s.outFlows, ports := s.ports, holds := s.holds, loopback := s.loopback } = s := by
  unfold State.issueFor State.issue
  extract_lets key n d u
  have h := u.transmit_frame { r with fseq := BitVec.ofNat 32 n, deadline := d } none (s.junctionOf r.srcCore.toNat)
  exact (congrArg (fun t : State => { t with outFlows := s.outFlows }) h :)

section Issued
variable (s : State) (x : Xfer) (r : Record)

theorem State.issueFor_cores : (s.issueFor x r).1.cores = s.cores := (congrArg State.cores (s.issueFor_frame x r) :)
theorem State.issueFor_parts : (s.issueFor x r).1.parts = s.parts := (congrArg State.parts (s.issueFor_frame x r) :)
theorem State.issueFor_mem : (s.issueFor x r).1.mem = s.mem := (congrArg State.mem (s.issueFor_frame x r) :)

end Issued

/-! ## An entry that runs, and one that has its outcome (R172) -/

section Entry
variable {s : State} {c : Nat} {e : Entry}

theorem Core.works_of_startable {k : Core} {g : Engine} (h : k.startable g = some e) : k.works = true := by
  unfold Core.startable at h
  split at h
  · cases h
  · next hk => simp_all

variable (hq : (s.core c).syq = [e])
include hq

theorem State.entryRuns_sy : s.entryRuns c .sy e = s.setCore c { s.core c with syq := [{ e with started := true }] } := by
  unfold State.entryRuns State.modCore Core.modEntry
  simp [Core.queue, Core.setQueue, hq]

theorem State.syDone_eq (hw : (s.core c).works = true) (v : Word) : s.syDone c e v =
    (s.entryRuns c .sy e).setCore c { s.core c with
      syq := [{ e with started := true, done := true, result := (opSyDest e.op).map fun d => (d, v) }] } := by
  unfold State.syDone
  rw [State.entryRuns_sy hq, State.finishSy_core v (by rw [State.core_setCore_same]; exact hw) (by rw [State.core_setCore_same]),
    State.core_setCore_same]

end Entry

section Start
variable {s u : State} {c : CoreId} {e : Entry} (h : Starts s c .sy e) (hq : (s.core c).syq = [e])
include h hq

/-- An instruction that has its outcome at once, in a state with the core as it was, is done with the value for SD. -/
theorem State.start_done {v : Word} {sd : SReg} (hop : s.startOp c .sy e = u.syDone c e v) (hu : u.core c = s.core c)
    (hsd : opSyDest e.op = some sd) : ∃ t, Gives (.engineStart c .sy .clean) s t ∧
      (t.core c).syq = [{ e with started := true, done := true, result := some (sd, v) }] ∧ t.parts = u.parts ∧ t.mem = u.mem := by
  have hw : (u.core c).works = true := hu ▸ Core.works_of_startable h
  have hdone := State.syDone_eq (hu ▸ hq) hw v
  refine ⟨u.syDone c e v, (exec_engineStart_clean h).trans (congrArg Host.Outcome.next hop), ?_, ?_, ?_⟩ <;> rw [hdone]
  · rw [State.core_setCore_same, hsd]
    rfl
  · rfl
  · rfl

/-- The same, for one that changes nothing else. -/
theorem State.start_refused {v : Word} {sd : SReg} (hop : s.startOp c .sy e = s.syDone c e v) (hsd : opSyDest e.op = some sd) :
    ∃ t, Gives (.engineStart c .sy .clean) s t ∧
      (t.core c).syq = [{ e with started := true, done := true, result := some (sd, v) }] ∧ t.parts = s.parts := by
  obtain ⟨t, hgives, hend, hparts, -⟩ := State.start_done h hq hop rfl hsd
  exact ⟨t, hgives, hend, hparts⟩

/-- An instruction that goes on running, in a state with the core as it was. -/
theorem State.start_runs (hop : s.startOp c .sy e = u.entryRuns c .sy e) (hu : u.core c = s.core c) :
    ∃ t, Gives (.engineStart c .sy .clean) s t ∧ (t.core c).syq = [{ e with started := true }] ∧ t.parts = u.parts ∧ t.mem = u.mem := by
  have hruns := State.entryRuns_sy (hu ▸ hq : (u.core c).syq = [e])
  refine ⟨u.entryRuns c .sy e, (exec_engineStart_clean h).trans (congrArg Host.Outcome.next hop), ?_, ?_, ?_⟩ <;> rw [hruns]
  · rw [State.core_setCore_same]
  · rfl
  · rfl

end Start

/-! ## The baton of a handle (R251, R254) -/

section Handle
variable {k : Core} {b : BReg} {w : Word}

theorem Core.localBaton_local (hb : k.handle b = some w) (hl : w.getLsbD 36 = false) : k.localBaton b = some (w.toNat % 65536) := by
  have hbaton : handleBaton w = w.toNat % 65536 := by simp [handleBaton, field]
  unfold Core.localBaton
  rw [hb, ← hbaton]
  exact if_neg (Bool.eq_false_iff.mp hl)

theorem Core.localBaton_none (hb : k.handle b = none ∨ ∃ w, k.handle b = some w ∧ w.getLsbD 36 = true) : k.localBaton b = none := by
  unfold Core.localBaton
  obtain hb | ⟨w, hb, hr⟩ := hb <;> rw [hb]
  exact if_pos hr

end Handle

/-! ## The instructions one by one -/

section Instructions
variable {s : State} {c : Nat} {e : Entry} {b : BReg} {w : Word}

/-- sy.add without a handle (R254). -/
theorem State.startAdd_unbound (hb : (s.core c).handle b = none) : s.startAdd c e b = s.syDone c e 1 := by
  unfold State.startAdd
  dsimp only
  rw [hb]
  rfl

/-- sy.wait and sy.read without a local handle (R254). -/
theorem State.startWait_unbound (hb : (s.core c).localBaton b = none) : s.startWait c e b = s.syDone c e 1 := by
  unfold State.startWait
  rw [hb]
  rfl

theorem State.startRead_unbound (hb : (s.core c).localBaton b = none) : s.startRead c e b = s.syDone c e 0x8000000000000001 := by
  unfold State.startRead
  rw [hb]
  rfl

section NoPath
variable (hcut : s.syncReaches c (s.partN c) = false)
include hcut

theorem State.startAdd_cut (hb : (s.core c).handle b = some w) (hl : w.getLsbD 36 = false) : s.startAdd c e b = s.syDone c e 0x0C := by
  unfold State.startAdd
  dsimp only
  rw [hb]
  dsimp only
  rw [handleRemote, hl, hcut]
  rfl

theorem State.startWait_cut {n : Nat} (hb : (s.core c).localBaton b = some n) : s.startWait c e b = s.syDone c e 0x0C := by
  unfold State.startWait
  rw [hb]
  dsimp only
  rw [hcut]
  rfl

theorem State.startRead_cut {n : Nat} (hb : (s.core c).localBaton b = some n) : s.startRead c e b = s.syDone c e 0x800000000000000C := by
  unfold State.startRead
  rw [hb]
  dsimp only
  rw [hcut]
  rfl

theorem State.startBar_cut (bar : BitVec 10) : s.startBar c e bar = s.syDone c e 0x0C := by
  unfold State.startBar
  dsimp only
  rw [hcut]
  rfl

theorem State.startBarcfg_cut (bar : BitVec 10) : s.startBarcfg c e bar = s.syDone c e 0x0C := by
  unfold State.startBarcfg
  rw [hcut]
  rfl

end NoPath

theorem State.partN_bumpSy (s : State) (p i d : Nat) : (s.modPart p (·.bumpSy i)).partN d = s.partN d := by
  unfold State.partN
  refine congrArg (·.getD 0) (State.partOf_congr (fun q => ?_) d)
  rw [State.part_modPart]
  split
  · next h => rw [← h]; rfl
  · rfl

section Path
variable (hpath : s.syncReaches c (s.partN c) = true)
include hpath

/-- On a flag-mode die the increment of a local handle waits in the crossbar (R243). -/
theorem State.startAdd_combined (hb : (s.core c).handle b = some w) (hl : w.getLsbD 36 = false)
    (hmode : (s.die (dieOf c)).flagMode = true) :
    s.startAdd c e b = (s.entryRuns c .sy e).combine c ⟨s.partN c, false, handleBaton w, 0, [(c, e.arg 0, none)]⟩ := by
  unfold State.startAdd
  dsimp only
  rw [hb]
  dsimp only
  rw [handleRemote, hl, hpath, hmode]
  rfl

/-- On another it is applied at once (R252). -/
theorem State.startAdd_applied (hb : (s.core c).handle b = some w) (hl : w.getLsbD 36 = false)
    (hmode : (s.die (dieOf c)).flagMode = false) :
    s.startAdd c e b = (((s.entryRuns c .sy e).modPart (s.partN c) (·.bumpSy 0)).increment (s.partN c) (handleBaton w) (e.arg 0) s.devId).finishSy c 0 := by
  unfold State.startAdd
  dsimp only
  rw [hb]
  dsimp only
  rw [handleRemote, hl, hpath, hmode]
  simp only [Bool.not_true, Bool.false_eq_true, if_false, show Code.ok.setWidth 64 = (0 : Word) from rfl, State.partN_bumpSy]
  rfl

theorem State.startRead_reads {n : Nat} (hb : (s.core c).localBaton b = some n) :
    s.startRead c e b = s.syDone c e ((s.part (s.partN c)).sync.baton n) := by
  unfold State.startRead
  rw [hb]
  dsimp only
  rw [hpath]
  rfl

theorem State.startWait_passes {n : Nat} (hb : (s.core c).localBaton b = some n)
    (hmet : (e.arg 0).toNat ≤ ((s.part (s.partN c)).sync.baton n).toNat) :
    s.startWait c e b = (s.modPart (s.partN c) (·.bumpSy 3)).syDone c e 0 := by
  unfold State.startWait
  rw [hb]
  dsimp only
  rw [hpath]
  exact if_pos hmet

theorem State.startWait_waits {n : Nat} (hb : (s.core c).localBaton b = some n)
    (hmet : ((s.part (s.partN c)).sync.baton n).toNat < (e.arg 0).toNat) : s.startWait c e b =
      (s.addWaiter (s.partN c) ⟨.core c, .baton n (e.arg 0), s.waitDeadline (e.arg 1)⟩).entryRuns c .sy e := by
  unfold State.startWait
  rw [hb]
  dsimp only
  rw [hpath]
  exact if_neg (Nat.not_le.mpr hmet)

/-- An idle barrier takes its COUNT and starts at lap 0 (R262). -/
theorem State.startBarcfg_sets {bar : BitVec 10} (ha : ((s.part (s.partN c)).sync.bar bar.toNat).arrived = 0)
    (hn : ((s.part (s.partN c)).sync.bar bar.toNat).next = 0) (hw : (s.part (s.partN c)).waiters = []) :
    s.startBarcfg c e bar = (s.modPart (s.partN c) fun x =>
      { x with sync := x.sync.setBar bar.toNat ⟨(e.arg 0).setWidth 16, 0, 0, 0⟩ }).syDone c e 0 := by
  unfold State.startBarcfg State.barConfig Part.barWaiters
  dsimp only
  rw [hpath, ha, hn, hw]
  rfl

end Path

/-- An increment that nothing waits for leaves the cores and the memory, and changes the one baton of its partition (R252). -/
theorem State.increment_quiet_frame {y : State} {p n : Nat} (v : Word) (dev : BitVec 16) (hw : (y.part p).waiters = [])
    (hstep : n ≠ (y.part p).sec.stepBaton.toNat) (hloss : n ≠ (y.part p).sec.lossBaton.toNat) :
    (y.increment p n v dev).cores = y.cores ∧ (y.increment p n v dev).mem = y.mem ∧
      ((y.increment p n v dev).part p).sync = (y.part p).sync.setBaton n (satAdd ((y.part p).sync.baton n) v).1 := by
  have hphoto := (y.incremented p n v).photoEvent_frame p y.lineTime dev
  have hinc := y.incremented_frame p n v
  obtain ⟨cnt, hpart⟩ := y.incremented_part p n v
  rw [State.increment_quiet v dev hw hstep hloss]
  generalize (y.incremented p n v).photoEvent p y.lineTime dev = z at hphoto ⊢
  refine ⟨(congrArg State.cores hphoto :).trans (congrArg State.cores hinc :), (congrArg State.mem hphoto :).trans (congrArg State.mem hinc :), ?_⟩
  exact (congrArg (fun x : State => (x.part p).sync) hphoto :).trans (congrArg Part.sync hpart :)

/-- The deadline of a wait while Line Time runs (R256). -/
theorem State.waitDeadline_running (hs : s.lt.state ≠ .seeking) (ns : Word) : s.waitDeadline ns =
    if ns = 0 ∨ 2 ^ 64 ≤ s.lt.now.toNat + ns.toNat then none else some ⟨s.lt.now + ns, false⟩ := by
  unfold State.waitDeadline State.deadlineIn
  rw [if_neg hs, if_neg hs]
  simp only [Bool.or_eq_true, decide_eq_true_eq]

end Instructions

/-- Traffic that finds none on its die waits for more (R243). -/
theorem State.combine_alone {s : State} {c : Nat} (m : SyncMsg) (h : (s.die (dieOf c)).sync = []) :
    s.combine c m = s.modDie (dieOf c) fun x => { x with sync := x.sync ++ [m] } := by
  unfold State.combine
  dsimp only
  rw [h]
  rfl

/-- A remote handle's increment starts as a transfer of the core, which waits for its answer (R254, R258, R305). -/
theorem State.startAdd_remote {s : State} {c : Nat} {e : Entry} {b : BReg} {w : Word} (hb : (s.core c).handle b = some w)
    (hr : w.getLsbD 36 = true) : ∃ (u : State) (y : Xfer) (no : BitVec 16),
      s.startAdd c e b = (u.modCore c fun k => { k with xferSy := some y }).entryRuns c .sy e ∧
      u.cores = s.cores ∧ u.parts = s.parts ∧ u.mem = s.mem ∧ { y with onOwn := false, deadline := 0, sent := [] } = incXfer w no := by
  have hstart : s.startAdd c e b = _ := rfl
  conv at hstart => rhs; unfold State.startAdd
  dsimp only at hstart
  rw [hb] at hstart
  dsimp only at hstart
  rw [handleRemote, hr, if_pos rfl] at hstart
  split at hstart
  · exact ⟨s, _, 0, hstart, rfl, rfl, rfl, rfl⟩
  · exact ⟨_, _, (s.newXfer (s.core c).lg true (incXfer w 0).dst).2, hstart, State.issueFor_cores _ _ _, State.issueFor_parts _ _ _,
      State.issueFor_mem _ _ _, rfl⟩

/-- Settles O20: each instruction by its handle and by what its first test finds, from the lemmas about its start. -/
theorem syncStarts : Obligations.SyncStarts := by
  unfold Obligations.SyncStarts
  intro s c e h hq k p x ends there
  have hs : s.partN c = p := rfl
  have hbat (w : Word) : handleBaton w = w.toNat % 65536 := by simp [handleBaton, field]
  have hadd {b v sd} (ho : e.op = .sadd b v sd) : s.startOp c .sy e = s.startAdd c e b := by rw [State.startOp, ho]
  have hwait {b v st sd} (ho : e.op = .swait b v st sd) : s.startOp c .sy e = s.startWait c e b := by rw [State.startOp, ho]
  have hread {b sd} (ho : e.op = .sread b sd) : s.startOp c .sy e = s.startRead c e b := by rw [State.startOp, ho]
  have hcfg {n v sd} (ho : e.op = .sbarcfg n v sd) : s.startOp c .sy e = s.startBarcfg c e n := by rw [State.startOp, ho]
  refine ⟨fun hcut => ⟨fun b v sd w ho hb hl => ?_, fun b sd w ho hb hl => ?_, fun b v st sd w ho hb hl => ?_, fun n v sd ho => ?_,
    fun n l st sd ho => ?_⟩, fun b v sd w ho hb hl hpath hmode hsync => ?_, fun b v sd w ho hb hl hpath hmode hnone hstep hloss => ?_,
    fun b v sd ho hb => ?_, fun b v sd w ho hb hr => ?_, fun b sd w ho hb hr => ?_, fun b v st sd ho hb => ?_, fun b sd w ho hb hl hpath => ?_,
    fun b sd ho hb => ?_, fun b v st sd w ho hb hl hpath => ⟨fun hmet => ?_, fun hmet hrun => ?_⟩, fun n v sd ho hpath ha hn hnone => ?_⟩
  · exact State.start_refused h hq ((hadd ho).trans (State.startAdd_cut hcut hb hl)) (by rw [ho]; rfl)
  · exact State.start_refused h hq ((hread ho).trans (State.startRead_cut hcut (Core.localBaton_local hb hl))) (by rw [ho]; rfl)
  · exact State.start_refused h hq ((hwait ho).trans (State.startWait_cut hcut (Core.localBaton_local hb hl))) (by rw [ho]; rfl)
  · exact State.start_refused h hq ((hcfg ho).trans (State.startBarcfg_cut hcut n)) (by rw [ho]; rfl)
  · exact State.start_refused h hq ((by rw [State.startOp, ho] : _ = s.startBar c e n).trans (State.startBar_cut hcut n)) (by rw [ho]; rfl)
  · have hnone : ((s.entryRuns c .sy e).die (dieOf c)).sync = [] := hsync
    have hstart := (hadd ho).trans (State.startAdd_combined hpath hb hl hmode)
    rw [State.combine_alone _ hnone, State.entryRuns_sy hq] at hstart
    refine ⟨_, (exec_engineStart_clean h).trans (congrArg Host.Outcome.next hstart), ?_, rfl, rfl, ?_⟩
    · rw [State.modDie_core, State.core_setCore_same]
    · rw [State.die_modDie_same, hbat w]
      exact congrArg (· ++ _) hsync
  · have hw := Core.works_of_startable h
    have hstart := (hadd ho).trans (State.startAdd_applied hpath hb hl hmode)
    obtain ⟨y, hy⟩ : ∃ y, y = (s.entryRuns c .sy e).modPart (s.partN c) (·.bumpSy 0) := ⟨_, rfl⟩
    have hcore : y.core c = { s.core c with syq := [{ e with started := true }] } := by
      rw [hy, State.entryRuns_sy hq]
      exact State.core_setCore_same _ _ _
    have hpart : y.part (s.partN c) = (s.part (s.partN c)).bumpSy 0 := by rw [hy]; exact State.part_modPart_same _ _ _
    have hymem : y.mem = s.mem := by rw [hy]; rfl
    have hne {b : BitVec 16} (hb : w.setWidth 16 ≠ b) : w.toNat % 65536 ≠ b.toNat := by
      intro hn
      refine hb (BitVec.eq_of_toNat_eq ?_)
      rw [← hn, BitVec.toNat_setWidth]
    obtain ⟨hcores, hmem, hsync⟩ := State.increment_quiet_frame (y := y) (p := s.partN c) (n := w.toNat % 65536) (e.arg 0) s.devId
      (by rw [hpart]; exact hnone) (by rw [hpart]; exact hne hstep) (by rw [hpart]; exact hne hloss)
    rw [← hy, hbat] at hstart
    generalize y.increment (s.partN c) (w.toNat % 65536) (e.arg 0) s.devId = z at hstart hcores hmem hsync
    have hzcore : z.core c = { s.core c with syq := [{ e with started := true }] } := (congrArg (tabGet Core.reset · c.val) hcores :).trans hcore
    rw [State.finishSy_core 0 (by rw [hzcore]; exact hw) (by rw [hzcore])] at hstart
    have hzsync : (z.part (s.partN c)).sync = x.sync.setBaton (w.toNat % 65536) (satAdd (x.sync.baton (w.toNat % 65536)) (e.arg 0)).1 := by
      rw [hsync, hpart]
      rfl
    have hzsync' : (z.part p).sync = _ := hzsync
    refine ⟨_, (exec_engineStart_clean h).trans (congrArg Host.Outcome.next hstart), ?_, ?_, fun n hn => ?_, ?_, hmem.trans hymem⟩
    · refine (congrArg Core.syq (State.core_setCore_same _ _ _)).trans ?_
      rw [ho]
      rfl
    all_goals rw [State.setCore_part, hzsync']
    · exact (Sync.baton_setBaton _ _ _).trans (satAdd_toNat _ _)
    · exact Sync.baton_setBaton_other _ _ hn
    · rfl
  · exact State.start_refused h hq ((hadd ho).trans (State.startAdd_unbound hb)) (by rw [ho]; rfl)
  · obtain ⟨u, y, no, hstart, hcores, hparts, hmem, hy⟩ := State.startAdd_remote (e := e) hb hr
    have hcore : (u.modCore c fun k => { k with xferSy := some y }).core c = { s.core c with xferSy := some y } := by
      rw [State.core_modCore_same, show u.core c = s.core c from (congrArg (tabGet Core.reset · c.val) hcores :)]
    rw [State.entryRuns_sy (by rw [hcore]; exact hq), hcore] at hstart
    refine ⟨_, y, (exec_engineStart_clean h).trans (congrArg Host.Outcome.next ((hadd ho).trans hstart)), ?_, hparts, hmem, ?_,
      (congrArg Xfer.kind hy :), ?_, ?_, ?_, ?_⟩
    · exact congrArg Core.syq (State.core_setCore_same _ _ _)
    · exact congrArg Core.xferSy (State.core_setCore_same _ _ _)
    · rw [show y.baton = BitVec.ofNat 16 (handleBaton w) from (congrArg Xfer.baton hy :), hbat, BitVec.toNat_ofNat]
      omega
    · rw [show y.part = partId (field w 16 4) from (congrArg Xfer.part hy :), field]
      simp [partId]
    · rw [show y.dst = (w >>> 20).setWidth 16 from (congrArg Xfer.dst hy :)]
      simp [Nat.shiftRight_eq_div_pow]
    · rw [show y.context = (w >>> 37).setWidth 16 from (congrArg Xfer.context hy :)]
      simp [Nat.shiftRight_eq_div_pow]
  · exact State.start_refused h hq ((hread ho).trans (State.startRead_unbound (Core.localBaton_none (.inr ⟨w, hb, hr⟩)))) (by rw [ho]; rfl)
  · exact State.start_refused h hq ((hwait ho).trans (State.startWait_unbound (Core.localBaton_none hb))) (by rw [ho]; rfl)
  · exact State.start_refused h hq ((hread ho).trans (State.startRead_reads hpath (Core.localBaton_local hb hl))) (by rw [ho]; rfl)
  · exact State.start_refused h hq ((hread ho).trans (State.startRead_unbound (Core.localBaton_none (.inl hb)))) (by rw [ho]; rfl)
  · obtain ⟨t, hgives, hend, hparts, -⟩ :=
      State.start_done h hq ((hwait ho).trans (State.startWait_passes hpath (Core.localBaton_local hb hl) hmet)) rfl (by rw [ho]; rfl)
    have hpart : t.part p = (x.bumpSy 3) := (congrArg (tabGet Part.reset · p) hparts :).trans (s.part_modPart_same p _)
    exact ⟨t, hgives, hend, (congrArg Part.sync hpart :), (congrArg Part.waiters hpart :)⟩
  · obtain ⟨t, hgives, hruns, hparts, -⟩ :=
      State.start_runs h hq ((hwait ho).trans (State.startWait_waits hpath (Core.localBaton_local hb hl) hmet)) rfl
    have hpart := (congrArg (tabGet Part.reset · p) hparts :).trans (s.part_modPart_same p _)
    refine ⟨t, hgives, hruns, (congrArg Part.sync hpart :), (congrArg Part.waiters hpart :).trans ?_⟩
    rw [State.waitDeadline_running hrun]
    rfl
  · obtain ⟨t, hgives, hend, hparts, -⟩ := State.start_done h hq ((hcfg ho).trans (State.startBarcfg_sets hpath ha hn hnone)) rfl (by rw [ho]; rfl)
    have hpart := (congrArg (tabGet Part.reset · p) hparts :).trans (s.part_modPart_same p _)
    refine ⟨t, hgives, hend, (congrArg (fun x : Part => x.sync.bar n.toNat) hpart :).trans ?_, (congrArg (fun x : Part => x.sync.batons) hpart :)⟩
    exact tabGet_tabPut_same _ _ _ _

end Sys2Proof.Machine

/-!
THE STATES OF A PORT (R269 to R274, R277, R282, R284, R293): a port at which nothing waits changes alone, however it comes up, retrains or
goes DOWN; the tests of its lanes; and the loss of a laser input.
-/
namespace Sys2Proof.Machine

/-! ## A port that changes and has nothing waiting -/

@[simp] theorem State.port_modPort_same (s : State) (n : Nat) (f : Port → Port) : (s.modPort n f).port n = f (s.port n) := by
  simp [State.port_modPort]

theorem State.port_modPort_other (s : State) {n m : Nat} (f : Port → Port) (h : n ≠ m) : (s.modPort n f).port m = s.port m := by
  simp [State.port_modPort, h]

theorem notTwin_of_fabric {n : Nat} (hn : n < 24) : (decide (n = 24) || decide (n = 25)) = false := by
  rw [decide_eq_false (by omega), decide_eq_false (by omega)]
  rfl

/-- A FABRIC port is no twin port: the pair does not follow it. -/
theorem State.changePort_fabric (s : State) {n : Nat} (hn : n < 24) (f : Port → Port) : s.changePort n f = s.modPort n f := by
  unfold State.changePort
  dsimp only
  rw [notTwin_of_fabric hn]
  rfl

theorem State.modPort_congr {s : State} {n : Nat} {f g : Port → Port} (h : f (s.port n) = g (s.port n)) : s.modPort n f = s.modPort n g := by
  unfold State.modPort
  rw [h]

theorem Port.filter_quiet {x : Port} (h : x.waiting = []) (f : Packet → Bool) : { x with waiting := x.waiting.filter f } = x := by
  cases x
  cases h
  rfl

theorem State.rehome_nil (s : State) (n : Nat) : s.rehome n [] = s := rfl

section Quiet
variable {s : State} {n : Nat} (hw : (s.port n).waiting = [])
include hw

/-- Nothing is moved from a port at which nothing waits. -/
theorem State.divert_quiet : s.divert n = s.modPort n id := by
  unfold State.divert
  dsimp only
  rw [hw]
  exact (State.rehome_nil _ _).trans (State.modPort_congr (Port.filter_quiet hw _))

theorem State.portOut_quiet (hn : n < 24) (st : PortState) : s.portOut n st = s.modPort n fun p => p.cleared st := by
  unfold State.portOut
  dsimp only
  rw [hw, State.rehome_nil, State.changePort_fabric s hn]

theorem State.portDown_quiet (hn : n < 24) (hoff : (s.port n).state ≠ .off) : s.portDown n = s.modPort n fun p => p.cleared .down :=
  (if_neg hoff).trans (State.portOut_quiet hw hn .down)

end Quiet

/-- What a retraining makes of a port (R277). -/
def Port.retrained (x : Port) : Port :=
  { x with state := .training, width := 0, rxLock := 0, version := 0, resends := 0, cnt := bump x.cnt 4 1 }

theorem State.retrain_stays {s : State} {n : Nat} (h : s.portIdle n = true ∨ setHas s.fabric.fenced (portJunction n) = true) :
    s.retrain n = s := by
  unfold State.retrain
  refine if_pos ?_
  obtain h | h := h <;> simp [h]

theorem State.retrain_quiet {s : State} {n : Nat} (hw : (s.port n).waiting = []) (hn : n < 24) (hrole : (s.port n).role ≠ 0)
    (hoff : (s.port n).state ≠ .off) (hidle : s.portIdle n = false) (hfenced : setHas s.fabric.fenced (portJunction n) = false) :
    s.retrain n = (s.modPort n Port.retrained).modPort n id := by
  unfold State.retrain
  rw [decide_eq_false hrole, decide_eq_false hoff, hidle, hfenced, if_neg (by decide), State.changePort_fabric s hn]
  exact State.divert_quiet (by rw [State.port_modPort_same]; exact hw)

/-! ## A port that comes up (R269, R282) -/

/-- The same ports, each as it was. -/
def State.SamePorts (s t : State) : Prop := (∀ n, t.port n = s.port n) ∧ { t with ports := s.ports } = s

theorem State.SamePorts.refl (s : State) : s.SamePorts s := ⟨fun _ => rfl, rfl⟩

theorem State.SamePorts.trans {s t u : State} (h : s.SamePorts t) (k : t.SamePorts u) : s.SamePorts u := by
  obtain ⟨hp, hs⟩ := h
  obtain ⟨kp, ks⟩ := k
  exact ⟨fun n => (kp n).trans (hp n), (congrArg (fun x : State => { x with ports := s.ports }) ks :).trans hs⟩

theorem State.SamePorts.modPort_id (s : State) (n : Nat) : s.SamePorts (s.modPort n id) := by
  refine ⟨fun m => ?_, rfl⟩
  rw [State.port_modPort]
  split
  · next h => rw [h]; rfl
  · rfl

theorem State.SamePorts.divert {s : State} {n : Nat} (hw : (s.port n).waiting = []) : s.SamePorts (s.divert n) := by
  rw [State.divert_quiet hw]
  exact .modPort_id s n

theorem State.SamePorts.diverts (l : List Nat) {s : State} (h : ∀ n ∈ l, (s.port n).waiting = []) : s.SamePorts (l.foldl State.divert s) := by
  induction l generalizing s with
  | nil => exact .refl s
  | cons n l ih =>
    have hfirst := State.SamePorts.divert (h n (List.mem_cons_self ..))
    exact hfirst.trans (ih fun m hm => by rw [hfirst.1]; exact h m (List.mem_cons_of_mem _ hm))

/-- A port at which nothing waits sends nothing. -/
theorem Port.pump_quiet {x : Port} (h : x.waiting = []) (own now : Word) : x.pump own now = x := by
  unfold Port.pump
  rw [h]
  rfl

/-- What a training with its peer makes of a FABRIC port. -/
def Port.trained (x : Port) (w : Nat) (version : BitVec 8) (lanes : BitVec 8) (t : Training) : Port :=
  { x with state := .up, peerDev := t.dev, peerPort := t.port, peerLevel := t.level, version := version, width := BitVec.ofNat 2 w,
           peerDomain := t.domain, delayNs := t.delayNs, rxLock := lanes, resends := 0 }

/-- A FABRIC port comes up, with nothing waiting at it nor at a port that is not UP. -/
theorem State.portUp_quiet {s : State} {n : Nat} (hn : n < 24) (hrole : (s.port n).role = 1) (hw : (s.port n).waiting = [])
    (hrest : ∀ m, m < 28 → (s.port m).state ≠ .up → (s.port m).waiting = []) (w : Nat) (v : BitVec 8) (t : Training) :
    (s.modPort n fun x => x.trained w v (s.lanesAt n w) t).SamePorts (s.portUp n w v t) := by
  obtain ⟨u, hu⟩ : ∃ u, u = s.modPort n fun x => x.trained w v (s.lanesAt n w) t := ⟨_, rfl⟩
  have hport : u.port n = (s.port n).trained w v (s.lanesAt n w) t := by rw [hu, State.port_modPort_same]
  have hpump : u.pumpPort n id = u.modPort n id :=
    State.modPort_congr (Port.pump_quiet (by rw [id, hport]; exact hw) _ _)
  have hup : s.portUp n w v t = (u.modPort n id).takeOver n := by
    rw [← hpump, hu]
    unfold State.portUp
    rw [notTwin_of_fabric hn]
    dsimp only
    rw [if_neg Bool.false_ne_true, State.changePort_fabric s hn]
    refine congrArg (fun u : State => (u.pumpPort n id).takeOver n) (State.modPort_congr ?_)
    have hhost : ((s.port n).role == 3) = false := by rw [hrole]; rfl
    rw [hhost]
    rfl
  have hsame := State.SamePorts.modPort_id u n
  rw [← hu, hup]
  refine hsame.trans (.diverts _ fun m hm => ?_)
  obtain ⟨hsib, hdown⟩ := List.mem_filter.mp hm
  have hm : m ≠ n ∧ m < 24 := by
    unfold portSiblings at hsib
    rw [notTwin_of_fabric hn, if_neg Bool.false_ne_true, if_pos hn] at hsib
    simp at hsib
    omega
  have hother : (u.modPort n id).port m = s.port m := by
    rw [hsame.1, hu, State.port_modPort_other _ _ hm.1.symm]
  rw [hother] at hdown ⊢
  exact hrest m (by omega) (bne_iff_ne.mp hdown)

/-- Two versions that overlap: the highest that both sides hold (R282). -/
theorem negotiate_overlap {t : Training} (hmin : t.rlMin.toNat ≤ 0x11) (hmax : 0x10 ≤ t.rlMax.toNat) (hle : t.rlMin.toNat ≤ t.rlMax.toNat) :
    negotiate t = some (BitVec.ofNat 8 (min 0x11 t.rlMax.toNat)) := by
  unfold negotiate
  exact if_pos (by omega)

section Trains
variable {s : State} {p : PortId} {t : Training} (hrole : (s.port p).role = 1) (hstate : (s.port p).state = .down ∨ (s.port p).state = .training)
  (hidle : s.portIdle p = false) (hfenced : setHas s.fabric.fenced (portJunction p) = false)
include hrole hstate hidle hfenced

theorem exec_training_accepted (ha : s.peerAccepted p t = true) (hown : 0 < s.ownWidth p) (hwidth : 0 < t.width.toNat) {v : BitVec 8}
    (hv : negotiate t = some v) :
    exec (.trainingFlitReceive p t) s = .next (s.portUp p (min (s.ownWidth p) (min t.width.toNat 2)) v t) := by
  have hw : min (s.ownWidth p) (min t.width.toNat 2) ≠ 0 := by omega
  change execTrainingFlitReceive p t s = _
  unfold execTrainingFlitReceive
  dsimp only
  rw [hidle, hfenced, hrole, ha, hv, if_neg hw]
  obtain h | h := hstate <;> rw [h] <;> rfl

theorem exec_training_refused (ha : s.peerAccepted p t = false) :
    exec (.trainingFlitReceive p t) s = .next (s.portOut p .miswired) := by
  change execTrainingFlitReceive p t s = _
  unfold execTrainingFlitReceive
  dsimp only
  rw [hidle, hfenced, hrole, ha]
  obtain h | h := hstate <;> rw [h] <;> rfl

end Trains

/-! ## The tests of a port's lanes (R277, R334) -/

/-- A pending test stays pending when another one starts. -/
theorem State.startTest_keeps {s : State} {u : TestUnit} (v : TestUnit) (b : Bool) (h : ∃ e ∈ s.twin.tests, e.unit = u) :
    ∃ e ∈ (s.startTest v b).twin.tests, e.unit = u := by
  obtain ⟨e, he, hu⟩ := h
  unfold State.startTest
  split
  · split
    · exact ⟨e, he, hu⟩
    · refine ⟨_, List.mem_map_of_mem he, ?_⟩
      split <;> exact hu
  · exact ⟨e, List.mem_append_left _ he, hu⟩

/-- The tests of the lanes of a list are pending. -/
theorem State.startTests_mem (p : PortId) {u : TestUnit} (l : List Nat) (s : State)
    (h : (∃ e ∈ s.twin.tests, e.unit = u) ∨ ∃ i ∈ l, u = .lane p ⟨i % 8, Nat.mod_lt i (by decide)⟩) :
    ∃ e ∈ (l.foldl (fun s i => s.startTest (.lane p ⟨i % 8, Nat.mod_lt i (by decide)⟩) false) s).twin.tests, e.unit = u := by
  induction l generalizing s with
  | nil =>
    obtain h | ⟨i, hi, -⟩ := h
    · exact h
    · cases hi
  | cons i l ih =>
    refine ih _ ?_
    obtain h | ⟨j, hj, hu⟩ := h
    · exact .inl (State.startTest_keeps _ false h)
    · obtain rfl | hj := List.mem_cons.mp hj
      · exact .inl (hu ▸ s.startTest_mem _ false)
      · exact .inr ⟨j, hj, hu⟩

theorem State.startTests_frame (p : PortId) (l : List Nat) (s : State) :
    { l.foldl (fun s i => s.startTest (.lane p ⟨i % 8, Nat.mod_lt i (by decide)⟩) false) s with twin := s.twin } = s := by
  induction l generalizing s with
  | nil => rfl
  | cons i l ih =>
    exact (congrArg (fun t : State => { t with twin := s.twin }) (ih (s.startTest (.lane p ⟨i % 8, Nat.mod_lt i (by decide)⟩) false)) :).trans
      (s.startTest_frame _ false)

/-- The lanes of a FABRIC port that no test has found lasting are tested; the port is as it was, or in SELF_TEST. -/
theorem State.testLanes_fabric (s : State) {p : PortId} (hn : p.val < 24) :
    ((s.testLanes p).port p = s.port p ∨ (s.testLanes p).port p = { s.port p with state := .selfTest }) ∧
    ∀ l : Fin 8, (s.port p).laneFailed.getLsbD l = false → ∃ e ∈ (s.testLanes p).twin.tests, e.unit = .lane p l := by
  unfold State.testLanes
  extract_lets u runs
  have hframe : { u with twin := s.twin } = s := s.startTests_frame p _
  have hport : u.port p = s.port p := (congrArg (fun t : State => t.port p) hframe :)
  have htests (l : Fin 8) (hl : (s.port p).laneFailed.getLsbD l = false) : ∃ e ∈ u.twin.tests, e.unit = .lane p l := by
    refine State.startTests_mem p _ s (.inr ⟨l.val, List.mem_filter.mpr ⟨List.mem_range.mpr l.isLt, by rw [hl]; rfl⟩, ?_⟩)
    exact congrArg (TestUnit.lane p) (Fin.ext (Nat.mod_eq_of_lt l.isLt).symm)
  split
  · rw [State.changePort_fabric u hn, State.port_modPort_same, hport]
    exact ⟨.inr rfl, htests⟩
  · exact ⟨.inl hport, htests⟩

/-! ## A laser input that is lost (R273) -/

/-- A port that is not UP does not notice that a fibre has gone dark. -/
theorem State.fibreDark_down {s : State} {n : Nat} (h : (s.port n).state ≠ .up) : s.fibreDark n = s := by
  unfold State.fibreDark
  exact if_pos (bne_iff_ne.mpr h)

theorem State.fibresDark_down (l : List Nat) {s : State} (h : ∀ n ∈ l, (s.port n).state ≠ .up) : l.foldl State.fibreDark s = s := by
  induction l generalizing s with
  | nil => rfl
  | cons n l ih =>
    rw [List.foldl_cons, State.fibreDark_down (h n (List.mem_cons_self ..))]
    exact ih fun m hm => h m (List.mem_cons_of_mem _ hm)

/-- Of a list of ports with one UP, whose fibres are both dark and at which nothing waits, that one goes DOWN. -/
theorem State.fibresDark_one {l : List Nat} {s : State} {p : Nat} (hp : p ∈ l) (hn : p < 24) (hup : (s.port p).state = .up)
    (hw : (s.port p).waiting = []) (hown : s.ownWidth p = 0) (hrest : ∀ n ∈ l, n ≠ p → (s.port n).state ≠ .up) :
    l.foldl State.fibreDark s = s.modPort p fun x => x.cleared .down := by
  induction l with
  | nil => cases hp
  | cons n l ih =>
    rw [List.foldl_cons]
    by_cases hnp : n = p
    · subst hnp
      have hdark : s.fibreDark n = s.modPort n fun x => x.cleared .down := by
        have hdown := State.portDown_quiet hw hn (by rw [hup]; decide)
        unfold State.fibreDark
        dsimp only
        rw [hup, hown, if_neg (by decide), if_pos rfl, hdown]
      rw [hdark]
      refine State.fibresDark_down l fun m hm => ?_
      rw [State.port_modPort]
      split
      · exact PortState.noConfusion
      · next h => exact hrest m (List.mem_cons_of_mem _ hm) (Ne.symm h)
    · rw [State.fibreDark_down (hrest n (List.mem_cons_self ..) hnp)]
      exact ih ((List.mem_cons.mp hp).resolve_left (Ne.symm hnp)) fun m hm => hrest m (List.mem_cons_of_mem _ hm)

/-- With the input of a fibre lost, and no power at the other fibre's where it is another, both fibres are dark. -/
theorem State.ownWidth_lost {s : State} {li : Fin 8} {power : BitVec 16} {p : Nat} (hpower : power.toInt < 1300)
    (hother : ∀ i, i < 2 → laserInput p i ≠ li.val → tabGet 0 s.board.laserPower (laserInput p i) = 0) :
    (s.setLaser li power).ownWidth p = 0 := by
  have hdark (i : Nat) (hi : i < 2) : (s.setLaser li power).fibreWorks p i = false := by
    have hlit : (s.setLaser li power).fibreLit p i = false := by
      unfold State.fibreLit State.laserPower State.setLaser
      dsimp only
      rw [tabGet_tabPut]
      split
      · exact decide_eq_false (by omega)
      · next h =>
        rw [hother i hi (Ne.symm h)]
        rfl
    unfold State.fibreWorks
    rw [hlit]
    rfl
  unfold State.ownWidth
  rw [List.countP_eq_zero]
  intro i hi
  rw [hdark i (List.mem_range.mp hi)]
  exact Bool.false_ne_true

/-- Settles O41: each command's branch is taken by its guard, and what it then does to the port is
`State.modPort` at that port (`State.portUp_quiet`, `State.portDown_quiet`, `State.retrain_quiet`); a lost laser
input darkens both fibres of the port alone that takes its light from it. -/
theorem portStates : Obligations.PortStates := by
  unfold Obligations.PortStates
  refine ⟨fun s p t => ?_, fun s li power p level => ?_⟩
  · intro x hn hrole hw hrest
    have hrole0 : (s.port p).role ≠ 0 := by rw [show (s.port p).role = 1 from hrole]; decide
    refine ⟨fun hstate hidle hfenced => ⟨fun ha hown hwidth hmin hmax hle => ?_, fun ha => ?_⟩, fun hstate => ?_,
      fun hidle hfenced => ⟨fun hup => ?_, fun hoff => ?_⟩, fun h => ?_, fun hoff => ?_⟩
    · obtain ⟨hports, hframe⟩ := State.portUp_quiet hn hrole hw hrest (min (s.ownWidth p) (min t.width.toNat 2))
        (BitVec.ofNat 8 (min 0x11 t.rlMax.toNat)) t
      have hport := (hports p).trans (State.port_modPort_same _ _ _)
      refine ⟨_, exec_training_accepted hrole hstate hidle hfenced ha hown hwidth (negotiate_overlap hmin hmax hle), congrArg Port.state hport,
        congrArg Port.peerDev hport, congrArg Port.peerPort hport, congrArg Port.peerLevel hport, congrArg Port.peerDomain hport, ?_, ?_,
        (congrArg (fun u : State => { u with ports := s.ports }) hframe :)⟩
      · rw [hport, Port.trained, BitVec.toNat_ofNat]
        omega
      · rw [hport, Port.trained, BitVec.toNat_ofNat]
        omega
    · refine ⟨_, (exec_training_refused hrole hstate hidle hfenced ha).trans (congrArg _ (State.portOut_quiet hw hn _)), ?_, ?_, rfl⟩ <;>
        rw [State.port_modPort_same] <;> rfl
    · have hdown := State.portDown_quiet hw hn (by rw [show (s.port p).state = .training from hstate]; decide)
      have hexec : exec (.retrainTimeout p) s = .next (((s.modPort p fun p => p.cleared .down)).testLanes p) := by
        rw [← hdown]
        exact congrArg Host.Outcome.next (if_pos hstate)
      obtain ⟨hport, htests⟩ := State.testLanes_fabric (s.modPort p fun p => p.cleared .down) hn
      rw [State.port_modPort_same] at hport htests
      refine ⟨_, hexec, ?_, ?_, htests⟩
      · exact hport.imp (congrArg Port.state) (congrArg Port.state)
      · obtain h | h := hport <;> rw [h] <;> rfl
    · have hretrain := State.retrain_quiet hw hn hrole0 (by rw [show (s.port p).state = .up from hup]; decide) hidle hfenced
      have hport := (State.port_modPort_same (s.modPort p Port.retrained) p id).trans (s.port_modPort_same p Port.retrained)
      refine ⟨_, congrArg Host.Outcome.next ((if_pos hup).trans hretrain), congrArg Port.state hport, (congrArg Port.replay hport :), ?_⟩
      rw [show _ = (s.port p).retrained from hport]
      exact tabGet_tabPut_same _ _ _ _
    · have hretrain := State.retrain_quiet hw hn hrole0 hoff hidle hfenced
      have hport := (State.port_modPort_same (s.modPort p Port.retrained) p id).trans (s.port_modPort_same p Port.retrained)
      exact ⟨_, congrArg Host.Outcome.next hretrain, congrArg Port.state hport, (congrArg Port.replay hport :)⟩
    · exact congrArg Host.Outcome.next (State.retrain_stays h)
    · have hcond : (decide (p.val < 24) && (s.port p).role != 0) = true := by
        rw [decide_eq_true hn, bne_iff_ne.mpr hrole0]
        rfl
      have hport := s.port_modPort_same p fun p => p.cleared .down
      exact ⟨_, congrArg Host.Outcome.next ((if_pos hcond).trans (State.portDown_quiet hw hn hoff)), congrArg Port.state hport,
        congrArg Port.replay hport⟩
  · refine ⟨fun hlit => ?_, fun hpower hone hn hup hinput hother => ?_, rfl, fun hup hrole => ?_⟩
    · exact if_pos (decide_eq_true hlit)
    · have hmem : p.val ∈ (List.range 28).filter fun n => laserInput n 0 == li.val || laserInput n 1 == li.val := by
        rw [List.mem_filter, List.mem_range, Bool.or_eq_true, beq_iff_eq, beq_iff_eq]
        exact ⟨by omega, hinput⟩
      have hfold := State.fibresDark_one (s := s.setLaser li power) hmem hn hup (hone p (by omega) hup).2 (State.ownWidth_lost hpower hother)
        fun n hl hne hu => hne (hone n (List.mem_range.mp (List.mem_filter.mp hl).1) hu).1
      have hdark : ¬ lit power = true := fun h => absurd (of_decide_eq_true h) (Int.not_le.mpr hpower)
      refine ⟨_, (if_neg hdark).trans (congrArg Host.Outcome.next hfold), ?_, ?_, ?_⟩
      · rw [State.port_modPort_same]
        rfl
      · rw [State.port_modPort_same]
        rfl
      · exact tabGet_tabPut_same _ _ _ _
    · have hcond : ((s.port p).state = .up && (s.port p).role != 3) = true := by
        rw [decide_eq_true hup, bne_iff_ne.mpr hrole]
        rfl
      refine ⟨_, congrArg Host.Outcome.next (if_pos hcond), ?_, rfl⟩
      rw [State.port_modPort_same]

end Sys2Proof.Machine

/-!
THE TWIN PORTS AND A PARTITION'S SECURING PAGE (R317, R318, R321, R328): a message put on a port waits there or has been sent, an event of the
log keeps the securing pages, and what ends a generation or a restore leaves as it was.
-/
namespace Sys2Proof.Machine

/-! ## Messages put on a port stay until they are delivered (R245, R276) -/

/-- What is not at the deleted position stays. -/
theorem eq_or_mem_listDel {α : Type} {l : List α} {n : Nat} {k x : α} (hn : l[n]? = some k) (hx : x ∈ l) : x = k ∨ x ∈ listDel l n := by
  induction l generalizing n with
  | nil => cases hx
  | cons y l ih =>
    cases n with
    | zero =>
      rw [List.getElem?_cons_zero, Option.some.injEq] at hn
      exact (List.mem_cons.mp hx).imp_left (·.trans hn)
    | succ n =>
      obtain rfl | hx := List.mem_cons.mp hx
      · exact .inr List.mem_cons_self
      · exact (ih hn hx).imp_right (List.mem_cons_of_mem y)

/-- The granted packet stands at the granted position. -/
theorem getElem?_of_grantOf {ready : Packet → Bool} {l : List Packet} {j i : Nat} {k : Packet} (h : grantOf ready j l = some (i, k)) :
    ∃ n, i = j + n ∧ l[n]? = some k := by
  induction l generalizing j i k with
  | nil => cases h
  | cons x l ih =>
    have hhead {i : Nat} {k : Packet} (h : (j, x) = (i, k)) : ∃ n, i = j + n ∧ (x :: l)[n]? = some k := by
      cases h
      exact ⟨0, rfl, rfl⟩
    unfold grantOf at h
    split at h
    · split at h
      · exact hhead (Option.some.inj h)
      · cases h
    · next b hb =>
      split at h
      · exact hhead (Option.some.inj h)
      · rw [Option.some.inj h] at hb
        obtain ⟨n, hi, hk⟩ := ih hb
        exact ⟨n + 1, by omega, hk⟩

section Messages
variable {m : Msg} (hm : ∀ now, m.sentAt now = m)
include hm

/-- A flit that is sent takes no message from the port but to its replay buffer. -/
theorem Port.sendOne_messages {p q : Port} {own now : Word} (h : p.sendOne own now = some q) (hp : m ∈ p.messages) : m ∈ q.messages := by
  unfold Port.sendOne at h
  split at h
  · cases h
  · split at h
    · cases h
    · next i k hgrant =>
      obtain ⟨n, rfl, hk⟩ := getElem?_of_grantOf hgrant
      rw [Nat.zero_add] at h
      cases h
      unfold Port.messages at hp ⊢
      rw [List.flatMap_append]
      obtain hp | hp := List.mem_append.mp hp
      · exact List.mem_append_left _ (List.mem_append_left _ hp)
      · by_cases hlast : k.left ≤ 1
        · obtain ⟨x, hx, rfl⟩ := List.mem_map.mp hp
          obtain rfl | hx := eq_or_mem_listDel hk hx
          · refine List.mem_append_left _ (List.mem_append_right _ ?_)
            rw [List.flatMap_singleton, decide_eq_true hlast, if_pos rfl, hm]
            exact List.mem_singleton_self _
          · refine List.mem_append_right _ (List.mem_map_of_mem ?_)
            rw [decide_eq_true hlast, if_pos rfl]
            exact hx
        · refine List.mem_append_right _ ?_
          rw [decide_eq_false hlast]
          change m ∈ (p.waiting.set n _).map Packet.msg
          rw [List.map_set]
          obtain ⟨hlt, hget⟩ := List.getElem?_eq_some_iff.mp hk
          rwa [show k.msg = (p.waiting.map Packet.msg)[n]'(by rwa [List.length_map]) by rw [List.getElem_map, hget], List.set_getElem_self]

theorem Port.sendMany_messages {own now : Word} (fuel : Nat) {p : Port} (hp : m ∈ p.messages) : m ∈ (p.sendMany own now fuel).messages := by
  induction fuel generalizing p with
  | zero => exact hp
  | succ fuel ih =>
    unfold Port.sendMany
    split
    · exact hp
    · next q hq => exact ih (Port.sendOne_messages hm hq hp)

/-- A message put on a port is there, waiting or sent. -/
theorem State.putMsg_messages (s : State) (n : Nat) (vc : Fin 8) (origin : Word) : m ∈ ((s.putMsg n vc origin m).port n).messages := by
  unfold State.putMsg State.relayMsg State.pumpPort
  rw [State.port_modPort_same]
  refine Port.sendMany_messages hm _ (List.mem_append_right _ (List.mem_map_of_mem (List.mem_append_right _ (List.mem_singleton_self _))))

end Messages

/-- A securing record that goes to the twin is on the twin port of its number. -/
theorem State.sendTwin_messages {s : State} {i n : Nat} (h : s.twinPort i = some n) (r : TwinRec) :
    .twin r ∈ ((s.sendTwin i r).port n).messages := by
  rw [State.sendTwin, State.toTwin, h]
  exact s.putMsg_messages (fun _ => rfl) n 5 _

theorem State.sendTwin_frame (s : State) (i : Nat) (r : TwinRec) : { s.sendTwin i r with ports := s.ports } = s := by
  unfold State.sendTwin State.toTwin
  split <;> rfl

/-! ## Changes of one partition's pages -/

/-- The state `t` with the partitions, the ports, the twins' registers, the photo-finish log and Line Time as they are in `s`. -/
def State.partAs (t s : State) : State :=
  { t with parts := s.parts, ports := s.ports, twin := s.twin, pfLog := s.pfLog, pfNext := s.pfNext, lt := s.lt }

/-- `t` is `s` after changes of partition `p` that leave its sync store, and of the ports, the event log and the counters of the twins: no time
passes. -/
structure State.OfPart (p : Nat) (s t : State) : Prop where
  frame : t.partAs s = s
  now : t.lt.now = s.lt.now
  state : t.twin.state = s.twin.state
  others : ∀ q, p ≠ q → t.part q = s.part q
  sync : (t.part p).sync = (s.part p).sync

namespace State.OfPart
variable {p : Nat} {s t u : State}

theorem refl (p : Nat) (s : State) : OfPart p s s := ⟨rfl, rfl, rfl, fun _ _ => rfl, rfl⟩

theorem trans (h : OfPart p s t) (k : OfPart p t u) : OfPart p s u where
  frame := (congrArg (fun x : State => x.partAs s) k.frame :).trans h.frame
  now := k.now.trans h.now
  state := k.state.trans h.state
  others q hq := (k.others q hq).trans (h.others q hq)
  sync := k.sync.trans h.sync

theorem mem (h : OfPart p s t) : t.mem = s.mem := (congrArg State.mem h.frame :)
theorem cores (h : OfPart p s t) : t.cores = s.cores := (congrArg State.cores h.frame :)
theorem windows (h : OfPart p s t) : t.windows = s.windows := (congrArg State.windows h.frame :)

end State.OfPart

section
variable (s : State) (p : Nat)

theorem State.modPart_ofPart {f : Part → Part} (h : (f (s.part p)).sync = (s.part p).sync) : OfPart p s (s.modPart p f) where
  frame := rfl
  now := rfl
  state := rfl
  others _ hq := s.part_modPart_other f hq
  sync := by rw [State.part_modPart_same, h]

/-! ## An event of a partition in the log (R341) -/

/-- An event record keeps the securing page, and the other partitions. -/
theorem State.eventDue_ofPart (st : Code) (i : BitVec 32) (w : Word) :
    OfPart p s (s.eventDue p st i w) ∧ ((s.eventDue p st i w).part p).sec = (s.part p).sec ∧ (s.eventDue p st i w).twin = s.twin ∧
      (s.eventDue p st i w).ports = s.ports := by
  have hframe := s.eventDue_frame p st i w
  have hpart := s.eventDue_part p st i w
  refine ⟨⟨?_, (congrArg (fun t : State => t.lt.now) hframe :), (congrArg (fun t : State => t.twin.state) hframe :), fun q hq => ?_, ?_⟩, ?_,
    (congrArg State.twin hframe :), (congrArg State.ports hframe :)⟩
  · exact (congrArg (fun t : State => t.partAs s) hframe :)
  · have hphoto : (s.photoEvent p s.lineTime s.devId).parts = s.parts := (congrArg State.parts (s.photoEvent_frame p s.lineTime s.devId) :)
    have hq' : (s.photoEvent p s.lineTime s.devId).part q = s.part q := congrArg (fun l => tabGet Part.reset l q) hphoto
    unfold State.eventDue
    extract_lets x u
    split <;> exact (State.part_modPart_other _ _ hq).trans hq'
  · rw [hpart]
    split <;> rfl
  · rw [hpart]
    split <;> rfl

/-- An event of a partition keeps the securing page and every counter of the twins but that of entries lost. -/
theorem State.log_ofPart (k : Nat) (st : Code) (a b : Nat) (w : BitVec 32) :
    OfPart p s (s.log k st (some p) a b w) ∧ ((s.log k st (some p) a b w).part p).sec = (s.part p).sec ∧
      (∀ i, i ≠ 7 → tabGet 0 (s.log k st (some p) a b w).twin.cnt i = tabGet 0 s.twin.cnt i) ∧
      (s.log k st (some p) a b w).ports = s.ports := by
  unfold State.log
  extract_lets n e s₁ twin s₂
  have hfirst : { s₁ with twin := s.twin } = s ∧ s₁.twin.state = s.twin.state ∧
      ∀ i, i ≠ 7 → tabGet 0 s₁.twin.cnt i = tabGet 0 s.twin.cnt i := by
    unfold s₁
    split
    · exact ⟨rfl, rfl, fun i hi => tabGet_tabPut_other _ _ _ (Ne.symm hi)⟩
    · exact ⟨rfl, rfl, fun _ _ => rfl⟩
  obtain ⟨hframe, hstate, hcnt⟩ := hfirst
  have hparts : s₂.parts = s.parts := (congrArg State.parts hframe :)
  have hpart (q : Nat) : s₂.part q = s.part q := congrArg (fun l => tabGet Part.reset l q) hparts
  have hlogged : OfPart p s s₂ := ⟨(congrArg (fun t : State => t.partAs s) hframe :),
    (congrArg (fun t : State => t.lt.now) hframe :), hstate, fun q _ => hpart q, congrArg Part.sync (hpart p)⟩
  obtain ⟨hdue, hsec, htwin, hports⟩ := s₂.eventDue_ofPart p st 0xFFFFFFFE#32 e.word
  refine ⟨hlogged.trans hdue, hsec.trans (congrArg Part.sec (hpart p)), fun i hi => ?_, hports.trans (congrArg State.ports hframe :)⟩
  exact (congrArg (fun x : Twin => tabGet 0 x.cnt i) htwin).trans (hcnt i hi)

/-! ## A generation is abandoned, a restore ends (R328, R330) -/

/-- A port without the records of a generation that wait. -/
def Port.dropGen (x : Port) : Port :=
  { x with waiting := x.waiting.filter fun k => match k.msg with | .twin r => !ofGeneration p r | _ => true }

theorem State.dropGen_eq : s.dropGen p = (s.modPort 24 (Port.dropGen p)).modPort 25 (Port.dropGen p) := rfl

/-- The page of a partition whose generation has been abandoned. -/
def SecPart.abandoned (x : SecPart) (st : Code) : SecPart := { x with gen := none, phase := x.otherPhase, genStatus := st, allShares := false }

/-- The page of a partition whose restore has ended. -/
def SecPart.restored (x : SecPart) (st : Code) (verify : BitVec 2) (phase : SecPhase) : SecPart :=
  { x with rest := none, restoreStatus := st, verify := verify, phase := if x.gen.isSome then x.phase else phase }

end

section
variable {s : State} {p : Nat}

/-- The records of no partition's abandoned generation wait at a twin port. -/
theorem State.dropGen_waiting (s : State) (p : Nat) {n : Nat} (hn : n = 24 ∨ n = 25) {k : Packet} (hk : k ∈ ((s.dropGen p).port n).waiting) {r : TwinRec}
    (hr : k.msg = .twin r) : ofGeneration p r = false := by
  have hport : (s.dropGen p).port n = Port.dropGen p (s.port n) := by
    rw [State.dropGen_eq]
    obtain rfl | rfl := hn
    · rw [State.port_modPort_other _ _ (by decide), State.port_modPort_same]
    · rw [State.port_modPort_same, State.port_modPort_other _ _ (by decide)]
  rw [hport] at hk
  have hkeep := (List.mem_filter.mp hk).2
  rw [hr] at hkeep
  rwa [Bool.not_eq_true'] at hkeep

/-- What becomes of a partition whose generation is abandoned: nothing but its page, which says why, the ports, which send no more of it, and the
counts and the log. -/
theorem State.abandonGen_ends (h : (s.part p).sec.gen.isSome = true) (st : Code) :
    OfPart p s (s.abandonGen p st) ∧ ((s.abandonGen p st).part p).sec = (s.part p).sec.abandoned st ∧
      tabGet 0 (s.abandonGen p st).twin.cnt 2 = tabGet 0 s.twin.cnt 2 + 1 ∧
      ∀ n : Nat, (n = 24 ∨ n = 25) → ∀ k ∈ ((s.abandonGen p st).port n).waiting, ∀ r, k.msg = .twin r → ofGeneration p r = false := by
  have hsome : ¬ (s.part p).sec.gen.isNone = true := by
    rw [Option.isNone_iff_eq_none]
    exact Option.isSome_iff_ne_none.mp h
  unfold State.abandonGen
  rw [if_neg hsome]
  extract_lets u
  have hpart : u.part p = { s.part p with sec := (s.part p).sec.abandoned st } := State.part_modPart_same _ _ _
  have hu : OfPart p s u := (⟨rfl, rfl, rfl, fun _ _ => rfl, rfl⟩ : OfPart p s (s.dropGen p)).trans ((s.dropGen p).modPart_ofPart p rfl)
  obtain ⟨hlog, hsec, hcnt, hports⟩ := (u.bumpTwin 2).log_ofPart p 3 st 0 0 (u.part p).sec.unitsLeft
  have hcount : OfPart p u (u.bumpTwin 2) := ⟨rfl, rfl, rfl, fun _ _ => rfl, rfl⟩
  refine ⟨(hu.trans hcount).trans hlog, hsec.trans (congrArg Part.sec hpart), (hcnt 2 (by decide)).trans ?_,
    fun n hn k hk r hr => ?_⟩
  · exact tabGet_tabPut_same _ _ _ _
  · refine State.dropGen_waiting s p hn (k := k) ?_ hr
    exact (congrArg (fun l => k ∈ (tabGet Port.reset l n).waiting) hports).mp hk

theorem State.abandonGen_ofPart (s : State) (p : Nat) (st : Code) : OfPart p s (s.abandonGen p st) := by
  cases h : (s.part p).sec.gen with
  | none =>
    rw [State.abandonGen_none h]
    exact .refl p s
  | some g => exact (State.abandonGen_ends (by rw [h]; rfl) st).1

/-- What becomes of a partition whose restore ends. -/
theorem State.restoreEnds_ends (s : State) (p : Nat) (st : Code) (verify : BitVec 2) (phase : SecPhase) :
    OfPart p s (s.restoreEnds p st verify phase) ∧
      ((s.restoreEnds p st verify phase).part p).sec = (s.part p).sec.restored st verify phase := by
  unfold State.restoreEnds
  extract_lets u
  obtain ⟨hlog, hsec, -⟩ := u.log_ofPart p 4 st 0 0 (verify.setWidth 32)
  exact ⟨(s.modPart_ofPart p rfl).trans hlog, hsec.trans (congrArg Part.sec (s.part_modPart_same p _))⟩

end

/-- A partition number names its partition. -/
theorem partNo_val (p : PartId) : partNo p.val = p := Fin.ext (Nat.mod_eq_of_lt p.isLt)

end Sys2Proof.Machine

/-!
SECURING GENERATIONS (R321 to R328, R330): the stages and their records, the copy of a unit, what abandons a generation, the end of a window,
and the loss of the pair.
-/
namespace Sys2Proof.Machine

/-! ## Reads at the slices (R236) -/

/-- What reads at slices change: the dies, of which no slice is fenced or freed, and the free values. -/
structure State.ReadsSlices (s t : State) : Prop where
  frame : { t with dies := s.dies, freeCtr := s.freeCtr } = s
  fenced : t.sliceFenced = s.sliceFenced

namespace State.ReadsSlices
variable {s t u : State}

theorem refl (s : State) : ReadsSlices s s := ⟨rfl, rfl⟩

theorem trans (h : ReadsSlices s t) (k : ReadsSlices t u) : ReadsSlices s u :=
  ⟨(congrArg (fun x : State => { x with dies := s.dies, freeCtr := s.freeCtr }) k.frame :).trans h.frame, k.fenced.trans h.fenced⟩

theorem modDie (s : State) (d : Nat) {f : Die → Die} (h : (f (s.die d)).sliceFenced = (s.die d).sliceFenced) : ReadsSlices s (s.modDie d f) := by
  refine ⟨rfl, State.sliceFenced_congr fun e => ?_⟩
  rw [State.die_modDie]
  split
  · next he => rw [h, he]
  · rfl

/-- Poison is not found or lost by a read. -/
theorem poisoned (h : ReadsSlices s t) (a : Nat) : t.poisoned a = s.poisoned a := by
  unfold State.poisoned
  rw [h.fenced]
  exact (congrArg (fun u : State => setHas u.poison (alias_ a / 32) || (!inNear a && s.sliceFenced a) || u.rowFenced a || u.rowFresh a)
    h.frame :)

theorem unitPoisoned (h : ReadsSlices s t) (d : Nat) : t.unitPoisoned d = s.unitPoisoned d := by
  unfold State.unitPoisoned State.spoilt
  rw [funext h.poisoned]

end State.ReadsSlices

theorem State.cacheRead_readsSlices (s : State) (a : Nat) : ReadsSlices s (s.cacheRead a) := by
  unfold State.cacheRead
  split
  · exact .refl s
  · next d sl _ =>
    split
    · exact .refl s
    · split
      · exact .modDie s d rfl
      · refine (State.ReadsSlices.modDie s d (f := fun x => { x with cnt := bump x.cnt 1 1 }) rfl).trans ?_
        unfold State.fillSlice
        extract_lets here v u
        refine State.ReadsSlices.trans (t := u) ?_ (.modDie u d rfl)
        unfold u
        split
        · exact .refl _
        · exact (⟨rfl, rfl⟩ : ReadsSlices (s.bumpDie d 1) (s.bumpDie d 1).tick).trans (.modDie _ d (f := fun x => { x with cached := setDel x.cached v }) rfl)

theorem State.agentReads_readsSlices (l : List (Nat × Nat)) (n : Nat) (s : State) : ReadsSlices s (s.agentReads n l) := by
  induction l generalizing n s with
  | nil => exact .refl s
  | cons x l ih =>
    unfold State.agentReads
    split
    · exact ih _ s
    · exact (s.cacheRead_readsSlices x.1).trans (ih _ _)

/-! ## The stages (R325, R326) -/

section Stages
variable {s : State} {p : Nat} {g : Gen}

/-- The state with a partition's generation in a phase. -/
def State.atStage (s : State) (p : Nat) (ph : SecPhase) (g : Gen) : State :=
  s.setPart p { s.part p with sec := { (s.part p).sec with phase := ph, gen := some g } }

theorem State.toPhase_eq (hg : (s.part p).sec.gen = some g) (ph : SecPhase) (f : Gen → Gen) : s.toPhase p ph f = s.atStage p ph (f g) := by
  unfold State.toPhase State.modSec State.modPart State.atStage
  dsimp only
  rw [hg]
  rfl

/-- A record of a generation goes to the twin, and its deadline runs. -/
theorem State.sendGen_setPart {x : Part} (hx : x.sec.gen = some g) (i : Nat) (r : TwinRec) : (s.setPart p x).sendGen p i r =
    (s.setPart p { x with sec := { x.sec with gen := some { g with sent := some s.twinDeadline } } }).sendTwin i r := by
  unfold State.sendGen State.modSec State.modPart
  rw [State.part_setPart_same, State.setPart_setPart]
  dsimp only
  rw [hx]
  rfl

theorem State.sendGen_atStage (ph : SecPhase) (i : Nat) (r : TwinRec) :
    (s.atStage p ph g).sendGen p i r = (s.atStage p ph { g with sent := some s.twinDeadline }).sendTwin i r :=
  State.sendGen_setPart rfl i r

/-- A record sent after a change of the partition's stage is on its twin port. -/
theorem State.atStage_sends {i n : Nat} (h : s.twinPort i = some n) (ph : SecPhase) (g : Gen) (r : TwinRec) :
    .twin r ∈ (((s.atStage p ph g).sendTwin i r).port n).messages :=
  State.sendTwin_messages (s := s.atStage p ph g) h r

/-- Stage 5 begins (R325). -/
theorem State.toCommit_eq (hg : (s.part p).sec.gen.isSome = true) (h : Gen) : s.toCommit p h =
    (s.atStage p .commit { h with sent := some s.twinDeadline }).sendTwin 0 (.commit (partNo p) h.slotB (s.commitRecord p h)) := by
  obtain ⟨g, hg⟩ := Option.isSome_iff_exists.mp hg
  rw [State.toCommit, State.toPhase_eq hg, State.sendGen_atStage]

/-- LOSS_BATON has reached STEP: the value at LOSS_ADDR goes with the commit record (R325). -/
theorem State.readLoss_reads (hbound : (s.part p).bound.isSome = true) (hstep : g.step.toNat ≤ ((s.part p).sync.baton g.lossBaton.toNat).toNat)
    {u : State} {bs : List Byte} (hread : s.ctxRead p g.lossAddr.toNat 4 = (u, .ok bs)) :
    s.readLoss p { g with sent := none } = u.toCommit p { g with sent := none, loss := BitVec.ofNat 32 (leNat bs) } := by
  have hgo : ¬ ((s.part p).bound.isNone || decide (((s.part p).sync.baton g.lossBaton.toNat).toNat < g.step.toNat)) = true := by
    rw [Option.isNone_eq_false_iff.mpr hbound, Bool.false_or, decide_eq_true_eq]
    omega
  rw [State.readLoss, if_neg hgo]
  dsimp only
  rw [hread]

theorem State.readLoss_waits (hstep : ((s.part p).sync.baton g.lossBaton.toNat).toNat < g.step.toNat) :
    s.readLoss p { g with sent := none } = s := by
  refine if_pos ?_
  rw [decide_eq_true hstep, Bool.or_true]

/-- The page at stage 5: the deadline of the commit record runs. -/
theorem State.toCommit_sec (s : State) (p : Nat) (h : Gen) : ((s.toCommit p h).part p).sec = { (s.part p).sec with
    phase := .commit, gen := (s.part p).sec.gen.map fun _ => { h with sent := some s.twinDeadline } } := by
  unfold State.toCommit State.sendGen
  generalize hu : s.toPhase p SecPhase.commit (fun _ => h) = u
  have hpart : u.part p = { s.part p with sec := { (s.part p).sec with phase := .commit, gen := (s.part p).sec.gen.map fun _ => h } } := by
    rw [← hu]
    exact s.part_modPart_same p fun x => { x with sec := { x.sec with phase := .commit, gen := x.sec.gen.map fun _ => h } }
  have hdue : u.twinDeadline = s.twinDeadline := by rw [← hu]; rfl
  have hsend (v : State) (r : TwinRec) : (v.sendTwin 0 r).part p = v.part p :=
    congrArg (fun l => tabGet Part.reset l p) (congrArg State.parts (v.sendTwin_frame 0 r) :)
  rw [hsend, State.modSec, State.part_modPart_same, hpart, hdue]
  dsimp only
  rw [Option.map_map]
  rfl

end Stages

section Advance
variable {s : State} {p : PartId} {g : Gen} (hg : (s.part p).sec.gen = some g)
include hg

/-- What a stage's end does, by the phase (R325). -/
theorem exec_generationStageAdvance : exec (.generationStageAdvance p) s =
    match (s.part p).sec.phase with
    | .clearing => .next (s.atStage p .data { g with sent := none })
    | .data => .next (if g.copied.length = g.units.length then
        (s.atStage p .digest { g with sent := some s.twinDeadline }).sendTwin 0 (.digest p g.slotB 0 g.table) else s)
    | .digest => .next (if g.lossAddr = 0 then s.toCommit p { g with sent := none }
        else s.atStage p .waitLoss { g with sent := none, stage4At := s.lt.now })
    | .waitLoss => .next (s.readLoss p { g with sent := none })
    | _ => .next s := by
  change execGenerationStageAdvance p s = _
  unfold execGenerationStageAdvance
  extract_lets x
  rw [hg]
  dsimp only
  rw [State.toPhase_eq hg, State.toPhase_eq hg, State.toPhase_eq hg, State.sendGen_atStage] <;> rfl

end Advance

/-! ## What abandons a generation (R328, Table 14.4) -/

/-- A generation of the state `s` is abandoned in `t` with a status. -/
def State.Abandons (p : Nat) (s t : State) (status : BitVec 8) : Prop :=
  (t.mem = s.mem ∧ t.cores = s.cores ∧ (t.part p).sync = (s.part p).sync) ∧ (t.part p).sec.gen = none ∧
    (t.part p).sec.phase = (s.part p).sec.otherPhase ∧ (t.part p).sec.genStatus = status ∧
    (t.part p).sec.commitGen = (s.part p).sec.commitGen ∧ tabGet 0 t.twin.cnt 2 = tabGet 0 s.twin.cnt 2 + 1 ∧
    ∀ n : Nat, (n = 24 ∨ n = 25) → ∀ k ∈ (t.port n).waiting, ∀ r, k.msg = .twin r → ofGeneration p r = false

/-- `u` is `s` as far as a generation's end is concerned. -/
structure State.SameSecuring (s u : State) : Prop where
  parts : u.parts = s.parts
  mem : u.mem = s.mem
  cores : u.cores = s.cores
  cnt : u.twin.cnt = s.twin.cnt

theorem State.SameSecuring.refl (s : State) : SameSecuring s s := ⟨rfl, rfl, rfl, rfl⟩

theorem State.SameSecuring.trans {s t u : State} (h : SameSecuring s t) (k : SameSecuring t u) : SameSecuring s u :=
  ⟨k.parts.trans h.parts, k.mem.trans h.mem, k.cores.trans h.cores, k.cnt.trans h.cnt⟩

theorem State.ReadsSlices.sameSecuring {s t : State} (h : ReadsSlices s t) : SameSecuring s t :=
  ⟨(congrArg State.parts h.frame :), (congrArg State.mem h.frame :), (congrArg State.cores h.frame :),
    (congrArg (fun u : State => u.twin.cnt) h.frame :)⟩

theorem State.passTo_sameSecuring (s : State) (d : Deadline) : SameSecuring s (s.passTo d) :=
  ⟨(congrArg State.parts (s.passTo_frame d) :), (congrArg State.mem (s.passTo_frame d) :), (congrArg State.cores (s.passTo_frame d) :),
    (congrArg (fun u : State => u.twin.cnt) (s.passTo_frame d) :)⟩

theorem State.SameSecuring.abandons {s u : State} {p : Nat} (h : SameSecuring s u) {g : Gen} (hg : (s.part p).sec.gen = some g) (st : Code) :
    Abandons p s (u.abandonGen p st) st := by
  have hpart : u.part p = s.part p := congrArg (fun l => tabGet Part.reset l p) h.parts
  obtain ⟨hof, hsec, hcnt, hports⟩ := State.abandonGen_ends (s := u) (p := p) (by rw [hpart, hg]; rfl) st
  rw [hpart] at hsec
  refine ⟨⟨hof.mem.trans h.mem, hof.cores.trans h.cores, hof.sync.trans (congrArg Part.sync hpart)⟩, congrArg SecPart.gen hsec,
    congrArg SecPart.phase hsec, congrArg SecPart.genStatus hsec, (congrArg SecPart.commitGen hsec :), hcnt.trans ?_, hports⟩
  rw [h.cnt]

/-- A generation whose deadline has passed is abandoned at it, not before. -/
theorem State.passTo_abandonGen_now {s : State} {p : Nat} {d : Word} (h : s.comes ⟨d, false⟩ = true) (st : Code) :
    d.toNat ≤ ((s.passTo ⟨d, false⟩).abandonGen p st).lt.now.toNat := by
  rw [(State.abandonGen_ofPart _ p st).now]
  exact State.reached_passTo_now h

/-! ## A data unit is copied (R326, R328) -/

section Copy
variable {s : State} {p : PartId} {g : Gen} {i : Nat}

/-- The lowest unit that is left is the next one while no write is held. -/
theorem State.nextUnit_lowest (hheld : s.heldUnits p = []) (hi : i < g.units.length) (hnot : i ∉ g.copied) (hlow : ∀ j, j < i → j ∈ g.copied) :
    s.nextUnit p g = some i := by
  unfold State.nextUnit
  extract_lets left held waits
  have hwaits : waits = [] := by
    refine List.filter_eq_nil_iff.mpr fun j _ => ?_
    unfold held
    rw [hheld]
    split <;> exact Bool.false_ne_true
  rw [hwaits]
  unfold left
  dsimp only
  rw [List.head?_filter, List.find?_range_eq_some]
  refine ⟨?_, List.mem_range.mpr hi, fun j hj => ?_⟩
  · rw [Bool.not_eq_true', ← Bool.not_eq_true, setHas_iff]
    exact hnot
  · rw [Bool.not_not, setHas_iff]
    exact hlow j hj

/-- The unit's device address in the list of units. -/
theorem unitAddress (l : List (Nat × Nat)) (i : Nat) : ((l[i]?).map (·.2)).getD 0 = (l.getD i (0, 0)).2 := by
  rw [List.getD_eq_getElem?_getD]
  cases l[i]? <;> rfl

/-- A clean read of a unit is a read at the slices. -/
theorem State.readDataUnit_clean (s : State) (d : Nat) : ReadsSlices s (s.readDataUnit d .clean) := State.agentReads_readsSlices _ _ s

theorem State.startTest_cnt (s : State) (u : TestUnit) (b : Bool) : (s.startTest u b).twin.cnt = s.twin.cnt := by
  unfold State.startTest
  split
  · split <;> rfl
  · rfl

/-- An error that cannot be corrected, found in near memory, poisons its granule and keeps the generation. -/
theorem State.readError_near {a : Nat} (hn : inNear a = true) (d sl : Nat) :
    SameSecuring s (s.readError d sl a .uncorrectable) ∧ (s.readError d sl a .uncorrectable).poisoned a = true := by
  have hstack : stackOf a = some (2 * nearDie a + nearOff a / 2 ^ 13 % 2) := by
    rw [stackOf, if_pos hn]
  unfold State.readError
  extract_lets inSlice
  generalize (if inSlice = true then TestUnit.clusterBank (sliceCluster d sl) else rowOf ((stackOf a).getD 0) a) = u
  have hpoison := (s.eccError_uncorrectable a u).1
  refine ⟨?_, State.poisoned_of_near hn ?_⟩
  · rw [State.eccError_uncorrected hstack]
    have hframe := State.startTest_frame (({ s with poison := setAdd s.poison (a / 32) } : State).modStack (2 * nearDie a + nearOff a / 2 ^ 13 % 2)
      fun x => { x with ue := x.ue + 1, valid := true, lastUe := BitVec.ofNat 48 (32 * (a / 32)) }) u true
    exact ⟨(congrArg State.parts hframe :), (congrArg State.mem hframe :), (congrArg State.cores hframe :), State.startTest_cnt ..⟩
  · rw [hpoison, alias_of_stack hstack, setHas_iff, mem_setAdd]
    exact .inr rfl

/-- A unit of near memory in which the read meets an error that cannot be corrected holds poison then. -/
theorem State.readDataUnit_uncorrectable {d : Nat} (hd : d + unitBytes ≤ 0x12000000000) :
    SameSecuring s (s.readDataUnit d .uncorrectable) ∧ (s.readDataUnit d .uncorrectable).unitPoisoned d = true := by
  obtain ⟨k, hk, hlt⟩ : ∃ k, k = Config.freeNat s.freeCtr % 65536 ∧ k < 65536 := ⟨_, rfl, Nat.mod_lt _ (by decide)⟩
  have hnear : inNear (d + 32 * k) = true := by
    rw [inNear, decide_eq_true_eq]
    unfold unitBytes at hd
    omega
  obtain ⟨die, sl, hslice⟩ : ∃ die sl, sliceOf (d + 32 * k) = some (die, sl) := ⟨_, _, if_pos hnear⟩
  unfold State.readDataUnit
  rw [← hk]
  dsimp only
  rw [if_neg (by decide), hslice]
  dsimp only
  obtain ⟨hsame, hbad⟩ := State.readError_near (s := s.tick) hnear die sl
  have hreads := State.agentReads_readsSlices (piecesOf d unitBytes) 0 (s.tick.readError die sl (d + 32 * k) .uncorrectable)
  refine ⟨((⟨rfl, rfl, rfl, rfl⟩ : SameSecuring s s.tick).trans hsame).trans hreads.sameSecuring, ?_⟩
  rw [hreads.unitPoisoned]
  exact List.any_eq_true.mpr ⟨k, List.mem_range.mpr hlt, hbad⟩

/-- A generation with one more unit copied. -/
def Gen.withCopy (g : Gen) (i : Nat) (data : List Byte) : Gen :=
  { g with copied := setAdd g.copied i, digests := tabPut g.digests i (sha256 data) }

/-- The state after a unit of a generation has been read: it is digested and sent. -/
def State.copyUnit (s : State) (p : PartId) (g : Gen) (i d : Nat) : State :=
  (s.modSec p fun x => { x with gen := x.gen.map (·.withCopy i (s.devBytes d unitBytes)), unitsLeft := x.unitsLeft - 1 }).sendGen p i
    (.unit p g.slotB i (s.devBytes d unitBytes))

section
variable {d : Nat} (hg : (s.part p).sec.gen = some g) (hphase : (s.part p).sec.phase = .data) (hnext : s.nextUnit p g = some i)
  (hd : (g.units.getD i (0, 0)).2 = d)
include hg hphase hnext hd

/-- What the copy of the next unit does. -/
theorem exec_unitCopied (ecc : Ecc) : exec (.unitCopied p ecc) s =
    .next (if (piecesOf d unitBytes).any (fun q => !s.agentReaches p q.1) then s.abandonGen p Code.fenced
      else if (s.readDataUnit d ecc).unitPoisoned d then (s.readDataUnit d ecc).abandonGen p Code.poison
      else (s.readDataUnit d ecc).copyUnit p g i d) := by
  change execUnitCopied p ecc s = _
  unfold execUnitCopied
  extract_lets x
  rw [hg, hphase]
  dsimp only
  rw [hnext]
  dsimp only
  rw [unitAddress, hd]
  split
  · rfl
  · split
    · rfl
    · rfl

/-- A unit that no path reaches abandons the generation (R247). -/
theorem exec_unitCopied_unreached (hr : ¬ ∀ q ∈ piecesOf d unitBytes, s.agentReaches p q.1 = true) (ecc : Ecc) :
    exec (.unitCopied p ecc) s = .next (s.abandonGen p Code.fenced) := by
  rw [exec_unitCopied hg hphase hnext hd, if_pos]
  obtain ⟨q, hq, hn⟩ := not_forall₂.mp hr
  exact List.any_eq_true.mpr ⟨q, hq, by rw [Bool.eq_false_iff.mpr hn]; rfl⟩

/-- A unit that a path reaches is read, and abandons the generation when poison is found in it (R328). -/
theorem exec_unitCopied_reached (hr : ∀ q ∈ piecesOf d unitBytes, s.agentReaches p q.1 = true) (ecc : Ecc) : exec (.unitCopied p ecc) s =
    .next (if (s.readDataUnit d ecc).unitPoisoned d then (s.readDataUnit d ecc).abandonGen p Code.poison
      else (s.readDataUnit d ecc).copyUnit p g i d) := by
  rw [exec_unitCopied hg hphase hnext hd, if_neg]
  rw [List.any_eq_true]
  rintro ⟨q, hq, hn⟩
  rw [hr q hq] at hn
  exact Bool.false_ne_true hn

end

/-- A record sent after reads at the slices and a change of the partition: the ports and what the reads change apart, the change is all. -/
theorem State.ReadsSlices.sendTwin_setPart {s u : State} (h : ReadsSlices s u) (p : Nat) (x : Part) (i : Nat) (r : TwinRec) :
    { (u.setPart p x).sendTwin i r with ports := s.ports, dies := s.dies, freeCtr := s.freeCtr } = s.setPart p x :=
  (congrArg (fun t : State => { t with ports := s.ports, dies := s.dies, freeCtr := s.freeCtr }) ((u.setPart p x).sendTwin_frame i r) :).trans
    (congrArg (fun t : State => { t.setPart p x with ports := s.ports }) h.frame :)

/-- A sound unit is digested and goes to the twin. -/
theorem State.copyUnit_clean (hg : (s.part p).sec.gen = some g) (d : Nat) :
    (∀ n, s.twinPort i = some n →
      .twin (.unit p g.slotB i (s.devBytes d unitBytes)) ∈ (((s.readDataUnit d .clean).copyUnit p g i d).port n).messages) ∧
    { (s.readDataUnit d .clean).copyUnit p g i d with ports := s.ports, dies := s.dies, freeCtr := s.freeCtr } =
      s.setPart p { s.part p with sec := { (s.part p).sec with
        gen := some { g.withCopy i (s.devBytes d unitBytes) with sent := some s.twinDeadline }, unitsLeft := (s.part p).sec.unitsLeft - 1 } } := by
  have hreads := s.readDataUnit_clean d
  generalize s.readDataUnit d .clean = u at hreads ⊢
  have hpart : u.part p = s.part p := congrArg (fun l => tabGet Part.reset l p) hreads.sameSecuring.parts
  have hdata : u.devBytes d unitBytes = s.devBytes d unitBytes := congrArg (fun m => memRead m (alias_ d) unitBytes) hreads.sameSecuring.mem
  have hport (x : Part) : (u.setPart p x).twinPort i = s.twinPort i := (congrArg (fun t : State => t.twinPort i) hreads.frame :)
  have hdue : u.twinDeadline = s.twinDeadline := (congrArg State.twinDeadline hreads.frame :)
  unfold State.copyUnit
  rw [hdata]
  generalize s.devBytes d unitBytes = data
  unfold State.modSec State.modPart
  dsimp only
  rw [hpart, hg, State.sendGen_setPart rfl, hdue]
  exact ⟨fun n hn => State.sendTwin_messages ((hport _).trans hn) _, hreads.sendTwin_setPart p _ i _⟩

end Copy

end Sys2Proof.Machine

/-!
THE ENDS OF A GENERATION (R325, R328, R330): the wait for the loss, the commit, the acknowledgement that is missing, the end of a window, and the loss
of the pair.
-/
namespace Sys2Proof.Machine

/-! ## The loss's wait, the commit, and the acknowledgement (R325, R328) -/

section Ends
variable {s : State} {p : PartId} {g : Gen} (hg : (s.part p).sec.gen = some g)
include hg

/-- LOSS_WAIT_MS after stage 4 began, with LOSS_BATON still below STEP, the generation is abandoned. -/
theorem exec_lossWaitTimeout (hphase : (s.part p).sec.phase = .waitLoss) : exec (.lossWaitTimeout p) s =
    .next (if g.step.toNat ≤ ((s.part p).sync.baton g.lossBaton.toNat).toNat then s
      else (s.passTo ⟨g.stage4At + BitVec.ofNat 64 (g.lossWaitMs.toNat * 1000000), false⟩).abandonGen p Code.timeout) := by
  change execLossWaitTimeout p s = _
  unfold execLossWaitTimeout
  extract_lets x
  rw [hg, hphase]
  dsimp only
  split
  · rfl
  · rfl

/-- The page of a partition whose generation has been committed. -/
def SecPart.committed (x : SecPart) (g : Gen) : SecPart :=
  { x with gen := none, phase := x.otherPhase, genStatus := Code.ok, commitStep := g.step, commitGen := g.generation,
           heldB := some g.slotB, heldKnown := true, allShares := false }

theorem exec_generationCommit (hphase : (s.part p).sec.phase = .commit) :
    exec (.generationCommit p) s = .next ((s.modSec p (·.committed g)).bumpTwin 1) := by
  change execGenerationCommit p s = _
  unfold execGenerationCommit
  extract_lets x
  rw [hg, hphase]
  rfl

/-- The acknowledgement of the last record is missing 1 µs after its deadline (R281). -/
theorem exec_transferAckTimeout_generation {d : Word} (hsent : g.sent = some d) (hcomes : s.comes ⟨d + 1000, false⟩ = true) :
    exec (.transferAckTimeout (.generation p)) s = .next ((s.passTo ⟨d + 1000, false⟩).abandonGen p Code.timeout) := by
  have hawaited : s.awaited (.generation p) = some d := by
    rw [State.awaited, hg]
    exact hsent
  change execTransferAckTimeout (.generation p) s = _
  unfold execTransferAckTimeout
  rw [hawaited]
  dsimp only
  rw [hcomes]
  rfl

end Ends

/-! ## The end of a securing window (R328) -/

section Window
variable {s : State} {e : Fin 256} {w : OpenWindow} {p : PartId}

/-- The mask of one partition names it. -/
theorem maskParts_one (p : PartId) : maskParts (1#16 <<< p.val) = [p.val] := by
  revert p
  decide

/-- The state at the end of its only window. -/
def State.windowEnded (s : State) (w : OpenWindow) : State := { s.passTo ⟨w.stop, false⟩ with windows := [{ w with ended := true }] }

/-- At the end of the only window, the windowed generation of its partition that belongs to it is abandoned. -/
theorem exec_secureWindowEnd (hs : s.windows = [w]) (he : w.entry = e.val) (ha : w.action = 1) (hopen : w.ended = false)
    (hmask : w.partMask = 1#16 <<< p.val) : exec (.secureWindowEnd e) s =
    .next (if (s.part p).sec.gen.any fun g => g.windowed && g.windowEnd == w.stop then (s.windowEnded w).abandonGen p Code.timeout
      else s.windowEnded w) := by
  have hmatch : (w.entry == e.val && w.action == 1 && !w.ended) = true := by
    rw [he, ha, hopen, beq_self_eq_true]
    rfl
  have hwindows : (s.passTo ⟨w.stop, false⟩).windows = [w] := (congrArg State.windows (s.passTo_frame _) :).trans hs
  have hend : { s.passTo ⟨w.stop, false⟩ with
      windows := (s.passTo ⟨w.stop, false⟩).windows.map fun v => if v = w then { v with ended := true } else v } = s.windowEnded w := by
    rw [hwindows, List.map_singleton, if_pos rfl]
    rfl
  have hpart : (s.windowEnded w).part p = s.part p :=
    congrArg (fun l => tabGet Part.reset l p.val) (s.passTo_sameSecuring ⟨w.stop, false⟩).parts
  have hfind : s.windows.find? (fun w => w.entry == e.val && w.action == 1 && !w.ended) = some w := by
    rw [hs]
    exact List.find?_cons_of_pos hmatch
  change execSecureWindowEnd e s = _
  unfold execSecureWindowEnd
  rw [hfind]
  dsimp only
  rw [hmask, maskParts_one, List.foldl_cons, List.foldl_nil, hend, hpart]
  cases (s.part p).sec.gen with
  | none => rfl
  | some g => rfl

end Window

/-! ## The pair is lost (R317, R318, R330) -/

/-- What the loss of the pair ends of a partition. -/
def State.loseTwin (s : State) (p : Nat) : State :=
  let s := s.abandonGen p Code.timeout
  if (s.part p).sec.rest.isSome then s.restoreEnds p Code.timeout (s.part p).sec.verify .idle else s

/-- The pair's state is LOST. -/
def State.twinLost (s : State) : State := { s with twin := { s.twin with state := .lost } }

theorem State.pairLost_eq (s : State) : s.pairLost = (List.range 16).foldl State.loseTwin s.twinLost := rfl

/-- The securing page of a partition at the loss of the pair: it neither secures nor restores, and TIMEOUT says what was ended. -/
def SecPart.lost (x y : SecPart) : Prop :=
  y.gen = none ∧ y.rest = none ∧ y.heldKnown = x.heldKnown ∧ y.heldB = x.heldB ∧
    (x.gen ≠ none → y.genStatus = Code.timeout) ∧ (x.rest ≠ none → y.restoreStatus = Code.timeout)

/-- A generation in progress or none, it is ended: the rest of the page is as it was but for the phase. -/
theorem State.abandonGen_sec (s : State) (p : Nat) (st : Code) : ((s.abandonGen p st).part p).sec.gen = none ∧
    ((s.abandonGen p st).part p).sec.rest = (s.part p).sec.rest ∧ ((s.abandonGen p st).part p).sec.heldKnown = (s.part p).sec.heldKnown ∧
    ((s.abandonGen p st).part p).sec.heldB = (s.part p).sec.heldB ∧
    ((s.part p).sec.gen ≠ none → ((s.abandonGen p st).part p).sec.genStatus = st) := by
  cases h : (s.part p).sec.gen with
  | none =>
    rw [State.abandonGen_none h]
    exact ⟨h, rfl, rfl, rfl, fun hn => absurd rfl hn⟩
  | some g =>
    rw [(State.abandonGen_ends (by rw [h]; rfl) st).2.1]
    exact ⟨rfl, rfl, rfl, rfl, fun _ => rfl⟩

theorem State.loseTwin_ends (s : State) (p : Nat) : OfPart p s (s.loseTwin p) ∧ (s.part p).sec.lost ((s.loseTwin p).part p).sec := by
  unfold State.loseTwin
  extract_lets u
  have hof : OfPart p s u := s.abandonGen_ofPart p Code.timeout
  obtain ⟨hgen, hrest, hknown, hheld, hstatus⟩ := s.abandonGen_sec p Code.timeout
  obtain ⟨hend, hsec⟩ := u.restoreEnds_ends p Code.timeout (u.part p).sec.verify .idle
  split
  · refine ⟨hof.trans hend, ?_⟩
    rw [hsec]
    exact ⟨hgen, rfl, hknown, hheld, hstatus, fun _ => rfl⟩
  · next hnone =>
    have hnone : (u.part p).sec.rest = none := Option.not_isSome_iff_eq_none.mp hnone
    exact ⟨hof, hgen, hnone, hknown, hheld, hstatus, fun hn => absurd (hrest.symm.trans hnone) hn⟩

/-- Steps that each change one partition, over a list that names each once: every partition named has been through its own step. -/
theorem foldl_ofPart {f : State → Nat → State} (h : ∀ s p, State.OfPart p s (f s p)) {l : List Nat} (hl : l.Nodup) (s : State) :
    (l.foldl f s).mem = s.mem ∧ (l.foldl f s).twin.state = s.twin.state ∧ (∀ q, q ∉ l → (l.foldl f s).part q = s.part q) ∧
      ∀ q ∈ l, ∃ u : State, u.part q = s.part q ∧ (l.foldl f s).part q = (f u q).part q := by
  induction l generalizing s with
  | nil => exact ⟨rfl, rfl, fun _ _ => rfl, fun q hq => absurd hq List.not_mem_nil⟩
  | cons p l ih =>
    obtain ⟨hp, hl⟩ := List.nodup_cons.mp hl
    obtain ⟨hmem, hstate, hother, hown⟩ := ih hl (f s p)
    have hstep := h s p
    refine ⟨hmem.trans hstep.mem, hstate.trans hstep.state, fun q hq => ?_, fun q hq => ?_⟩
    · obtain ⟨hne, hq⟩ := not_or.mp (mt List.mem_cons.mpr hq)
      exact (hother q hq).trans (hstep.others q (Ne.symm hne))
    · obtain rfl | hq := List.mem_cons.mp hq
      · exact ⟨s, rfl, hother q hp⟩
      · obtain ⟨u, hu, hend⟩ := hown q hq
        exact ⟨u, hu.trans (hstep.others q fun he => hp (he ▸ hq)), hend⟩

theorem State.pairLost_ends (s : State) : s.pairLost.twin.state = .lost ∧ s.pairLost.mem = s.mem ∧
    ∀ q : Nat, q < 16 → (s.part q).sec.lost (s.pairLost.part q).sec := by
  rw [State.pairLost_eq]
  have hfold := foldl_ofPart (f := State.loseTwin) (fun s p => (s.loseTwin_ends p).1) (l := List.range 16) List.nodup_range s.twinLost
  obtain ⟨hmem, hstate, -, hown⟩ := hfold
  refine ⟨hstate, hmem, fun q hq => ?_⟩
  obtain ⟨u, hu, hend⟩ := hown q (List.mem_range.mpr hq)
  have hlost := (u.loseTwin_ends q).2
  rw [hu.trans (show s.twinLost.part q = s.part q from rfl)] at hlost
  rw [hend]
  exact hlost

/-- When PAIR_LOST_TIMEOUT can come (R318). -/
def State.mayLose (s : State) : Prop :=
  s.twinUp 24 = false ∧ s.twinUp 25 = false ∧ ((s.port 24).role = 2 ∨ (s.port 25).role = 2) ∧ s.twin.everUp = true ∧ s.twin.state ≠ .lost

theorem State.mayLose_iff (s : State) :
    (!(twinPorts.any s.twinUp) && s.twinRole && s.twin.everUp && s.twin.state != .lost) = true ↔ s.mayLose := by
  unfold State.mayLose State.twinRole twinPorts
  simp [and_assoc]

theorem exec_pairLostTimeout (h : s.mayLose) : exec .pairLostTimeout s = .next s.pairLost :=
  congrArg Host.Outcome.next (if_pos (s.mayLose_iff.mpr h))

theorem exec_pairLostTimeout_stays (h : ¬ s.mayLose) : exec .pairLostTimeout s = .next s :=
  congrArg Host.Outcome.next (if_neg (mt s.mayLose_iff.mp h))

/-- Settles O49: each command's branch is taken by its phase; what it sends is `State.sendTwin`'s, what it abandons `State.abandonGen`'s, and the
loss of the pair goes through the partitions one by one, each step leaving the others. -/
theorem generations : Obligations.Generations := by
  unfold Obligations.Generations
  rw [show (2 : Nat) ^ 21 = unitBytes from rfl]
  refine ⟨fun s p g => ?_, fun s e w p => ?_⟩
  · intro x sec keeps abandoned stage sends due hg
    have hsome : (s.part p).sec.gen.isSome = true := by rw [show (s.part p).sec.gen = some g from hg]; rfl
    have hadvance := exec_generationStageAdvance hg
    refine ⟨fun hphase => ?_, fun hphase => ⟨fun hall => ?_, fun hleft => ?_, fun hheld i hi hnot hlow => ?_⟩,
      fun hphase => ⟨fun hloss => ?_, fun hloss => ?_⟩, fun hphase => ⟨fun hstep => ?_, fun hstep => ?_⟩, fun hphase => ?_, ?_, fun d hd hcomes => ?_⟩
    · rw [hphase] at hadvance
      exact hadvance
    · rw [hphase] at hadvance
      refine ⟨_, hadvance.trans (congrArg Host.Outcome.next (if_pos hall)), State.sendTwin_frame _ _ _, fun n hn => State.atStage_sends hn _ _ _⟩
    · rw [hphase] at hadvance
      exact hadvance.trans (congrArg Host.Outcome.next (if_neg hleft))
    · intro d data reached
      have hnext := State.nextUnit_lowest hheld hi hnot hlow
      have hd : (g.units.getD i (0, 0)).2 = d := rfl
      refine ⟨fun hr hsound => ?_, fun hr hbad => ?_, fun hr hnear => ?_, fun hr ecc => ?_⟩
      · have hexec := exec_unitCopied_reached hg hphase hnext hd hr .clean
        rw [(s.readDataUnit_clean d).unitPoisoned, hsound, if_neg Bool.false_ne_true] at hexec
        obtain ⟨hsends, hframe⟩ := State.copyUnit_clean (i := i) hg d
        exact ⟨_, hexec, hsends, hframe⟩
      · have hexec := exec_unitCopied_reached hg hphase hnext hd hr .clean
        rw [(s.readDataUnit_clean d).unitPoisoned, hbad, if_pos rfl] at hexec
        exact ⟨_, hexec, (s.readDataUnit_clean d).sameSecuring.abandons hg _⟩
      · have hexec := exec_unitCopied_reached hg hphase hnext hd hr .uncorrectable
        obtain ⟨hsame, hbad⟩ := State.readDataUnit_uncorrectable (s := s) hnear
        rw [hbad, if_pos rfl] at hexec
        exact ⟨_, hexec, hsame.abandons hg _⟩
      · exact ⟨_, exec_unitCopied_unreached hg hphase hnext hd hr ecc, (State.SameSecuring.refl s).abandons hg _⟩
    · rw [hphase] at hadvance
      have hexec := hadvance.trans (congrArg Host.Outcome.next (if_pos hloss))
      rw [State.toCommit_eq hsome, partNo_val] at hexec
      exact ⟨_, hexec, State.sendTwin_frame _ _ _, fun n hn => State.atStage_sends hn _ _ _⟩
    · rw [hphase] at hadvance
      exact hadvance.trans (congrArg Host.Outcome.next (if_neg hloss))
    · refine ⟨(exec_lossWaitTimeout hg hphase).trans (congrArg Host.Outcome.next (if_pos hstep)), fun u bs hbound hread => ?_⟩
      rw [hphase] at hadvance
      have hsec := u.toCommit_sec p { g with sent := none, loss := BitVec.ofNat 32 (leNat bs) }
      exact ⟨_, hadvance.trans (congrArg Host.Outcome.next (State.readLoss_reads hbound hstep hread)), congrArg SecPart.phase hsec,
        congrArg SecPart.gen hsec⟩
    · rw [hphase] at hadvance
      refine ⟨hadvance.trans (congrArg Host.Outcome.next (State.readLoss_waits hstep)), ?_⟩
      have hend (d : Word) (h : exec (.lossWaitTimeout p) s = .next ((s.passTo ⟨d, false⟩).abandonGen p Code.timeout)) :
          ∃ t, Gives (.lossWaitTimeout p) s t ∧ abandoned t 0x10 ∧ (s.comes ⟨d, false⟩ = true → d.toNat ≤ t.lt.now.toNat) :=
        ⟨_, h, (s.passTo_sameSecuring ⟨d, false⟩).abandons hg Code.timeout, fun hcomes => State.passTo_abandonGen_now hcomes Code.timeout⟩
      exact hend _ ((exec_lossWaitTimeout hg hphase).trans (congrArg Host.Outcome.next (if_neg (Nat.not_le.mpr hstep))))
    · refine ⟨_, exec_generationCommit hg hphase, ?_⟩
      have hpart : ((s.modSec p (·.committed g)).bumpTwin 1).part p = { s.part p with sec := (s.part p).sec.committed g } :=
        s.part_modPart_same p fun x => { x with sec := x.sec.committed g }
      have hsec : (((s.modSec p (·.committed g)).bumpTwin 1).part p).sec = (s.part p).sec.committed g :=
        congrArg Part.sec hpart
      refine ⟨congrArg SecPart.gen hsec, congrArg SecPart.phase hsec, congrArg SecPart.genStatus hsec, congrArg SecPart.commitStep hsec,
        congrArg SecPart.commitGen hsec, congrArg SecPart.heldB hsec, congrArg SecPart.heldKnown hsec, ?_, rfl, rfl, ?_⟩
      · exact tabGet_tabPut_same _ _ _ _
      · exact (congrArg Part.sync hpart :)
    · exact ⟨_, rfl, (State.SameSecuring.refl s).abandons hg _⟩
    · exact ⟨_, exec_transferAckTimeout_generation hg hd hcomes, (s.passTo_sameSecuring _).abandons hg _, State.passTo_abandonGen_now hcomes _⟩
  · intro x
    refine ⟨fun hs he ha hopen hmask hcomes => ?_, fun hrole hever hstate h24 h25 => ?_, fun h => ?_⟩
    · have hexec := exec_secureWindowEnd hs he ha hopen hmask
      have hparts : (s.windowEnded w).parts = s.parts := (s.passTo_sameSecuring ⟨w.stop, false⟩).parts
      refine ⟨fun g hg hwin hstop => ?_, fun hnone => ?_⟩
      · have hsome : (s.part p).sec.gen.isSome = true := by rw [show (s.part p).sec.gen = some g from hg]; rfl
        rw [show (s.part p).sec.gen = some g from hg, Option.any_some, hwin, hstop, beq_self_eq_true, Bool.and_self, if_pos rfl] at hexec
        have hof := (s.windowEnded w).abandonGen_ofPart p Code.timeout
        obtain ⟨hgen, -, -, -, hstatus⟩ := (s.windowEnded w).abandonGen_sec p Code.timeout
        refine ⟨_, hexec, hof.windows, hgen, hstatus ?_, ?_, hof.mem.trans (s.passTo_sameSecuring ⟨w.stop, false⟩).mem⟩
        · exact Option.isSome_iff_ne_none.mp ((congrArg (fun l => (tabGet Part.reset l p.val).sec.gen.isSome) hparts).trans hsome)
        · rw [hof.now]
          exact State.reached_passTo_now hcomes
      · have hstays : exec (.secureWindowEnd e) s = .next (s.windowEnded w) := by
          refine hexec.trans (congrArg Host.Outcome.next (if_neg ?_))
          rw [Option.any_eq_true]
          rintro ⟨g, hg, hwin⟩
          rw [hnone g hg] at hwin
          exact Bool.false_ne_true hwin
        exact ⟨_, hstays, rfl, hparts, State.reached_passTo_now hcomes⟩
    · obtain ⟨hlost, hmem, hall⟩ := s.pairLost_ends
      exact ⟨_, exec_pairLostTimeout ⟨h24, h25, hrole, hever, hstate⟩, hlost, hmem, hall⟩
    · refine exec_pairLostTimeout_stays fun hmay => ?_
      obtain ⟨h24, h25, hrole, hever, hstate⟩ := hmay
      obtain h | h | ⟨h1, h2⟩ | h | h := h
      · exact Bool.false_ne_true (h24.symm.trans h)
      · exact Bool.false_ne_true (h25.symm.trans h)
      · exact hrole.elim h1 h2
      · exact Bool.false_ne_true (h.symm.trans hever)
      · exact hstate h

end Sys2Proof.Machine

/-!
REPLICA SLOTS AND RESTORES (R317 to R322, R330 to R332): what a securing record of the twin writes into far memory, how a restore begins, and what
ends it.
-/
namespace Sys2Proof.Machine

/-! ## Writes to far memory (R320, R321) -/

theorem inFar_iff {a : Nat} : inFar a = true ↔ 0x20000000000 ≤ a ∧ a < 0x2E000000000 := by
  rw [inFar, Bool.and_eq_true, decide_eq_true_eq, decide_eq_true_eq]

theorem alias_of_far {a : Nat} (h : inFar a = true) : alias_ a = a := by
  obtain ⟨-, hlt⟩ := inFar_iff.mp h
  refine if_neg ?_
  rw [inReduce, Bool.and_eq_true, decide_eq_true_eq, decide_eq_true_eq]
  omega

section Far
variable {s : State} {a : Nat}

/-- A write to far memory outside the fenced rows stores its bytes. -/
theorem State.granWrite_far (hfar : inFar a = true) (hf : s.rowFenced a = false) (x : Byte) (bytes : List (Nat × Byte)) (poison : Nat → Bool) :
    s.MemoryTo (s.granWrite none ((a, x) :: bytes) poison) (((a, x) :: bytes).foldl (fun m b => memSet m b.1 b.2) s.mem) := by
  have hplace : inReduce a = false ∧ inScratch a = false := by
    obtain ⟨-, hlt⟩ := inFar_iff.mp hfar
    simp only [inReduce, inScratch, Bool.and_eq_false_iff, decide_eq_false_iff_not]
    omega
  obtain ⟨hreduce, hscratch⟩ := hplace
  obtain ⟨gs, ps, heq⟩ : ∃ gs ps, s.granWrite none ((a, x) :: bytes) poison = { (s.closeGroups a).freshWritten gs with
      mem := ((a, x) :: bytes).foldl (fun m b => memSet m b.1 b.2) ((s.closeGroups a).freshWritten gs).mem, poison := ps } := by
    unfold State.granWrite
    dsimp only
    rw [hreduce, hscratch, State.rowFenced_closeGroups, hf]
    exact ⟨_, _, rfl⟩
  have hmem : ((s.closeGroups a).freshWritten gs).mem = s.mem :=
    (congrArg State.mem ((s.closeGroups a).freshWritten_frame gs) :).trans (congrArg State.mem (s.closeGroups_frame a) :)
  refine ⟨s.granWrite_onlyMemory .., ?_, fun b => ?_⟩
  · rw [heq, hmem]
  · rw [heq]
    exact (State.rowFenced_freshWritten _ gs b).trans (s.rowFenced_closeGroups a b)

/-- A piece of far memory stores what it holds. -/
theorem State.devWrite_far {bs : List Byte} (hb : bs ≠ []) (hfar : inFar a = true) (hf : s.rowFenced a = false) :
    s.MemoryTo (s.devWrite none (atAddrs a bs) false) (memWrite s.mem a bs) := by
  obtain ⟨x, bs, rfl⟩ := List.exists_cons_of_ne_nil hb
  have h := State.granWrite_far hfar hf x (atAddrs (a + 1) bs) fun _ => false
  rwa [← atAddrs_cons, foldl_memSet_atAddrs] at h

/-- Pieces of far memory store what they hold, in order. -/
theorem State.devWritePieces_far (fuel : Nat) {s : State} {a : Nat} {data : List Byte} (hfuel : data.length ≠ 0 → data.length + a % 32 ≤ 32 * fuel)
    (hlow : 0x20000000000 ≤ a) (hhigh : a + data.length ≤ 0x2E000000000) (hrows : ∀ b, a ≤ b → b < a + data.length → s.rowFenced b = false) :
    s.MemoryTo (s.devWritePieces false (pieces fuel a data.length) data) (memWrite s.mem a data) := by
  induction fuel generalizing s a data with
  | zero =>
    obtain rfl : data = [] := List.length_eq_zero_iff.mp (by omega)
    exact ⟨.refl s, rfl, fun _ => rfl⟩
  | succ fuel ih =>
    unfold pieces
    by_cases hempty : data.length = 0
    · rw [if_pos hempty, List.length_eq_zero_iff.mp hempty]
      exact ⟨.refl s, rfl, fun _ => rfl⟩
    · obtain ⟨k, hk⟩ : ∃ k, k = min data.length (32 - a % 32) := ⟨_, rfl⟩
      have htake : (data.take k).length = k := by
        rw [List.length_take]
        omega
      have hdrop : (data.drop k).length = data.length - k := List.length_drop
      have hfirst := State.devWrite_far (s := s) (a := a) (bs := data.take k) (by rw [← List.length_pos_iff]; omega)
        (inFar_iff.mpr ⟨hlow, by omega⟩) (hrows a (Nat.le_refl a) (by omega))
      have hrest := ih (s := s.devWrite none (atAddrs a (data.take k)) false) (a := a + k) (data := data.drop k) (by omega) (by omega) (by omega)
        fun b h1 h2 => (hfirst.fenced b).trans (hrows b (by omega) (by omega))
      have happend := memWrite_append s.mem a (data.take k) (data.drop k)
      rw [htake, List.take_append_drop, ← hfirst.mem] at happend
      rw [if_neg hempty, Nat.mod_eq_of_lt (by omega : a < 2 ^ 48)]
      dsimp only
      rw [← hk, State.devWritePieces, ← hdrop, ← happend]
      exact hfirst.trans hrest

/-- Data written in far memory stands there, and nothing else changes. -/
theorem State.farWrite_stores {data : List Byte} (hlow : 0x20000000000 ≤ a) (hhigh : a + data.length ≤ 0x2E000000000)
    (hrows : ∀ b, a ≤ b → b < a + data.length → s.rowFenced b = false) : s.MemoryTo (s.farWrite a data) (memWrite s.mem a data) :=
  State.devWritePieces_far _ (fun _ => by omega) hlow hhigh hrows

end Far

/-! ## Securing records of the twin (R320 to R322, R325) -/

section Records
variable {s : State} {p : PartId} {n : PortId}

/-- The units of an extent, and its commit record, lie in far memory (R320, R321). -/
theorem SecPart.unitAt_far {x : SecPart} {i : Nat} (hsize : x.baseGib.toNat + x.sizeGib.toNat ≤ 440) (hi : i < extentUnits x.sizeGib.toNat) (b : Bool) :
    0x20000000000 ≤ x.unitAt b i ∧ x.unitAt b i + unitBytes ≤ 0x2E000000000 := by
  unfold extentUnits at hi
  unfold SecPart.unitAt SecPart.slotAt SecPart.tableUnits unitBytes
  split <;> omega

theorem SecPart.slotAt_far {x : SecPart} (hsize : x.baseGib.toNat + x.sizeGib.toNat ≤ 440) (b : Bool) :
    0x20000000000 ≤ x.slotAt b ∧ x.slotAt b + 128 ≤ 0x2E000000000 := by
  unfold SecPart.slotAt
  split <;> omega

/-- Does the device take the twin's securing records of a partition on a port? -/
theorem State.recordsTaken_iff : (s.twinUp n && s.takesRecords p) = true ↔
    s.twinUp n = true ∧ (s.twin.state = .paired ∨ s.twin.state = .degraded) ∧ s.start.farZero = true ∧ (s.part p).sec.sizeGib ≠ 0 := by
  unfold State.takesRecords State.servesTwin State.paired
  simp only [Bool.and_eq_true, Bool.or_eq_true, beq_iff_eq, bne_iff_ne, and_assoc]

/-- A unit of an extent goes to its place, and a port from which no path leads there takes it nowhere (R247). -/
theorem exec_twinRecordReceive_unit {b : Bool} {i : Nat} {data : List Byte} (ht : (s.twinUp n && s.takesRecords p) = true)
    (hi : i < extentUnits (s.part p).sec.sizeGib.toNat) (hlen : data.length = unitBytes) : exec (.twinRecordReceive n (.unit p b i data)) s =
    .next (if s.reachesAll (portJunction n) ((s.part p).sec.unitAt b i) unitBytes then (s.farWrite ((s.part p).sec.unitAt b i) data).ackTwin n p
      else s) := by
  have hdata : data.take unitBytes = data := List.take_of_length_le (by omega)
  refine (congrArg Host.Outcome.next (if_pos ht)).trans (congrArg Host.Outcome.next ?_)
  unfold State.securingRecord
  dsimp only
  rw [if_pos hi, hdata, State.farRecord, hlen]
  rfl

/-- A cleared commit record. -/
theorem exec_twinRecordReceive_clear {b : Bool} (ht : (s.twinUp n && s.takesRecords p) = true)
    (hr : s.reachesAll (portJunction n) ((s.part p).sec.slotAt b) 128 = true) : exec (.twinRecordReceive n (.clear p b)) s =
    .next (((s.farWrite ((s.part p).sec.slotAt b) (List.replicate 128 0)).refreshRepl p).ackTwin n p) := by
  refine (congrArg Host.Outcome.next (if_pos ht)).trans (congrArg Host.Outcome.next ?_)
  unfold State.securingRecord
  dsimp only
  rw [State.farRecord, List.length_replicate, if_pos hr]

theorem State.ackTwin_messages (s : State) (n : PortId) (p : PartId) : .twinAck p ∈ ((s.ackTwin n p).port n).messages :=
  s.putMsg_messages (fun _ => rfl) n 5 _

/-- A slot whose commit record reads 0 holds nothing (R322). -/
theorem State.slotHolds_zero {b : Bool} (hfar : inFar ((s.part p).sec.slotAt b) = true)
    (hz : ∀ j, j < 128 → memGet s.mem ((s.part p).sec.slotAt b + j) = 0) : s.slotHolds p b = (0, 0) := by
  have hbytes : s.devBytes ((s.part p).sec.slotAt b) 128 = List.replicate 128 0 := by
    rw [State.devBytes, alias_of_far hfar, List.eq_replicate_iff]
    refine ⟨by rw [memRead, List.length_map, List.length_range], fun v hv => ?_⟩
    obtain ⟨j, hj, rfl⟩ := List.mem_map.mp hv
    exact hz j (List.mem_range.mp hj)
  have hmagic : (recNat (List.replicate 128 0) 0 4 == 0x54494D43) = false := by decide
  unfold State.slotHolds
  dsimp only
  rw [hbytes, hmagic]
  simp only [Bool.and_false, Bool.false_and, Bool.false_eq_true, if_false]

/-- The replica registers of a slot after a refresh. -/
theorem State.refreshRepl_gen (s : State) (p : PartId) (b : Bool) :
    (if b then ((s.refreshRepl p).part p).sec.replBGen else ((s.refreshRepl p).part p).sec.replAGen) = (s.slotHolds p b).2 := by
  unfold State.refreshRepl State.modSec
  dsimp only
  rw [State.part_modPart_same]
  cases b <;> rfl

/-- A cleared commit record reads 0, and its slot holds nothing. -/
theorem State.cleared_slot (b : Bool) (hlow : 0x20000000000 ≤ (s.part p).sec.slotAt b) (hhigh : (s.part p).sec.slotAt b + 128 ≤ 0x2E000000000)
    (hrows : ∀ d, (s.part p).sec.slotAt b ≤ d → d < (s.part p).sec.slotAt b + 128 → s.rowFenced d = false) :
    let t := ((s.farWrite ((s.part p).sec.slotAt b) (List.replicate 128 0)).refreshRepl p).ackTwin n p
    (∀ j, j < 128 → memGet t.mem ((s.part p).sec.slotAt b + j) = 0) ∧
      (∀ a, a < (s.part p).sec.slotAt b ∨ (s.part p).sec.slotAt b + 128 ≤ a → memGet t.mem a = memGet s.mem a) ∧
      (if b then (t.part p).sec.replBGen else (t.part p).sec.replAGen) = 0 := by
  obtain ⟨base, hbase⟩ : ∃ base, base = (s.part p).sec.slotAt b := ⟨_, rfl⟩
  rw [← hbase] at hlow hhigh hrows ⊢
  intro t
  have hlen : (List.replicate 128 (0 : Byte)).length = 128 := List.length_replicate
  have hwrite : s.MemoryTo (s.farWrite base (List.replicate 128 0)) (memWrite s.mem base (List.replicate 128 0)) :=
    State.farWrite_stores hlow (by rw [hlen]; exact hhigh) (by rw [hlen]; exact hrows)
  obtain ⟨u, hu⟩ : ∃ u, u = s.farWrite base (List.replicate 128 0) := ⟨_, rfl⟩
  rw [← hu] at hwrite
  have ht : t = (u.refreshRepl p).ackTwin n p := by rw [hu]
  have hmem : t.mem = memWrite s.mem base (List.replicate 128 0) := by
    rw [ht]
    exact hwrite.mem
  have hzero (j : Nat) (hj : j < 128) : memGet u.mem (base + j) = 0 := by
    have hj : j < (List.replicate 128 (0 : Byte)).length := by rw [hlen]; exact hj
    rw [hwrite.mem]
    exact (memGet_memWrite_inside (List.replicate 128 0) s.mem base j hj).trans (List.getElem_replicate hj)
  have hpart : u.part p = s.part p := congrArg (fun l => tabGet Part.reset l p.val) (congrArg State.parts hwrite.only :)
  have hslot : (u.part p).sec.slotAt b = base := by rw [hpart, hbase]
  refine ⟨fun j hj => ?_, fun a ha => ?_, ?_⟩
  · rw [hmem, ← hwrite.mem]
    exact hzero j hj
  · rw [hmem]
    exact memGet_memWrite_outside _ s.mem base a (by rw [hlen]; exact ha)
  · have hholds : u.slotHolds p b = (0, 0) :=
      State.slotHolds_zero (by rw [hslot]; exact inFar_iff.mpr ⟨hlow, by omega⟩) (by rw [hslot]; exact hzero)
    rw [ht]
    exact (u.refreshRepl_gen p b).trans (congrArg Prod.snd hholds)

end Records

/-! ## A restore begins (R330) -/

section Begin
variable {s : State} {p : PartId}

/-- When a restore may begin. -/
theorem State.mayRestore_iff : ((s.part p).state != .ready || s.partHeld p || !s.paired || (s.part p).sec.gen.isSome || (s.part p).sec.rest.isSome) = false ↔
    (s.part p).state = .ready ∧ s.partHeld p = false ∧ (s.twin.state = .paired ∨ s.twin.state = .degraded) ∧
      (s.part p).sec.gen = none ∧ (s.part p).sec.rest = none := by
  unfold State.paired
  simp only [Bool.or_eq_false_iff, bne_eq_false_iff_eq, Bool.not_eq_false', Bool.or_eq_true, beq_iff_eq, Option.isSome_eq_false_iff,
    Option.isNone_iff_eq_none, and_assoc]

theorem exec_restore (older : Bool) :
    exec (if older then .restoreOlder p else .secRestore p) s = .next (s.beginRestore p older) := by
  cases older <;> rfl

/-- A restore begins with its request (R330). -/
theorem State.beginRestore_begins (older : Bool) (h : ((s.part p).state != .ready || s.partHeld p || !s.paired || (s.part p).sec.gen.isSome ||
    (s.part p).sec.rest.isSome) = false) : s.beginRestore p older = (s.setPart p { s.part p with sec := { (s.part p).sec with
      rest := some ⟨older, [], false, none, 0, [], [], s.twinDeadline⟩, phase := .restoring, verify := 0 } }).sendTwin 0 (.restoreRequest p older) := by
  unfold State.beginRestore
  dsimp only
  rw [h, if_neg Bool.false_ne_true, partNo_val]
  rfl

/-- A restore that may not begin is refused, and its refusal logged. -/
theorem State.beginRestore_refused (older : Bool) (h : ((s.part p).state != .ready || s.partHeld p || !s.paired || (s.part p).sec.gen.isSome ||
    (s.part p).sec.rest.isSome) = true) : ((s.beginRestore p older).part p).sec = { (s.part p).sec with restoreStatus := Code.wrongState } ∧
      (s.beginRestore p older).mem = s.mem := by
  unfold State.beginRestore
  extract_lets x u
  rw [if_pos h]
  obtain ⟨hlog, hsec, -⟩ := u.log_ofPart p 4 Code.wrongState 0 0 ((u.part p).sec.verify.setWidth 32)
  exact ⟨hsec.trans (congrArg Part.sec (s.part_modPart_same p fun x => { x with sec := { x.sec with restoreStatus := Code.wrongState } })), hlog.mem⟩

end Begin

/-! ## A restore in progress, and its end (R330, R331) -/

/-- The phase after a restore: the one it ends in, or that of a generation in progress. -/
theorem SecPart.restored_phase_none {x : SecPart} (st : Code) (verify : BitVec 2) (phase : SecPhase) (h : x.gen = none) :
    (x.restored st verify phase).phase = phase := by
  rw [SecPart.restored, h]
  rfl

theorem SecPart.restored_phase_some {x : SecPart} (st : Code) (verify : BitVec 2) (phase : SecPhase) (h : x.gen ≠ none) :
    (x.restored st verify phase).phase = x.phase := if_pos (Option.isSome_iff_ne_none.mpr h)

/-- What the page says of a restore that has ended. -/
theorem State.restoreEnds_page (s : State) (p : Nat) (st : Code) (verify : BitVec 2) (phase : SecPhase) :
    ((s.restoreEnds p st verify phase).part p).sec.rest = none ∧ ((s.restoreEnds p st verify phase).part p).sec.restoreStatus = st ∧
      ((s.restoreEnds p st verify phase).part p).sec.verify = verify := by
  rw [(s.restoreEnds_ends p st verify phase).2]
  exact ⟨rfl, rfl, rfl⟩

/-- The page of a partition with a restored generation as its committed one. -/
def SecPart.holding (x : SecPart) (r : Rest) : SecPart :=
  { x with commitStep := BitVec.ofNat 64 (memNat r.record 16 8), commitGen := BitVec.ofNat 64 (memNat r.record 8 8),
           heldB := some (r.slotB != r.older), heldKnown := true, replayStep := BitVec.ofNat 64 (memNat r.record 16 8),
           replayLoss := BitVec.ofNat 32 (memNat r.record 28 4) }

theorem SecPart.holding_gen (x : SecPart) (r : Rest) : (x.holding r).gen = x.gen := by
  unfold SecPart.holding
  dsimp only

theorem SecPart.holding_phase (x : SecPart) (r : Rest) : (x.holding r).phase = x.phase := by
  unfold SecPart.holding
  dsimp only

section Restore
variable {s : State} {p : PartId} {n : PortId} {r : Rest} (hr : (s.part p).sec.rest = some r)
include hr

/-- The state with a partition's restore as given. -/
theorem State.modRest_eq (f : Rest → Rest) :
    s.modRest p f = s.setPart p { s.part p with sec := { (s.part p).sec with rest := some (f r) } } := by
  unfold State.modRest State.modSec State.modPart
  dsimp only
  rw [hr]
  rfl

/-- A restore record on a twin port of a pair sets the deadline of the next one. -/
theorem exec_twinRecordReceive_restore (hup : s.twinUp n = true) (hpair : s.twin.state = .paired ∨ s.twin.state = .degraded) {t : TwinRec}
    (ht : (∃ i data poison, t = .restoreUnit p i data poison) ∨ ∃ data poison, t = .restoreTable p data poison) :
    exec (.twinRecordReceive n t) s = .next ((s.modRest p fun y => { y with sent := s.twinDeadline }).restoreRecord t r) := by
  have hcond : (s.twinUp n && s.paired) = true := by
    rw [hup, Bool.true_and, State.paired, Bool.or_eq_true, beq_iff_eq, beq_iff_eq]
    exact hpair
  change execTwinRecordReceive n t s = _
  unfold execTwinRecordReceive
  obtain ⟨i, data, poison, rfl⟩ | ⟨data, poison, rfl⟩ := ht
  · dsimp only
    rw [hr]
    exact congrArg Host.Outcome.next (if_pos hcond)
  · dsimp only
    rw [hr]
    exact congrArg Host.Outcome.next (if_pos hcond)

/-- A data unit that comes before the digest table waits for it. -/
theorem State.unitComes_early (hnone : r.table = none) (f : Rest → Rest) (i : Nat) (data : List Byte) (poison : Bool) :
    (s.modRest p f).unitComes p r i data poison = s.setPart p { s.part p with sec := { (s.part p).sec with
      rest := some { f r with early := (f r).early ++ [(i, data, poison)] } } } := by
  have hrest : ((s.modRest p f).part p).sec.rest = some (f r) := by
    rw [State.modRest_eq hr, State.part_setPart_same]
  unfold State.unitComes
  rw [hnone]
  dsimp only
  rw [State.modRest_eq hrest, State.modRest_eq hr, State.part_setPart_same, State.setPart_setPart]

theorem exec_transferAckTimeout_restore (hcomes : s.comes ⟨r.sent + 1000, false⟩ = true) : exec (.transferAckTimeout (.restore p)) s =
    .next ((s.passTo ⟨r.sent + 1000, false⟩).restoreEnds p Code.timeout (s.part p).sec.verify .idle) := by
  have hpart : (s.passTo ⟨r.sent + 1000, false⟩).part p = s.part p :=
    congrArg (fun l => tabGet Part.reset l p.val) (s.passTo_sameSecuring ⟨r.sent + 1000, false⟩).parts
  have hawaited : s.awaited (.restore p) = some r.sent := by
    rw [State.awaited, hr]
    rfl
  change execTransferAckTimeout (.restore p) s = _
  unfold execTransferAckTimeout
  rw [hawaited]
  dsimp only
  rw [hcomes, hpart]
  rfl

/-- Every unit is written: the restore ends, verified by digest or waiting for the replay. -/
theorem exec_restoreComplete (hrecord : r.record ≠ []) (htable : r.table.isSome = true) (hall : r.written.length = r.units) :
    ∃ t, Gives (.restoreComplete p) s t ∧ (t.part p).sec = ((s.part p).sec.holding r).restored Code.ok (if (s.part p).sec.verifyReplay then 1 else 2)
      (if (s.part p).sec.verifyReplay then .awaitReplay else .idle) ∧ t.mem = s.mem := by
  have hcond : ¬ (r.record = [] || r.table.isNone || r.written.length != r.units) = true := by
    rw [Option.isNone_eq_false_iff.mpr htable, hall, bne_self_eq_false, decide_eq_false hrecord]
    exact Bool.false_ne_true
  have hexec : exec (.restoreComplete p) s = .next ((s.modSec p (·.holding r)).restoreEnds p Code.ok
      (if (s.part p).sec.verifyReplay then 1 else 2) (if (s.part p).sec.verifyReplay then .awaitReplay else .idle)) := by
    change execRestoreComplete p s = _
    unfold execRestoreComplete
    rw [hr]
    dsimp only
    rw [if_neg hcond]
    cases (s.part p).sec.verifyReplay <;> rfl
  have hpage : ((s.modSec p (·.holding r)).part p).sec = (s.part p).sec.holding r :=
    congrArg Part.sec (s.part_modPart_same p fun x => { x with sec := x.sec.holding r })
  obtain ⟨hof, hsec⟩ := (s.modSec p (·.holding r)).restoreEnds_ends p Code.ok (if (s.part p).sec.verifyReplay then 1 else 2)
    (if (s.part p).sec.verifyReplay then .awaitReplay else .idle)
  exact ⟨_, hexec, hsec.trans (by rw [hpage]), hof.mem⟩

/-- A digest table with poisoned data ends the restore (R330). -/
theorem State.restoreTable_poisoned (f : Rest → Rest) (data : List Byte) :
    (s.modRest p f).restoreRecord (.restoreTable p data true) r = (s.modRest p f).restoreEnds p Code.poison (s.part p).sec.verify .idle := by
  have hverify : ((s.modRest p f).part p).sec.verify = (s.part p).sec.verify := by
    rw [State.modRest_eq hr, State.part_setPart_same]
  rw [← hverify]
  rfl

end Restore

/-- Settles O50: a securing record is a write to far memory whose bytes are followed piece by piece, and a restore's commands change one page,
whose fields are then read. -/
theorem replicasAndRestores : Obligations.ReplicasAndRestores := by
  unfold Obligations.ReplicasAndRestores
  rw [show (2 : Nat) ^ 21 = unitBytes from rfl]
  intro s p n b poison i data x base unit takes sound due
  refine ⟨fun ht hsize => ⟨fun hlen hi hrows => ⟨fun hr => ?_, fun hr => ?_⟩, fun hrows hr => ?_⟩, fun ht => ?_, fun older => ?_, fun r hrest =>
    ⟨fun hcomes => ?_, fun hup hpair => ⟨fun hnone => ?_, ?_⟩, fun hrecord htable hall => ?_⟩⟩
  · exact (exec_twinRecordReceive_unit (State.recordsTaken_iff.mpr ht) hi hlen).trans (congrArg Host.Outcome.next (if_neg (Bool.eq_false_iff.mp hr)))
  · have hexec := (exec_twinRecordReceive_unit (b := b) (State.recordsTaken_iff.mpr ht) hi hlen).trans (congrArg Host.Outcome.next (if_pos hr))
    obtain ⟨hlow, hhigh⟩ : 0x20000000000 ≤ unit ∧ unit + unitBytes ≤ 0x2E000000000 := SecPart.unitAt_far hsize hi b
    have hwrite : s.MemoryTo (s.farWrite unit data) (memWrite s.mem unit data) :=
      State.farWrite_stores hlow (by rw [hlen]; exact hhigh) (by rw [hlen]; exact hrows)
    refine ⟨_, hexec, (congrArg State.parts hwrite.only :), State.ackTwin_messages _ n p, fun j hj => ?_, fun a ha => ?_⟩
    · have hj : j < data.length := by rw [hlen]; exact hj
      rw [List.getD_eq_getElem _ _ hj]
      exact (congrArg (memGet · (unit + j)) hwrite.mem).trans (memGet_memWrite_inside data s.mem unit j hj)
    · exact (congrArg (memGet · a) hwrite.mem).trans (memGet_memWrite_outside data s.mem unit a (by rw [hlen]; exact ha))
  · have hexec := exec_twinRecordReceive_clear (b := b) (State.recordsTaken_iff.mpr ht) hr
    obtain ⟨hlow, hhigh⟩ : 0x20000000000 ≤ base ∧ base + 128 ≤ 0x2E000000000 := SecPart.slotAt_far hsize b
    obtain ⟨hzero, hother, hgen⟩ := State.cleared_slot b hlow hhigh hrows
    exact ⟨_, hexec, State.ackTwin_messages _ n p, hzero, hother, hgen⟩
  · have hnot : ¬ (s.twinUp n && s.takesRecords p) = true := fun h => ht (State.recordsTaken_iff.mp h)
    exact ⟨congrArg Host.Outcome.next (if_neg hnot), congrArg Host.Outcome.next (if_neg hnot), congrArg Host.Outcome.next (if_neg hnot)⟩
  · intro c may
    have hexec : exec c s = .next (s.beginRestore p older) := exec_restore older
    refine ⟨fun hmay => ?_, fun hmay => ?_⟩
    · rw [State.beginRestore_begins older (State.mayRestore_iff.mpr hmay)] at hexec
      exact ⟨_, hexec, State.sendTwin_frame _ _ _, fun m hm => State.sendTwin_messages (s := s.setPart p _) hm _⟩
    · exact ⟨_, hexec, State.beginRestore_refused older (Bool.not_eq_false _ ▸ mt State.mayRestore_iff.mp hmay)⟩
  · obtain ⟨hend, hstatus, hverify⟩ := (s.passTo ⟨r.sent + 1000, false⟩).restoreEnds_page p Code.timeout (s.part p).sec.verify .idle
    have hof := ((s.passTo ⟨r.sent + 1000, false⟩).restoreEnds_ends p Code.timeout (s.part p).sec.verify .idle).1
    refine ⟨_, exec_transferAckTimeout_restore hrest hcomes, hend, hstatus, hverify,
      hof.mem.trans (s.passTo_sameSecuring ⟨r.sent + 1000, false⟩).mem, ?_⟩
    rw [hof.now]
    exact State.reached_passTo_now hcomes
  · refine (exec_twinRecordReceive_restore hrest hup hpair (.inl ⟨i, data, poison, rfl⟩)).trans (congrArg Host.Outcome.next ?_)
    exact State.unitComes_early hrest hnone _ i data poison
  · have hexec := exec_twinRecordReceive_restore hrest hup hpair (.inr ⟨data, true, rfl⟩)
    rw [State.restoreTable_poisoned hrest] at hexec
    obtain ⟨hend, hstatus, hverify⟩ := (s.modRest p fun y => { y with sent := s.twinDeadline }).restoreEnds_page p Code.poison
      (s.part p).sec.verify .idle
    have hof := ((s.modRest p fun y => { y with sent := s.twinDeadline }).restoreEnds_ends p Code.poison (s.part p).sec.verify .idle).1
    exact ⟨_, hexec, hend, hstatus, hverify, hof.mem⟩
  · obtain ⟨t, hexec, hsec, hmem⟩ := exec_restoreComplete hrest hrecord htable hall
    refine ⟨t, hexec, ?_⟩
    rw [hsec]
    refine ⟨rfl, rfl, rfl, rfl, rfl, rfl, rfl, hmem, fun hgen => ?_, fun hgen => ?_⟩
    · exact SecPart.restored_phase_none _ _ _ ((SecPart.holding_gen _ r).trans hgen)
    · exact (SecPart.restored_phase_some _ _ _ fun h => hgen ((SecPart.holding_gen _ r).symm.trans h)).trans (SecPart.holding_phase _ r)

end Sys2Proof.Machine
